-- ==== Sys2Proof/Word.lean ====
section
/-! DEFINITION. The widths the spec gives its data (R6, R9, R10): bytes, 64-bit words, queue entries of 512 bytes,
and their plainest arithmetic. -/
namespace Sys2Proof

/-- One byte of memory. -/
abbrev Byte := BitVec 8

/-- A 64-bit register, ZVI word or address (R17, R174). -/
abbrev Word64 := BitVec 64

/-- The binary32 pattern of one lane or one accumulator entry (R63). -/
abbrev Fp32 := BitVec 32

/-- The 512 bytes of one data-queue slot (Table ZPM-1). -/
abbrev Slot := BitVec 4096

/-- Sign-extends the low `w` bits of `n` (R176: signed fields are two's complement). -/
def signed (w n : Nat) : Int :=
  let m := n % 2 ^ w
  if m < 2 ^ (w - 1) then (m : Int) else (m : Int) - (2 ^ w : Nat)

/-- The bits [lo + w - 1 : lo] of `n` (R6). -/
def bitsAt (n lo w : Nat) : Nat := n / 2 ^ lo % 2 ^ w

/-- `n` with bits [lo + w - 1 : lo] replaced by the low `w` bits of `v`. -/
def putBits (n lo w v : Nat) : Nat := n - bitsAt n lo w * 2 ^ lo + v % 2 ^ w * 2 ^ lo

/-- True as 1, false as 0: the value of a one-bit field. -/
def b2n (b : Bool) : Nat := if b then 1 else 0

/-- The little-endian value of a list of bytes (R10). -/
def leNat : List Byte → Nat
  | [] => 0
  | b :: bs => b.toNat + 256 * leNat bs

/-- The `n` little-endian bytes of a value (R10). -/
def leBytes : Nat → Nat → List Byte
  | 0, _ => []
  | n + 1, v => BitVec.ofNat 8 v :: leBytes n (v / 256)

end Sys2Proof
end

