-- ==== Sys2Proof/Syntax.lean ====
section
/-! DEFINITION. The commands of the block: one constructor of `Instr` per row of the table of operations and events, with
the operands that its rule gives it. The first 57 are the ZVI instructions (chapter 07), each issued by the thread it names;
the others are the events of the engines, of time, of the host, the fabric, the firmware and the supplies. -/
namespace Sys2Proof

/-- A thread (R44): a context of a sequencer (form 0) or of a core's control core (form 1) of a die. -/
structure ThreadId where
  die : BitVec 2
  form : BitVec 1
  unit : BitVec 4
  ctx : BitVec 3
  deriving DecidableEq, Repr

/-- The fields of SDEF (Table ZVI-3). -/
structure SdefF where
  s : BitVec 4
  mode : BitVec 2
  pstride : BitVec 40
  base : BitVec 64
  count0 : BitVec 24
  count1 : BitVec 24
  tmod : BitVec 16
  count2 : BitVec 24
  count3 : BitVec 24
  tshift : BitVec 16
  stride0 : BitVec 40
  stride1 : BitVec 40
  stride2 : BitVec 40
  stride3 : BitVec 40
  tstride : BitVec 40
  deriving DecidableEq, Repr

/-- The fields of TDRAIN and TDRAING (Table ZVI-5). -/
structure DrainF where
  tile : BitVec 7
  tinc : BitVec 1
  epi : BitVec 5
  order : BitVec 1
  zafter : BitVec 1
  first : BitVec 7
  nlines : BitVec 8
  res : BitVec 6
  zq : BitVec 6
  out : BitVec 6
  amax : BitVec 6
  scl : BitVec 6
  deriving DecidableEq, Repr

/-- The common fields of the VEC instructions (Table ZVI-6). -/
structure VecF where
  x : BitVec 6
  y : BitVec 6
  z : BitVec 6
  d : BitVec 6
  fx : BitVec 2
  fy : BitVec 2
  fz : BitVec 2
  fd : BitVec 2
  ext : BitVec 3
  n : BitVec 16
  deriving DecidableEq, Repr

/-- The fields of the fused optimizers (Table ZVI-7). -/
structure OptF where
  p : BitVec 6
  w : BitVec 6
  m : BitVec 6
  v : BitVec 6
  g : BitVec 6
  fg : BitVec 2
  wcopy : BitVec 1
  round : BitVec 1
  n : BitVec 16
  wo : BitVec 6
  mo : BitVec 6
  vo : BitVec 6
  wb : BitVec 6
  deriving DecidableEq, Repr

/-- The fields of DCOPY and DPREF (Table ZVI-9); SHARE is DPREF's. -/
structure DmaF where
  src : BitVec 6
  dst : BitVec 6
  bytes : BitVec 16
  n : BitVec 16
  esz : BitVec 1
  layout : BitVec 2
  tag : BitVec 4
  share : BitVec 3
  deriving DecidableEq, Repr

/-- What a core test found (R506): whether it failed, the unit, row or column, whether the failure is spread over more than
one, physical and logical index, the core-store word and bit; and a bad spare that serves nothing, its kind and its index. -/
structure TestOut where
  fail : Bool
  unit : BitVec 2
  kind : BitVec 1
  spread : Bool
  index : BitVec 8
  lindex : BitVec 8
  word : BitVec 21
  bit : BitVec 7
  spareBad : Bool
  spareKind : BitVec 1
  spareIndex : BitVec 8
  deriving DecidableEq, Repr

/-- A DATA frame as it arrives (Table FAB-1), with its poison mark (R249). -/
structure HFrame where
  cls : BitVec 3
  gen : BitVec 4
  detour : Bool
  seq : BitVec 32
  dMod : BitVec 18
  dCore : BitVec 6
  dEnd : BitVec 4
  sMod : BitVec 18
  sCore : BitVec 6
  flow : BitVec 32
  credit : BitVec 32
  payload : List Byte
  poison : Bool
  deriving DecidableEq, Repr

/-- The payload of an IDENT frame (Table FAB-3) but for its signature. -/
structure IdentF where
  serial : BitVec 64
  claim : BitVec 18
  valid : Bool
  dir : BitVec 8
  link : BitVec 8
  levelMin : BitVec 8
  levelMax : BitVec 8
  fw : BitVec 32
  collRev : BitVec 16
  sliceId : BitVec 32
  nonce : BitVec 64
  echo : BitVec 64
  deriving DecidableEq, Repr

/-- A SYNC frame (R57, R362): whether it answers, the offset that a child measures by an answer, the sender, the module it goes to where
it is on a detour, and its two times. -/
structure SyncF where
  response : Bool
  offset : BitVec 32
  src : BitVec 18
  via : Option (BitVec 18)
  sent : BitVec 64
  answered : BitVec 64
  deriving DecidableEq, Repr

/-- A coordinate offer (R354): coordinate, hops and installed extents. -/
structure AssignF where
  x : BitVec 6
  y : BitVec 6
  z : BitVec 6
  hops : BitVec 16
  nx : BitVec 7
  ny : BitVec 7
  nz : BitVec 7
  deriving DecidableEq, Repr

/-- An image in flash: version, SVN, whether it is signed by slot 0, and its bytes (R428, R429). -/
structure FlashImg where
  version : Nat
  svn : Nat
  signed : Bool
  bytes : List Byte
  deriving DecidableEq, Repr

/-- What a bring-up stage found (R443): PLLs locked, failed stacks, whether every line at each laser port has 30 mW (R545), the power there in 10 mW, links tuned, cores
that passed their tests, whether the hub die and control complex did, and whether the bytes of Cordwood images A and B that were
loaded had the digest that was verified (R430). -/
structure BootOut where
  pll : Bool
  stackBad : BitVec 32
  lines0 : Bool
  lines1 : Bool
  power0 : BitVec 8
  power1 : BitVec 8
  tuned : BitVec 36
  cores : BitVec 64
  hubOk : Bool
  loadA : Bool
  loadB : Bool
  deriving DecidableEq, Repr
/-- The commands, one constructor per row of the table of operations and events. -/
inductive Instr where
  -- control and synchronisation (Table ZVI-2)
  | nop (t : ThreadId)
  | loop (t : ThreadId) (n : BitVec 16)
  | endl (t : ThreadId)
  | ctxstart (t : ThreadId) (ctx : BitVec 3) (target : BitVec 20)
  | ctxjoin (t : ThreadId) (ctx : BitVec 3)
  | yield (t : ThreadId)
  | halt (t : ThreadId)
  | fset (t : ThreadId) (g : BitVec 1) (flag : BitVec 8) (after : BitVec 6) (value : BitVec 16)
  | fadd (t : ThreadId) (g : BitVec 1) (flag : BitVec 8) (after : BitVec 6) (value : BitVec 16)
  | fclr (t : ThreadId) (g : BitVec 1) (flag : BitVec 8) (after : BitVec 6)
  | fwait (t : ThreadId) (g : BitVec 1) (flag : BitVec 8) (thresh : BitVec 16)
  | tickw (t : ThreadId)
  | phase (t : ThreadId) (pset : BitVec 3) (sel : BitVec 2) (target : BitVec 20)
  | mark (t : ThreadId) (cls : BitVec 4) (value : BitVec 32)
  -- streams and the LSU (Tables ZVI-3, ZVI-4)
  | sdef (t : ThreadId) (d : SdefF)
  | srun (t : ThreadId) (sd : BitVec 4) (a : BitVec 6) (n : BitVec 25)
  | ldv (t : ThreadId) (a q ca : BitVec 6) (fmt : BitVec 4) (pack : BitVec 2) (part : BitVec 3) (w32 : BitVec 1) (n : BitVec 24)
  | lds (t : ThreadId) (aa ab q : BitVec 6) (fmt : BitVec 4) (pka pkb : BitVec 1) (n : BitVec 24)
  | stv (t : ThreadId) (q a : BitVec 6) (w32 : BitVec 1) (n : BitVec 24)
  | qmov (t : ThreadId) (qs qd : BitVec 6) (n : BitVec 24)
  | qdup (t : ThreadId) (qs qd1 qd2 : BitVec 6) (n : BitVec 24)
  -- OPE and accumulator (Table ZVI-5)
  | opu (t : ThreadId) (qa qb : BitVec 6) (tile : BitVec 7) (tinc : BitVec 1) (fa fb : BitVec 4) (n : BitVec 20)
  | opus (t : ThreadId) (qa qb qs : BitVec 6) (tile : BitVec 7) (tinc : BitVec 1) (fa fb : BitVec 4) (n : BitVec 20)
  | tload (t : ThreadId) (q : BitVec 6) (tile : BitVec 7) (tinc : BitVec 1) (mode : BitVec 2) (ax : BitVec 1) (sfmt : BitVec 2) (c : BitVec 32)
  | tdrain (t : ThreadId) (f : DrainF)
  | tdraing (t : ThreadId) (f : DrainF)
  | epi (t : ThreadId) (q : BitVec 6) (entry : BitVec 5)
  -- vector (Tables ZVI-6, ZVI-7)
  | vadd (t : ThreadId) (f : VecF)
  | vsub (t : ThreadId) (f : VecF)
  | vmul (t : ThreadId) (f : VecF)
  | vfma (t : ThreadId) (f : VecF)
  | vmax (t : ThreadId) (f : VecF)
  | vmin (t : ThreadId) (f : VecF)
  | vcmp (t : ThreadId) (f : VecF)
  | vsel (t : ThreadId) (f : VecF)
  | vcvt (t : ThreadId) (x d : BitVec 6) (ifmt ofmt : BitVec 4) (sat round : BitVec 1) (n : BitVec 16)
  | vexp (t : ThreadId) (f : VecF)
  | vlog (t : ThreadId) (f : VecF)
  | vrsq (t : ThreadId) (f : VecF)
  | vrcp (t : ThreadId) (f : VecF)
  | vred (t : ThreadId) (f : VecF)
  | vshuf (t : ThreadId) (f : VecF)
  | vbcast (t : ThreadId) (x : BitVec 6) (lane : BitVec 7) (d : BitVec 6) (fx fd : BitVec 2) (n : BitVec 16)
  | vamax (t : ThreadId) (f : VecF)
  | vrng (t : ThreadId) (p16 : BitVec 16) (d : BitVec 6) (mode : BitVec 3) (n : BitVec 16)
  | vadamw (t : ThreadId) (f : OptF)
  | vlion (t : ThreadId) (f : OptF)
  | vsgdm (t : ThreadId) (f : OptF)
  -- network and reduction (Table ZVI-8)
  | nsend (t : ThreadId) (q c : BitVec 6) (n : BitVec 24)
  | nrecv (t : ThreadId) (c q : BitVec 6) (n : BitVec 24)
  | nmcast (t : ThreadId) (q : BitVec 6) (cmask : BitVec 16) (n : BitVec 24)
  | rred (t : ThreadId) (q d c : BitVec 6) (op : BitVec 2) (n : BitVec 24)
  | rgath (t : ThreadId) (q d c : BitVec 6) (n : BitVec 24)
  -- DMA and ingest (Table ZVI-9)
  | dcopy (t : ThreadId) (f : DmaF)
  | dpref (t : ThreadId) (f : DmaF)
  | dwait (t : ThreadId) (tagmask : BitVec 16)
  | ipull (t : ThreadId) (a ring : BitVec 6) (n : BitVec 16) (tag : BitVec 4)
  -- sequencing, streams and the LSU (chapters 06, 07)
  | icacheMissFill (t : ThreadId)
  | streamGenStart (g : BitVec 6)
  | streamAddressPush (g : BitVec 6) (gen : BitVec 3)
  | lsuReadStart (g : BitVec 6) (slot : BitVec 3)
  | lsuEntryPush (g : BitVec 6) (slot : BitVec 3)
  -- OPE and DRU (chapters 03, 04)
  | opeUpdateIssue (g : BitVec 6)
  | opeUpdateComplete (g : BitVec 6)
  | drainStart (g : BitVec 6)
  | drainLineRead (g : BitVec 6)
  | drainEntryPush (g : BitVec 6)
  | preloadStart (g : BitVec 6)
  | preloadLineWrite (g : BitVec 6)
  -- VEC and NIU (chapters 05, 07)
  | vecEntryPop (g : BitVec 6)
  | vecResultPush (g : BitVec 6)
  | niuEntryMove (g : BitVec 6) (slot : BitVec 2)
  | deferredFlagApply (t : ThreadId)
  -- DMA and memory (chapter 09); agent 0-63 a core's DMA engine, 64 the hub's
  | dmaCommandStart (g : BitVec 6)
  | dmaTransferComplete (g : BitVec 6) (slot : BitVec 4) (ack : Bool) (data : List Byte) (poison : List Bool)
  | addrFaultReport (g : BitVec 6) (slot : BitVec 4) (cause : BitVec 4) (addr : BitVec 64)
  | iPullSlotCopy (g : BitVec 6) (slot : BitVec 4) (ack : Bool)
  | peatRmw (addr : BitVec 44) (data : List Byte) (poison : Bool) (g : BitVec 6) (hub : Bool)
  | scrubRead (addr : BitVec 44) (found : BitVec 2)
  -- ticks and time (chapter 02)
  | tickBoundary
  | tickDeadline
  | waitCheckSecondSample
  | tickRun (solo : Bool)
  | tickStop
  | syncTimer (master : BitVec 18)
  | timeLockTimeout
  | timeHoldEnd
  -- swaps, resets, fences and the writes that have rows of their own (chapters 01, 03, 05, 09, 13, 16, 18)
  | swapRequest
  | swapIdleApply
  | modReset
  | modCtrlDpReset
  | moduleResetEnd
  | modFenceWrite (v : BitVec 64)
  | rngSeedWrite (g : BitVec 6) (v : BitVec 64)
  | rngPosWrite (g : BitVec 6) (dru hi : Bool) (v : BitVec 64)
  | nfCaptureClear (g : BitVec 6) (complete : Bool)
  | tempMaxWrite (n : BitVec 6)
  | spareNextWrite (n : BitVec 5) (pc : BitVec 6)
  -- registers (chapters 00, 19): the requester is 0 host, 1 Cordwood, 2 a remote module, 3 JTAG, 4 Kindling; the width of a write is 0
  -- 64 bits, 1 the upper 32, of a read 0 the lower 32 bits, 1 the upper 32, 2 all 64; any other code is another width
  | regWrite (req : BitVec 3) (off : BitVec 26) (val : BitVec 64) (width : BitVec 2)
  | regLowerHalfWrite (req : BitVec 3) (off : BitVec 26) (lo : BitVec 32)
  | halfWriteTimeout (req : BitVec 3)
  | regLowerHalfRead (req : BitVec 3) (off : BitVec 26) (width : BitVec 2)
  -- the host interface (chapters 08, 09, 14, 17); a descriptor is named by its ring and submission index
  | sqTailDoorbell (ring : BitVec 8) (val : BitVec 32)
  | cqHeadDoorbell (ring : BitVec 8) (val : BitVec 32)
  | ringEnable (ring : BitVec 8)
  | ringDisable (ring : BitVec 8)
  | descriptorFetch (ring : BitVec 8) (readFails : Bool)
  | msixCoalesceTimer (ring : BitVec 8)
  | bar4WinWrite (v : BitVec 64)
  | bar4Access (off : BitVec 44) (write : Bool) (len : BitVec 7) (data : List Byte)
  | cxlMemAccess (off : BitVec 44) (write : Bool) (len : BitVec 7) (data : List Byte)
  | loadImage (ring : BitVec 8) (idx : BitVec 16) (sigOk readFails : Bool)
  | loadImageDeferredApply
  | runStep (ring : BitVec 8) (idx : BitVec 16)
  | dma (ring : BitVec 8) (idx : BitVec 16) (ack : Bool) (cause : BitVec 4) (data : List Byte) (poison : List Bool)
  | configWrite (ring : BitVec 8) (idx : BitVec 16) (readFails : Bool)
  | swap (ring : BitVec 8) (idx : BitVec 16)
  | ingestSubmit (ring : BitVec 8) (idx : BitVec 16)
  | checkpoint (ring : BitVec 8) (idx : BitVec 16)
  | restore (ring : BitVec 8) (idx : BitVec 16)
  | replay (ring : BitVec 8) (idx : BitVec 16)
  | query (ring : BitVec 8) (idx : BitVec 16)
  | fence (ring : BitVec 8) (idx : BitVec 16)
  | dpReset (ring : BitVec 8) (idx : BitVec 16)
  -- debug (chapter 17)
  | cutSettle
  | freezeHost
  | freezeRelease
  | freezeInAssert
  | freezeTimeReached
  | profClear
  | traceRecordWrite
  -- test and repair (chapter 18); results are what the test found
  | laserUnitPlugged (n : BitVec 1) (power : BitVec 8) (lines : Bool)
  | laserRelease (n : BitVec 1)
  | linkTestStart (k : BitVec 6) (far : Bool) (ms : BitVec 16)
  | linkTestDone (symbols : BitVec 48) (uncorr : BitVec 16) (carr : BitVec 17)
  | coreTestStart (g : BitVec 6) (array march : Bool)
  | coreTestDone (g : BitVec 6) (o : TestOut)
  | engineTestStart (e : BitVec 7)
  | engineTestDone (fail : Bool)
  -- gradient reduction (chapter 11)
  | redTxAccept (g : BitVec 6) (c : BitVec 4)
  | bucketCopy (n g : BitVec 6)
  | blockReduceStart (n g : BitVec 6)
  | hopAddition (n g : BitVec 6) (mism : BitVec 2)
  -- the fabric (chapter 12): link k = 6 * direction + link; cr is the CREDIT field of a control frame's header; via names the module that
  -- a broadcast on a detour goes to
  | data (k : BitVec 6) (f : HFrame) (fixed : BitVec 16) (uncorr crcOk : Bool)
  | ack (k : BitVec 6) (seq : BitVec 32) (cr : BitVec 32)
  | nak (k : BitVec 6) (seq : BitVec 32) (cr : BitVec 32)
  | credit (k : BitVec 6) (cls : BitVec 3) (n : BitVec 16)
  | ident (k : BitVec 6) (f : IdentF) (sigOk : Bool) (cr : BitVec 32)
  | lcert (k : BitVec 6) (serial : BitVec 64) (ok : Bool) (cr : BitVec 32)
  | assign (k : BitVec 6) (f : AssignF) (cr : BitVec 32)
  | topo (k : BitVec 6) (serials : List (BitVec 64)) (cr : BitVec 32)
  | sync (k : BitVec 6) (f : SyncF) (cr : BitVec 32)
  | stretch (k : BitVec 6) (tick : BitVec 64) (sv : BitVec 3) (src : BitVec 18) (via : Option (BitVec 18)) (cr : BitVec 32)
  | freeze (k : BitVec 6) (src : BitVec 18) (via : Option (BitVec 18)) (cr : BitVec 32)
  | goodbye (k : BitVec 6) (cr : BitVec 32)
  | dpreset (k : BitVec 6) (cr : BitVec 32)
  | idle (k : BitVec 6) (cr : BitVec 32)
  | probe (k : BitVec 6) (payload : List Byte) (cr : BitVec 32)
  | identTimer
  | dpresetTimer
  | discStart (v : BitVec 64)
  | discHoldTimer
  | discCheck
  | carrierDegraded (k : BitVec 6) (carrier : BitVec 5)
  | linkFail (k : BitVec 6)
  | lossOfLight (d : BitVec 3)
  | linkTrained (k : BitVec 6) (net red mem ing : BitVec 16)
  | peerLightReturn (d : BitVec 3)
  | laserUnitLoss (n : BitVec 1) (power : BitVec 8)
  | lightAppears (power0 power1 : BitVec 8) (lines0 lines1 : Bool)
  | peerDpResetEnd (k : BitVec 6)
  -- broadcast ingest (chapter 10): item j of the current job's list, engine e (0-63 video, 64-95 audio)
  | ingAbort
  | jobStart
  | fetchReadDone (j : BitVec 20) (data : List Byte) (ecn : Bool)
  | rdmaAckTimeout (j : BitVec 20)
  | roceNakReceived (j : BitVec 20)
  | roceCnpReceived (qp : BitVec 8)
  | pfcPauseReceived (port : BitVec 1) (pause : Bool)
  | itemDecodeStart (e : BitVec 7)
  | itemDecodeDone (e : BitVec 7)
  | shuffleItemSend (granted : Bool)
  | microbatchPack
  | ringWrite
  | mcastEntrySend (n : BitVec 6)
  | mcastDetach (g : BitVec 6) (c : BitVec 4)
  | detachedFeed (g : BitVec 6) (c : BitVec 4)
  -- firmware, trust and management (chapters 15 and 20): sigOk says that the request's signature verifies with its slot's key
  | sliceGrant (sigOk : Bool)
  | policy (sigOk : Bool)
  | key (sigOk : Bool)
  | fieldFuse
  | svnCommit
  | activate
  | secWdogKick
  | watchdogExpiry (hashOk loadA loadB : Bool)
  | cordwoodRestartComplete
  | getVersion
  | getCapabilities
  | negotiateAlgorithms (offered : Bool)
  | getDigests
  | getCertificate (slot : BitVec 4)
  | challenge (slot : BitVec 4)
  | getMeasurements (index : BitVec 8)
  | pldmFirmwareUpdate (cordwood : Bool) (img : FlashImg) (whole : Bool)
  | activateFirmware (cordwood : Bool)
  | mctpSmbusMessage (ty : BitVec 7) (payload : List Byte)
  | consoleInput (bytes : List Byte) (rewrite : Option (Bool × FlashImg))
  | jtagBoundaryScan (ins : BitVec 2) (cells : BitVec 25)
  | jtagLeaveScan
  -- power, clocks, thermal, pins and boot (chapters 15, 16 and 20): voltages in mV, temperatures in 0.25 degrees
  | aux12OutOfLimits
  | aux12InLimits (addr : BitVec 3) (mv : BitVec 16)
  | kindlingBootDone
  | pwrEnRise
  | pwrEnFall
  | pwrGoodRise
  | bringupStageEnd (us : BitVec 22) (o : BootOut)
  | bringupStageTimeout
  | perstAssert
  | perstDeassert (cxl : Bool)
  | warnTrip (mv : BitVec 16)
  | warnClear (low : BitVec 16)
  | dipEnd
  | resetTrip (mv : BitVec 16)
  | powerFailRestart
  | phaseFail (rail phase : BitVec 4)
  | railOutOfRegulation (rail : BitVec 4)
  | droop (d : BitVec 2)
  | droopEnd (d : BitVec 2)
  | refclkLost
  | refclkReturn
  | throttleOn (n : BitVec 6) (temp : BitVec 16)
  | throttleOff (temps : List (BitVec 16))
  | thermalTrip (n : BitVec 6) (temp : BitVec 16)
  | hostLinkTrained (gen : BitVec 3) (width : BitVec 5)
  | hostLinkDown
  | hdmDecoderCommit
  deriving DecidableEq, Repr

end Sys2Proof
end

