-- ==== Sys2Proof/Decode.lean ====
section
/-! DEFINITION. The command that a word spells by the bits of the table. The table gives no command any bits: every row's operands
come from outside (the ZVI words are read by `zviDecode` of Machine/Zvi.lean, as Zheber reads them), so no word spells a command. -/
namespace Sys2Proof

/-- No row of the table of commands has bits. -/
def decodeTableWord (_nbits _w : Nat) : Option Instr := none

end Sys2Proof
end

