-- ==== Sys2Proof/Config.lean ====
section
/-! DEFINITION. The free values: what the spec gives no value for, or gives only within bounds. Each is a constant without a
body, so that nothing can be proved of its value (log entry 4). -/
namespace Sys2Proof

/-- The n-th free value: the machine numbers its uses, so that no two of them share a value. -/
opaque Config.freeBits : Nat → Word64

/-- The fixed algorithm of a function that R113, R129 or R145 bounds (its number, and the input): which of the results that the bound
allows it gives. -/
opaque Config.pick : Nat → Fp32 → Word64

/-- The SHA-384 digest that keys the translation cache and the measurements (R231, R431), of a list of bytes. -/
opaque Config.digest : List Byte → BitVec 384

/-- The module's collective revision, which IDENT carries (Table FAB-3); the spec gives it no value. -/
opaque Config.collRev : BitVec 16

/-- An error that physics brings to the module: to a memory cell (`cell`) or to control state. `kind` and `index` name its place,
`hard` says that its code cannot correct it (R246, R247, R500). -/
structure Upset where
  cell : Bool
  kind : Nat
  index : Nat
  hard : Bool
  deriving DecidableEq, Repr

/-- The error, if any, that strikes at the n-th idle step: nothing in the spec says when errors come (log entry 65). -/
opaque Config.upset : Nat → Option Upset

/-! What the standards that chapter 10 names define and the spec does not repeat: each standard's decoder is a function of the bytes, and of
nothing else (R286, R302; log entry 68). -/

namespace Machine

/-- Data that reaches a decoder, with gaps where packets were lost (R283), and the extended PTS of its start where it has one (R284). -/
structure Chunk where
  pts : Option Nat
  data : List (Option Byte)
  deriving DecidableEq, Repr

/-- A picture as its codec's standard defines it, before concealment: its extended PTS, or its number in output order where the chunks have
none; its duration in 90 kHz units; its profile (place in the codec's list of Table ING-4, from 1; 0 for any other) and level (10 times its
number; for MPEG-2 1 Low to 4 High); size; chroma (0 monochrome, 1 4:2:0, 2 4:2:2, 3 4:4:4) and bit depth; whether decoding can start
at it, and the pictures it refers to (places in decoding order); whether it is coded interlaced, and its top field shown first; its samples by
row; the chroma position that the stream signals, in quarters of a luma step (horizontal; vertical in a frame, a top and a bottom field);
the 16 x 16 blocks that cannot be decoded (R287); matrix (1 to 3 as COLOUR.MATRIX) and range (1, 2) of its colour description, 0 where it
gives none; and its cc_data (R291). -/
structure Pic where
  time : Nat
  dur : Nat
  prof : Nat
  level : Nat
  w : Nat
  h : Nat
  chroma : Nat
  depth : Nat
  rap : Bool
  refs : List Nat
  interlaced : Bool
  topFirst : Bool
  y : List Nat
  cb : List Nat
  cr : List Nat
  loc : Option (Nat × Nat × Nat × Nat)
  bad : List Nat
  matrix : Nat
  range : Nat
  cc : List Byte
  deriving DecidableEq, Repr

/-- A video stream: the frame rate that it declares, and its pictures in decoding order. -/
structure VideoEs where
  rate : Option (Nat × Nat)
  pics : List Pic
  deriving DecidableEq, Repr, Inhabited

/-- An audio track as its standard decodes it: whether it is of a supported form, its rate, its channels (0 L, 1 R, 2 C, 3 Ls, 4 Rs, 5 LFE)
with their binary32 samples, and the mono and stereo downmix that the standard defines, where it does (R288). -/
structure AudioEs where
  ok : Bool
  rate : Nat
  chans : List (Nat × List Nat)
  mono : Option (List Nat)
  stereo : Option (List Nat × List Nat)
  deriving DecidableEq, Repr, Inhabited

/-- A track of an ISO BMFF file: its sample entry, whether it is encrypted, its language, timescale, and its samples with their times. -/
structure BmffTrack where
  entry : String
  encrypted : Bool
  lang : List Byte
  scale : Nat
  samples : List (Nat × List Byte)
  deriving DecidableEq, Repr

/-- A change of a caption display: its time, and the windows with their rows of characters from then on (one window for 608 and teletext);
none is a character outside the sets that R291 supports. -/
structure Show where
  time : Nat
  windows : List (Nat × List (List (Option Nat)))
  deriving DecidableEq, Repr

end Machine

opaque Config.decodeVideo : Nat → List Machine.Chunk → Machine.VideoEs
opaque Config.decodeAudio : Nat → List Machine.Chunk → Machine.AudioEs
opaque Config.bmffTracks : List Byte → List Machine.BmffTrack

/-- The display changes of a caption service: KIND, CHANNEL or page, and the cc_data of pictures or PES packets in order. -/
opaque Config.captionShows : Nat → Nat → List Machine.Chunk → List Machine.Show

/-- The fixed polyphase filter of R288, from one rate to another. -/
opaque Config.resample : Nat → Nat → List Nat → List Nat

/-- The fixed order of a binary32 sum of chapter 10 (R288, R293): for a stage and a number of terms, the two that are added next. -/
opaque Config.fixedOrder : Nat → Nat → Nat × Nat

/-- The queue pair that takes the n-th read of a storage target, and each queue pair's port (R280, R281): the target table's contents are
Cordwood's. -/
opaque Config.targetQp : Nat → Nat → BitVec 8
opaque Config.qpPort : BitVec 8 → BitVec 1

/-- The measurement of the boot ROM (Table BOOT-3, index 1), which the spec does not give. -/
opaque Config.romDigest : BitVec 384

end Sys2Proof
end

