-- ==== Sys2Proof/Machine/Float.lean ====
section
/-! DEFINITION. Exact binary arithmetic and its single roundings (R65, R66, R68, R81, R101, R114, R115, R119, R125, R127,
R130): values are dyadic numbers, computed exactly and rounded once into a format. -/
namespace Sys2Proof.Machine

/-- A value of a floating format: `fin neg m e` is (-1)^neg x m x 2^e, zeros keep their sign. -/
inductive FVal where
  | nan
  | inf (neg : Bool)
  | fin (neg : Bool) (m : Nat) (e : Int)
  deriving DecidableEq, Repr

/-- How a format ends: IEEE infinities and NaNs, the single NaN of E4M3, or finite values only (E2M1). -/
inductive FTop where
  | ieee | nanOnly | none
  deriving DecidableEq, Repr

/-- A binary format: exponent and fraction widths, and its top encodings (Table OPE-2). -/
structure FFmt where
  ew : Nat
  mw : Nat
  top : FTop
  deriving DecidableEq, Repr

def fp32 : FFmt := ⟨8, 23, .ieee⟩
def bf16 : FFmt := ⟨8, 7, .ieee⟩
def fp16 : FFmt := ⟨5, 10, .ieee⟩
def e4m3 : FFmt := ⟨4, 3, .nanOnly⟩
def e5m2 : FFmt := ⟨5, 2, .ieee⟩
def e2m1 : FFmt := ⟨2, 1, .none⟩

namespace FFmt

/-- The exponent bias. -/
def bias (f : FFmt) : Nat := 2 ^ (f.ew - 1) - 1

/-- The exponent of the last place of a subnormal. -/
def qmin (f : FFmt) : Int := 1 - (f.bias : Int) - f.mw

/-- The number of bits of an encoding. -/
def bits (f : FFmt) : Nat := 1 + f.ew + f.mw

/-- The biased exponent and fraction of the largest finite value, as one number. -/
def maxEnc (f : FFmt) : Nat :=
  match f.top with
  | .ieee => (2 ^ f.ew - 1) * 2 ^ f.mw - 1
  | .nanOnly => 2 ^ (f.ew + f.mw) - 2
  | .none => 2 ^ (f.ew + f.mw) - 1

/-- The NaN the module writes in the format (Table ACC-5, R65): the default NaN, 0x7F in E4M3, 0x7E in E5M2. -/
def nanEnc (f : FFmt) : Nat :=
  match f.top with
  | .ieee => (2 ^ f.ew - 1) * 2 ^ f.mw + 2 ^ (f.mw - 1)
  | .nanOnly => 2 ^ (f.ew + f.mw) - 1
  | .none => 0

/-- The encoding of infinity without its sign (formats that have one). -/
def infEnc (f : FFmt) : Nat := (2 ^ f.ew - 1) * 2 ^ f.mw

/-- The value of an encoding; NaN payloads are dropped (R66). -/
def decode (f : FFmt) (n : Nat) : FVal :=
  let neg := decide (bitsAt n (f.ew + f.mw) 1 = 1)
  let ex := bitsAt n f.mw f.ew
  let fr := bitsAt n 0 f.mw
  if f.top = .ieee ∧ ex = 2 ^ f.ew - 1 then
    if fr = 0 then .inf neg else .nan
  else if f.top = .nanOnly ∧ ex = 2 ^ f.ew - 1 ∧ fr = 2 ^ f.mw - 1 then .nan
  else if ex = 0 then .fin neg fr f.qmin
  else .fin neg (2 ^ f.mw + fr) ((ex : Int) - f.bias - f.mw)

/-- The encoding, without sign, of `n` units of the last place at exponent `q` (n at most one bit too long). -/
def pack (f : FFmt) (n : Nat) (q : Int) : Nat :=
  if n < 2 ^ f.mw then n
  else ((q - f.qmin).toNat + 1) * 2 ^ f.mw + (n - 2 ^ f.mw)

end FFmt

/-- The exponent of the last place at which a magnitude m x 2^e is rounded into the format. -/
def roundExp (f : FFmt) (m : Nat) (e : Int) : Int := max f.qmin (e + (Nat.log2 m : Int) - f.mw)

/-- m / 2^d rounded to nearest, ties to even. -/
def rneShift (m d : Nat) : Nat :=
  let q := m / 2 ^ d
  let r := m % 2 ^ d
  if 2 * r > 2 ^ d ∨ (2 * r = 2 ^ d ∧ q % 2 = 1) then q + 1 else q

/-- A magnitude m x 2^e in units of 2^q, rounded to nearest with ties to even. -/
def rneUnits (m : Nat) (e q : Int) : Nat :=
  if q ≤ e then m * 2 ^ (e - q).toNat else rneShift m (q - e).toNat

/-- Rounds a magnitude into the format to nearest even: its encoding without sign, beyond `maxEnc` where it overflows. -/
def rneEnc (f : FFmt) (m : Nat) (e : Int) : Nat :=
  if m = 0 then 0 else
  let q := roundExp f m e
  f.pack (rneUnits m e q) q

/-- The sign bit in its place. -/
def FFmt.signed (f : FFmt) (neg : Bool) (enc : Nat) : Nat := enc + b2n neg * 2 ^ (f.ew + f.mw)

/-- What a conversion gives: the encoding, and whether a finite value overflowed or saturated (R114). -/
structure Conv where
  enc : Nat
  lost : Bool
  deriving DecidableEq, Repr

/-- The encoding written on overflow: infinity, E4M3's NaN, or the saturated value with SAT (Table ACC-5). A saturated or
infinite value keeps its sign; E4M3's NaN is written 0x7F. -/
def FFmt.overEnc (f : FFmt) (sat neg : Bool) : Nat :=
  if sat then f.signed neg f.maxEnc
  else match f.top with
    | .ieee => f.signed neg f.infEnc
    | .nanOnly => f.nanEnc
    | .none => f.signed neg f.maxEnc

/-- Conversion to nearest even into a format (R111, R114, R130). SAT saturates FP8 outputs only. -/
def convRne (f : FFmt) (sat : Bool) : FVal → Conv
  | .nan => ⟨f.nanEnc, false⟩
  | .inf neg => ⟨f.overEnc sat neg, false⟩
  | .fin neg m e =>
    let enc := rneEnc f m e
    if enc ≤ f.maxEnc then ⟨f.signed neg enc, false⟩ else ⟨f.overEnc sat neg, true⟩

/-- Stochastic conversion with a 16-bit draw (R119): hi where D + rnd reaches 2^16, lo otherwise. -/
def convStoch (f : FFmt) (sat : Bool) (rnd : Nat) : FVal → Conv
  | .nan => ⟨f.nanEnc, false⟩
  | .inf neg => ⟨f.overEnc sat neg, false⟩
  | .fin neg m e =>
    if m = 0 then ⟨f.signed neg 0, false⟩ else
    let q := roundExp f m e
    let lo := if q ≤ e then m * 2 ^ (e - q).toNat else m / 2 ^ (q - e).toNat
    let d := if q ≤ e then 0 else m % 2 ^ (q - e).toNat * 2 ^ 16 / 2 ^ (q - e).toNat
    let n := if d + rnd % 2 ^ 16 ≥ 2 ^ 16 then lo + 1 else lo
    let enc := f.pack n q
    if enc ≤ f.maxEnc then ⟨f.signed neg enc, false⟩ else ⟨f.overEnc sat neg, true⟩

/-- The binary32 rounding rn (R65, R125, R136): one rounding to nearest even, default NaN, overflow to infinity. -/
def rn (v : FVal) : Nat := (convRne fp32 false v).enc

namespace FVal

/-- The negated value. -/
def negate : FVal → FVal
  | .nan => .nan
  | .inf n => .inf (!n)
  | .fin n m e => .fin (!n) m e

/-- The magnitude. -/
def abs : FVal → FVal
  | .nan => .nan
  | .inf _ => .inf false
  | .fin _ m e => .fin false m e

/-- The exact product; infinity times zero is a NaN. -/
def mul : FVal → FVal → FVal
  | .nan, _ => .nan
  | _, .nan => .nan
  | .inf a, .inf b => .inf (a != b)
  | .inf a, .fin b m _ => if m = 0 then .nan else .inf (a != b)
  | .fin a m _, .inf b => if m = 0 then .nan else .inf (a != b)
  | .fin a m e, .fin b n f => .fin (a != b) (m * n) (e + f)

/-- A finite value in units of 2^q, where q is not above its exponent. -/
def units (neg : Bool) (m : Nat) (e q : Int) : Int :=
  let v : Int := (m * 2 ^ (e - q).toNat : Nat)
  if neg then -v else v

/-- The value of a signed number of units of 2^q. -/
def ofUnits (v q : Int) : FVal := .fin (decide (v < 0)) v.natAbs q

/-- The exact sum with IEEE's signs of zero; opposite infinities give a NaN. -/
def add : FVal → FVal → FVal
  | .nan, _ => .nan
  | _, .nan => .nan
  | .inf a, .inf b => if a = b then .inf a else .nan
  | .inf a, .fin _ _ _ => .inf a
  | .fin _ _ _, .inf b => .inf b
  | .fin a m e, .fin b n f =>
    if m = 0 ∧ n = 0 then .fin (a && b) 0 0
    else
      let q := min e f
      ofUnits (units a m e q + units b n f q) q

/-- Whether the value is neither infinite nor a NaN. -/
def finite : FVal → Bool
  | .fin _ _ _ => true
  | _ => false

/-- Strictly below, by value (zeros of either sign are equal); false with a NaN. -/
def lt : FVal → FVal → Bool
  | .nan, _ => false
  | _, .nan => false
  | .inf a, .inf b => a && !b
  | .inf a, .fin _ _ _ => a
  | .fin _ _ _, .inf b => !b
  | .fin a m e, .fin b n f =>
    let q := min e f
    decide (units a m e q < units b n f q)

/-- Equal by value; false with a NaN. -/
def eqv : FVal → FVal → Bool
  | .nan, _ => false
  | _, .nan => false
  | .inf a, .inf b => a == b
  | .inf _, .fin _ _ _ => false
  | .fin _ _ _, .inf _ => false
  | .fin a m e, .fin b n f =>
    let q := min e f
    decide (units a m e q = units b n f q)

end FVal

/-- The value of a binary32 pattern. -/
def val32 (n : Nat) : FVal := fp32.decode n

def add32 (x y : Nat) : Nat := rn ((val32 x).add (val32 y))
def sub32 (x y : Nat) : Nat := rn ((val32 x).add (val32 y).negate)
def mul32 (x y : Nat) : Nat := rn ((val32 x).mul (val32 y))

/-- fma(x, y, z): x times y plus z with one rounding. -/
def fma32 (x y z : Nat) : Nat := rn (((val32 x).mul (val32 y)).add (val32 z))

/-- Whether a binary32 pattern is a NaN. -/
def isNan32 (n : Nat) : Bool := val32 n == .nan

/-- Whether a binary32 pattern is finite. -/
def isFin32 (n : Nat) : Bool := (val32 n).finite

/-- The default NaN (R65). -/
def defaultNan : Nat := 0x7FC00000

/-- Bit 31 of a binary32 pattern. -/
def neg32 (n : Nat) : Bool := bitsAt n 31 1 == 1

/-- VMAX (R127): the default NaN with a NaN, and -0 below +0. -/
def max32 (x y : Nat) : Nat :=
  if isNan32 x || isNan32 y then defaultNan
  else if (val32 x).lt (val32 y) then y
  else if (val32 y).lt (val32 x) then x
  else if neg32 x then y else x

/-- VMIN (R127). -/
def min32 (x y : Nat) : Nat :=
  if isNan32 x || isNan32 y then defaultNan
  else if (val32 x).lt (val32 y) then x
  else if (val32 y).lt (val32 x) then y
  else if neg32 x then x else y

/-- The magnitude of a pattern; a NaN becomes the default NaN (R116). -/
def abs32 (x : Nat) : Nat := if isNan32 x then defaultNan else x % 2 ^ 31

/-- Whole square root by bits: the largest r with r^2 at most n, found from `k` bits down. -/
def isqrt (n : Nat) : Nat → Nat → Nat
  | 0, r => r
  | k + 1, r => let r' := r + 2 ^ k
    if r' * r' ≤ n then isqrt n k r' else isqrt n k r

/-- The correctly rounded binary32 square root (R136): negative values give the default NaN, zeros keep their sign. -/
def sqrt32 (x : Nat) : Nat :=
  match val32 x with
  | .nan => defaultNan
  | .inf neg => if neg then defaultNan else x
  | .fin neg m e =>
    if m = 0 then x
    else if neg then defaultNan
    else
      let odd := decide (e % 2 = 1)
      let m2 := (if odd then 2 * m else m) * 2 ^ 60
      let e2 := (if odd then e - 1 else e) / 2 - 30
      let r := isqrt m2 64 0
      rn (.fin false (2 * r + (if r * r = m2 then 0 else 1)) (e2 - 1))

/-- The correctly rounded binary32 quotient (R136). -/
def div32 (x y : Nat) : Nat :=
  match val32 x, val32 y with
  | .nan, _ => defaultNan
  | _, .nan => defaultNan
  | .inf _, .inf _ => defaultNan
  | .inf a, .fin b _ _ => fp32.signed (a != b) fp32.infEnc
  | .fin a _ _, .inf b => fp32.signed (a != b) 0
  | .fin a m e, .fin b n f =>
    if n = 0 then (if m = 0 then defaultNan else fp32.signed (a != b) fp32.infEnc)
    else
      let k := 64 + Nat.log2 n
      let q := m * 2 ^ k / n
      let r := m * 2 ^ k % n
      rn (.fin (a != b) (2 * q + (if r = 0 then 0 else 1)) (e - f - k - 1))

/-- Conversion to INT32 (R130): to nearest even, saturating; a NaN becomes 0. The pattern is two's complement. -/
def toInt32 (v : FVal) : Nat :=
  match v with
  | .nan => 0
  | .inf neg => if neg then 0x80000000 else 0x7FFFFFFF
  | .fin neg m e =>
    let n := rneUnits m e 0
    if neg then (if n ≥ 2 ^ 31 then 0x80000000 else (2 ^ 32 - n) % 2 ^ 32)
    else if n ≥ 2 ^ 31 then 0x7FFFFFFF else n

/-- The value of an INT32 pattern. -/
def ofInt32 (n : Nat) : FVal := FVal.ofUnits (Sys2Proof.signed 32 n) 0

/-- An E8M0 scale byte: 2^(v - 127), or none for 0xFF (R68). -/
def scaleExp (v : Nat) : Option Int := if v % 256 = 255 then none else some ((v % 256 : Nat) - 127)

/-- A value times 2^x. -/
def FVal.scale (x : Int) : FVal → FVal
  | .nan => .nan
  | .inf n => .inf n
  | .fin n m e => .fin n m (e + x)

end Sys2Proof.Machine
end

