-- ==== Sys2Proof/Machine/Map.lean ====
section
/-! DEFINITION. Sparse tables: lists of (number, value) pairs in ONE canonical form, numbers strictly rising and no entry
equal to what an unlisted number reads as, so that equal tables are equal data. Registers, memory, cores and queues are
held in them. -/
namespace Sys2Proof.Machine

/-- A sparse table from numbers to values; `d k` is what an unlisted number `k` reads as, given at each use. -/
abbrev NMap (α : Type) := List (Nat × α)

/-- The value at `k`. -/
def NMap.get {α : Type} (d : Nat → α) : NMap α → Nat → α
  | [], k => d k
  | (k', v) :: m, k => if k = k' then v else NMap.get d m k

/-- The table without `k`. -/
def NMap.erase {α : Type} : NMap α → Nat → NMap α
  | [], _ => []
  | (k', v) :: m, k => if k = k' then NMap.erase m k else (k', v) :: NMap.erase m k

/-- The table with `(k, v)` before the first larger number. -/
def NMap.insert {α : Type} : NMap α → Nat → α → NMap α
  | [], k, v => [(k, v)]
  | (k', v') :: m, k, v => if k < k' then (k, v) :: (k', v') :: m else (k', v') :: NMap.insert m k v

/-- The table with `v` at `k`; a value that equals the unlisted one is not listed. -/
def NMap.set {α : Type} [DecidableEq α] (d : Nat → α) (m : NMap α) (k : Nat) (v : α) : NMap α :=
  if v = d k then NMap.erase m k else NMap.insert (NMap.erase m k) k v

/-- Writes the pairs one after another. -/
def NMap.setMany {α : Type} [DecidableEq α] (d : Nat → α) (m : NMap α) (kvs : List (Nat × α)) : NMap α :=
  kvs.foldl (fun m kv => NMap.set d m kv.1 kv.2) m

/-- The canonical form: numbers strictly rise from `lo` on, and no value is the unlisted one. -/
def NMap.wfFrom {α : Type} [DecidableEq α] (d : Nat → α) : Nat → NMap α → Bool
  | _, [] => true
  | lo, (k, v) :: m => decide (lo ≤ k) && decide (v ≠ d k) && NMap.wfFrom d (k + 1) m

/-- The canonical form of a table. -/
def NMap.wf {α : Type} [DecidableEq α] (d : Nat → α) (m : NMap α) : Bool := NMap.wfFrom d 0 m

end Sys2Proof.Machine
end

