-- ==== Sys2Proof/Machine/Fld.lean ====
section
/-! DEFINITION. The names of every register FIELD the spec gives the module (chapters 01 to 18), one constructor
each, spelled REGISTER_FIELD as the spec spells them (index letters dropped; a register with one field has its own name).
A field of an indexed register (per die, core, sequencer, ring ...) is this name together with an instance number. -/
namespace Sys2Proof.Machine

/-- One register field of the module (spec 01 to 19); the instance number stands beside it wherever it is used. -/
inductive Fld where
  | MOD_ID_PART | MOD_ID_STACK_GIB | MOD_ID_STEPPING | MOD_ID_ZVI_MIN | MOD_ID_ZVI_MAX | MOD_ID_HITOS_MIN
  | MOD_ID_HITOS_MAX | MOD_SERIAL | MOD_STATUS_READY | MOD_STATUS_PWR_GOOD | MOD_STATUS_PMODE_EFF
  | MOD_STATUS_DIP_ACTIVE | MOD_STATUS_THROTTLE | MOD_STATUS_NO_LIGHT | MOD_STATUS_STEP_RUNNING | MOD_STATUS_GEN
  | MOD_STATUS_SWAP_PENDING | MOD_STATUS_FROZEN | MOD_STATUS_CORDWOOD_UP | MOD_CTRL_RESET | MOD_CTRL_DP_RESET
  | MOD_MODE_DET | MOD_MODE_PMODE | MOD_MODE_REDUCE | MOD_MODE_MCAST_DEFAULT | MOD_MODE_TRACE | MOD_MODE_CHECK_RATE
  | MOD_MODE_STRETCH_MAX | MOD_CORE_AVAIL | TICK_CTRL_RUN | TICK_CTRL_SOLO | TICK_CTRL_ORIGIN_LATE
  | TICK_PERIOD_PERIOD_NS | TICK_PERIOD_LEAD_NS | TICK_ORIGIN | TICK_SCHED_F_TICKS | TICK_SCHED_B_TICKS
  | TICK_SCHED_U_TICKS | TICK_STEP_AT | TICK_NUMBER | TICK_STATE_PHASE | TICK_STATE_STRETCH_USED
  | TICK_STATE_TIME_LOCK | TICK_STATE_HELD | TICK_STATE_GEN_RUNNING | TICK_STATE_TIME_HOLD | TICK_STATE_PHASE_LEFT
  | TICK_NEXT | TICK_WSNAP_BASE | TICK_WSNAP_VALID | TICK_WSNAP_OVERRUN | TICK_WSNAP_RECORDS | TICK_WSNAP_CAUSE
  | TICK_TIME | TICK_TIME_OFFSET | TICK_SYNC_MASTER | TICK_STRETCHES | TICK_STRETCH_LOCAL | TICK_TIME_UNLOCKS
  | TICK_HUB_CYCLE | DIE_TIME | DIE_CYCLE | CORE_CYCLE | OPE_STATUS_BUSY | OPE_STATUS_RANK | OPE_STATUS_WAIT_Q
  | OPE_STATUS_WAIT_SB | OPE_STATUS_TILE | OPE_TILE_SB_STATE | OPE_UPD_RANK1 | OPE_UPD_RANK2 | OPE_UPD_RANK4
  | OPE_STALL_QEMPTY | OPE_STALL_DRAIN | OPE_STALL_PRELOAD | TILE_SB_WAIT | OPE_REPAIR_MFG_ROWS | OPE_REPAIR_MFG_COLS
  | OPE_REPAIR_FIELD_USED | OPE_REPAIR_FIELD_PENDING | OPE_REPAIR_FIELD0_VALID | OPE_REPAIR_FIELD0_KIND
  | OPE_REPAIR_FIELD0_INDEX | OPE_REPAIR_FIELD1_VALID | OPE_REPAIR_FIELD1_KIND | OPE_REPAIR_FIELD1_INDEX
  | LSU_CONFLICT_CYCLES | LSU_UNPACK_LINES | LSU_UNPACK_INF | ACC_NF_CAPTURE_VALID | ACC_NF_CAPTURE_SOURCE
  | ACC_NF_CAPTURE_KIND | ACC_NF_CAPTURE_TILE | ACC_NF_CAPTURE_ROW | ACC_NF_CAPTURE_COL | ACC_NF_CAPTURE_UPDATE
  | ACC_NF_TICK | ACC_NF_ICOUNT_ICOUNT | ACC_NF_ICOUNT_CTX | NONFINITE_EVENTS | DRU_STATUS_DRAIN_BUSY
  | DRU_STATUS_PRELOAD_BUSY | DRU_STATUS_WAIT_POP | DRU_STATUS_WAIT_PUSH | DRU_STATUS_DRAIN_TILE
  | DRU_STATUS_PRELOAD_TILE | DRU_STATUS_DRAIN_EPI | DRU_LINES | DRU_STALL_QEMPTY | DRU_STALL_QFULL
  | DRU_OUT_OVERFLOW | EPI_STATUS_OPERAND_MISSING | EPI_STATUS_WRITE_IGNORED | EPI_STATUS_RESERVED_SEEN
  | EPI_STATUS_LAST_ENTRY | EPI_ENTRY_LO_ACT | EPI_ENTRY_LO_OFMT | EPI_ENTRY_LO_SCALE_EN | EPI_ENTRY_LO_RESID_EN
  | EPI_ENTRY_LO_RFMT | EPI_ENTRY_LO_ZOUT_EN | EPI_ENTRY_LO_ZFMT | EPI_ENTRY_LO_AMAX_EN | EPI_ENTRY_LO_ROUND
  | EPI_ENTRY_LO_SAT | EPI_ENTRY_HI_SCALE | ACC_DBG_SEL_TILE | ACC_DBG_SEL_LINE | ACC_DBG_SEL_ORDER
  | ACC_DBG_SEL_VALID | ACC_DBG_DATA_LANE_EVEN | ACC_DBG_DATA_LANE_ODD | VEC_STATUS_BUSY | VEC_STATUS_WAIT_POP
  | VEC_STATUS_WAIT_PUSH | VEC_STATUS_WRITE_IGNORED | VEC_STATUS_OPCODE | VEC_RNG_SEED | VEC_RNG_POS_VEC_LO_POS
  | VEC_RNG_POS_VEC_HI_POS | VEC_RNG_POS_DRU_LO_POS | VEC_RNG_POS_DRU_HI_POS | VEC_ENTRIES | VEC_STALL_QEMPTY
  | VEC_STALL_QFULL | VEC_OPT_NONFINITE | SEQ_STATUS_GROUP | SEQ_STATUS_FORM | SEQ_STATUS_CTX_RUNNING
  | SEQ_STATUS_CTX_TICKW | SEQ_STATUS_LAGGARD | SEQ_WIN_FB_F_OFF | SEQ_WIN_FB_F_LEN | SEQ_WIN_FB_B_OFF
  | SEQ_WIN_FB_B_LEN | SEQ_WIN_U_U_OFF | SEQ_WIN_U_U_LEN | SEQ_ISSUED | SEQ_STALL_ENGQ | SEQ_STALL_LOCKSTEP | FLAG
  | FLAG_SATURATIONS | MFLAG | MFLAG_SATURATIONS | CC_STATUS_CTX_RUNNING | CC_STATUS_START_BUSY | CC_STATUS_DMAQ_FILL
  | CC_STATUS_DMA_ACTIVE | CC_STALL_DMAQ | CC_STALL_ENGQ | CC_WAIT_FLAG | CC_WAIT_TICK | CC_ICACHE_MISS | QCFG_DEPTH
  | QCFG_FILL | CHAN_BIND_KIND | CHAN_BIND_PEER_MODULE | CHAN_BIND_PEER_CORE | CHAN_BIND_PEER_END | CHAN_BIND_GROUP
  | CC_WAIT_DMA | SEQ_BANK_SEL | SEQ_BANK_VALID_A | SEQ_BANK_VALID_B | SEQ_BANK_LOAD_BUSY | SEQ_BANK_ID_A
  | SEQ_BANK_ID_B | SEQ_IMEM_ACTIVE_WRITES | CC_CODE_WIN_LO_BASE | CC_CODE_WIN_LO_ENABLE | CC_CODE_WIN_HI_LIMIT
  | CC_CODE_STATUS_STALE | CC_CODE_STATUS_MODIFIED | CC_CODE_STATUS_SOURCE | CC_CODE_STATUS_ADDR
  | MEM_STATUS_LAYOUT_FIXED | MEM_STATUS_SCRUB_RUNNING | MEM_SCRUB_PERIOD | MEM_POISON_ORIGIN_ADDR
  | MEM_POISON_ORIGIN_KIND | MEM_POISON_ORIGIN_VALID | MEM_POISON_CONSUMED_CS_ADDR | MEM_POISON_CONSUMED_CORE
  | MEM_POISON_CONSUMED_UNIT | MEM_POISON_CONSUMED_QUEUE | MEM_POISON_CONSUMED_VALID | MEM_ADDR_FAULT_ADDR
  | MEM_ADDR_FAULT_CAUSE | MEM_ADDR_FAULT_CORE | MEM_ADDR_FAULT_HUB | MEM_ADDR_FAULT_HUB_SRC | MEM_ADDR_FAULT_VALID
  | MEM_RSV_SIZE | MEM_RSV_BASE | MEM_PEAT_CFG_PAGES | MEM_PEAT_CFG_SECTORS | MEM_PEAT_POOL_OFF
  | MEM_PEAT_POOL_ENABLE | MEM_T2_WIN_LO_BASE | MEM_T2_WIN_LO_SIZE | MEM_T2_WIN_LO_ENABLE | MEM_T2_WIN_HI_HADDR
  | MEM_STK_STATUS_SPARED_PC | MEM_STK_STATUS_SPARE_NEXT | MEM_STK_STATUS_FAILED | MEM_STK_CORR | MEM_STK_UNCORR
  | MEM_PEAT_RMW | CS_ECC_CORR | CS_ECC_UNCORR | LSU_STALL_QEMPTY | DMA_BYTES | LSU_STALL_DQEMPTY | ING_STATUS_ACTIVE
  | ING_STATUS_PENDING | ING_STATUS_MB_DONE | ING_CTRL_ABORT | ING_CFG_SHUF_WINDOW | ING_POS_K | ING_POS_SEG
  | ING_VDEC_FENCE | ING_ADEC_FENCE | ING_FRAMES | ING_CONCEAL_BLOCKS | ING_TS_ERRORS | ING_SOURCE_ERRORS
  | ING_FETCH_RETRIES | ING_SHUF_HOLD_CYCLES | ING_RING_WAIT_CYCLES | ING_RING_BASE_BASE | ING_RING_BASE_ENABLE
  | ING_RING_CFG_SLOTS | ING_RING_CFG_SLOT_4K | ING_RING_READERS | ING_RING_WR_W | ING_MC_POLICY | ING_MC_SKEW_MAX
  | ING_MC_RING | ING_MC_RING_EN | ING_MC_LAG_TIMEOUT | ING_MC_DET | MC_HOLD_CYCLES | MC_DETACH_EVENTS | ING_RING_CUR
  | RED_CFG_AXIS_ORDER | RED_STATUS_IN_FLIGHT | RED_STATUS_BUCKETED | RED_STATUS_RING_DOWN | RED_BUF_BASE
  | RED_BUF_ENABLE | RED_BUCKET_BASE | RED_BUCKET_SIZE | RED_STREAM_CFG_ENABLE | RED_STREAM_CFG_OP
  | RED_STREAM_CFG_ORDER | RED_STREAM_CFG_BLOCK | RED_STREAM_CFG_CORE_STRIDE | RED_STREAM_DEST | RED_BLOCKS
  | RED_CHECKED | RED_RETRIES | RED_BACKPRESSURE_CYCLES | RED_CHECK_WAIT | RED_MISMATCH_0_STREAM
  | RED_MISMATCH_0_CORE | RED_MISMATCH_0_LEVEL | RED_MISMATCH_0_STEP | RED_MISMATCH_0_SEGMENT | RED_MISMATCH_0_VALID
  | RED_MISMATCH_1_BLOCK | RED_VEC_CYCLES | FAB_STATUS_DISC | FAB_STATUS_COORD_VALID | FAB_STATUS_ROOT
  | FAB_STATUS_LINKS_UP | FAB_STATUS_LINKS_QUAR | FAB_STATUS_NO_LIGHT | FAB_COORD_X | FAB_COORD_Y | FAB_COORD_Z
  | FAB_COORD_MODULE_ID | FAB_COORD_NX | FAB_COORD_NY | FAB_COORD_NZ | FAB_DISC_CTRL_START | FAB_DISC_CTRL_ROOT
  | FAB_DISC_CTRL_ROOT_X | FAB_DISC_CTRL_ROOT_Y | FAB_DISC_CTRL_ROOT_Z | FAB_DISC_CTRL_NX | FAB_DISC_CTRL_NY
  | FAB_DISC_CTRL_NZ | FAB_SLICE_OX | FAB_SLICE_OY | FAB_SLICE_OZ | FAB_SLICE_EX | FAB_SLICE_EY | FAB_SLICE_EZ
  | FAB_SLICE_ID | FAB_ARB_W_NET | FAB_ARB_W_RED | FAB_ARB_W_MEM | FAB_ARB_W_ING | FAB_LASER_LSP0_LIGHT
  | FAB_LASER_LSP1_LIGHT | FAB_LASER_SINGLE | FAB_LASER_LSP0_POWER | FAB_LASER_LSP1_POWER | FAB_PORT_CFG_LINK_PORT
  | FAB_PORT_CFG_DETOUR | FAB_PORT_CFG_NET_PORT | FAB_PORT_CFG_RED_PORT | FAB_PORT_CFG_MEM_PORT
  | FAB_PORT_CFG_ING_PORT | FAB_CARRIER_SPARES | FAB_LINK_FAILS | FAB_DETOURS | FAB_LASER_FAILOVERS | FAB_SLICE_DROPS
  | FAB_UNREACHABLE_DROPS | FAB_LINK_STATE | FAB_LINK_REASON | FAB_LINK_LEVEL | FAB_LINK_COLL_MISMATCH
  | FAB_LINK_PERMUTED | FAB_LINK_PORT | FAB_LINK_SPARED | FAB_LINK_IN_PORT | FAB_LINK_READY | FAB_PEER_PEER_ID
  | FAB_PEER_ID_VALID | FAB_PEER_PEER_DIR | FAB_PEER_PEER_LINK | FAB_PEER_PEER_SERIAL | FAB_FEC_CORR | FAB_FEC_UNCORR
  | FAB_RETRY | SEQ_MEMBER_FIRST | SEQ_MEMBER_COUNT | SEQ_MEMBER_FORM | CFG_SWAP_AT_AT_TICK | CFG_SWAP_CTRL_REQ
  | CFG_SWAP_RESULT_STATUS | CFG_SWAP_RESULT_GEN | CFG_SWAP_RESULT_REASONS | CFG_SWAP_RESULT_VALID | CFG_SWAP_TICK
  | CFG_CTRL_REDIRECT_TICKS | CFG_STALE_DROPS | CFG_REDIRECTED | CFG_STALE_CAPTURE_SRC_MODULE
  | CFG_STALE_CAPTURE_SRC_CORE | CFG_STALE_CAPTURE_FRAME_GEN | CFG_STALE_CAPTURE_GEN | CFG_STALE_CAPTURE_CLASS
  | CFG_STALE_CAPTURE_CAUSE | CFG_STALE_CAPTURE_VALID | FAB_RDR_OLD_CORE | FAB_RDR_OLD_END | FAB_RDR_NEW_MODULE
  | FAB_RDR_NEW_CORE | FAB_RDR_NEW_END | FAB_RDR_VALID | HIF_STATUS_LINK_UP | HIF_STATUS_MODE | HIF_STATUS_GEN
  | HIF_STATUS_WIDTH | HIF_STATUS_BAR4_EN | HIF_STATUS_HDM_EN | HIF_BAR4_WIN_BASE | HIF_HDM_BASE | HIF_HDM_SIZE
  | HIF_EVT_VECTOR | HIF_EVT_EN | HIF_EVT_FAULT_LOG | HIF_EVT_RING_ERROR | HIF_EVT_CORDWOOD_RESTART | HIF_EVT_ALERT
  | HIF_DESC_DONE | HIF_DB_ERRORS | HIF_CQ_WAIT_CYCLES | HIF_RING_SQ_BASE | HIF_RING_CQ_BASE | HIF_RING_CFG_ENABLE
  | HIF_RING_CFG_FMT | HIF_RING_CFG_SERIAL | HIF_RING_CFG_PRIO | HIF_RING_CFG_LOG | HIF_RING_CFG_VECTOR
  | HIF_RING_CFG_COAL_COUNT | HIF_RING_CFG_COAL_US | HIF_RING_CFG_INT_EN | HIF_RING_STATUS_SQ_HEAD
  | HIF_RING_STATUS_CQ_TAIL | HIF_RING_STATUS_PHASE | HIF_RING_STATUS_QUIESCED | HIF_RING_STATUS_ERROR
  | HIF_RING_STATUS_DB_ERR | HIF_RING_STATUS_IN_PROGRESS | MOD_BOOT_STAGE | MOD_BOOT_FAIL_CAUSE | MOD_BOOT_READY_MS
  | MOD_RESET_CAUSE_CAUSE | MOD_RESET_CAUSE_COUNT | SEC_STATUS_KINDLING_UP | SEC_STATUS_PATCH_VALID
  | SEC_STATUS_IMAGE | SEC_STATUS_FALLBACK | SEC_STATUS_CORDWOOD_FAILED | SEC_STATUS_OWNED | SEC_STATUS_KINDLING_VER
  | SEC_STATUS_CORDWOOD_VER | SEC_POLICY_REQUIRE_SIG | SEC_POLICY_BAR4 | SEC_POLICY_DEBUG_LOCK
  | SEC_POLICY_PMODE_FLOOR | SEC_SVN_KINDLING_FUSED | SEC_SVN_CORDWOOD_FUSED | SEC_SVN_KINDLING_BOOTED
  | SEC_SVN_CORDWOOD_BOOTED | SEC_KEY_VALID | SEC_KEY_USAGE | SEC_KEY_FPR | SEC_MBOX_CMD_ADDR | SEC_MBOX_CMD_TYPE
  | SEC_MBOX_CMD_GO | SEC_MBOX_STATUS_BUSY | SEC_MBOX_STATUS_RESULT | SEC_MBOX_STATUS_SEQ | SEC_WDOG_TIMEOUT_MS
  | SEC_WDOG_KICK | SEC_PROTECTED_WRITES | SEC_WDOG_RESTARTS | PWR_STATUS_WARN | PWR_STATUS_RESET_LVL
  | PWR_STATUS_REF_LOST | PWR_STATUS_TRIP | PWR_STATUS_PHASE_DEGRADED | PWR_VIN_VIN_MV | PWR_VIN_IIN_10MA
  | PWR_VIN_PIN_W | PWR_VIN_AUX_MV | PWR_DIP_MIN_MV | PWR_DIP_VALID | PWR_DIP_TIME | PWR_DIP_EVENTS | PWR_PHASE_FAILS
  | PWR_THROTTLE_EVENTS | PWR_RAIL_PHASES | PWR_RAIL_FAILED | PWR_RAIL_VOUT_MV | PWR_RAIL_GOOD | PWR_DROOP
  | PWR_TEMP_TEMP | PWR_TEMP_MAX | DBG_FREEZE_CTRL_SRC_EN | DBG_FREEZE_CTRL_HOST | DBG_FREEZE_CTRL_RELEASE
  | DBG_FREEZE_CTRL_BCAST | DBG_FREEZE_CTRL_FROZEN | DBG_FREEZE_CTRL_SOURCE | DBG_FREEZE_TICK | DBG_FREEZE_TIME
  | DBG_FREEZE_AT | DBG_FREEZE_FAULT_CLASS | DBG_TRACE_CFG_POST_PCT | DBG_TRACE_CFG_TRIG | DBG_TRACE_CFG_TRIG_CLASS
  | DBG_TRACE_CFG_SNAP_EVERY | DBG_TRACE_CFG_TYPE_EN | DBG_TRACE_STATUS_WPTR | DBG_TRACE_STATUS_FULL
  | DBG_TRACE_STATUS_WRAPPED | DBG_TRACE_STATUS_TRIGGERED | DBG_TRACE_STATUS_STOPPED | DBG_TRACE_TRIG_PTR
  | DBG_TRACE_DROPPED | DBG_TRACE_WRITTEN | DBG_CUT_SETTLE_US | DBG_CUT_REACHED | DBG_CUT_SETTLED | DBG_CUT_PEND_LSU
  | DBG_CUT_PEND_OPE | DBG_CUT_PEND_DRU | DBG_CUT_PEND_VEC | DBG_CUT_PEND_NIU | DBG_CUT_PEND_DMA | DBG_PROF_CTRL_RUN
  | DBG_PROF_CTRL_CLEAR | DBG_PEEK_SEL_CORE | DBG_PEEK_SEL_KIND | DBG_PEEK_SEL_INDEX | DBG_PEEK_SEL_CTX
  | DBG_PEEK_SEL_POS | DBG_PEEK_SEL_VALID | DBG_PEEK_DATA | DBG_HPROF_SEL_EVENT | DBG_HPROF_CNT | NIU_WAIT_RECV
  | NIU_WAIT_SEND | PROF_SEL_EVENT | PROF_CNT | MOD_FENCE | MOD_FLT_STATUS_WPTR | MOD_FLT_STATUS_ABORTED
  | MOD_FLT_STATUS_FATAL_MODULE | MOD_FLT_STATUS_FENCE_REFUSED | MOD_FLT_STATUS_TOTAL | MOD_FLT_SEL_INDEX
  | MOD_FLT_DATA | CORE_TEST_CTRL_START | CORE_TEST_CTRL_ARRAY | CORE_TEST_CTRL_MARCH | CORE_TEST_CTRL_BUSY
  | CORE_TEST_CTRL_RESULT | CORE_TEST_CTRL_UNIT | CORE_TEST_CTRL_KIND | CORE_TEST_CTRL_LOCAL | CORE_TEST_CTRL_INDEX
  | CORE_TEST_CTRL_LINDEX | CORE_TEST_CTRL_SPARE_BAD | CORE_TEST_ADDR_WORD | CORE_TEST_ADDR_BIT | ING_ENG_TEST_ENGINE
  | ING_ENG_TEST_START | ING_ENG_TEST_BUSY | ING_ENG_TEST_RESULT | FAB_LINK_TEST_LINK | FAB_LINK_TEST_MODE
  | FAB_LINK_TEST_START | FAB_LINK_TEST_BUSY | FAB_LINK_TEST_RESULT | FAB_LINK_TEST_DURATION_MS
  | FAB_LINK_TEST_ERR_SYMBOLS | FAB_LINK_TEST_ERR_UNCORR | FAB_LINK_TEST_CARR_FAILED | FAB_LASER_CTRL_RELEASE_0
  | FAB_LASER_CTRL_RELEASE_1 | FAB_LASER_CTRL_SAFE_0 | FAB_LASER_CTRL_SAFE_1 | FAB_LASER_CTRL_REFUSED_0
  | FAB_LASER_CTRL_REFUSED_1 | MSIX_ADDR | MSIX_DATA | MSIX_MASK | MSIX_PBA
  deriving DecidableEq, Repr

end Sys2Proof.Machine
end

