-- ==== Sys2Proof/Machine/Regs.lean ====
section
/-! DEFINITION. The register map: each register's offset in BAR0 (Tables REG-1 to REG-13), its fields' places and access
codes (Table SCOPE-4), each field's width and its value after cold reset (R14), and the decoding of an offset (R513, R515). -/
namespace Sys2Proof.Machine

/-- The access codes of Table SCOPE-4 (R13); no register of stepping B1 uses RC (R516). -/
inductive Access where
  | ro | rw | rws | w1c | w1s | wo
  deriving DecidableEq, Repr

/-- One field of a register: `n` copies of it lie `step` bits apart from bit `lo`. -/
structure FieldSpec where
  fld : Fld
  lo : Nat
  width : Nat
  n : Nat
  step : Nat
  acc : Access
  deriving DecidableEq, Repr

/-- One register, or an array of them: the first one's offset in BAR0, and (stride, count) of each index, widest first. -/
structure RegSpec where
  base : Nat
  dims : List (Nat × Nat)
  fields : List FieldSpec
  deriving DecidableEq, Repr

/-- The width in bits of each field (the Bits column of its register's table). -/
def Fld.width : Fld → Nat
  | .MOD_STATUS_PMODE_EFF | .MOD_MODE_PMODE | .MOD_MODE_TRACE | .TICK_STATE_PHASE | .TICK_WSNAP_CAUSE
  | .OPE_STATUS_RANK | .OPE_TILE_SB_STATE | .OPE_REPAIR_MFG_ROWS | .OPE_REPAIR_MFG_COLS
  | .OPE_REPAIR_FIELD_USED | .ACC_NF_CAPTURE_KIND | .EPI_ENTRY_LO_RFMT | .EPI_ENTRY_LO_ZFMT | .ING_MC_POLICY
  | .RED_STREAM_CFG_OP | .RED_MISMATCH_0_LEVEL | .FAB_STATUS_DISC | .CFG_CTRL_REDIRECT_TICKS
  | .SEC_POLICY_PMODE_FLOOR | .DBG_PEEK_SEL_KIND | .CORE_TEST_CTRL_RESULT | .CORE_TEST_CTRL_UNIT
  | .ING_ENG_TEST_RESULT | .FAB_LINK_TEST_RESULT => 2
  | .MOD_MODE_STRETCH_MAX | .TICK_STATE_STRETCH_USED | .ACC_NF_ICOUNT_CTX | .CHAN_BIND_KIND
  | .CC_CODE_STATUS_SOURCE | .MEM_POISON_CONSUMED_UNIT | .MEM_ADDR_FAULT_HUB_SRC | .RED_CFG_AXIS_ORDER
  | .RED_STREAM_CFG_ORDER | .FAB_PORT_CFG_LINK_PORT | .FAB_PORT_CFG_DETOUR | .FAB_PORT_CFG_NET_PORT
  | .FAB_PORT_CFG_RED_PORT | .FAB_PORT_CFG_MEM_PORT | .FAB_PORT_CFG_ING_PORT | .FAB_LINK_LEVEL | .FAB_LINK_PORT
  | .FAB_PEER_PEER_DIR | .FAB_PEER_PEER_LINK | .CFG_STALE_CAPTURE_CLASS | .HIF_STATUS_GEN
  | .DBG_FREEZE_FAULT_CLASS | .DBG_PEEK_SEL_CTX => 3
  | .MOD_ID_ZVI_MIN | .MOD_ID_ZVI_MAX | .MOD_ID_HITOS_MIN | .MOD_ID_HITOS_MAX | .MOD_STATUS_GEN
  | .EPI_ENTRY_LO_ACT | .EPI_ENTRY_LO_OFMT | .SEQ_STATUS_LAGGARD | .CC_STATUS_DMA_ACTIVE | .CHAN_BIND_PEER_END
  | .MEM_POISON_ORIGIN_KIND | .MEM_ADDR_FAULT_CAUSE | .ING_STATUS_PENDING | .ING_MC_RING | .FAB_ARB_W_NET
  | .FAB_ARB_W_RED | .FAB_ARB_W_MEM | .FAB_ARB_W_ING | .FAB_LINK_STATE | .FAB_LINK_REASON | .SEQ_MEMBER_FIRST
  | .CFG_SWAP_RESULT_STATUS | .CFG_SWAP_RESULT_GEN | .CFG_STALE_CAPTURE_FRAME_GEN | .CFG_STALE_CAPTURE_GEN
  | .FAB_RDR_OLD_END | .FAB_RDR_NEW_END | .MOD_BOOT_STAGE | .MOD_BOOT_FAIL_CAUSE | .MOD_RESET_CAUSE_CAUSE
  | .SEC_KEY_USAGE | .SEC_MBOX_CMD_TYPE | .SEC_MBOX_STATUS_RESULT | .DBG_FREEZE_CTRL_SOURCE
  | .DBG_TRACE_CFG_TRIG_CLASS | .DBG_TRACE_CFG_TYPE_EN => 4
  | .MOD_MODE_CHECK_RATE | .DRU_STATUS_DRAIN_EPI | .EPI_STATUS_LAST_ENTRY | .FAB_LINK_SPARED
  | .SEQ_MEMBER_COUNT | .HIF_STATUS_WIDTH | .HIF_RING_CFG_LOG | .PWR_RAIL_PHASES | .DBG_FREEZE_CTRL_SRC_EN
  | .DBG_PEEK_SEL_INDEX => 5
  | .CHAN_BIND_PEER_CORE | .CHAN_BIND_GROUP | .MEM_POISON_CONSUMED_CORE | .MEM_POISON_CONSUMED_QUEUE
  | .MEM_ADDR_FAULT_CORE | .MEM_STK_STATUS_SPARED_PC | .MEM_STK_STATUS_SPARE_NEXT | .RED_MISMATCH_0_STREAM
  | .RED_MISMATCH_0_CORE | .RED_MISMATCH_0_STEP | .RED_MISMATCH_0_SEGMENT | .FAB_STATUS_LINKS_UP
  | .FAB_STATUS_LINKS_QUAR | .FAB_COORD_X | .FAB_COORD_Y | .FAB_COORD_Z | .FAB_DISC_CTRL_ROOT_X
  | .FAB_DISC_CTRL_ROOT_Y | .FAB_DISC_CTRL_ROOT_Z | .FAB_SLICE_OX | .FAB_SLICE_OY | .FAB_SLICE_OZ
  | .CFG_STALE_CAPTURE_SRC_CORE | .FAB_RDR_OLD_CORE | .FAB_RDR_NEW_CORE | .DBG_PEEK_SEL_CORE
  | .FAB_LINK_TEST_LINK => 6
  | .OPE_STATUS_TILE | .OPE_REPAIR_FIELD0_INDEX | .OPE_REPAIR_FIELD1_INDEX | .ACC_NF_CAPTURE_TILE
  | .ACC_NF_CAPTURE_ROW | .ACC_NF_CAPTURE_COL | .DRU_STATUS_DRAIN_TILE | .DRU_STATUS_PRELOAD_TILE
  | .ACC_DBG_SEL_TILE | .ACC_DBG_SEL_LINE | .ING_MC_SKEW_MAX | .RED_BUF_BASE | .FAB_COORD_NX | .FAB_COORD_NY
  | .FAB_COORD_NZ | .FAB_DISC_CTRL_NX | .FAB_DISC_CTRL_NY | .FAB_DISC_CTRL_NZ | .FAB_SLICE_EX | .FAB_SLICE_EY
  | .FAB_SLICE_EZ | .HIF_RING_STATUS_IN_PROGRESS | .DBG_TRACE_CFG_POST_PCT | .DBG_TRACE_CFG_TRIG
  | .CORE_TEST_ADDR_BIT | .ING_ENG_TEST_ENGINE => 7
  | .MOD_ID_STACK_GIB | .MOD_ID_STEPPING | .TICK_SCHED_U_TICKS | .SEQ_STATUS_CTX_RUNNING
  | .SEQ_STATUS_CTX_TICKW | .SEQ_WIN_U_U_OFF | .SEQ_WIN_U_U_LEN | .CC_STATUS_CTX_RUNNING | .MEM_SCRUB_PERIOD
  | .FAB_LASER_LSP0_POWER | .FAB_LASER_LSP1_POWER | .HIF_EVT_VECTOR | .HIF_RING_CFG_VECTOR
  | .HIF_RING_CFG_COAL_COUNT | .SEC_SVN_KINDLING_FUSED | .SEC_SVN_CORDWOOD_FUSED | .SEC_SVN_KINDLING_BOOTED
  | .SEC_SVN_CORDWOOD_BOOTED | .DBG_PEEK_SEL_POS | .DBG_HPROF_SEL_EVENT | .PROF_SEL_EVENT
  | .CORE_TEST_CTRL_INDEX | .CORE_TEST_CTRL_LINDEX => 8
  | .QCFG_DEPTH | .QCFG_FILL | .RED_BUCKET_SIZE | .DBG_CUT_PEND_LSU | .DBG_CUT_PEND_OPE | .DBG_CUT_PEND_DRU
  | .DBG_CUT_PEND_VEC | .DBG_CUT_PEND_NIU => 9
  | .TICK_WSNAP_RECORDS | .VEC_STATUS_OPCODE | .CC_STATUS_DMAQ_FILL | .SEC_WDOG_TIMEOUT_MS
  | .MOD_FLT_STATUS_WPTR | .MOD_FLT_SEL_INDEX => 10
  | .TICK_WSNAP_BASE | .CFG_SWAP_RESULT_REASONS => 12
  | .ING_CFG_SHUF_WINDOW | .ING_RING_CFG_SLOTS | .RED_STREAM_CFG_BLOCK | .PWR_RAIL_FAILED => 13
  | .DBG_CUT_PEND_DMA => 14
  | .ING_RING_CFG_SLOT_4K => 15
  | .MOD_ID_PART | .TICK_SCHED_F_TICKS | .TICK_SCHED_B_TICKS | .TICK_STATE_PHASE_LEFT | .SEQ_WIN_FB_F_OFF
  | .SEQ_WIN_FB_F_LEN | .SEQ_WIN_FB_B_OFF | .SEQ_WIN_FB_B_LEN | .FLAG | .MFLAG | .SEQ_BANK_ID_A
  | .SEQ_BANK_ID_B | .MEM_RSV_SIZE | .MEM_RSV_BASE | .ING_POS_SEG | .ING_MC_LAG_TIMEOUT | .RED_STATUS_IN_FLIGHT
  | .RED_STATUS_BUCKETED | .RED_STREAM_CFG_CORE_STRIDE | .HIF_HDM_BASE | .HIF_HDM_SIZE | .HIF_RING_CFG_COAL_US
  | .HIF_RING_STATUS_SQ_HEAD | .HIF_RING_STATUS_CQ_TAIL | .MOD_BOOT_READY_MS | .SEC_STATUS_KINDLING_VER
  | .PWR_VIN_VIN_MV | .PWR_VIN_IIN_10MA | .PWR_VIN_PIN_W | .PWR_VIN_AUX_MV | .PWR_DIP_MIN_MV
  | .PWR_RAIL_VOUT_MV | .PWR_TEMP_TEMP | .PWR_TEMP_MAX | .DBG_TRACE_CFG_SNAP_EVERY | .DBG_CUT_SETTLE_US
  | .FAB_LINK_TEST_DURATION_MS | .FAB_LINK_TEST_ERR_UNCORR => 16
  | .FAB_LINK_TEST_CARR_FAILED => 17
  | .CHAN_BIND_PEER_MODULE | .FAB_COORD_MODULE_ID | .FAB_PEER_PEER_ID | .CFG_STALE_CAPTURE_SRC_MODULE
  | .FAB_RDR_NEW_MODULE => 18
  | .TICK_PERIOD_LEAD_NS => 20
  | .MEM_T2_WIN_LO_BASE | .MEM_T2_WIN_LO_SIZE | .CORE_TEST_ADDR_WORD => 21
  | .HIF_BAR4_WIN_BASE => 23
  | .ACC_NF_CAPTURE_UPDATE | .MEM_POISON_CONSUMED_CS_ADDR => 24
  | .TICK_PERIOD_PERIOD_NS => 25
  | .MEM_PEAT_CFG_PAGES | .DBG_TRACE_STATUS_WPTR | .DBG_TRACE_TRIG_PTR => 31
  | .TICK_TIME_OFFSET | .EPI_ENTRY_HI_SCALE | .ACC_DBG_DATA_LANE_EVEN | .ACC_DBG_DATA_LANE_ODD
  | .MEM_PEAT_CFG_SECTORS | .ING_STATUS_MB_DONE | .ING_ADEC_FENCE | .ING_RING_BASE_BASE | .RED_BUCKET_BASE
  | .FAB_SLICE_ID | .FAB_PEER_PEER_SERIAL | .MOD_RESET_CAUSE_COUNT | .SEC_STATUS_CORDWOOD_VER
  | .SEC_MBOX_STATUS_SEQ | .MOD_FLT_STATUS_TOTAL | .MSIX_DATA => 32
  | .VEC_RNG_POS_VEC_HI_POS | .MEM_PEAT_POOL_OFF => 34
  | .VEC_RNG_POS_DRU_HI_POS => 35
  | .CC_CODE_WIN_LO_BASE | .CC_CODE_WIN_HI_LIMIT | .RED_STREAM_DEST => 36
  | .MEM_T2_WIN_HI_HADDR => 43
  | .CC_CODE_STATUS_ADDR | .MEM_POISON_ORIGIN_ADDR | .MEM_ADDR_FAULT_ADDR | .SEC_MBOX_CMD_ADDR => 44
  | .TICK_STRETCHES | .TICK_STRETCH_LOCAL | .TICK_TIME_UNLOCKS | .OPE_UPD_RANK1 | .OPE_UPD_RANK2
  | .OPE_UPD_RANK4 | .OPE_STALL_QEMPTY | .OPE_STALL_DRAIN | .OPE_STALL_PRELOAD | .TILE_SB_WAIT
  | .LSU_CONFLICT_CYCLES | .LSU_UNPACK_LINES | .LSU_UNPACK_INF | .ACC_NF_ICOUNT_ICOUNT | .NONFINITE_EVENTS
  | .DRU_LINES | .DRU_STALL_QEMPTY | .DRU_STALL_QFULL | .DRU_OUT_OVERFLOW | .VEC_ENTRIES | .VEC_STALL_QEMPTY
  | .VEC_STALL_QFULL | .VEC_OPT_NONFINITE | .SEQ_ISSUED | .SEQ_STALL_ENGQ | .SEQ_STALL_LOCKSTEP
  | .FLAG_SATURATIONS | .MFLAG_SATURATIONS | .CC_STALL_DMAQ | .CC_STALL_ENGQ | .CC_WAIT_FLAG | .CC_WAIT_TICK
  | .CC_ICACHE_MISS | .CC_WAIT_DMA | .SEQ_IMEM_ACTIVE_WRITES | .MEM_STK_CORR | .MEM_STK_UNCORR | .MEM_PEAT_RMW
  | .CS_ECC_CORR | .CS_ECC_UNCORR | .LSU_STALL_QEMPTY | .DMA_BYTES | .LSU_STALL_DQEMPTY | .ING_POS_K
  | .ING_FRAMES | .ING_CONCEAL_BLOCKS | .ING_TS_ERRORS | .ING_SOURCE_ERRORS | .ING_FETCH_RETRIES
  | .ING_SHUF_HOLD_CYCLES | .ING_RING_WAIT_CYCLES | .ING_RING_WR_W | .MC_HOLD_CYCLES | .MC_DETACH_EVENTS
  | .ING_RING_CUR | .RED_BLOCKS | .RED_CHECKED | .RED_RETRIES | .RED_BACKPRESSURE_CYCLES | .RED_CHECK_WAIT
  | .RED_MISMATCH_1_BLOCK | .RED_VEC_CYCLES | .FAB_CARRIER_SPARES | .FAB_LINK_FAILS | .FAB_DETOURS
  | .FAB_LASER_FAILOVERS | .FAB_SLICE_DROPS | .FAB_UNREACHABLE_DROPS | .FAB_FEC_CORR | .FAB_FEC_UNCORR
  | .FAB_RETRY | .CFG_STALE_DROPS | .CFG_REDIRECTED | .HIF_DESC_DONE | .HIF_DB_ERRORS | .HIF_CQ_WAIT_CYCLES
  | .SEC_KEY_FPR | .SEC_PROTECTED_WRITES | .SEC_WDOG_RESTARTS | .PWR_DIP_EVENTS | .PWR_PHASE_FAILS
  | .PWR_THROTTLE_EVENTS | .PWR_DROOP | .DBG_TRACE_DROPPED | .DBG_TRACE_WRITTEN | .DBG_HPROF_CNT
  | .NIU_WAIT_RECV | .NIU_WAIT_SEND | .PROF_CNT | .FAB_LINK_TEST_ERR_SYMBOLS => 48
  | .HIF_RING_SQ_BASE | .HIF_RING_CQ_BASE => 52
  | .MOD_SERIAL | .MOD_CORE_AVAIL | .TICK_ORIGIN | .TICK_STEP_AT | .TICK_NUMBER | .TICK_NEXT | .TICK_TIME
  | .TICK_HUB_CYCLE | .DIE_TIME | .DIE_CYCLE | .CORE_CYCLE | .ACC_NF_TICK | .VEC_RNG_SEED
  | .VEC_RNG_POS_VEC_LO_POS | .VEC_RNG_POS_DRU_LO_POS | .ING_VDEC_FENCE | .ING_RING_READERS | .ING_MC_DET
  | .CFG_SWAP_AT_AT_TICK | .CFG_SWAP_TICK | .PWR_DIP_TIME | .DBG_FREEZE_TICK | .DBG_FREEZE_TIME
  | .DBG_FREEZE_AT | .DBG_PEEK_DATA | .MOD_FENCE | .MOD_FLT_DATA | .MSIX_ADDR => 64
  | _ => 1

/-- The registers of the MOD block. -/
def modRegs : List RegSpec := [
  ⟨0x0, [], [⟨.MOD_ID_PART, 0, 16, 1, 0, .ro⟩, ⟨.MOD_ID_STACK_GIB, 16, 8, 1, 0, .ro⟩,
      ⟨.MOD_ID_STEPPING, 24, 8, 1, 0, .ro⟩, ⟨.MOD_ID_ZVI_MIN, 32, 4, 1, 0, .ro⟩,
      ⟨.MOD_ID_ZVI_MAX, 36, 4, 1, 0, .ro⟩, ⟨.MOD_ID_HITOS_MIN, 40, 4, 1, 0, .ro⟩,
      ⟨.MOD_ID_HITOS_MAX, 44, 4, 1, 0, .ro⟩]⟩,
  ⟨0x8, [], [⟨.MOD_SERIAL, 0, 64, 1, 0, .ro⟩]⟩,
  ⟨0x10, [], [⟨.MOD_STATUS_READY, 0, 1, 1, 0, .ro⟩, ⟨.MOD_STATUS_PWR_GOOD, 1, 1, 1, 0, .ro⟩,
      ⟨.MOD_STATUS_PMODE_EFF, 2, 2, 1, 0, .ro⟩, ⟨.MOD_STATUS_DIP_ACTIVE, 4, 1, 1, 0, .ro⟩,
      ⟨.MOD_STATUS_THROTTLE, 5, 1, 1, 0, .ro⟩, ⟨.MOD_STATUS_NO_LIGHT, 6, 1, 1, 0, .ro⟩,
      ⟨.MOD_STATUS_STEP_RUNNING, 7, 1, 1, 0, .ro⟩, ⟨.MOD_STATUS_GEN, 8, 4, 1, 0, .ro⟩,
      ⟨.MOD_STATUS_SWAP_PENDING, 12, 1, 1, 0, .ro⟩, ⟨.MOD_STATUS_FROZEN, 13, 1, 1, 0, .ro⟩,
      ⟨.MOD_STATUS_CORDWOOD_UP, 14, 1, 1, 0, .ro⟩]⟩,
  ⟨0x18, [], [⟨.MOD_CTRL_RESET, 0, 1, 1, 0, .wo⟩, ⟨.MOD_CTRL_DP_RESET, 1, 1, 1, 0, .wo⟩]⟩,
  ⟨0x20, [], [⟨.MOD_MODE_DET, 0, 1, 1, 0, .rws⟩, ⟨.MOD_MODE_PMODE, 2, 2, 1, 0, .rws⟩,
      ⟨.MOD_MODE_REDUCE, 4, 1, 1, 0, .rws⟩, ⟨.MOD_MODE_MCAST_DEFAULT, 5, 1, 1, 0, .rws⟩,
      ⟨.MOD_MODE_TRACE, 8, 2, 1, 0, .rws⟩, ⟨.MOD_MODE_CHECK_RATE, 16, 5, 1, 0, .rws⟩,
      ⟨.MOD_MODE_STRETCH_MAX, 24, 3, 1, 0, .rws⟩]⟩,
  ⟨0x28, [], [⟨.MOD_CORE_AVAIL, 0, 64, 1, 0, .ro⟩]⟩,
  ⟨0x1000, [(8, 64)], [⟨.MFLAG, 0, 16, 1, 0, .rw⟩]⟩,
  ⟨0x1200, [], [⟨.MFLAG_SATURATIONS, 0, 48, 1, 0, .ro⟩]⟩,
  ⟨0x40, [], [⟨.CFG_SWAP_AT_AT_TICK, 0, 64, 1, 0, .rw⟩]⟩,
  ⟨0x48, [], [⟨.CFG_SWAP_CTRL_REQ, 0, 1, 1, 0, .wo⟩]⟩,
  ⟨0x50, [], [⟨.CFG_SWAP_RESULT_STATUS, 0, 4, 1, 0, .ro⟩, ⟨.CFG_SWAP_RESULT_GEN, 4, 4, 1, 0, .ro⟩,
      ⟨.CFG_SWAP_RESULT_REASONS, 8, 12, 1, 0, .ro⟩, ⟨.CFG_SWAP_RESULT_VALID, 63, 1, 1, 0, .w1c⟩]⟩,
  ⟨0x58, [], [⟨.CFG_SWAP_TICK, 0, 64, 1, 0, .ro⟩]⟩,
  ⟨0x60, [], [⟨.CFG_CTRL_REDIRECT_TICKS, 0, 2, 1, 0, .rws⟩]⟩,
  ⟨0x68, [], [⟨.CFG_STALE_DROPS, 0, 48, 1, 0, .ro⟩]⟩,
  ⟨0x70, [], [⟨.CFG_REDIRECTED, 0, 48, 1, 0, .ro⟩]⟩,
  ⟨0x78, [], [⟨.CFG_STALE_CAPTURE_SRC_MODULE, 0, 18, 1, 0, .ro⟩, ⟨.CFG_STALE_CAPTURE_SRC_CORE, 18, 6, 1, 0, .ro⟩,
      ⟨.CFG_STALE_CAPTURE_FRAME_GEN, 24, 4, 1, 0, .ro⟩, ⟨.CFG_STALE_CAPTURE_GEN, 28, 4, 1, 0, .ro⟩,
      ⟨.CFG_STALE_CAPTURE_CLASS, 32, 3, 1, 0, .ro⟩, ⟨.CFG_STALE_CAPTURE_CAUSE, 35, 1, 1, 0, .ro⟩,
      ⟨.CFG_STALE_CAPTURE_VALID, 63, 1, 1, 0, .w1c⟩]⟩,
  ⟨0x30, [], [⟨.MOD_BOOT_STAGE, 0, 4, 1, 0, .ro⟩, ⟨.MOD_BOOT_FAIL_CAUSE, 8, 4, 1, 0, .ro⟩,
      ⟨.MOD_BOOT_READY_MS, 16, 16, 1, 0, .ro⟩]⟩,
  ⟨0x38, [], [⟨.MOD_RESET_CAUSE_CAUSE, 0, 4, 1, 0, .ro⟩, ⟨.MOD_RESET_CAUSE_COUNT, 16, 32, 1, 0, .ro⟩]⟩,
  ⟨0x80, [], [⟨.MOD_FENCE, 0, 64, 1, 0, .rw⟩]⟩,
  ⟨0x88, [], [⟨.MOD_FLT_STATUS_WPTR, 0, 10, 1, 0, .ro⟩, ⟨.MOD_FLT_STATUS_ABORTED, 10, 1, 1, 0, .ro⟩,
      ⟨.MOD_FLT_STATUS_FATAL_MODULE, 11, 1, 1, 0, .ro⟩, ⟨.MOD_FLT_STATUS_FENCE_REFUSED, 12, 1, 1, 0, .w1c⟩,
      ⟨.MOD_FLT_STATUS_TOTAL, 16, 32, 1, 0, .ro⟩]⟩,
  ⟨0x90, [], [⟨.MOD_FLT_SEL_INDEX, 0, 10, 1, 0, .rw⟩]⟩,
  ⟨0x98, [(8, 4)], [⟨.MOD_FLT_DATA, 0, 64, 1, 0, .ro⟩]⟩]

/-- The registers of the TICK block. -/
def tickRegs : List RegSpec := [
  ⟨0x20000, [], [⟨.TICK_CTRL_RUN, 0, 1, 1, 0, .rw⟩, ⟨.TICK_CTRL_SOLO, 1, 1, 1, 0, .rw⟩,
      ⟨.TICK_CTRL_ORIGIN_LATE, 2, 1, 1, 0, .w1c⟩]⟩,
  ⟨0x20008, [], [⟨.TICK_PERIOD_PERIOD_NS, 0, 25, 1, 0, .rws⟩, ⟨.TICK_PERIOD_LEAD_NS, 32, 20, 1, 0, .rws⟩]⟩,
  ⟨0x20010, [], [⟨.TICK_ORIGIN, 0, 64, 1, 0, .rw⟩]⟩,
  ⟨0x20018, [], [⟨.TICK_SCHED_F_TICKS, 0, 16, 1, 0, .rws⟩, ⟨.TICK_SCHED_B_TICKS, 16, 16, 1, 0, .rws⟩,
      ⟨.TICK_SCHED_U_TICKS, 32, 8, 1, 0, .rws⟩]⟩,
  ⟨0x20020, [], [⟨.TICK_STEP_AT, 0, 64, 1, 0, .rw⟩]⟩,
  ⟨0x20028, [], [⟨.TICK_NUMBER, 0, 64, 1, 0, .ro⟩]⟩,
  ⟨0x20030, [], [⟨.TICK_STATE_PHASE, 0, 2, 1, 0, .ro⟩, ⟨.TICK_STATE_STRETCH_USED, 2, 3, 1, 0, .ro⟩,
      ⟨.TICK_STATE_TIME_LOCK, 5, 1, 1, 0, .ro⟩, ⟨.TICK_STATE_HELD, 6, 1, 1, 0, .ro⟩,
      ⟨.TICK_STATE_GEN_RUNNING, 7, 1, 1, 0, .ro⟩, ⟨.TICK_STATE_TIME_HOLD, 8, 1, 1, 0, .ro⟩,
      ⟨.TICK_STATE_PHASE_LEFT, 32, 16, 1, 0, .ro⟩]⟩,
  ⟨0x20038, [], [⟨.TICK_NEXT, 0, 64, 1, 0, .ro⟩]⟩,
  ⟨0x20040, [], [⟨.TICK_WSNAP_BASE, 0, 12, 1, 0, .rw⟩, ⟨.TICK_WSNAP_VALID, 16, 1, 1, 0, .w1c⟩,
      ⟨.TICK_WSNAP_OVERRUN, 17, 1, 1, 0, .w1c⟩, ⟨.TICK_WSNAP_RECORDS, 20, 10, 1, 0, .ro⟩,
      ⟨.TICK_WSNAP_CAUSE, 30, 2, 1, 0, .ro⟩]⟩,
  ⟨0x20048, [], [⟨.TICK_TIME, 0, 64, 1, 0, .ro⟩]⟩,
  ⟨0x20050, [], [⟨.TICK_TIME_OFFSET, 0, 32, 1, 0, .ro⟩]⟩,
  ⟨0x20058, [], [⟨.TICK_SYNC_MASTER, 0, 1, 1, 0, .rw⟩]⟩,
  ⟨0x20060, [], [⟨.TICK_STRETCHES, 0, 48, 1, 0, .ro⟩]⟩,
  ⟨0x20068, [], [⟨.TICK_STRETCH_LOCAL, 0, 48, 1, 0, .ro⟩]⟩,
  ⟨0x20070, [], [⟨.TICK_TIME_UNLOCKS, 0, 48, 1, 0, .ro⟩]⟩,
  ⟨0x20078, [], [⟨.TICK_HUB_CYCLE, 0, 64, 1, 0, .ro⟩]⟩]

/-- Die and core registers (Tables REG-12, REG-13). -/
def dieRegs1 : List RegSpec := [
  ⟨0x1001000, [(4194304, 4)], [⟨.DIE_TIME, 0, 64, 1, 0, .ro⟩]⟩,
  ⟨0x1001008, [(4194304, 4)], [⟨.DIE_CYCLE, 0, 64, 1, 0, .ro⟩]⟩,
  ⟨0x1101000, [(4194304, 4), (131072, 16)], [⟨.CORE_CYCLE, 0, 64, 1, 0, .ro⟩]⟩,
  ⟨0x1102000, [(4194304, 4), (131072, 16)], [⟨.OPE_STATUS_BUSY, 0, 1, 1, 0, .ro⟩,
      ⟨.OPE_STATUS_RANK, 1, 2, 1, 0, .ro⟩, ⟨.OPE_STATUS_WAIT_Q, 3, 1, 1, 0, .ro⟩,
      ⟨.OPE_STATUS_WAIT_SB, 4, 1, 1, 0, .ro⟩, ⟨.OPE_STATUS_TILE, 8, 7, 1, 0, .ro⟩]⟩,
  ⟨0x1102008, [(4194304, 4), (131072, 16), (8, 4)], [⟨.OPE_TILE_SB_STATE, 0, 2, 32, 2, .ro⟩]⟩,
  ⟨0x1102028, [(4194304, 4), (131072, 16)], [⟨.OPE_UPD_RANK1, 0, 48, 1, 0, .ro⟩]⟩,
  ⟨0x1102030, [(4194304, 4), (131072, 16)], [⟨.OPE_UPD_RANK2, 0, 48, 1, 0, .ro⟩]⟩,
  ⟨0x1102038, [(4194304, 4), (131072, 16)], [⟨.OPE_UPD_RANK4, 0, 48, 1, 0, .ro⟩]⟩,
  ⟨0x1102040, [(4194304, 4), (131072, 16)], [⟨.OPE_STALL_QEMPTY, 0, 48, 1, 0, .ro⟩]⟩,
  ⟨0x1102048, [(4194304, 4), (131072, 16)], [⟨.OPE_STALL_DRAIN, 0, 48, 1, 0, .ro⟩]⟩,
  ⟨0x1102050, [(4194304, 4), (131072, 16)], [⟨.OPE_STALL_PRELOAD, 0, 48, 1, 0, .ro⟩]⟩,
  ⟨0x1102058, [(4194304, 4), (131072, 16)], [⟨.TILE_SB_WAIT, 0, 48, 1, 0, .ro⟩]⟩,
  ⟨0x1102060, [(4194304, 4), (131072, 16)], [⟨.OPE_REPAIR_MFG_ROWS, 0, 2, 1, 0, .ro⟩,
      ⟨.OPE_REPAIR_MFG_COLS, 2, 2, 1, 0, .ro⟩, ⟨.OPE_REPAIR_FIELD_USED, 4, 2, 1, 0, .ro⟩,
      ⟨.OPE_REPAIR_FIELD_PENDING, 6, 1, 1, 0, .ro⟩, ⟨.OPE_REPAIR_FIELD0_VALID, 8, 1, 1, 0, .ro⟩,
      ⟨.OPE_REPAIR_FIELD0_KIND, 9, 1, 1, 0, .ro⟩, ⟨.OPE_REPAIR_FIELD0_INDEX, 10, 7, 1, 0, .ro⟩,
      ⟨.OPE_REPAIR_FIELD1_VALID, 24, 1, 1, 0, .ro⟩, ⟨.OPE_REPAIR_FIELD1_KIND, 25, 1, 1, 0, .ro⟩,
      ⟨.OPE_REPAIR_FIELD1_INDEX, 26, 7, 1, 0, .ro⟩]⟩,
  ⟨0x1102080, [(4194304, 4), (131072, 16)], [⟨.LSU_CONFLICT_CYCLES, 0, 48, 1, 0, .ro⟩]⟩,
  ⟨0x1102088, [(4194304, 4), (131072, 16)], [⟨.LSU_UNPACK_LINES, 0, 48, 1, 0, .ro⟩]⟩,
  ⟨0x1102090, [(4194304, 4), (131072, 16)], [⟨.LSU_UNPACK_INF, 0, 48, 1, 0, .ro⟩]⟩,
  ⟨0x1103000, [(4194304, 4), (131072, 16)], [⟨.ACC_NF_CAPTURE_VALID, 0, 1, 1, 0, .w1c⟩,
      ⟨.ACC_NF_CAPTURE_SOURCE, 1, 1, 1, 0, .ro⟩, ⟨.ACC_NF_CAPTURE_KIND, 2, 2, 1, 0, .ro⟩,
      ⟨.ACC_NF_CAPTURE_TILE, 8, 7, 1, 0, .ro⟩, ⟨.ACC_NF_CAPTURE_ROW, 16, 7, 1, 0, .ro⟩,
      ⟨.ACC_NF_CAPTURE_COL, 24, 7, 1, 0, .ro⟩, ⟨.ACC_NF_CAPTURE_UPDATE, 32, 24, 1, 0, .ro⟩]⟩,
  ⟨0x1103008, [(4194304, 4), (131072, 16)], [⟨.ACC_NF_TICK, 0, 64, 1, 0, .ro⟩]⟩,
  ⟨0x1103010, [(4194304, 4), (131072, 16)], [⟨.ACC_NF_ICOUNT_ICOUNT, 0, 48, 1, 0, .ro⟩,
      ⟨.ACC_NF_ICOUNT_CTX, 48, 3, 1, 0, .ro⟩]⟩,
  ⟨0x1103018, [(4194304, 4), (131072, 16)], [⟨.NONFINITE_EVENTS, 0, 48, 1, 0, .ro⟩]⟩,
  ⟨0x1103020, [(4194304, 4), (131072, 16)], [⟨.DRU_STATUS_DRAIN_BUSY, 0, 1, 1, 0, .ro⟩,
      ⟨.DRU_STATUS_PRELOAD_BUSY, 1, 1, 1, 0, .ro⟩, ⟨.DRU_STATUS_WAIT_POP, 2, 1, 1, 0, .ro⟩,
      ⟨.DRU_STATUS_WAIT_PUSH, 3, 1, 1, 0, .ro⟩, ⟨.DRU_STATUS_DRAIN_TILE, 8, 7, 1, 0, .ro⟩,
      ⟨.DRU_STATUS_PRELOAD_TILE, 16, 7, 1, 0, .ro⟩, ⟨.DRU_STATUS_DRAIN_EPI, 24, 5, 1, 0, .ro⟩]⟩,
  ⟨0x1103028, [(4194304, 4), (131072, 16)], [⟨.DRU_LINES, 0, 48, 1, 0, .ro⟩]⟩,
  ⟨0x1103030, [(4194304, 4), (131072, 16)], [⟨.DRU_STALL_QEMPTY, 0, 48, 1, 0, .ro⟩]⟩,
  ⟨0x1103038, [(4194304, 4), (131072, 16)], [⟨.DRU_STALL_QFULL, 0, 48, 1, 0, .ro⟩]⟩,
  ⟨0x1103040, [(4194304, 4), (131072, 16)], [⟨.DRU_OUT_OVERFLOW, 0, 48, 1, 0, .ro⟩]⟩,
  ⟨0x1103048, [(4194304, 4), (131072, 16)], [⟨.EPI_STATUS_OPERAND_MISSING, 0, 1, 1, 0, .w1c⟩,
      ⟨.EPI_STATUS_WRITE_IGNORED, 1, 1, 1, 0, .w1c⟩, ⟨.EPI_STATUS_RESERVED_SEEN, 2, 1, 1, 0, .w1c⟩,
      ⟨.EPI_STATUS_LAST_ENTRY, 8, 5, 1, 0, .ro⟩]⟩,
  ⟨0x1103100, [(4194304, 4), (131072, 16), (16, 32)], [⟨.EPI_ENTRY_LO_ACT, 0, 4, 1, 0, .rw⟩,
      ⟨.EPI_ENTRY_LO_OFMT, 4, 4, 1, 0, .rw⟩, ⟨.EPI_ENTRY_LO_SCALE_EN, 8, 1, 1, 0, .rw⟩,
      ⟨.EPI_ENTRY_LO_RESID_EN, 9, 1, 1, 0, .rw⟩, ⟨.EPI_ENTRY_LO_RFMT, 10, 2, 1, 0, .rw⟩,
      ⟨.EPI_ENTRY_LO_ZOUT_EN, 12, 1, 1, 0, .rw⟩, ⟨.EPI_ENTRY_LO_ZFMT, 13, 2, 1, 0, .rw⟩,
      ⟨.EPI_ENTRY_LO_AMAX_EN, 15, 1, 1, 0, .rw⟩, ⟨.EPI_ENTRY_LO_ROUND, 16, 1, 1, 0, .rw⟩,
      ⟨.EPI_ENTRY_LO_SAT, 17, 1, 1, 0, .rw⟩]⟩,
  ⟨0x1103108, [(4194304, 4), (131072, 16), (16, 32)], [⟨.EPI_ENTRY_HI_SCALE, 0, 32, 1, 0, .rw⟩]⟩,
  ⟨0x1103400, [(4194304, 4), (131072, 16)], [⟨.ACC_DBG_SEL_TILE, 0, 7, 1, 0, .rw⟩,
      ⟨.ACC_DBG_SEL_LINE, 8, 7, 1, 0, .rw⟩, ⟨.ACC_DBG_SEL_ORDER, 15, 1, 1, 0, .rw⟩,
      ⟨.ACC_DBG_SEL_VALID, 16, 1, 1, 0, .ro⟩]⟩,
  ⟨0x1103800, [(4194304, 4), (131072, 16), (8, 64)], [⟨.ACC_DBG_DATA_LANE_EVEN, 0, 32, 1, 0, .ro⟩,
      ⟨.ACC_DBG_DATA_LANE_ODD, 32, 32, 1, 0, .ro⟩]⟩]

/-- Die and core registers (Tables REG-12, REG-13). -/
def dieRegs2 : List RegSpec := [
  ⟨0x1104000, [(4194304, 4), (131072, 16)], [⟨.VEC_STATUS_BUSY, 0, 1, 1, 0, .ro⟩,
      ⟨.VEC_STATUS_WAIT_POP, 1, 1, 1, 0, .ro⟩, ⟨.VEC_STATUS_WAIT_PUSH, 2, 1, 1, 0, .ro⟩,
      ⟨.VEC_STATUS_WRITE_IGNORED, 3, 1, 1, 0, .w1c⟩, ⟨.VEC_STATUS_OPCODE, 8, 10, 1, 0, .ro⟩]⟩,
  ⟨0x1104008, [(4194304, 4), (131072, 16)], [⟨.VEC_RNG_SEED, 0, 64, 1, 0, .rw⟩]⟩,
  ⟨0x1104010, [(4194304, 4), (131072, 16)], [⟨.VEC_RNG_POS_VEC_LO_POS, 0, 64, 1, 0, .rw⟩]⟩,
  ⟨0x1104018, [(4194304, 4), (131072, 16)], [⟨.VEC_RNG_POS_VEC_HI_POS, 0, 34, 1, 0, .rw⟩]⟩,
  ⟨0x1104020, [(4194304, 4), (131072, 16)], [⟨.VEC_RNG_POS_DRU_LO_POS, 0, 64, 1, 0, .rw⟩]⟩,
  ⟨0x1104028, [(4194304, 4), (131072, 16)], [⟨.VEC_RNG_POS_DRU_HI_POS, 0, 35, 1, 0, .rw⟩]⟩,
  ⟨0x1104030, [(4194304, 4), (131072, 16)], [⟨.VEC_ENTRIES, 0, 48, 1, 0, .ro⟩]⟩,
  ⟨0x1104038, [(4194304, 4), (131072, 16)], [⟨.VEC_STALL_QEMPTY, 0, 48, 1, 0, .ro⟩]⟩,
  ⟨0x1104040, [(4194304, 4), (131072, 16)], [⟨.VEC_STALL_QFULL, 0, 48, 1, 0, .ro⟩]⟩,
  ⟨0x1104048, [(4194304, 4), (131072, 16)], [⟨.VEC_OPT_NONFINITE, 0, 48, 1, 0, .ro⟩]⟩,
  ⟨0x1004000, [(4194304, 4), (256, 8)], [⟨.SEQ_STATUS_GROUP, 0, 1, 1, 0, .ro⟩, ⟨.SEQ_STATUS_FORM, 1, 1, 1, 0, .ro⟩,
      ⟨.SEQ_STATUS_CTX_RUNNING, 2, 8, 1, 0, .ro⟩, ⟨.SEQ_STATUS_CTX_TICKW, 10, 8, 1, 0, .ro⟩,
      ⟨.SEQ_STATUS_LAGGARD, 18, 4, 1, 0, .ro⟩]⟩,
  ⟨0x1004008, [(4194304, 4), (256, 8)], [⟨.SEQ_WIN_FB_F_OFF, 0, 16, 1, 0, .rws⟩,
      ⟨.SEQ_WIN_FB_F_LEN, 16, 16, 1, 0, .rws⟩, ⟨.SEQ_WIN_FB_B_OFF, 32, 16, 1, 0, .rws⟩,
      ⟨.SEQ_WIN_FB_B_LEN, 48, 16, 1, 0, .rws⟩]⟩,
  ⟨0x1004010, [(4194304, 4), (256, 8)], [⟨.SEQ_WIN_U_U_OFF, 0, 8, 1, 0, .rws⟩,
      ⟨.SEQ_WIN_U_U_LEN, 8, 8, 1, 0, .rws⟩]⟩,
  ⟨0x1004018, [(4194304, 4), (256, 8)], [⟨.SEQ_ISSUED, 0, 48, 1, 0, .ro⟩]⟩,
  ⟨0x1004020, [(4194304, 4), (256, 8)], [⟨.SEQ_STALL_ENGQ, 0, 48, 1, 0, .ro⟩]⟩,
  ⟨0x1004028, [(4194304, 4), (256, 8)], [⟨.SEQ_STALL_LOCKSTEP, 0, 48, 1, 0, .ro⟩]⟩,
  ⟨0x1008000, [(4194304, 4), (8, 256)], [⟨.FLAG, 0, 16, 1, 0, .rw⟩]⟩,
  ⟨0x1008800, [(4194304, 4)], [⟨.FLAG_SATURATIONS, 0, 48, 1, 0, .ro⟩]⟩,
  ⟨0x1105000, [(4194304, 4), (131072, 16)], [⟨.CC_STATUS_CTX_RUNNING, 0, 8, 1, 0, .ro⟩,
      ⟨.CC_STATUS_START_BUSY, 8, 1, 1, 0, .w1c⟩, ⟨.CC_STATUS_DMAQ_FILL, 16, 10, 1, 0, .ro⟩,
      ⟨.CC_STATUS_DMA_ACTIVE, 26, 4, 1, 0, .ro⟩]⟩,
  ⟨0x1105008, [(4194304, 4), (131072, 16)], [⟨.CC_STALL_DMAQ, 0, 48, 1, 0, .ro⟩]⟩,
  ⟨0x1105010, [(4194304, 4), (131072, 16)], [⟨.CC_STALL_ENGQ, 0, 48, 1, 0, .ro⟩]⟩,
  ⟨0x1105018, [(4194304, 4), (131072, 16)], [⟨.CC_WAIT_FLAG, 0, 48, 1, 0, .ro⟩]⟩,
  ⟨0x1105020, [(4194304, 4), (131072, 16)], [⟨.CC_WAIT_TICK, 0, 48, 1, 0, .ro⟩]⟩,
  ⟨0x1105028, [(4194304, 4), (131072, 16)], [⟨.CC_ICACHE_MISS, 0, 48, 1, 0, .ro⟩]⟩,
  ⟨0x1105100, [(4194304, 4), (131072, 16), (8, 32)], [⟨.QCFG_DEPTH, 0, 9, 1, 0, .rws⟩,
      ⟨.QCFG_FILL, 16, 9, 1, 0, .ro⟩]⟩,
  ⟨0x1105200, [(4194304, 4), (131072, 16), (8, 16)], [⟨.CHAN_BIND_KIND, 0, 3, 1, 0, .rws⟩,
      ⟨.CHAN_BIND_PEER_MODULE, 4, 18, 1, 0, .rws⟩, ⟨.CHAN_BIND_PEER_CORE, 22, 6, 1, 0, .rws⟩,
      ⟨.CHAN_BIND_PEER_END, 28, 4, 1, 0, .rws⟩, ⟨.CHAN_BIND_GROUP, 32, 6, 1, 0, .rws⟩]⟩,
  ⟨0x1105030, [(4194304, 4), (131072, 16)], [⟨.CC_WAIT_DMA, 0, 48, 1, 0, .ro⟩]⟩,
  ⟨0x1004030, [(4194304, 4), (256, 8)], [⟨.SEQ_BANK_SEL, 0, 1, 1, 0, .rws⟩, ⟨.SEQ_BANK_VALID_A, 1, 1, 1, 0, .ro⟩,
      ⟨.SEQ_BANK_VALID_B, 2, 1, 1, 0, .ro⟩, ⟨.SEQ_BANK_LOAD_BUSY, 3, 1, 1, 0, .ro⟩,
      ⟨.SEQ_BANK_ID_A, 32, 16, 1, 0, .ro⟩, ⟨.SEQ_BANK_ID_B, 48, 16, 1, 0, .ro⟩]⟩,
  ⟨0x1004038, [(4194304, 4), (256, 8)], [⟨.SEQ_IMEM_ACTIVE_WRITES, 0, 48, 1, 0, .ro⟩]⟩,
  ⟨0x1105038, [(4194304, 4), (131072, 16)], [⟨.CC_CODE_WIN_LO_BASE, 8, 36, 1, 0, .rws⟩,
      ⟨.CC_CODE_WIN_LO_ENABLE, 63, 1, 1, 0, .rws⟩]⟩]

/-- Die and core registers (Tables REG-12, REG-13). -/
def dieRegs3 : List RegSpec := [
  ⟨0x1105040, [(4194304, 4), (131072, 16)], [⟨.CC_CODE_WIN_HI_LIMIT, 8, 36, 1, 0, .rws⟩]⟩,
  ⟨0x1105048, [(4194304, 4), (131072, 16)], [⟨.CC_CODE_STATUS_STALE, 0, 1, 1, 0, .ro⟩,
      ⟨.CC_CODE_STATUS_MODIFIED, 1, 1, 1, 0, .w1c⟩, ⟨.CC_CODE_STATUS_SOURCE, 2, 3, 1, 0, .ro⟩,
      ⟨.CC_CODE_STATUS_ADDR, 8, 44, 1, 0, .ro⟩]⟩,
  ⟨0x1106000, [(4194304, 4), (131072, 16)], [⟨.CS_ECC_CORR, 0, 48, 1, 0, .ro⟩]⟩,
  ⟨0x1106008, [(4194304, 4), (131072, 16)], [⟨.CS_ECC_UNCORR, 0, 48, 1, 0, .ro⟩]⟩,
  ⟨0x1106010, [(4194304, 4), (131072, 16)], [⟨.LSU_STALL_QEMPTY, 0, 48, 1, 0, .ro⟩]⟩,
  ⟨0x1106018, [(4194304, 4), (131072, 16)], [⟨.DMA_BYTES, 0, 48, 1, 0, .ro⟩]⟩,
  ⟨0x1106020, [(4194304, 4), (131072, 16)], [⟨.LSU_STALL_DQEMPTY, 0, 48, 1, 0, .ro⟩]⟩,
  ⟨0x1107000, [(4194304, 4), (131072, 16)], [⟨.RED_VEC_CYCLES, 0, 48, 1, 0, .ro⟩]⟩,
  ⟨0x1004040, [(4194304, 4), (256, 8)], [⟨.SEQ_MEMBER_FIRST, 0, 4, 1, 0, .rws⟩,
      ⟨.SEQ_MEMBER_COUNT, 4, 5, 1, 0, .rws⟩, ⟨.SEQ_MEMBER_FORM, 9, 1, 1, 0, .rws⟩]⟩,
  ⟨0x1107008, [(4194304, 4), (131072, 16)], [⟨.NIU_WAIT_RECV, 0, 48, 1, 0, .ro⟩]⟩,
  ⟨0x1107010, [(4194304, 4), (131072, 16)], [⟨.NIU_WAIT_SEND, 0, 48, 1, 0, .ro⟩]⟩,
  ⟨0x1107100, [(4194304, 4), (131072, 16), (8, 16)], [⟨.PROF_SEL_EVENT, 0, 8, 1, 0, .rw⟩]⟩,
  ⟨0x1107180, [(4194304, 4), (131072, 16), (8, 16)], [⟨.PROF_CNT, 0, 48, 1, 0, .ro⟩]⟩,
  ⟨0x1108000, [(4194304, 4), (131072, 16)], [⟨.CORE_TEST_CTRL_START, 0, 1, 1, 0, .wo⟩,
      ⟨.CORE_TEST_CTRL_ARRAY, 1, 1, 1, 0, .rw⟩, ⟨.CORE_TEST_CTRL_MARCH, 2, 1, 1, 0, .rw⟩,
      ⟨.CORE_TEST_CTRL_BUSY, 3, 1, 1, 0, .ro⟩, ⟨.CORE_TEST_CTRL_RESULT, 4, 2, 1, 0, .ro⟩,
      ⟨.CORE_TEST_CTRL_UNIT, 6, 2, 1, 0, .ro⟩, ⟨.CORE_TEST_CTRL_KIND, 8, 1, 1, 0, .ro⟩,
      ⟨.CORE_TEST_CTRL_LOCAL, 9, 1, 1, 0, .ro⟩, ⟨.CORE_TEST_CTRL_INDEX, 10, 8, 1, 0, .ro⟩,
      ⟨.CORE_TEST_CTRL_LINDEX, 18, 8, 1, 0, .ro⟩, ⟨.CORE_TEST_CTRL_SPARE_BAD, 26, 1, 1, 0, .ro⟩]⟩,
  ⟨0x1108008, [(4194304, 4), (131072, 16)], [⟨.CORE_TEST_ADDR_WORD, 0, 21, 1, 0, .ro⟩,
      ⟨.CORE_TEST_ADDR_BIT, 21, 7, 1, 0, .ro⟩]⟩]

/-- The registers of the MEM block. -/
def memRegs : List RegSpec := [
  ⟨0x180000, [], [⟨.MEM_STATUS_LAYOUT_FIXED, 0, 1, 1, 0, .ro⟩, ⟨.MEM_STATUS_SCRUB_RUNNING, 1, 1, 1, 0, .ro⟩]⟩,
  ⟨0x180008, [], [⟨.MEM_SCRUB_PERIOD, 0, 8, 1, 0, .rw⟩]⟩,
  ⟨0x180010, [], [⟨.MEM_POISON_ORIGIN_ADDR, 0, 44, 1, 0, .ro⟩, ⟨.MEM_POISON_ORIGIN_KIND, 44, 4, 1, 0, .ro⟩,
      ⟨.MEM_POISON_ORIGIN_VALID, 63, 1, 1, 0, .w1c⟩]⟩,
  ⟨0x180018, [], [⟨.MEM_POISON_CONSUMED_CS_ADDR, 0, 24, 1, 0, .ro⟩, ⟨.MEM_POISON_CONSUMED_CORE, 24, 6, 1, 0, .ro⟩,
      ⟨.MEM_POISON_CONSUMED_UNIT, 30, 3, 1, 0, .ro⟩, ⟨.MEM_POISON_CONSUMED_QUEUE, 33, 6, 1, 0, .ro⟩,
      ⟨.MEM_POISON_CONSUMED_VALID, 63, 1, 1, 0, .w1c⟩]⟩,
  ⟨0x180020, [], [⟨.MEM_ADDR_FAULT_ADDR, 0, 44, 1, 0, .ro⟩, ⟨.MEM_ADDR_FAULT_CAUSE, 44, 4, 1, 0, .ro⟩,
      ⟨.MEM_ADDR_FAULT_CORE, 48, 6, 1, 0, .ro⟩, ⟨.MEM_ADDR_FAULT_HUB, 54, 1, 1, 0, .ro⟩,
      ⟨.MEM_ADDR_FAULT_HUB_SRC, 55, 3, 1, 0, .ro⟩, ⟨.MEM_ADDR_FAULT_VALID, 63, 1, 1, 0, .w1c⟩]⟩,
  ⟨0x180040, [(8, 4)], [⟨.MEM_RSV_SIZE, 0, 16, 1, 0, .rw⟩, ⟨.MEM_RSV_BASE, 32, 16, 1, 0, .ro⟩]⟩,
  ⟨0x180080, [(8, 5)], [⟨.MEM_PEAT_CFG_PAGES, 0, 31, 1, 0, .rw⟩, ⟨.MEM_PEAT_CFG_SECTORS, 32, 32, 1, 0, .rw⟩]⟩,
  ⟨0x1800C0, [(8, 5)], [⟨.MEM_PEAT_POOL_OFF, 8, 34, 1, 0, .rw⟩, ⟨.MEM_PEAT_POOL_ENABLE, 63, 1, 1, 0, .rw⟩]⟩,
  ⟨0x180100, [(16, 16)], [⟨.MEM_T2_WIN_LO_BASE, 0, 21, 1, 0, .rws⟩, ⟨.MEM_T2_WIN_LO_SIZE, 24, 21, 1, 0, .rws⟩,
      ⟨.MEM_T2_WIN_LO_ENABLE, 63, 1, 1, 0, .rws⟩]⟩,
  ⟨0x180108, [(16, 16)], [⟨.MEM_T2_WIN_HI_HADDR, 21, 43, 1, 0, .rws⟩]⟩,
  ⟨0x180200, [(8, 32)], [⟨.MEM_STK_STATUS_SPARED_PC, 0, 6, 1, 0, .ro⟩,
      ⟨.MEM_STK_STATUS_SPARE_NEXT, 8, 6, 1, 0, .rw⟩, ⟨.MEM_STK_STATUS_FAILED, 16, 1, 1, 0, .ro⟩]⟩,
  ⟨0x180300, [(8, 32)], [⟨.MEM_STK_CORR, 0, 48, 1, 0, .ro⟩]⟩,
  ⟨0x180400, [(8, 32)], [⟨.MEM_STK_UNCORR, 0, 48, 1, 0, .ro⟩]⟩,
  ⟨0x180500, [(8, 5)], [⟨.MEM_PEAT_RMW, 0, 48, 1, 0, .ro⟩]⟩]

/-- The registers of the ING block. -/
def ingRegs : List RegSpec := [
  ⟨0x100000, [], [⟨.ING_STATUS_ACTIVE, 0, 1, 1, 0, .ro⟩, ⟨.ING_STATUS_PENDING, 1, 4, 1, 0, .ro⟩,
      ⟨.ING_STATUS_MB_DONE, 8, 32, 1, 0, .ro⟩]⟩,
  ⟨0x100008, [], [⟨.ING_CTRL_ABORT, 0, 1, 1, 0, .wo⟩]⟩,
  ⟨0x100010, [], [⟨.ING_CFG_SHUF_WINDOW, 0, 13, 1, 0, .rw⟩]⟩,
  ⟨0x100018, [], [⟨.ING_POS_K, 0, 48, 1, 0, .ro⟩, ⟨.ING_POS_SEG, 48, 16, 1, 0, .ro⟩]⟩,
  ⟨0x100020, [], [⟨.ING_VDEC_FENCE, 0, 64, 1, 0, .rw⟩]⟩,
  ⟨0x100028, [], [⟨.ING_ADEC_FENCE, 0, 32, 1, 0, .rw⟩]⟩,
  ⟨0x100040, [], [⟨.ING_FRAMES, 0, 48, 1, 0, .ro⟩]⟩,
  ⟨0x100048, [], [⟨.ING_CONCEAL_BLOCKS, 0, 48, 1, 0, .ro⟩]⟩,
  ⟨0x100050, [], [⟨.ING_TS_ERRORS, 0, 48, 1, 0, .ro⟩]⟩,
  ⟨0x100058, [], [⟨.ING_SOURCE_ERRORS, 0, 48, 1, 0, .ro⟩]⟩,
  ⟨0x100060, [], [⟨.ING_FETCH_RETRIES, 0, 48, 1, 0, .ro⟩]⟩,
  ⟨0x100068, [], [⟨.ING_SHUF_HOLD_CYCLES, 0, 48, 1, 0, .ro⟩]⟩,
  ⟨0x100070, [], [⟨.ING_RING_WAIT_CYCLES, 0, 48, 1, 0, .ro⟩]⟩,
  ⟨0x100100, [(16, 16)], [⟨.ING_RING_BASE_BASE, 12, 32, 1, 0, .rws⟩, ⟨.ING_RING_BASE_ENABLE, 63, 1, 1, 0, .rws⟩]⟩,
  ⟨0x100108, [(16, 16)], [⟨.ING_RING_CFG_SLOTS, 0, 13, 1, 0, .rws⟩, ⟨.ING_RING_CFG_SLOT_4K, 16, 15, 1, 0, .rws⟩]⟩,
  ⟨0x100200, [(8, 16)], [⟨.ING_RING_READERS, 0, 64, 1, 0, .rws⟩]⟩,
  ⟨0x100280, [(8, 16)], [⟨.ING_RING_WR_W, 0, 48, 1, 0, .ro⟩]⟩,
  ⟨0x101000, [(8, 64)], [⟨.ING_MC_POLICY, 0, 2, 1, 0, .rws⟩, ⟨.ING_MC_SKEW_MAX, 8, 7, 1, 0, .rws⟩,
      ⟨.ING_MC_RING, 16, 4, 1, 0, .rws⟩, ⟨.ING_MC_RING_EN, 20, 1, 1, 0, .rws⟩,
      ⟨.ING_MC_LAG_TIMEOUT, 32, 16, 1, 0, .rws⟩]⟩,
  ⟨0x101200, [(8, 64)], [⟨.ING_MC_DET, 0, 64, 1, 0, .ro⟩]⟩,
  ⟨0x101400, [(8, 64)], [⟨.MC_HOLD_CYCLES, 0, 48, 1, 0, .ro⟩]⟩,
  ⟨0x101600, [(8, 64)], [⟨.MC_DETACH_EVENTS, 0, 48, 1, 0, .ro⟩]⟩,
  ⟨0x104000, [(8, 1024)], [⟨.ING_RING_CUR, 0, 48, 1, 0, .rw⟩]⟩,
  ⟨0x100030, [], [⟨.ING_ENG_TEST_ENGINE, 0, 7, 1, 0, .rw⟩, ⟨.ING_ENG_TEST_START, 7, 1, 1, 0, .wo⟩,
      ⟨.ING_ENG_TEST_BUSY, 8, 1, 1, 0, .ro⟩, ⟨.ING_ENG_TEST_RESULT, 9, 2, 1, 0, .ro⟩]⟩]

/-- The registers of the RED block. -/
def redRegs : List RegSpec := [
  ⟨0x280000, [], [⟨.RED_CFG_AXIS_ORDER, 0, 3, 1, 0, .rws⟩]⟩,
  ⟨0x280008, [], [⟨.RED_STATUS_IN_FLIGHT, 0, 16, 1, 0, .ro⟩, ⟨.RED_STATUS_BUCKETED, 16, 16, 1, 0, .ro⟩,
      ⟨.RED_STATUS_RING_DOWN, 32, 1, 1, 0, .ro⟩]⟩,
  ⟨0x280010, [], [⟨.RED_BUF_BASE, 0, 7, 1, 0, .rws⟩, ⟨.RED_BUF_ENABLE, 63, 1, 1, 0, .rws⟩]⟩,
  ⟨0x280018, [], [⟨.RED_BUCKET_BASE, 12, 32, 1, 0, .rws⟩, ⟨.RED_BUCKET_SIZE, 44, 9, 1, 0, .rws⟩]⟩,
  ⟨0x280100, [(16, 64)], [⟨.RED_STREAM_CFG_ENABLE, 0, 1, 1, 0, .rws⟩, ⟨.RED_STREAM_CFG_OP, 1, 2, 1, 0, .rws⟩,
      ⟨.RED_STREAM_CFG_ORDER, 3, 3, 1, 0, .rws⟩, ⟨.RED_STREAM_CFG_BLOCK, 16, 13, 1, 0, .rws⟩,
      ⟨.RED_STREAM_CFG_CORE_STRIDE, 32, 16, 1, 0, .rws⟩]⟩,
  ⟨0x280108, [(16, 64)], [⟨.RED_STREAM_DEST, 8, 36, 1, 0, .rws⟩]⟩,
  ⟨0x280040, [], [⟨.RED_BLOCKS, 0, 48, 1, 0, .ro⟩]⟩,
  ⟨0x280048, [], [⟨.RED_CHECKED, 0, 48, 1, 0, .ro⟩]⟩,
  ⟨0x280050, [], [⟨.RED_RETRIES, 0, 48, 1, 0, .ro⟩]⟩,
  ⟨0x280058, [], [⟨.RED_BACKPRESSURE_CYCLES, 0, 48, 1, 0, .ro⟩]⟩,
  ⟨0x280060, [], [⟨.RED_CHECK_WAIT, 0, 48, 1, 0, .ro⟩]⟩,
  ⟨0x280080, [], [⟨.RED_MISMATCH_0_STREAM, 0, 6, 1, 0, .ro⟩, ⟨.RED_MISMATCH_0_CORE, 6, 6, 1, 0, .ro⟩,
      ⟨.RED_MISMATCH_0_LEVEL, 12, 2, 1, 0, .ro⟩, ⟨.RED_MISMATCH_0_STEP, 14, 6, 1, 0, .ro⟩,
      ⟨.RED_MISMATCH_0_SEGMENT, 20, 6, 1, 0, .ro⟩, ⟨.RED_MISMATCH_0_VALID, 63, 1, 1, 0, .w1c⟩]⟩,
  ⟨0x280088, [], [⟨.RED_MISMATCH_1_BLOCK, 0, 48, 1, 0, .ro⟩]⟩]

/-- The registers of the FAB block. -/
def fabRegs : List RegSpec := [
  ⟨0x200000, [], [⟨.FAB_STATUS_DISC, 0, 2, 1, 0, .ro⟩, ⟨.FAB_STATUS_COORD_VALID, 2, 1, 1, 0, .ro⟩,
      ⟨.FAB_STATUS_ROOT, 3, 1, 1, 0, .ro⟩, ⟨.FAB_STATUS_LINKS_UP, 4, 6, 1, 0, .ro⟩,
      ⟨.FAB_STATUS_LINKS_QUAR, 10, 6, 1, 0, .ro⟩, ⟨.FAB_STATUS_NO_LIGHT, 16, 1, 1, 0, .ro⟩]⟩,
  ⟨0x200008, [], [⟨.FAB_COORD_X, 0, 6, 1, 0, .ro⟩, ⟨.FAB_COORD_Y, 8, 6, 1, 0, .ro⟩,
      ⟨.FAB_COORD_Z, 16, 6, 1, 0, .ro⟩, ⟨.FAB_COORD_MODULE_ID, 24, 18, 1, 0, .ro⟩,
      ⟨.FAB_COORD_NX, 42, 7, 1, 0, .ro⟩, ⟨.FAB_COORD_NY, 49, 7, 1, 0, .ro⟩, ⟨.FAB_COORD_NZ, 56, 7, 1, 0, .ro⟩]⟩,
  ⟨0x200010, [], [⟨.FAB_DISC_CTRL_START, 0, 1, 1, 0, .wo⟩, ⟨.FAB_DISC_CTRL_ROOT, 1, 1, 1, 0, .rw⟩,
      ⟨.FAB_DISC_CTRL_ROOT_X, 8, 6, 1, 0, .rw⟩, ⟨.FAB_DISC_CTRL_ROOT_Y, 16, 6, 1, 0, .rw⟩,
      ⟨.FAB_DISC_CTRL_ROOT_Z, 24, 6, 1, 0, .rw⟩, ⟨.FAB_DISC_CTRL_NX, 32, 7, 1, 0, .rw⟩,
      ⟨.FAB_DISC_CTRL_NY, 40, 7, 1, 0, .rw⟩, ⟨.FAB_DISC_CTRL_NZ, 48, 7, 1, 0, .rw⟩]⟩,
  ⟨0x200018, [], [⟨.FAB_SLICE_OX, 0, 6, 1, 0, .rws⟩, ⟨.FAB_SLICE_OY, 8, 6, 1, 0, .rws⟩,
      ⟨.FAB_SLICE_OZ, 16, 6, 1, 0, .rws⟩, ⟨.FAB_SLICE_EX, 24, 7, 1, 0, .rws⟩, ⟨.FAB_SLICE_EY, 32, 7, 1, 0, .rws⟩,
      ⟨.FAB_SLICE_EZ, 40, 7, 1, 0, .rws⟩]⟩,
  ⟨0x200020, [], [⟨.FAB_SLICE_ID, 0, 32, 1, 0, .rws⟩]⟩,
  ⟨0x200028, [], [⟨.FAB_ARB_W_NET, 0, 4, 1, 0, .rws⟩, ⟨.FAB_ARB_W_RED, 4, 4, 1, 0, .rws⟩,
      ⟨.FAB_ARB_W_MEM, 8, 4, 1, 0, .rws⟩, ⟨.FAB_ARB_W_ING, 12, 4, 1, 0, .rws⟩]⟩,
  ⟨0x200030, [], [⟨.FAB_LASER_LSP0_LIGHT, 0, 1, 1, 0, .ro⟩, ⟨.FAB_LASER_LSP1_LIGHT, 1, 1, 1, 0, .ro⟩,
      ⟨.FAB_LASER_SINGLE, 2, 1, 1, 0, .ro⟩, ⟨.FAB_LASER_LSP0_POWER, 8, 8, 1, 0, .ro⟩,
      ⟨.FAB_LASER_LSP1_POWER, 16, 8, 1, 0, .ro⟩]⟩,
  ⟨0x200040, [(8, 6)], [⟨.FAB_PORT_CFG_LINK_PORT, 0, 3, 6, 3, .rws⟩, ⟨.FAB_PORT_CFG_DETOUR, 18, 3, 6, 3, .rws⟩,
      ⟨.FAB_PORT_CFG_NET_PORT, 36, 3, 1, 0, .rws⟩, ⟨.FAB_PORT_CFG_RED_PORT, 39, 3, 1, 0, .rws⟩,
      ⟨.FAB_PORT_CFG_MEM_PORT, 42, 3, 1, 0, .rws⟩, ⟨.FAB_PORT_CFG_ING_PORT, 45, 3, 1, 0, .rws⟩]⟩,
  ⟨0x200080, [], [⟨.FAB_CARRIER_SPARES, 0, 48, 1, 0, .ro⟩]⟩,
  ⟨0x200088, [], [⟨.FAB_LINK_FAILS, 0, 48, 1, 0, .ro⟩]⟩,
  ⟨0x200090, [], [⟨.FAB_DETOURS, 0, 48, 1, 0, .ro⟩]⟩,
  ⟨0x200098, [], [⟨.FAB_LASER_FAILOVERS, 0, 48, 1, 0, .ro⟩]⟩,
  ⟨0x2000A0, [], [⟨.FAB_SLICE_DROPS, 0, 48, 1, 0, .ro⟩]⟩,
  ⟨0x2000A8, [], [⟨.FAB_UNREACHABLE_DROPS, 0, 48, 1, 0, .ro⟩]⟩,
  ⟨0x200100, [(8, 36)], [⟨.FAB_LINK_STATE, 0, 4, 1, 0, .ro⟩, ⟨.FAB_LINK_REASON, 4, 4, 1, 0, .ro⟩,
      ⟨.FAB_LINK_LEVEL, 8, 3, 1, 0, .ro⟩, ⟨.FAB_LINK_COLL_MISMATCH, 11, 1, 1, 0, .ro⟩,
      ⟨.FAB_LINK_PERMUTED, 12, 1, 1, 0, .ro⟩, ⟨.FAB_LINK_PORT, 13, 3, 1, 0, .ro⟩,
      ⟨.FAB_LINK_SPARED, 16, 5, 1, 0, .ro⟩, ⟨.FAB_LINK_IN_PORT, 21, 1, 1, 0, .ro⟩,
      ⟨.FAB_LINK_READY, 22, 1, 1, 0, .ro⟩]⟩,
  ⟨0x200300, [(8, 36)], [⟨.FAB_PEER_PEER_ID, 0, 18, 1, 0, .ro⟩, ⟨.FAB_PEER_ID_VALID, 18, 1, 1, 0, .ro⟩,
      ⟨.FAB_PEER_PEER_DIR, 19, 3, 1, 0, .ro⟩, ⟨.FAB_PEER_PEER_LINK, 22, 3, 1, 0, .ro⟩,
      ⟨.FAB_PEER_PEER_SERIAL, 32, 32, 1, 0, .ro⟩]⟩,
  ⟨0x200500, [(8, 36)], [⟨.FAB_FEC_CORR, 0, 48, 1, 0, .ro⟩]⟩,
  ⟨0x200700, [(8, 36)], [⟨.FAB_FEC_UNCORR, 0, 48, 1, 0, .ro⟩]⟩,
  ⟨0x200900, [(8, 36)], [⟨.FAB_RETRY, 0, 48, 1, 0, .ro⟩]⟩,
  ⟨0x200C00, [(8, 64)], [⟨.FAB_RDR_OLD_CORE, 0, 6, 1, 0, .rws⟩, ⟨.FAB_RDR_OLD_END, 6, 4, 1, 0, .rws⟩,
      ⟨.FAB_RDR_NEW_MODULE, 16, 18, 1, 0, .rws⟩, ⟨.FAB_RDR_NEW_CORE, 34, 6, 1, 0, .rws⟩,
      ⟨.FAB_RDR_NEW_END, 40, 4, 1, 0, .rws⟩, ⟨.FAB_RDR_VALID, 63, 1, 1, 0, .rws⟩]⟩,
  ⟨0x200038, [], [⟨.FAB_LINK_TEST_LINK, 0, 6, 1, 0, .rw⟩, ⟨.FAB_LINK_TEST_MODE, 6, 1, 1, 0, .rw⟩,
      ⟨.FAB_LINK_TEST_START, 7, 1, 1, 0, .wo⟩, ⟨.FAB_LINK_TEST_BUSY, 8, 1, 1, 0, .ro⟩,
      ⟨.FAB_LINK_TEST_RESULT, 9, 2, 1, 0, .ro⟩, ⟨.FAB_LINK_TEST_DURATION_MS, 16, 16, 1, 0, .rw⟩]⟩,
  ⟨0x2000B0, [], [⟨.FAB_LINK_TEST_ERR_SYMBOLS, 0, 48, 1, 0, .ro⟩, ⟨.FAB_LINK_TEST_ERR_UNCORR, 48, 16, 1, 0, .ro⟩]⟩,
  ⟨0x2000B8, [], [⟨.FAB_LINK_TEST_CARR_FAILED, 0, 17, 1, 0, .ro⟩]⟩,
  ⟨0x2000C0, [], [⟨.FAB_LASER_CTRL_RELEASE_0, 0, 1, 1, 0, .w1s⟩, ⟨.FAB_LASER_CTRL_RELEASE_1, 1, 1, 1, 0, .w1s⟩,
      ⟨.FAB_LASER_CTRL_SAFE_0, 2, 1, 1, 0, .ro⟩, ⟨.FAB_LASER_CTRL_SAFE_1, 3, 1, 1, 0, .ro⟩,
      ⟨.FAB_LASER_CTRL_REFUSED_0, 4, 1, 1, 0, .w1c⟩, ⟨.FAB_LASER_CTRL_REFUSED_1, 5, 1, 1, 0, .w1c⟩]⟩]

/-- The registers of the HIF block. -/
def hifRegs : List RegSpec := [
  ⟨0x30000, [], [⟨.HIF_STATUS_LINK_UP, 0, 1, 1, 0, .ro⟩, ⟨.HIF_STATUS_MODE, 1, 1, 1, 0, .ro⟩,
      ⟨.HIF_STATUS_GEN, 2, 3, 1, 0, .ro⟩, ⟨.HIF_STATUS_WIDTH, 5, 5, 1, 0, .ro⟩,
      ⟨.HIF_STATUS_BAR4_EN, 10, 1, 1, 0, .ro⟩, ⟨.HIF_STATUS_HDM_EN, 11, 1, 1, 0, .ro⟩]⟩,
  ⟨0x30008, [], [⟨.HIF_BAR4_WIN_BASE, 21, 23, 1, 0, .rw⟩]⟩,
  ⟨0x30010, [], [⟨.HIF_HDM_BASE, 0, 16, 1, 0, .rw⟩, ⟨.HIF_HDM_SIZE, 16, 16, 1, 0, .rw⟩]⟩,
  ⟨0x30018, [], [⟨.HIF_EVT_VECTOR, 0, 8, 1, 0, .rw⟩, ⟨.HIF_EVT_EN, 8, 1, 1, 0, .rw⟩,
      ⟨.HIF_EVT_FAULT_LOG, 16, 1, 1, 0, .w1c⟩, ⟨.HIF_EVT_RING_ERROR, 17, 1, 1, 0, .w1c⟩,
      ⟨.HIF_EVT_CORDWOOD_RESTART, 18, 1, 1, 0, .w1c⟩, ⟨.HIF_EVT_ALERT, 19, 1, 1, 0, .w1c⟩]⟩,
  ⟨0x30040, [], [⟨.HIF_DESC_DONE, 0, 48, 1, 0, .ro⟩]⟩,
  ⟨0x30048, [], [⟨.HIF_DB_ERRORS, 0, 48, 1, 0, .ro⟩]⟩,
  ⟨0x30050, [], [⟨.HIF_CQ_WAIT_CYCLES, 0, 48, 1, 0, .ro⟩]⟩,
  ⟨0x31000, [(32, 256)], [⟨.HIF_RING_SQ_BASE, 12, 52, 1, 0, .rw⟩]⟩,
  ⟨0x31008, [(32, 256)], [⟨.HIF_RING_CQ_BASE, 12, 52, 1, 0, .rw⟩]⟩,
  ⟨0x31010, [(32, 256)], [⟨.HIF_RING_CFG_ENABLE, 0, 1, 1, 0, .rw⟩, ⟨.HIF_RING_CFG_FMT, 1, 1, 1, 0, .rw⟩,
      ⟨.HIF_RING_CFG_SERIAL, 2, 1, 1, 0, .rw⟩, ⟨.HIF_RING_CFG_PRIO, 3, 1, 1, 0, .rw⟩,
      ⟨.HIF_RING_CFG_LOG, 4, 5, 1, 0, .rw⟩, ⟨.HIF_RING_CFG_VECTOR, 16, 8, 1, 0, .rw⟩,
      ⟨.HIF_RING_CFG_COAL_COUNT, 24, 8, 1, 0, .rw⟩, ⟨.HIF_RING_CFG_COAL_US, 32, 16, 1, 0, .rw⟩,
      ⟨.HIF_RING_CFG_INT_EN, 48, 1, 1, 0, .rw⟩]⟩,
  ⟨0x31018, [(32, 256)], [⟨.HIF_RING_STATUS_SQ_HEAD, 0, 16, 1, 0, .ro⟩,
      ⟨.HIF_RING_STATUS_CQ_TAIL, 16, 16, 1, 0, .ro⟩, ⟨.HIF_RING_STATUS_PHASE, 32, 1, 1, 0, .ro⟩,
      ⟨.HIF_RING_STATUS_QUIESCED, 33, 1, 1, 0, .ro⟩, ⟨.HIF_RING_STATUS_ERROR, 34, 1, 1, 0, .ro⟩,
      ⟨.HIF_RING_STATUS_DB_ERR, 35, 1, 1, 0, .w1c⟩, ⟨.HIF_RING_STATUS_IN_PROGRESS, 40, 7, 1, 0, .ro⟩]⟩,
  ⟨0x38000, [(16, 256)], [⟨.MSIX_ADDR, 0, 64, 1, 0, .rw⟩]⟩,
  ⟨0x38008, [(16, 256)], [⟨.MSIX_DATA, 0, 32, 1, 0, .rw⟩, ⟨.MSIX_MASK, 32, 1, 1, 0, .rw⟩]⟩,
  ⟨0x39000, [(8, 4)], [⟨.MSIX_PBA, 0, 1, 64, 1, .ro⟩]⟩]

/-- The registers of the SEC block. -/
def secRegs : List RegSpec := [
  ⟨0x40000, [], [⟨.SEC_STATUS_KINDLING_UP, 0, 1, 1, 0, .ro⟩, ⟨.SEC_STATUS_PATCH_VALID, 1, 1, 1, 0, .ro⟩,
      ⟨.SEC_STATUS_IMAGE, 2, 1, 1, 0, .ro⟩, ⟨.SEC_STATUS_FALLBACK, 3, 1, 1, 0, .ro⟩,
      ⟨.SEC_STATUS_CORDWOOD_FAILED, 4, 1, 1, 0, .ro⟩, ⟨.SEC_STATUS_OWNED, 5, 1, 1, 0, .ro⟩,
      ⟨.SEC_STATUS_KINDLING_VER, 16, 16, 1, 0, .ro⟩, ⟨.SEC_STATUS_CORDWOOD_VER, 32, 32, 1, 0, .ro⟩]⟩,
  ⟨0x40008, [], [⟨.SEC_POLICY_REQUIRE_SIG, 0, 1, 1, 0, .ro⟩, ⟨.SEC_POLICY_BAR4, 1, 1, 1, 0, .ro⟩,
      ⟨.SEC_POLICY_DEBUG_LOCK, 2, 1, 1, 0, .ro⟩, ⟨.SEC_POLICY_PMODE_FLOOR, 4, 2, 1, 0, .ro⟩]⟩,
  ⟨0x40010, [], [⟨.SEC_SVN_KINDLING_FUSED, 0, 8, 1, 0, .ro⟩, ⟨.SEC_SVN_CORDWOOD_FUSED, 8, 8, 1, 0, .ro⟩,
      ⟨.SEC_SVN_KINDLING_BOOTED, 16, 8, 1, 0, .ro⟩, ⟨.SEC_SVN_CORDWOOD_BOOTED, 24, 8, 1, 0, .ro⟩]⟩,
  ⟨0x40040, [(8, 8)], [⟨.SEC_KEY_VALID, 0, 1, 1, 0, .ro⟩, ⟨.SEC_KEY_USAGE, 1, 4, 1, 0, .ro⟩,
      ⟨.SEC_KEY_FPR, 16, 48, 1, 0, .ro⟩]⟩,
  ⟨0x40080, [], [⟨.SEC_MBOX_CMD_ADDR, 0, 44, 1, 0, .rw⟩, ⟨.SEC_MBOX_CMD_TYPE, 48, 4, 1, 0, .rw⟩,
      ⟨.SEC_MBOX_CMD_GO, 63, 1, 1, 0, .w1s⟩]⟩,
  ⟨0x40088, [], [⟨.SEC_MBOX_STATUS_BUSY, 0, 1, 1, 0, .ro⟩, ⟨.SEC_MBOX_STATUS_RESULT, 8, 4, 1, 0, .ro⟩,
      ⟨.SEC_MBOX_STATUS_SEQ, 32, 32, 1, 0, .ro⟩]⟩,
  ⟨0x40090, [], [⟨.SEC_WDOG_TIMEOUT_MS, 0, 10, 1, 0, .ro⟩]⟩,
  ⟨0x40098, [], [⟨.SEC_WDOG_KICK, 0, 1, 1, 0, .wo⟩]⟩,
  ⟨0x400A0, [], [⟨.SEC_PROTECTED_WRITES, 0, 48, 1, 0, .ro⟩]⟩,
  ⟨0x400A8, [], [⟨.SEC_WDOG_RESTARTS, 0, 48, 1, 0, .ro⟩]⟩]

/-- The registers of the PWR block. -/
def pwrRegs : List RegSpec := [
  ⟨0x10000, [], [⟨.PWR_STATUS_WARN, 0, 1, 1, 0, .ro⟩, ⟨.PWR_STATUS_RESET_LVL, 1, 1, 1, 0, .ro⟩,
      ⟨.PWR_STATUS_REF_LOST, 2, 1, 1, 0, .ro⟩, ⟨.PWR_STATUS_TRIP, 3, 1, 1, 0, .ro⟩,
      ⟨.PWR_STATUS_PHASE_DEGRADED, 4, 1, 1, 0, .ro⟩]⟩,
  ⟨0x10008, [], [⟨.PWR_VIN_VIN_MV, 0, 16, 1, 0, .ro⟩, ⟨.PWR_VIN_IIN_10MA, 16, 16, 1, 0, .ro⟩,
      ⟨.PWR_VIN_PIN_W, 32, 16, 1, 0, .ro⟩, ⟨.PWR_VIN_AUX_MV, 48, 16, 1, 0, .ro⟩]⟩,
  ⟨0x10010, [], [⟨.PWR_DIP_MIN_MV, 0, 16, 1, 0, .ro⟩, ⟨.PWR_DIP_VALID, 63, 1, 1, 0, .w1c⟩]⟩,
  ⟨0x10018, [], [⟨.PWR_DIP_TIME, 0, 64, 1, 0, .ro⟩]⟩,
  ⟨0x10020, [], [⟨.PWR_DIP_EVENTS, 0, 48, 1, 0, .ro⟩]⟩,
  ⟨0x10028, [], [⟨.PWR_PHASE_FAILS, 0, 48, 1, 0, .ro⟩]⟩,
  ⟨0x10030, [], [⟨.PWR_THROTTLE_EVENTS, 0, 48, 1, 0, .ro⟩]⟩,
  ⟨0x10040, [(8, 10)], [⟨.PWR_RAIL_PHASES, 0, 5, 1, 0, .ro⟩, ⟨.PWR_RAIL_FAILED, 8, 13, 1, 0, .ro⟩,
      ⟨.PWR_RAIL_VOUT_MV, 32, 16, 1, 0, .ro⟩, ⟨.PWR_RAIL_GOOD, 63, 1, 1, 0, .ro⟩]⟩,
  ⟨0x10100, [(8, 4)], [⟨.PWR_DROOP, 0, 48, 1, 0, .ro⟩]⟩,
  ⟨0x10200, [(8, 37)], [⟨.PWR_TEMP_TEMP, 0, 16, 1, 0, .ro⟩, ⟨.PWR_TEMP_MAX, 16, 16, 1, 0, .rw⟩]⟩]

/-- The registers of the DBG block. -/
def dbgRegs : List RegSpec := [
  ⟨0x80000, [], [⟨.DBG_FREEZE_CTRL_SRC_EN, 0, 5, 1, 0, .rw⟩, ⟨.DBG_FREEZE_CTRL_HOST, 8, 1, 1, 0, .w1s⟩,
      ⟨.DBG_FREEZE_CTRL_RELEASE, 9, 1, 1, 0, .wo⟩, ⟨.DBG_FREEZE_CTRL_BCAST, 10, 1, 1, 0, .rw⟩,
      ⟨.DBG_FREEZE_CTRL_FROZEN, 16, 1, 1, 0, .ro⟩, ⟨.DBG_FREEZE_CTRL_SOURCE, 20, 4, 1, 0, .ro⟩]⟩,
  ⟨0x80008, [], [⟨.DBG_FREEZE_TICK, 0, 64, 1, 0, .rw⟩]⟩,
  ⟨0x80010, [], [⟨.DBG_FREEZE_TIME, 0, 64, 1, 0, .rw⟩]⟩,
  ⟨0x80020, [], [⟨.DBG_FREEZE_AT, 0, 64, 1, 0, .ro⟩]⟩,
  ⟨0x80018, [], [⟨.DBG_FREEZE_FAULT_CLASS, 0, 3, 1, 0, .rw⟩]⟩,
  ⟨0x80040, [], [⟨.DBG_TRACE_CFG_POST_PCT, 0, 7, 1, 0, .rw⟩, ⟨.DBG_TRACE_CFG_TRIG, 8, 7, 1, 0, .rw⟩,
      ⟨.DBG_TRACE_CFG_TRIG_CLASS, 16, 4, 1, 0, .rw⟩, ⟨.DBG_TRACE_CFG_SNAP_EVERY, 32, 16, 1, 0, .rw⟩,
      ⟨.DBG_TRACE_CFG_TYPE_EN, 48, 4, 1, 0, .rw⟩]⟩,
  ⟨0x80048, [], [⟨.DBG_TRACE_STATUS_WPTR, 0, 31, 1, 0, .ro⟩, ⟨.DBG_TRACE_STATUS_FULL, 32, 1, 1, 0, .ro⟩,
      ⟨.DBG_TRACE_STATUS_WRAPPED, 33, 1, 1, 0, .ro⟩, ⟨.DBG_TRACE_STATUS_TRIGGERED, 34, 1, 1, 0, .ro⟩,
      ⟨.DBG_TRACE_STATUS_STOPPED, 35, 1, 1, 0, .ro⟩]⟩,
  ⟨0x80050, [], [⟨.DBG_TRACE_TRIG_PTR, 0, 31, 1, 0, .ro⟩]⟩,
  ⟨0x80058, [], [⟨.DBG_TRACE_DROPPED, 0, 48, 1, 0, .ro⟩]⟩,
  ⟨0x80060, [], [⟨.DBG_TRACE_WRITTEN, 0, 48, 1, 0, .ro⟩]⟩,
  ⟨0x80080, [], [⟨.DBG_CUT_SETTLE_US, 0, 16, 1, 0, .rw⟩, ⟨.DBG_CUT_REACHED, 16, 1, 1, 0, .ro⟩,
      ⟨.DBG_CUT_SETTLED, 17, 1, 1, 0, .ro⟩]⟩,
  ⟨0x80088, [], [⟨.DBG_CUT_PEND_LSU, 0, 9, 1, 0, .ro⟩, ⟨.DBG_CUT_PEND_OPE, 9, 9, 1, 0, .ro⟩,
      ⟨.DBG_CUT_PEND_DRU, 18, 9, 1, 0, .ro⟩, ⟨.DBG_CUT_PEND_VEC, 27, 9, 1, 0, .ro⟩,
      ⟨.DBG_CUT_PEND_NIU, 36, 9, 1, 0, .ro⟩, ⟨.DBG_CUT_PEND_DMA, 45, 14, 1, 0, .ro⟩]⟩,
  ⟨0x800A0, [], [⟨.DBG_PROF_CTRL_RUN, 0, 1, 1, 0, .rw⟩, ⟨.DBG_PROF_CTRL_CLEAR, 1, 1, 1, 0, .wo⟩]⟩,
  ⟨0x800C0, [], [⟨.DBG_PEEK_SEL_CORE, 0, 6, 1, 0, .rw⟩, ⟨.DBG_PEEK_SEL_KIND, 6, 2, 1, 0, .rw⟩,
      ⟨.DBG_PEEK_SEL_INDEX, 8, 5, 1, 0, .rw⟩, ⟨.DBG_PEEK_SEL_CTX, 13, 3, 1, 0, .rw⟩,
      ⟨.DBG_PEEK_SEL_POS, 16, 8, 1, 0, .rw⟩, ⟨.DBG_PEEK_SEL_VALID, 63, 1, 1, 0, .ro⟩]⟩,
  ⟨0x80100, [(8, 64)], [⟨.DBG_PEEK_DATA, 0, 64, 1, 0, .ro⟩]⟩,
  ⟨0x81000, [(512, 5), (8, 32)], [⟨.DBG_HPROF_SEL_EVENT, 0, 8, 1, 0, .rw⟩]⟩,
  ⟨0x81100, [(512, 5), (8, 32)], [⟨.DBG_HPROF_CNT, 0, 48, 1, 0, .ro⟩]⟩]

/-- Every register of the module (Tables REG-2 to REG-13). -/
def allRegs : List RegSpec :=
  modRegs ++ tickRegs ++ dieRegs1 ++ dieRegs2 ++ dieRegs3 ++ memRegs ++ ingRegs ++ redRegs ++ fabRegs ++ hifRegs ++ secRegs ++ pwrRegs ++ dbgRegs

/-- The instance number at `rel` bytes from an array's first register, if a register of the array stands there. -/
def RegSpec.indexAt : List (Nat × Nat) → Nat → Option Nat
  | [], rel => if rel = 0 then some 0 else none
  | (s, n) :: ds, rel =>
    let k := rel / s
    if k < n then
      match RegSpec.indexAt ds (rel % s) with
      | some j => some (k * (ds.map (·.2)).foldl (· * ·) 1 + j)
      | none => none
    else none

/-- The register at a BAR0 offset, with its instance number; a hole has none (R515). -/
def findReg : List RegSpec → Nat → Option (RegSpec × Nat)
  | [], _ => none
  | r :: rs, off =>
    if off < r.base then findReg rs off
    else match RegSpec.indexAt r.dims (off - r.base) with
      | some i => some (r, i)
      | none => findReg rs off

/-- R513: the register that an aligned BAR0 offset selects. -/
def regAt (off : Nat) : Option (RegSpec × Nat) := findReg allRegs off

end Sys2Proof.Machine
end

