-- ==== Sys2Proof/Machine/Resets.lean ====
section
/-! DEFINITION. The value of every register field after cold reset (the Reset column, R14). A field whose column says
"—" (undefined), or names a fuse, has the value that log entries 2 and 3 name. -/
namespace Sys2Proof.Machine

/-- The phases built for each rail (Table PWR-2), which PWR_RAIL_n.PHASES reads. -/
def railPhases (n : Nat) : Nat := if n ≤ 3 then 13 else if n ≤ 7 then 9 else if n = 8 then 5 else 7

/-- The field's value after cold reset (R14); a field not named here resets to 0, by its table or by log entry 2
(undefined at reset) or 3 (fused). -/
def Fld.resetVal (f : Fld) (i : Nat) : Nat :=
  match f with
  | .MOD_ID_ZVI_MIN | .TICK_SCHED_F_TICKS | .ING_RING_CFG_SLOT_4K | .FAB_DISC_CTRL_NX | .FAB_DISC_CTRL_NY
  | .FAB_DISC_CTRL_NZ | .FAB_SLICE_EX | .FAB_SLICE_EY | .FAB_SLICE_EZ | .HIF_RING_CFG_SERIAL
  | .HIF_RING_CFG_COAL_COUNT | .HIF_RING_STATUS_PHASE | .HIF_RING_STATUS_QUIESCED | .SEC_POLICY_DEBUG_LOCK
  | .CORE_TEST_CTRL_ARRAY | .CORE_TEST_CTRL_MARCH | .MSIX_MASK => 0x1
  | .MOD_ID_ZVI_MAX | .MOD_STATUS_PMODE_EFF | .MOD_MODE_STRETCH_MAX | .ING_RING_CFG_SLOTS
  | .CFG_CTRL_REDIRECT_TICKS => 0x2
  | .MOD_ID_HITOS_MIN => 0x3
  | .MOD_ID_HITOS_MAX | .QCFG_DEPTH | .RED_BUCKET_SIZE | .FAB_ARB_W_NET | .FAB_ARB_W_RED | .FAB_ARB_W_MEM
  | .FAB_ARB_W_ING | .HIF_RING_CFG_LOG => 0x4
  | .RED_STREAM_CFG_ORDER | .FAB_LINK_PORT => 0x7
  | .MOD_MODE_CHECK_RATE | .ING_MC_SKEW_MAX => 0x8
  | .DBG_TRACE_CFG_TYPE_EN => 0xf
  | .MEM_SCRUB_PERIOD => 0x18
  | .FAB_LINK_SPARED => 0x1f
  | .MOD_ID_STACK_GIB => 0x20
  | .DBG_TRACE_CFG_POST_PCT | .DBG_CUT_SETTLE_US => 0x32
  | .MEM_STK_STATUS_SPARED_PC | .MEM_STK_STATUS_SPARE_NEXT => 0x3f
  | .ING_MC_LAG_TIMEOUT | .SEC_WDOG_TIMEOUT_MS | .FAB_LINK_TEST_DURATION_MS => 0x64
  | .RED_STREAM_CFG_BLOCK => 0x80
  | .MOD_ID_STEPPING => 0xb1
  | .ING_CFG_SHUF_WINDOW => 0x100
  | .MOD_ID_PART => 0x832
  | .TICK_WSNAP_BASE => 0xfff
  | .HIF_HDM_BASE => 0x1000
  | .TICK_PERIOD_LEAD_NS => 0x2710
  | .HIF_BAR4_WIN_BASE => 0x80000
  | .TICK_PERIOD_PERIOD_NS => 0x2625a0
  | .MEM_RSV_SIZE => if i = 0 then 4 else if i = 1 then 0x40 else if i = 2 then 4 else 0
  | .HIF_RING_CFG_VECTOR => i
  | .SEC_KEY_VALID | .SEC_KEY_USAGE => if i = 0 then 1 else 0
  | .PWR_RAIL_PHASES => railPhases i
  | _ => 0

/-- The number under which field `f` of instance `i` is held. -/
def Fld.key (f : Fld) (i : Nat) : Nat := f.ctorIdx + 1024 * i

/-- The field and instance of a number that `Fld.key` gives. -/
def Fld.ofKey (k : Nat) : Fld × Nat := (Fld.ofNat (k % 1024), k / 1024)

end Sys2Proof.Machine
end

