-- ==== Sys2Proof/Machine/State.lean ====
section
/-! DEFINITION. The state of the module as plain data: every register field, every memory, queue, engine, context, ring,
link and firmware record that the spec gives it, the queue of waiting commands, and the reset state. -/
namespace Sys2Proof.Machine

/-- Why a command ends the run. Every fault the spec describes is an effect on State (R494); nothing raises this one: safe. -/
inductive Fault where
  /-- Raised by nothing; the type is closed and has no other value (safe). -/
  | unreachable
  deriving DecidableEq, Repr

/-- Why a command has no meaning. -/
inductive Refusal where
  /-- Raised by `exec` alone, for a command whose meaning is not written yet (safe: nothing can be proved of it). -/
  | notModelled (mnemonic : String)
  /-- Raised by a ZVI instruction whose fields hold an encoding that the spec reserves: Zheber rejects every image that
  holds one and nothing of that image is run (R16, R175), so the machine never issues it (safe). -/
  | reservedEncoding (mnemonic : String)
  deriving DecidableEq, Repr

/-- One entry of a data queue or a channel end: 512 bytes and its poison mark (R147, R249). -/
structure Ent where
  bits : Slot
  poison : Bool
  deriving DecidableEq, Repr

/-- An entry held at a channel end: where it came from, 0 elsewhere, 1 + core * 16 + end for a sender on this module, and
1 + link for an arrival over the fabric (R346, R390); for a multicast member, whether it is the last of its micro-batch, and
whether a feed delivered it (R310, R311). -/
structure ChEnt where
  ent : Ent
  org : Nat
  link : Nat
  last : Bool
  fed : Bool
  deriving DecidableEq, Repr

/-- One entry of an address queue: a 64-bit address and its 2-bit mode tag (Table ZPM-1). -/
structure AddrEnt where
  addr : Word64
  tag : BitVec 2
  deriving DecidableEq, Repr

/-- A command in an engine queue: the instruction, its thread's number and its ICOUNT, and the tile that the sequencer
computed at issue (R200). -/
structure Cmd where
  ins : Instr
  thr : Nat
  icount : Nat
  tile : Nat
  deriving DecidableEq, Repr

/-- A command in one of the LSU's five slots (R194): its place among starts, lines or entries started, and entries read but not yet pushed, each
with the queue it goes to. -/
structure LsuRun where
  cmd : Cmd
  ord : Nat
  started : Nat
  flight : List (Nat × Ent)
  deriving DecidableEq, Repr

/-- The OPE's command in progress: updates issued, and the scale entry in force (R71). -/
structure OpeRun where
  cmd : Cmd
  issued : Nat
  scale : Slot
  deriving DecidableEq, Repr

/-- An update in the OPE's pipeline (Table OPE-5): its tile, position in its command, operand and scale entries. -/
structure OpePend where
  cmd : Cmd
  tile : Nat
  pos : Nat
  a : Slot
  b : Slot
  sc : Slot
  last : Bool
  deriving DecidableEq, Repr

/-- The epilogue entry in force for a drain (Table ACC-3). -/
structure EpiEnt where
  act : Nat
  ofmt : Nat
  scaleEn : Bool
  residEn : Bool
  rfmt : Nat
  zoutEn : Bool
  zfmt : Nat
  amaxEn : Bool
  round : Bool
  sat : Bool
  scale : Nat
  deriving DecidableEq, Repr

/-- One line that a drain has read: its accumulator lanes, and the residual and z entries popped with it (R105). -/
structure DrainLine where
  acc : Slot
  res : Slot
  z : Slot
  deriving DecidableEq, Repr

/-- A drain in progress: its place among the DRU's starts, lines read, and cycles of its epilogue's pushes already made (R89, R105). -/
structure DrainRun where
  cmd : Cmd
  ord : Nat
  grad : Bool
  f : DrainF
  epi : EpiEnt
  pos : Nat
  lines : List DrainLine
  pushed : Nat
  deriving DecidableEq, Repr

/-- A preload in progress: its place among the DRU's starts, lines written, and the bias entry popped (R102). -/
structure PreRun where
  cmd : Cmd
  ord : Nat
  line : Nat
  bias : Slot
  deriving DecidableEq, Repr

/-- The VEC's command in progress: entries popped, the optimizer's parameter entry, and what is held between entries (the
first half of an FP8 pack, or VAMAX's running magnitudes). -/
structure VecRun where
  cmd : Cmd
  done : Nat
  param : Option Slot
  hold : Slot
  deriving DecidableEq, Repr

/-- A VEC result in the pipeline (R128): its command and the queue end it goes to. -/
structure VecPend where
  cmd : Cmd
  dst : Nat
  ent : Ent
  deriving DecidableEq, Repr

/-- An NIU command in one of the four slots (R555): its place among starts, entries moved, the entry an NMCAST is offering, the ends that have taken
it, and results of RRED or RGATH received. -/
structure NiuRun where
  cmd : Cmd
  ord : Nat
  done : Nat
  cur : Option Ent
  taken : Nat
  results : Nat
  deriving DecidableEq, Repr

/-- A DMA command in one of the sixteen slots (R161): its place among starts, transfers done, and of the transfer in progress
the addresses popped, the bytes moved, those of a queue side that the engine holds, and its place among the transfers opened (R26,
R210). -/
structure DmaRun where
  cmd : Cmd
  ord : Nat
  done : Nat
  src : Option AddrEnt
  dst : Option AddrEnt
  moved : Nat
  held : List (Byte × Bool)
  seq : Nat
  deriving DecidableEq, Repr

/-- An SRUN in one of the eight generators (R156): its place among starts, addresses left, its tick index T (R154), and the
position of its next address in the descriptor's pass (R155). -/
structure GenRun where
  cmd : Cmd
  ord : Nat
  left : Nat
  t : Nat
  pos : Nat
  deriving DecidableEq, Repr

/-- A stream descriptor with its position, a count of addresses given in the current pass (R153, R155). `defined` is
false until an SDEF writes it in the current step (R551). -/
structure StreamDesc where
  d : SdefF
  pos : Nat
  defined : Bool
  deriving DecidableEq, Repr

/-- Core units as R250 numbers them, and the stream engine and DMA engine. -/
inductive UnitCls where
  | lsu | ope | dru | vec | niu | dma | str
  deriving DecidableEq, Repr

/-- One core (R22): queues Q0-Q23 and A0-A7, channel ends, accumulator rows (tile x 128 + row, 128 FP32 entries each), engine
queues and commands in progress, stream descriptors, the lines of each set of the instruction cache (most recently used first), whether the
VEC's oldest result waits (R128), and the draws made on each stream in this cycle (`drawsWait` after a write of a position, R142). -/
structure Core where
  q : NMap (List Ent)
  aq : NMap (List AddrEnt)
  ch : NMap (List ChEnt)
  acc : NMap Slot
  lsuQ : List Cmd
  opeQ : List Cmd
  druQ : List Cmd
  vecQ : List Cmd
  niuQ : List Cmd
  strQ : List Cmd
  dmaQ : List Cmd
  lsu : NMap (Option LsuRun)
  ope : Option OpeRun
  opePipe : List OpePend
  drains : List DrainRun
  pre : Option PreRun
  vec : Option VecRun
  vecPipe : List VecPend
  niu : NMap (Option NiuRun)
  dma : NMap (Option DmaRun)
  gens : NMap (Option GenRun)
  desc : NMap StreamDesc
  icache : NMap (List Nat)
  halted : List UnitCls
  stopped : Bool
  vecHeld : Bool
  vecUsed : Nat
  druUsed : Nat
  deriving DecidableEq, Repr

/-- An all-zero slot. -/
def slot0 : Slot := 0

/-- The SDEF fields of a descriptor that nothing has written. -/
def SdefF.zero : SdefF := ⟨0, 0, 0, 0, 0, 0, 0, 0, 0, 0, 0, 0, 0, 0, 0⟩

/-- A descriptor no SDEF has written (R551). -/
def StreamDesc.undef : StreamDesc := ⟨SdefF.zero, 0, false⟩

/-- A core after reset (Table BOOT-5): queues empty, tiles at +0, nothing in progress. -/
def Core.reset : Core :=
  ⟨[], [], [], [], [], [], [], [], [], [], [], [], none, [], [], none, none, [], [], [], [], [], [], [], false, false, 0, 0⟩

/-- What a context waits for (Table ZPM-4, R183, R213); `dmaq` room in a DMA command queue, `flagq` a pending flag operation's end. -/
inductive Wait where
  | none
  | flag (g : Bool) (flag thresh : Nat)
  | tick
  | join (ctx : Nat)
  | halt
  | dma (mask icount : Nat)
  | dmaq
  | flagq
  deriving DecidableEq, Repr

/-- A loop level (R181): the word of its body's first instruction, its count, and L. -/
structure LoopLvl where
  start : Nat
  count : Nat
  iter : Nat
  deriving DecidableEq, Repr

/-- A flag operation (R167): what it does to the count. -/
inductive FlagFn where
  | set (v : Nat)
  | add (v : Int)
  | clr
  deriving DecidableEq, Repr

/-- A deferred flag operation (R169): the flag, the AFTER set, and the ICOUNT of its instruction. -/
structure DefOp where
  g : Bool
  flag : Nat
  fn : FlagFn
  after : Nat
  icount : Nat
  deriving DecidableEq, Repr

/-- A context (R158): running or not, what it waits for and since when, the word it issues next, its ICOUNT (R177), its
loop levels (innermost first) and its pending flag operations (oldest first). -/
structure Ctx where
  running : Bool
  wait : Wait
  since : Nat
  pc : Nat
  icount : Nat
  loops : List LoopLvl
  defer : List DefOp
  deriving DecidableEq, Repr

/-- A context that does not run. -/
def Ctx.idle : Ctx := ⟨false, .none, 0, 0, 0, [], []⟩

/-- The last setter of a flag (R168): thread number and ICOUNT. -/
structure Setter where
  thr : Nat
  icount : Nat
  deriving DecidableEq, Repr

/-- The code a bank or a code region holds: the entry word and the ZVI words of its stream, of which the native form is a
translation (R218, R232), the producer that the image's MAP declares for each of the 32 queues: 0 none, 1 + its code (R150), and the
contexts that issue to each unit class, as a mask of 8 bits (R162). -/
structure Text where
  entry : Nat
  words : List Word64
  roles : List Nat
  issuers : List Nat
  deriving DecidableEq, Repr

/-- A fault log entry (Table FLT-2). -/
structure FaultEnt where
  time : Nat
  tick : Nat
  code : Nat
  cls : Nat
  sub : Nat
  src : Nat
  arg0 : Nat
  arg1 : Nat
  deriving DecidableEq, Repr

/-- The entry of a log slot that nothing has written. -/
def FaultEnt.zero : FaultEnt := ⟨0, 0, 0, 0, 0, 0, 0, 0⟩

/-- Raises of a NOTICE or CORRECTED code since its last entry, and when that entry was written (R495). -/
structure NoticeCnt where
  count : Nat
  last : Option Nat
  deriving DecidableEq, Repr

/-- A trace record (Tables DBG-4, DBG-5): payload bytes from byte 16. -/
structure TraceRec where
  time : Nat
  tick : Nat
  src : Nat
  s : Bool
  g : Bool
  ty : Nat
  payload : List Byte
  deriving DecidableEq, Repr

/-- A region's trace buffer (R480) and the clock marks since its previous record (R61). -/
structure TraceBuf where
  recs : List TraceRec
  drops : Nat
  firstDrop : Nat
  stretched : Bool
  gated : Bool
  deriving DecidableEq, Repr

def TraceBuf.empty : TraceBuf := ⟨[], 0, 0, false, false⟩

/-- An address fault's cause, by the codes of MEM_ADDR_FAULT.CAUSE (R271). -/
abbrev Cause := Nat

/-- The trace writer (R480, R481) and the profile snapshots: a buffer for each region, records left to write after a
CENTRE trigger, boundaries since the last snapshot, the region to serve next, and snapshot records not yet offered. -/
structure Dbg where
  bufs : NMap TraceBuf
  post : Option Nat
  snap : Nat
  nextBuf : Nat
  snapQ : List TraceRec
  deriving DecidableEq, Repr

/-- A descriptor taken from a ring (Tables HIF-2, HIF-3, HIF-6): the ring, its submission index, SQ_HEAD after its fetch,
its header fields and its body bytes; `busy` once its work has started and goes on; `seq` is its place among fetches; of a DMA
descriptor, whether its bytes have gone to a remote module, and poisoned ones among them. -/
structure Desc where
  ring : Nat
  idx : Nat
  sqHead : Nat
  ty : Nat
  fmt1 : Bool
  noint : Bool
  barrier : Bool
  tag : Nat
  result : Nat
  body : List Byte
  bad : Bool
  busy : Bool
  seq : Nat
  sent : Bool
  poisoned : Bool
  deriving DecidableEq, Repr

/-- Completions of a ring since its last signal (R406): how many, and TIME of the first. -/
structure Coal where
  count : Nat
  since : Nat
  deriving DecidableEq, Repr

/-- A vector signalled to the host: its MSI-X address and data (Table HIF-1). -/
structure MsiMsg where
  vector : Nat
  addr : Nat
  data : Nat
  deriving DecidableEq, Repr

/-- A requester's held lower half (R17) or captured upper half (R518): the register's offset, the value, and TIME. -/
structure HalfReg where
  off : Nat
  val : Nat
  time : Nat
  deriving DecidableEq, Repr

/-- The host interface: doorbell indices (BAR2), descriptors in progress in fetch order, coalescing, messages sent, and
each requester's register halves; 1 + the ring served last (R403), and the data that the last read returned, poisoned or not. -/
structure Hif where
  sqTail : NMap Nat
  cqHead : NMap Nat
  descs : List Desc
  fetches : Nat
  coal : NMap Coal
  sent : List MsiMsg
  halfW : NMap (Option HalfReg)
  halfR : NMap (Option HalfReg)
  last : Nat
  resp : List Byte
  respBad : Bool
  deriving DecidableEq, Repr

/-- A step that is armed or running (R412, R488): its descriptor, the tick at which it begins, its cut, and what the module
keeps when it begins: the schedule and the stretch count then. -/
structure StepReq where
  desc : Desc
  stepAt : Nat
  replay : Bool
  cutKind : Nat
  cutDie : Nat
  cutSeq : Nat
  cutCtx : Nat
  cutAt : Nat
  f : Nat
  b : Nat
  u : Nat
  stretch0 : Nat
  deriving DecidableEq, Repr

/-- A cut that has been reached (R489): the cut group's cores, when settling ends, and its thread. -/
structure CutRun where
  cores : List Nat
  due : Nat
  thr : Nat
  deriving DecidableEq, Repr

/-- A Hitos frame (Table FAB-1) with its payload and the poison mark it carries (R249). -/
structure Frame where
  ty : Nat
  cls : Nat
  detour : Bool
  gen : Nat
  seq : Nat
  dMod : Nat
  dCore : Nat
  dEnd : Nat
  sMod : Nat
  sCore : Nat
  flow : Nat
  credit : Nat
  payload : List Byte
  poison : Bool
  deriving DecidableEq, Repr

/-- A frame in a link's retry buffer (R345) with the number of times it was resent. -/
structure Unacked where
  frame : Frame
  resent : Nat
  deriving DecidableEq, Repr

/-- A coordinate offer of discovery (R354) with the installed extents that it carries. -/
structure Offer where
  x : Nat
  y : Nat
  z : Nat
  hops : Nat
  link : Nat
  nx : Nat
  ny : Nat
  nz : Nat
  deriving DecidableEq, Repr

/-- A data frame that waits for a link: the direction it must take where a detour fixes one (R365), 1 + the link whose credit its
leaving returns, and for an entry of a NET_TX end of this module 1 + that end. -/
structure Waiting where
  frame : Frame
  dir : Option Nat
  link : Nat
  org : Nat
  deriving DecidableEq, Repr

/-- A remote module's write that is arriving (R269): the module and core that send it, its first address and bytes in all, whether its
pages are stored RAW (R260), and the bytes that have come. -/
structure MemIn where
  sMod : Nat
  sCore : Nat
  base : Nat
  total : Nat
  raw : Bool
  bytes : List (Byte × Bool)
  deriving DecidableEq, Repr

/-- The fabric: per link the next sequence number to send and to receive, the retry buffer, the credits of each class
(key link * 8 + class), frames sent (link, frame) in order, flow numbers out (key core * 2^21 + module * 8 + class) and in, the
round-robin place of each port, discovery's offers and hold timer, the neighbours' tables, the
nonces exchanged, the links whose certificate holds and those that have trained since the module's reset; and, for R390, the
NET entries of each link not yet credited, and per NET_TX end the entries not settled and those its new binding waits for;
frames that arrived before an earlier one of their flow (R348, with their link), frames formed that wait for a link, remote modules'
writes that are arriving, and writes of LOAD_IMAGE's DATA records that a remote module has still to acknowledge (the descriptor's place among fetches, the module's
id, the address). -/
structure Fab where
  txSeq : NMap Nat
  rxSeq : NMap Nat
  unacked : NMap (List Unacked)
  credits : NMap Nat
  owed : NMap Nat
  out : List (Nat × Frame)
  flowTx : NMap Nat
  flowRx : NMap Nat
  rr : NMap Nat
  offers : List Offer
  hold : Option Nat
  check : Option Nat
  hops : Nat
  topo : NMap (List Nat)
  nonce : NMap Nat
  echo : NMap Nat
  certOk : NMap Nat
  firstTrain : NMap Nat
  netOut : NMap (List Nat)
  unsettled : NMap Nat
  waitSettle : NMap Nat
  early : List (Nat × Frame)
  wait : List Waiting
  memIn : List MemIn
  memOut : List (Nat × Nat × Nat)
  identAt : NMap Nat
  deriving DecidableEq, Repr

/-- A block of a reduction channel (R318): stream, core, number; fed by RED_TX ends (0), RRED (1) or RGATH (2); its OP, the
entries it needs, how many it has, those of RRED and RGATH, and the entries (for RGATH, of all members in rank order) that are poisoned; the
256-byte units of the core's buffer, or of the bucket, that hold those of RED_TX ends, as runs (first, number); the tick of its first entry;
whether it is released, in the bucket, started, and has its whole result on this module; CHECK_RATE of the segment in hand; its axes with extent above 1 in the stream's order, its level among
them, whether it gathers, the next step h (R327); its working values, and each member's values for RGATH (by rank). -/
structure RedBlk where
  n : Nat
  g : Nat
  k : Nat
  kind : Nat
  op : Nat
  need : Nat
  cnt : Nat
  ents : List Slot
  poison : NMap Bool
  place : List (Nat × Nat)
  tick : Nat
  released : Bool
  bucketed : Bool
  started : Bool
  done : Bool
  checked : Nat
  axes : List Nat
  level : Nat
  gather : Bool
  h : Nat
  vals : List Nat
  members : NMap (List Nat)
  deriving DecidableEq, Repr

/-- A segment that arrives from the previous ring position (R327): its channel, block, level, phase and step, its CHECK_RATE, the elements it
will have, those that have come, whether one is poisoned, and 1 + the link of each of its frames. -/
structure RedSeg where
  n : Nat
  g : Nat
  k : Nat
  level : Nat
  gather : Bool
  h : Nat
  rate : Nat
  total : Nat
  vals : List Nat
  poison : Bool
  links : List Nat
  deriving DecidableEq, Repr

/-- Gradient reduction: the blocks held or in flight, oldest first, each channel's block count (key n * 64 + g), the segments that have
arrived and wait for their hop, and TIME until which the reduction checker is busy (R335). -/
structure Red where
  blks : List RedBlk
  counts : NMap Nat
  arrived : List RedSeg
  checker : Nat
  deriving DecidableEq, Repr

/-- A sampled frame after shaping (R293): its extended PTS, its channel values in VFMT in the order row, column, channel, and its concealed
fraction (R287). -/
structure FrameF where
  time : Nat
  vals : List Nat
  conc : Nat
  deriving DecidableEq, Repr

/-- A caption cue (R292): extended PTS of its start and end, and its UTF-8 text. -/
structure CueF where
  start : Nat
  stop : Nat
  text : List Byte
  deriving DecidableEq, Repr

/-- What a decoder engine makes of the bytes of an item (R284-R293): whether it has samples (a video engine) or a track (an audio engine), its
codec; the extended PTS of the content's start, and where it ends: for video, the time of the frame that would follow the last sampled one; the
sampled frames; the resampled channels and the extended PTS of their first sample; whether there is a caption source, and the cues; whether the
content is interlaced, the picture size; and what it counts: pictures, concealed blocks, luma positions / 1,024. -/
structure Decoded where
  ok : Bool
  codec : Nat
  start : Nat
  stop : Nat
  frames : List FrameF
  pcm : List (List Nat)
  a0 : Nat
  captions : Bool
  cues : List CueF
  interlaced : Bool
  srcW : Nat
  srcH : Nat
  pictures : Nat
  concealed : Nat
  luma : Nat
  deriving DecidableEq, Repr

/-- One sample: a segment of an item (R295) with what its record carries (Table ING-7). -/
structure Sample where
  srcId : Nat
  item : Nat
  pts : Nat
  dur : Nat
  seg : Nat
  cont : Nat
  codecs : Nat
  tokens : List (List Byte)
  audio : List (List Byte)
  cues : List CueF
  concMax : Nat
  concMean : Nat
  flags : Nat
  srcW : Nat
  srcH : Nat
  deriving DecidableEq, Repr

/-- An item as the shuffle delivers it: the SEED and EPOCH of its job, its local order, whether it has samples (0), is empty (1) or failed (2),
and they. -/
structure ShufItem where
  seed : Nat
  epoch : Nat
  k : Nat
  kind : Nat
  samples : List Sample
  deriving DecidableEq, Repr

/-- One item of the current ingest job: its source entry (Table ING-2), its position and local order (R296), the module it goes to; the bytes
fetched so far, the retries of its next read and TIME at which that was asked for (R281); whether its fetch failed, its engines (1 + e while they
decode), what they made of it, and whether it has been sent. -/
structure IngItem where
  addr : Nat
  len : Nat
  item : Nat
  srcId : Nat
  rkey : Nat
  inMs : Nat
  durMs : Nat
  target : Nat
  container : Nat
  es : Nat
  p : Nat
  k : Nat
  dest : Nat
  bytes : List Byte
  retries : Nat
  asked : Option Nat
  failed : Bool
  vEng : Nat
  aEng : Nat
  vRes : Option Decoded
  aRes : Option Decoded
  sent : Bool
  deriving DecidableEq, Repr

/-- A micro-batch in delivery: its bytes, its number in the ring once written, and for each of its groups the group, the
place and size of its section, and the entries sent (R305, R308). -/
structure McPart where
  group : Nat
  off : Nat
  size : Nat
  sent : Nat
  deriving DecidableEq, Repr

structure MbOut where
  bytes : List Byte
  ring : Nat
  written : Option Nat
  parts : List McPart
  deriving DecidableEq, Repr

/-- A micro-batch that a group has begun to send (R303): the job's ring, the entries sent, and START_K, START_SEG and SEQ of its header. -/
structure McHead where
  ring : Nat
  sent : Nat
  k : Nat
  seg : Nat
  seq : Nat
  deriving DecidableEq, Repr

/-- A packet that an ingest port was given to send (R280): an RDMA READ request on a queue pair at its rate, or (`cnp`) a congestion
notification of that queue pair. -/
structure RoceMsg where
  cnp : Bool
  qp : Nat
  addr : Nat
  rkey : Nat
  len : Nat
  rate : Nat
  deriving DecidableEq, Repr

/-- A submitted ingest job: its descriptor and the local address of its job descriptor. -/
structure IngJob where
  desc : Desc
  addr : Nat
  deriving DecidableEq, Repr

/-- The current job: its 256 bytes, its timestamp list, this module's rank and the size of its slice when it started (R274), its items, those that
have arrived for this module (by local order) and samples of items that arrived again too late for that (R277), the local orders it delivers, what its
cursor table skips, the next micro-batch number, the micro-batch in delivery, and what its status will say (R278). -/
structure IngCur where
  job : IngJob
  raw : List Byte
  ts : List Nat
  rank : Nat
  size : Nat
  items : List IngItem
  arrived : NMap (Option ShufItem)
  late : List Sample
  orders : List Nat
  k : Nat
  seg : Nat
  seq : Nat
  done : Nat
  mb : Option MbOut
  skipped : Bool
  failedItems : Nat
  srcErr : Bool
  fetchErr : Bool
  abort : Bool
  deriving DecidableEq, Repr

/-- Ingest: jobs waiting, the current one; for each member end since when it has been full while its group is held (R310), and
the place of its feed in a micro-batch; 1 + the section that a group was sent of a ring's micro-batch (key (ring * 2^48 + number) * 64 + group; 0 video,
1 audio, 2 captions), each group's last micro-batches, newest first, and the groups that a job left in the middle of one (R312); the rate of each queue
pair in 1/65536 (R280), the ports that are paused, and what they were given to send; items that arrived before their job, and the parts of items that are
arriving, by sender; SEED and EPOCH of the job that began last (R483). -/
structure Ing where
  jobs : List IngJob
  cur : Option IngCur
  full : NMap (Option Nat)
  feed : NMap Nat
  sect : NMap Nat
  heads : NMap (List McHead)
  mid : List Nat
  rate : NMap Nat
  paused : NMap Bool
  roce : List RoceMsg
  early : List ShufItem
  coming : NMap (List Byte)
  seed : Nat
  epoch : Nat
  deriving DecidableEq, Repr

/-- A swap request that waits (R376, R377): its AT_TICK, TIME of the request, and the SWAP descriptor that made it, if any. -/
structure SwapReq where
  at_ : Nat
  time : Nat
  desc : Option Desc
  deriving DecidableEq, Repr

/-- The first sample of a wait-cycle check (R51): when the second is due, TIME of the first, whether it found a wait cycle, and
each context's ICOUNT then. -/
structure WaitSample where
  due : Nat
  first : Nat
  cycle : Bool
  icounts : List (Nat × Nat)
  deriving DecidableEq, Repr

/-- The tick generator and module time: when the next deadline of the tick is due, the check in progress, the notices held for
later ticks (R47), the stretch counts of ended ticks that were not 0, whether the generator stopped at the end of the tick (R48), the swap
that waits, core-clock quarters of a cycle left over, how long TIME is still held and by how much it is still to be slewed, with the time in
which less than 1 ns of that was allowed (R58), TIME of the last exchange, and whether the first lock has been made. -/
structure TickGen where
  deadline : Option Nat
  sample : Option WaitSample
  held : NMap Nat
  past : NMap Nat
  ended : Bool
  swap : Option SwapReq
  quarters : Nat
  holdNs : Nat
  slew : Int
  slewFrac : Nat
  lastSync : Nat
  locked : Bool
  deriving DecidableEq, Repr

def TickGen.reset : TickGen := ⟨none, none, [], [], false, none, 0, 0, 0, 0, 0, false⟩

/-- Flash (R251, R427-R431, R434, SEC_POLICY): Cordwood images A and B, the Kindling patch of the last cold reset, the copy that an
update wrote and the one activated for the next cold reset, the policy record (REQUIRE_SIG, BAR4, DEBUG_LOCK, PMODE_FLOOR, TIMEOUT_MS),
the key slots' usages and keys (key n, 1-7), the last RSEQ of each TYPE, the sparing record (stack, pseudo-channel), the bad spares of
each core (core * 2 + 1 for columns; R506), and the configuration record. -/
structure Flash where
  cordA : Option FlashImg
  cordB : Option FlashImg
  patch : Option FlashImg
  patchCopy : Option FlashImg
  patchNext : Option FlashImg
  policy : Option (List Nat)
  usages : NMap Nat
  keys : NMap (List Byte)
  rseq : NMap Nat
  sparing : NMap Nat
  badSpares : NMap Nat
  record : List Byte
  deriving DecidableEq, Repr

/-- The flash of a new module: one signed Cordwood image, of version 1, in copy A (log entry 40). -/
def Flash.fresh : Flash := ⟨some ⟨1, 0, true, []⟩, none, none, none, none, none, [], [], [], [], [], []⟩

/-- The resident Cordwood image with the digest that Kindling verified (R430, R436). -/
structure Resident where
  img : FlashImg
  digest : Nat
  deriving DecidableEq, Repr

/-- A module reset in progress (R534, R535): TIME at which it began and may end, and whether PERST_N holds it. -/
structure ModReset where
  start : Nat
  due : Nat
  perst : Bool
  deriving DecidableEq, Repr

/-- A mailbox request that Kindling has taken (R426): the TYPE of the command and its copy of the record. -/
structure MboxReq where
  ty : Nat
  bytes : List Byte
  deriving DecidableEq, Repr

/-- The always-on domain: AUX12 in limits, what Kindling selected (0 A, 1 B), the resident Cordwood and whether it restarts, a module
reset in progress, TIME from which bring-up's stages count, cores that passed their test, the watchdog's due TIME and its expiries,
a data-path reset's end, a thermal trip that blocks the regulators and
its TIME (R466), a power fail that does (R456), whether ALERT_N holds for a reset of either (R537), when a dip ends, dies in droop,
and the mailbox request taken. -/
structure Aux where
  inLimits : Bool
  selected : Option Nat
  resident : Option Resident
  restarting : Bool
  reset : Option ModReset
  base : Nat
  bistOk : Nat
  wdog : Option Nat
  expiries : List Nat
  dpEnd : Option Nat
  tripped : Bool
  tripAt : Nat
  failWait : Bool
  powerTaken : Bool
  dipEnd : Option Nat
  droop : Nat
  mbox : Option MboxReq
  deriving DecidableEq, Repr

/-- The Aux record before AUX power comes. -/
def Aux.off : Aux :=
  { inLimits := false, selected := none, resident := none, restarting := false, reset := none, base := 0, bistOk := 0, wdog := none,
    expiries := [], dpEnd := none, tripped := false, tripAt := 0, failWait := false, powerTaken := false,
    dipEnd := none, droop := 0, mbox := none }

/-- The sideband pins (Table PHY-3): PERST_N and PWR_EN as they stand, CXL_SEL and MOD_ADDR as sampled (an assertion of FREEZE_IN is a command), the
latched THERM_TRIP_N and CLKREQ_N asserted (R531); MOD_READY, FREEZE_OUT, PWR_GOOD and ALERT_N follow registers (`Mach.pinOut`). `scan` holds the
boundary-scan instruction that has taken the pins: 0 none, 1 EXTEST, 2 CLAMP, 3 HIGHZ, and `cells` the boundary-scan register, bit n - 1 of which
is the cell of position Gn (R540). -/
structure Pins where
  perstLow : Bool
  pwrEn : Bool
  cxlSel : Bool
  sampledAddr : Nat
  thermTrip : Bool
  clkreq : Bool
  scan : Nat
  cells : Nat
  uartOut : List Byte
  deriving DecidableEq, Repr

/-- Pins of a module on a baseboard without power: PERST_N pulled low. -/
def Pins.idle : Pins := ⟨true, false, false, 0, false, false, 0, 0, []⟩

/-- A message that the module sent over SPDM or MCTP: the row that asked for it, and its payload. -/
structure MgmtMsg where
  kind : Nat
  payload : List Byte
  deriving DecidableEq, Repr

/-- Management traffic: SPDM's negotiated state (0 nothing, 1 version, 2 capabilities, 3 algorithms), responses sent, MCTP messages handed to Cordwood. -/
structure Mgmt where
  stage : Nat
  sent : List MgmtMsg
  relayed : List MgmtMsg
  deriving DecidableEq, Repr

/-- A DATA record (R224): where its bytes go, and they. -/
structure DataRec where
  dest : Nat
  bytes : List Byte
  deriving DecidableEq, Repr

/-- The loaded image: its IMAGE_ID, and base and size of each region of use 0 that a checkpoint copies (Table DBG-7). -/
structure Loaded where
  id : Nat
  regions : List (Nat × Nat)
  deriving DecidableEq, Repr

/-- What a LOAD_IMAGE defers to the first idle tick (R238): its descriptor and image, whether it hit the cache, DATA records, EPI
entries (core * 32 + entry) and flag counts (by register key). -/
structure Deferred where
  desc : Desc
  image : Loaded
  hit : Bool
  data : List DataRec
  epi : List (Nat × List Byte)
  flags : List (Nat × Nat)
  deriving DecidableEq, Repr

/-- The code that a load places: in bank `at_` (sequencer * 2 + bank), or in the code region of a core at a base in 256 bytes. -/
structure LoadText where
  bank : Bool
  at_ : Nat
  core : Nat
  text : Text
  deriving DecidableEq, Repr

/-- A LOAD_IMAGE whose image has passed its checks and is being written (R232): its code, shadow settings (by register key), and what
may be deferred. -/
structure Loading where
  texts : List LoadText
  shadow : List (Nat × Nat)
  key : Nat
  size : Nat
  rest : Deferred
  deriving DecidableEq, Repr

/-- The fuses that can rise after manufacture: field e-fuse slots (core * 2 + slot: 256 + 128 for a column + index) and the rollback
counters. -/
structure Fuses where
  slots : NMap Nat
  kindling : Nat
  cordwood : Nat
  deriving DecidableEq, Repr

/-- When something under way ends, and the object it is about. -/
structure Timer where
  due : Nat
  obj : Nat
  deriving DecidableEq, Repr

/-- Errors that stand in the module (R246, R247, R500): of memory, by granule, 1 correctable and 2 not; and of control state, found
when the module next idles. -/
structure Hurt where
  cells : NMap Nat
  found : List Upset
  deriving DecidableEq, Repr

def Hurt.reset : Hurt := ⟨[], []⟩

/-- Everything of the module but its fuses and the queue of waiting commands. `timers` holds TIME at which what is under way
ends: key g the test of core g, 64 the engine test, 65 the link test. `turn` is the context that each sequencer and control core serves
first (R159), and `jam` 1 + the context that a full engine queue stops there (R160), both by thread number / 8. `skipped` is what manufacture
replaced: the physical rows (key 2 * core) and columns (2 * core + 1) that the array skips (R90, R91); `newSlots` are the field slots (2 *
core + slot) blown since the last module reset, which are not in effect (R92). `acking` holds the loads whose last writes remote modules
have still to acknowledge. -/
structure Mach where
  regs : NMap Nat
  shadow : NMap Nat
  mem : List Host.Cell
  poison : NMap Bool
  hurt : Hurt
  host : List Host.Cell
  hostPoison : NMap Bool
  cores : NMap Core
  ctxs : NMap Ctx
  turn : NMap Nat
  jam : NMap Nat
  setters : NMap (Option Setter)
  banks : NMap (Option Text)
  codes : NMap (Option Text)
  skipped : NMap (List Nat)
  newSlots : List Nat
  free : Nat
  dbg : Dbg
  hif : Hif
  armed : Option StepReq
  step : Option StepReq
  cut : Option CutRun
  cutHeld : Bool
  fab : Fab
  red : Red
  ing : Ing
  liveGens : List (Nat × Nat)
  faultLog : NMap FaultEnt
  notices : NMap NoticeCnt
  tick : TickGen
  flash : Flash
  aux : Aux
  pins : Pins
  mgmt : Mgmt
  deferred : List Deferred
  loads : List Loading
  acking : List Deferred
  cache : List (Nat × Nat)
  image : Option Loaded
  timers : NMap (Option Timer)
  deriving DecidableEq, Repr

def Dbg.reset : Dbg := ⟨[], none, 0, 0, []⟩
def Hif.reset : Hif := ⟨[], [], [], 0, [], [], [], [], 0, [], false⟩
def Fab.reset : Fab := ⟨[], [], [], [], [], [], [], [], [], [], none, none, 0, [], [], [], [], [], [], [], [], [], [], [], [], []⟩
def Red.reset : Red := ⟨[], [], [], 0⟩
def Ing.reset : Ing := ⟨[], none, [], [], [], [], [], [], [], [], [], [], 0, 0⟩
def Mgmt.reset : Mgmt := ⟨0, [], []⟩

/-- The module right after cold reset, AUX12 not yet within its limits (R445, Table BOOT-5): every table empty, so that each
register reads its reset value. -/
def Mach.reset : Mach :=
  { regs := [], shadow := [], mem := [], poison := [], hurt := Hurt.reset, host := [], hostPoison := [], cores := [], ctxs := [], turn := [], jam := [], setters := [],
    banks := [], codes := [], skipped := [], newSlots := [], free := 0, dbg := Dbg.reset, hif := Hif.reset, armed := none, step := none, cut := none,
    cutHeld := false, fab := Fab.reset, red := Red.reset, ing := Ing.reset, liveGens := [], faultLog := [], notices := [],
    tick := TickGen.reset, flash := Flash.fresh, aux := Aux.off, pins := Pins.idle, mgmt := Mgmt.reset,
    deferred := [], loads := [], acking := [], cache := [], image := none, timers := [] }

/-- The state of the machine: the commands that wait, first in first out, the fuses, and everything else of the module. -/
structure State where
  pending : List Instr
  fuses : Fuses
  m : Mach
  deriving DecidableEq, Repr

/-- The machine after cold reset, with no command waiting and no field fuse blown. -/
def State.reset : State := ⟨[], ⟨[], 0, 0⟩, Mach.reset⟩

/-- The state that an effect on the module leaves; the fuses and the queue stand. -/
def State.lift (s : State) (f : Mach → Mach) : State := { s with m := f s.m }

end Sys2Proof.Machine
end

