-- ==== Sys2Proof/Machine/Ops.lean ====
section
/-! DEFINITION. The named operations over registers, cores, contexts and queues; every meaning reads and writes them
through these. -/
namespace Sys2Proof.Machine

/-- What an unlisted register number reads as: the field's value after cold reset. -/
def regDefault (k : Nat) : Nat := (Fld.ofKey k).1.resetVal (Fld.ofKey k).2

/-- The value of a register field of an instance. -/
def Mach.rd (m : Mach) (f : Fld) (i : Nat) : Nat := m.regs.get regDefault (f.key i)

/-- Writes a register field; a value wraps to the field's width (R468 for counters). -/
def Mach.wr (m : Mach) (f : Fld) (i v : Nat) : Mach :=
  { m with regs := m.regs.set regDefault (f.key i) (v % 2 ^ f.width) }

/-- A one-bit field as a truth value. -/
def Mach.on (m : Mach) (f : Fld) (i : Nat) : Bool := m.rd f i == 1

/-- The shadow copy of a shadowed field (R372). -/
def Mach.rdS (m : Mach) (f : Fld) (i : Nat) : Nat := m.shadow.get regDefault (f.key i)

/-- Writes the shadow copy of a shadowed field. -/
def Mach.wrS (m : Mach) (f : Fld) (i v : Nat) : Mach :=
  { m with shadow := m.shadow.set regDefault (f.key i) (v % 2 ^ f.width) }

/-- Writes several fields of one instance. -/
def Mach.wrs (m : Mach) (i : Nat) (fs : List (Fld × Nat)) : Mach := fs.foldl (fun m fv => m.wr fv.1 i fv.2) m

/-- Adds to a counter, which stands still while a global freeze holds (R474) and wraps at its width (R468). -/
def Mach.bump (m : Mach) (f : Fld) (i n : Nat) : Mach :=
  if m.on .DBG_FREEZE_CTRL_FROZEN 0 then m else m.wr f i (m.rd f i + n)

/-- TIME of the hub in ns (R56). -/
def Mach.time (m : Mach) : Nat := m.rd .TICK_TIME 0

/-- The module runs its main domain: the regulators are good and no module reset is in progress. -/
def Mach.mainUp (m : Mach) : Bool := m.on .MOD_STATUS_PWR_GOOD 0 && m.aux.reset.isNone

def Mach.ready (m : Mach) : Bool := m.on .MOD_STATUS_READY 0
def Mach.frozen (m : Mach) : Bool := m.on .DBG_FREEZE_CTRL_FROZEN 0
def Mach.stepRunning (m : Mach) : Bool := m.on .MOD_STATUS_STEP_RUNNING 0
def Mach.aborted (m : Mach) : Bool := m.on .MOD_FLT_STATUS_ABORTED 0

/-- DET = EXACT (R29). -/
def Mach.exact (m : Mach) : Bool := m.rd .MOD_MODE_DET 0 == 0

/-- The core of global number `g` (R22). -/
def Mach.core (m : Mach) (g : Nat) : Core := m.cores.get (fun _ => Core.reset) g

def Mach.setCore (m : Mach) (g : Nat) (c : Core) : Mach := { m with cores := m.cores.set (fun _ => Core.reset) g c }

def Mach.onCore (m : Mach) (g : Nat) (f : Core → Core) : Mach := m.setCore g (f (m.core g))

/-- The number of a thread (R44): its context in the sequencers or in the cores of its die. -/
def threadNum (t : ThreadId) : Nat := ((t.die.toNat * 2 + t.form.toNat) * 16 + t.unit.toNat) * 8 + t.ctx.toNat

/-- The same for a context named by numbers. -/
def thrNum (die form unit ctx : Nat) : Nat := ((die * 2 + form) * 16 + unit) * 8 + ctx

def thrDie (k : Nat) : Nat := k / 256
def thrForm (k : Nat) : Nat := k / 128 % 2
def thrUnit (k : Nat) : Nat := k / 8 % 16
def thrCtx (k : Nat) : Nat := k % 8

def Mach.ctx (m : Mach) (k : Nat) : Ctx := m.ctxs.get (fun _ => Ctx.idle) k

def Mach.setCtx (m : Mach) (k : Nat) (c : Ctx) : Mach := { m with ctxs := m.ctxs.set (fun _ => Ctx.idle) k c }

def Mach.onCtx (m : Mach) (k : Nat) (f : Ctx → Ctx) : Mach := m.setCtx k (f (m.ctx k))

/-- The core store, tiles and queues of core `g` are on die `g / 16`, local core `g % 16` (R22). -/
def coreDie (g : Nat) : Nat := g / 16

/-- The sequencer of die `d` whose stage group holds local core `c` in the active set, if any (R163, R372). -/
def Mach.seqOf (m : Mach) (g : Nat) : Option Nat :=
  (List.range 8).find? fun s =>
    let i := coreDie g * 8 + s
    let first := m.rd .SEQ_MEMBER_FIRST i
    decide (first ≤ g % 16 ∧ g % 16 < first + m.rd .SEQ_MEMBER_COUNT i)

/-- The member cores of the stage group of sequencer `s` of die `d`. -/
def Mach.groupCores (m : Mach) (d s : Nat) : List Nat :=
  (List.range (m.rd .SEQ_MEMBER_COUNT (d * 8 + s))).map (d * 16 + m.rd .SEQ_MEMBER_FIRST (d * 8 + s) + ·)

/-- The cores on which a thread's commands run: every member in broadcast form, its own core in per-core form (R165). -/
def Mach.members (m : Mach) (k : Nat) : List Nat :=
  if thrForm k = 0 then m.groupCores (thrDie k) (thrUnit k) else [thrDie k * 16 + thrUnit k]

/-- The sequencer of a thread: its own, or the one of its core's group (R171). -/
def Mach.thrSeq (m : Mach) (k : Nat) : Option Nat :=
  if thrForm k = 0 then some (thrUnit k) else m.seqOf (thrDie k * 16 + thrUnit k)

/-- Position of a core in its stage group, 0 in per-core form (R154). -/
def Mach.position (m : Mach) (k g : Nat) : Nat :=
  if thrForm k = 0 then g - (thrDie k * 16 + m.rd .SEQ_MEMBER_FIRST (thrDie k * 8 + thrUnit k)) else 0

/-- R501: a FATAL_MODULE has stopped the data path; the failure of Cordwood lets a running step complete (R438). -/
def Mach.pathStopped (m : Mach) : Bool :=
  m.on .MOD_FLT_STATUS_FATAL_MODULE 0 && !(m.on .SEC_STATUS_CORDWOOD_FAILED 0 && m.stepRunning)

/-- A core's clock runs: main domain up, no freeze, not fenced (R448), no abort (R497, R501). A core stopped by R235 completes
the commands it holds, so its engines go on. -/
def Mach.coreRuns (m : Mach) (g : Nat) : Bool :=
  m.mainUp && !m.frozen && (!m.aborted || (m.core g).stopped) && !m.pathStopped && bitsAt (m.rd .MOD_FENCE 0) g 1 == 0

/-- Core `g` runs its test (R505), at the core's clock unless a freeze holds. -/
def Mach.testing (m : Mach) (g : Nat) : Bool := (NMap.get (fun _ => none) m.timers g).isSome && m.mainUp && !m.frozen

/-- What requester `req` holds of a register: the lower half that it has written, and the register it has captured (R17, R518). -/
def Mach.heldHalf (m : Mach) (req : Nat) : Option HalfReg := m.hif.halfW.get (fun _ => none) req
def Mach.captured (m : Mach) (req : Nat) : Option HalfReg := m.hif.halfR.get (fun _ => none) req
def Mach.setHalves (m : Mach) (req : Nat) (w r : Option HalfReg) : Mach :=
  { m with hif := { m.hif with halfW := NMap.set (fun _ => none) m.hif.halfW req w, halfR := NMap.set (fun _ => none) m.hif.halfR req r } }

/-- R17, R518: an access of another kind by requester `req` discards what it holds (the host makes those of rows that name no
requester, Cordwood that of SPARE_NEXT_WRITE and SEC_WDOG_KICK; log entry 64). -/
def Mach.otherAccess (m : Mach) (req : Nat) : Mach := m.setHalves req none none

/-- A row that is the host's write of a register outside the blocks that are served before READY (R442). -/
def Mach.hostRow (f : Mach → Mach) (m : Mach) : Mach :=
  let m := m.otherAccess 0
  if m.mainUp && m.ready then f m else m

/-- A free value's number: the step reads the counter and advances it, so that no two uses share a value. -/
def Mach.fresh (m : Mach) : Nat × Mach := (m.free, { m with free := m.free + 1 })

end Sys2Proof.Machine
end

