-- ==== Sys2Proof/Machine/Operands.lean ====
section
/-! DEFINITION. The operand forms: queue ends (Table ZPM-1), 16-bit and 32-bit vectors in an entry (R68), lanes, and the
data and address queues' pops and pushes (R147). -/
namespace Sys2Proof.Machine

/-- Lane `l` of a 16-bit vector (R68). -/
def lane16 (s : Slot) (l : Nat) : Nat := bitsAt s.toNat (16 * l) 16

/-- Lane `l` of an FP32 vector (R68). -/
def lane32 (s : Slot) (l : Nat) : Nat := bitsAt s.toNat (32 * l) 32

/-- The value of a list of lanes of `w` bits each, lane 0 lowest. -/
def packLanes (w : Nat) : List Nat → Nat
  | [] => 0
  | v :: vs => v % 2 ^ w + 2 ^ w * packLanes w vs

/-- An entry of 128 lanes of 16 bits in bytes [255:0], zeros above. -/
def slot16 (f : Nat → Nat) : Slot := BitVec.ofNat 4096 (packLanes 16 ((List.range 128).map f))

/-- An entry of 128 lanes of 32 bits. -/
def slot32 (f : Nat → Nat) : Slot := BitVec.ofNat 4096 (packLanes 32 ((List.range 128).map f))

/-- The entry that `n` bytes make, zeros above (R10). -/
def slotOfBytes (bs : List Byte) : Slot := BitVec.ofNat 4096 (leNat bs)

/-- The first `n` bytes of an entry. -/
def slotBytes (s : Slot) (n : Nat) : List Byte := leBytes n s.toNat

/-- Queue end codes of Table ZPM-1. -/
def isDataQ (e : Nat) : Bool := decide (e < 24)
def isAddrQ (e : Nat) : Bool := decide (24 ≤ e ∧ e < 32)
def isChan (e : Nat) : Bool := decide (32 ≤ e ∧ e < 48)
def isNone (e : Nat) : Bool := e == 63

/-- The depth of queue `n` (0-23 data, 24-31 address) of core `g` (R148). -/
def Mach.depth (m : Mach) (g n : Nat) : Nat := m.rd .QCFG_DEPTH (g * 32 + n)

def Core.dq (c : Core) (n : Nat) : List Ent := c.q.get (fun _ => []) n
def Core.setDq (c : Core) (n : Nat) (l : List Ent) : Core := { c with q := c.q.set (fun _ => []) n l }
def Core.adq (c : Core) (n : Nat) : List AddrEnt := c.aq.get (fun _ => []) n
def Core.setAdq (c : Core) (n : Nat) (l : List AddrEnt) : Core := { c with aq := c.aq.set (fun _ => []) n l }
def Core.chan (c : Core) (n : Nat) : List ChEnt := c.ch.get (fun _ => []) n
def Core.setChan (c : Core) (n : Nat) (l : List ChEnt) : Core := { c with ch := c.ch.set (fun _ => []) n l }

/-- Data queue `n` has `k` free slots. -/
def Mach.qRoom (m : Mach) (g n k : Nat) : Bool := decide (((m.core g).dq n).length + k ≤ m.depth g n)

/-- Address queue code `e` (24-31) has a free slot. -/
def Mach.aqRoom (m : Mach) (g e : Nat) : Bool := decide (((m.core g).adq (e - 24)).length < m.depth g e)

def Mach.pushQ (m : Mach) (g n : Nat) (e : Ent) : Mach := m.onCore g fun c => c.setDq n (c.dq n ++ [e])

def Mach.pushQs (m : Mach) (g n : Nat) (es : List Ent) : Mach := m.onCore g fun c => c.setDq n (c.dq n ++ es)

def Mach.dropQ (m : Mach) (g n k : Nat) : Mach := m.onCore g fun c => c.setDq n ((c.dq n).drop k)

def Mach.headQ (m : Mach) (g n : Nat) : Option Ent := ((m.core g).dq n).head?

def Mach.pushA (m : Mach) (g e : Nat) (a : AddrEnt) : Mach :=
  m.onCore g fun c => c.setAdq (e - 24) (c.adq (e - 24) ++ [a])

def Mach.dropA (m : Mach) (g e : Nat) : Mach := m.onCore g fun c => c.setAdq (e - 24) ((c.adq (e - 24)).drop 1)

def Mach.headA (m : Mach) (g e : Nat) : Option AddrEnt := ((m.core g).adq (e - 24)).head?

/-- The formats that VEC instructions name (R201): 0 FP32, 1 BF16, 2 FP16. -/
def vfmt (code : Nat) : FFmt := if code = 1 then bf16 else if code = 2 then fp16 else fp32

/-- Lane `l` of an entry in a VFMT format, as an FP32 pattern; a NaN becomes the default NaN (R66, R126). -/
def vlane (code : Nat) (s : Slot) (l : Nat) : Nat :=
  if code = 1 then rn (bf16.decode (lane16 s l)) else if code = 2 then rn (fp16.decode (lane16 s l)) else lane32 s l

end Sys2Proof.Machine
end

