-- ==== Sys2Proof/Machine/Trace.lean ====
section
/-! DEFINITION. Trace records (Tables DBG-4, DBG-5), the regions' buffers (R480), and the profile counters (R472). -/
namespace Sys2Proof.Machine

/-- The uncore region of a die, and the hub region, in the SRC code of Table DBG-4. -/
def srcDie (d : Nat) : Nat := 64 + d
def srcHub : Nat := 68

def Mach.buf (m : Mach) (src : Nat) : TraceBuf := m.dbg.bufs.get (fun _ => TraceBuf.empty) src

def Mach.setBuf (m : Mach) (src : Nat) (b : TraceBuf) : Mach :=
  { m with dbg := { m.dbg with bufs := m.dbg.bufs.set (fun _ => TraceBuf.empty) src b } }

/-- R479: the types that DBG_TRACE_CFG.TYPE_EN gates, and the others, which are always written. -/
def Mach.typeOn (m : Mach) (ty : Nat) : Bool :=
  let en := m.rd .DBG_TRACE_CFG_TYPE_EN 0
  match ty with
  | 3 => bitsAt en 0 1 == 1
  | 9 => bitsAt en 1 1 == 1
  | 1 => bitsAt en 2 1 == 1
  | 2 => bitsAt en 3 1 == 1
  | _ => true

/-- MOD_MODE.TRACE is not OFF. -/
def Mach.tracing (m : Mach) : Bool := m.rd .MOD_MODE_TRACE 0 != 0

/-- R480: offers records to a region's buffer one after another; a record that finds the buffer full is dropped and
counted, and the first one after a drop follows a GAP record. S and G are the region's marks since its last record (R61). -/
def TraceBuf.offer (b : TraceBuf) (r : TraceRec) : TraceBuf × Nat :=
  let r := { r with s := b.stretched, g := b.gated }
  let gap : List TraceRec :=
    if b.drops = 0 then []
    else [{ r with ty := 13, payload := leBytes 4 b.drops ++ leBytes 8 b.firstDrop }]
  if b.recs.length + gap.length < 16 then
    (⟨b.recs ++ gap ++ [r], 0, 0, false, false⟩, 0)
  else
    ({ b with drops := b.drops + 1, firstDrop := if b.drops = 0 then r.time else b.firstDrop }, 1)

/-- R60, R61: the clock of region `src` stands: a freeze holds or, of a core, it is fenced and not under test; and it is stretched: its die
is in droop (R461). -/
def Mach.regionStands (m : Mach) (src : Nat) : Bool := m.frozen || (decide (src < 64) && bitsAt (m.rd .MOD_FENCE 0) src 1 == 1 && !m.testing src)
def Mach.regionDroops (m : Mach) (src : Nat) : Bool := decide (src < srcHub) && bitsAt m.aux.droop (if src < 64 then src / 16 else src - 64) 1 == 1

/-- Offers a record to its region's buffer; the region's marks for its next record are then what its clock does now. -/
def Mach.traceRec (m : Mach) (r : TraceRec) : Mach :=
  let (b, d) := (m.buf r.src).offer r
  let b := if d = 0 then { b with stretched := m.regionDroops r.src, gated := m.regionStands r.src } else b
  (m.setBuf r.src b).bump .DBG_TRACE_DROPPED 0 d

/-- A record of an event in region `src` now. -/
def Mach.recNow (m : Mach) (src ty : Nat) (payload : List Byte) : TraceRec :=
  ⟨m.time, m.rd .TICK_NUMBER 0 % 2 ^ 48, src, false, false, ty, payload⟩

/-- R480: the records of a snapshot that region `src` has still to offer come before its next event. -/
def Mach.offerPending (m : Mach) (src : Nat) : Mach :=
  if m.dbg.snapQ.isEmpty then m
  else (m.dbg.snapQ.filter (·.src == src)).foldl Mach.traceRec { m with dbg := { m.dbg with snapQ := m.dbg.snapQ.filter (·.src != src) } }

/-- Offers one record to the buffer of region `src`, when trace is on and the type is enabled. -/
def Mach.trace (m : Mach) (src ty : Nat) (payload : List Byte) : Mach :=
  if m.tracing && m.typeOn ty then (m.offerPending src).traceRec (m.recNow src ty payload) else m

/-- R61: the regions `rs` have been gated or stopped, which their next records say. -/
def Mach.markGated (m : Mach) (rs : List Nat) : Mach := rs.foldl (fun m r => m.setBuf r { m.buf r with gated := true }) m

/-- The same for a list of payloads of one type. -/
def Mach.traces (m : Mach) (src ty : Nat) (ps : List (List Byte)) : Mach := ps.foldl (fun m p => m.trace src ty p) m

/-- R472: a core event counts in every profile counter that selects it. -/
def Mach.ev (m : Mach) (g code n : Nat) : Mach :=
  if m.on .DBG_PROF_CTRL_RUN 0 then
    (List.range 16).foldl
      (fun m i => if m.rd .PROF_SEL_EVENT (g * 16 + i) = code then m.bump .PROF_CNT (g * 16 + i) n else m) m
  else m

/-- R472: a hub event of block `b` (0 FAB, 1 ING, 2 RED, 3 HIF, 4 staging). -/
def Mach.hev (m : Mach) (b code n : Nat) : Mach :=
  if m.on .DBG_PROF_CTRL_RUN 0 then
    (List.range 32).foldl
      (fun m i => if m.rd .DBG_HPROF_SEL_EVENT (b * 32 + i) = code then m.bump .DBG_HPROF_CNT (b * 32 + i) n else m) m
  else m

/-- A stall cycle of core `g`: its counter, and the profile event of its cause in Table DBG-2. -/
def Mach.stall (m : Mach) (g : Nat) (f : Fld) (cause : Nat) : Mach := (m.bump f g 1).ev g (0x10 + cause) 1

/-- A stall on an empty queue end, with the profile event of that end (Table DBG-3). -/
def Mach.stallEmpty (m : Mach) (g : Nat) (f : Fld) (cause e : Nat) : Mach := (m.stall g f cause).ev g (0x40 + e) 1

end Sys2Proof.Machine
end

