-- ==== Sys2Proof/Machine/Hostq.lean ====
section
/-! DEFINITION. Writing to the host: host memory, MSI-X messages and their coalescing (R406), and completion entries with
their result records (R404, R405, R408, R409). -/
namespace Sys2Proof.Machine

def nat0 : Nat → Nat := fun _ => 0

/-- What a byte of host memory or module memory that nothing has written reads as (log entry 5). -/
def byte0 : Nat → Byte := fun _ => 0

def Mach.hostWrite (m : Mach) (a : Nat) (bs : List Byte) : Mach :=
  { m with host := NMap.setMany byte0 m.host ((List.range bs.length).map (a + ·) |>.zip bs) }

def Mach.hostRead (m : Mach) (a n : Nat) : List Byte := (List.range n).map fun i => NMap.get byte0 m.host (a + i)

/-- Signals an MSI-X vector: the message of its table entry, or its pending bit while it is masked. -/
def Mach.signal (m : Mach) (v : Nat) : Mach :=
  if m.on .MSIX_MASK v then m.wr .MSIX_PBA v 1
  else { m with hif := { m.hif with sent := m.hif.sent ++ [⟨v, m.rd .MSIX_ADDR v, m.rd .MSIX_DATA v⟩] } }

/-- Sets a bit of HIF_EVT and signals its vector when EN is 1 (R406). -/
def Mach.event (m : Mach) (f : Fld) : Mach :=
  let m := m.wr f 0 1
  if m.on .HIF_EVT_EN 0 then m.signal (m.rd .HIF_EVT_VECTOR 0) else m

/-- The number of entries of ring `r` (R398). -/
def Mach.ringLen (m : Mach) (r : Nat) : Nat := 2 ^ m.rd .HIF_RING_CFG_LOG r

def Mach.coal (m : Mach) (r : Nat) : Coal := m.hif.coal.get (fun _ => ⟨0, 0⟩) r

def Mach.setCoal (m : Mach) (r : Nat) (c : Coal) : Mach :=
  { m with hif := { m.hif with coal := m.hif.coal.set (fun _ => ⟨0, 0⟩) r c } }

/-- R406: a completion of ring `r` counts toward its signal, and raises it at COAL_COUNT. -/
def Mach.coalesce (m : Mach) (r : Nat) (noint : Bool) : Mach :=
  if noint || !m.on .HIF_RING_CFG_INT_EN r then m
  else
    let c := m.coal r
    let c : Coal := ⟨c.count + 1, if c.count = 0 then m.time else c.since⟩
    if c.count ≥ max 1 (m.rd .HIF_RING_CFG_COAL_COUNT r) then
      (m.setCoal r ⟨0, 0⟩).signal (m.rd .HIF_RING_CFG_VECTOR r)
    else m.setCoal r c

/-- The 16 bytes of a completion entry (Table HIF-4). -/
def complBytes (d : Desc) (status detail info phase : Nat) : List Byte :=
  leBytes 8 info ++ leBytes 2 d.tag ++ leBytes 2 d.sqHead ++ leBytes 1 status ++ leBytes 1 d.ty ++ leBytes 1 detail
    ++ leBytes 1 phase

/-- A list of bytes cut or padded with zeros to `n`. -/
def padTo (n : Nat) (bs : List Byte) : List Byte := (bs ++ List.replicate (n - bs.length) 0).take n

/-- Writes a completion's result record and then its entry at the ring's completion tail (R404, R405). -/
def Mach.writeCompletion (m : Mach) (d : Desc) (e res : List Byte) : Mach :=
  let tail := m.rd .HIF_RING_STATUS_CQ_TAIL d.ring
  let m := if d.result = 0 then m else m.hostWrite d.result (padTo 64 (e ++ res))
  m.hostWrite (m.rd .HIF_RING_CQ_BASE d.ring * 4096 + 16 * tail) e

/-- Advances a ring's completion tail, its phase changing where it wraps (R404). -/
def Mach.advanceTail (m : Mach) (r : Nat) : Mach :=
  let t' := (m.rd .HIF_RING_STATUS_CQ_TAIL r + 1) % m.ringLen r
  let m := m.wr .HIF_RING_STATUS_CQ_TAIL r t'
  if t' = 0 then m.wr .HIF_RING_STATUS_PHASE r (1 - m.rd .HIF_RING_STATUS_PHASE r) else m

/-- Completes a descriptor in progress: its result record, its completion entry at the completion tail with the ring's
phase, the tail's advance, and its signal, in the order of R405. -/
def Mach.complete (m : Mach) (d : Desc) (status detail info : Nat) (res : List Byte) : Mach :=
  if m.hif.descs.all (fun e => e.seq != d.seq) then m
  else
    let e := complBytes d status detail info (m.rd .HIF_RING_STATUS_PHASE d.ring)
    let m := (m.writeCompletion d e res).advanceTail d.ring
    let m := { m with hif := { m.hif with descs := m.hif.descs.filter fun e => e.seq != d.seq } }
    (m.bump .HIF_DESC_DONE 0 1).coalesce d.ring d.noint

/-- Cordwood serves the rings (R436, R438). -/
def Mach.hifUp (m : Mach) : Bool := m.mainUp && m.on .MOD_STATUS_CORDWOOD_UP 0

/-- R401, HIF_RING_STATUS: descriptors of ring `r` in progress. -/
def Mach.inProgress (m : Mach) (r : Nat) : Nat := m.hif.descs.countP fun d => d.ring == r

/-- Completion entries of ring `r` from its tail up to one before its head (R402). -/
def Mach.cqFree (m : Mach) (r : Nat) : Nat :=
  let n := m.ringLen r
  (m.hif.cqHead.get nat0 r + n - m.rd .HIF_RING_STATUS_CQ_TAIL r + n - 1) % n

/-- Ring `r` has a descriptor that its mode lets the module take now, but for a free completion entry (R400, R403, R423). -/
def Mach.ringWants (m : Mach) (r : Nat) : Bool :=
  m.on .HIF_RING_CFG_ENABLE r && !m.on .HIF_RING_STATUS_ERROR r
    && m.hif.sqTail.get nat0 r != m.rd .HIF_RING_STATUS_SQ_HEAD r
    && decide (m.inProgress r < (if m.on .HIF_RING_CFG_SERIAL r then 1 else 64))

/-- A completion entry of ring `r` is free that no earlier descriptor has claimed (R402). -/
def Mach.cqRoom (m : Mach) (r : Nat) : Bool := decide (m.inProgress r < m.cqFree r)

/-- R402: how many rings wait for a free completion entry. -/
def Mach.cqWaits (m : Mach) : Nat := if m.hifUp then (List.range 256).countP fun r => m.ringWants r && !m.cqRoom r else 0

end Sys2Proof.Machine
end

