-- ==== Sys2Proof/Machine/FabBase.lean ====
section
/-! DEFINITION. The fabric's shared operations: coordinates and slices (R357, R358), link states, control frames, slice
broadcasts (R361), routes with their detours (R359, R365) and the sending of data frames with credits and retry buffers
(R345, R346, R348). -/
namespace Sys2Proof.Machine

/-- The coordinate of module `id` on axis 0 X, 1 Y, 2 Z (R357). -/
def axisOf (id a : Nat) : Nat := id / 64 ^ a % 64

/-- `id` with its coordinate on axis `a` replaced. -/
def setAxis (id a v : Nat) : Nat := id - axisOf id a * 64 ^ a + v % 64 * 64 ^ a

def Mach.myId (m : Mach) : Nat := m.rd .FAB_COORD_MODULE_ID 0

/-- The installed extent of an axis. -/
def Mach.installed (m : Mach) (a : Nat) : Nat :=
  m.rd (if a = 0 then .FAB_COORD_NX else if a = 1 then .FAB_COORD_NY else .FAB_COORD_NZ) 0

/-- The slice's extent and origin on an axis (R358). -/
def Mach.extent (m : Mach) (a : Nat) : Nat :=
  m.rd (if a = 0 then .FAB_SLICE_EX else if a = 1 then .FAB_SLICE_EY else .FAB_SLICE_EZ) 0

def Mach.origin (m : Mach) (a : Nat) : Nat :=
  m.rd (if a = 0 then .FAB_SLICE_OX else if a = 1 then .FAB_SLICE_OY else .FAB_SLICE_OZ) 0

/-- Slice position of module `id` on an axis (R326). -/
def Mach.ringPos (m : Mach) (id a : Nat) : Nat := (axisOf id a + 64 - m.origin a) % 64

/-- The module lies in the slice. -/
def Mach.inSlice (m : Mach) (id : Nat) : Bool := (List.range 3).all fun a => decide (m.ringPos id a < m.extent a)

/-- The slice spans the axis (R358). -/
def Mach.spans (m : Mach) (a : Nat) : Bool := m.extent a == m.installed a && m.origin a == 0

/-- Rank of a module in its slice (R296). -/
def Mach.rank (m : Mach) (id : Nat) : Nat :=
  m.ringPos id 0 + m.extent 0 * m.ringPos id 1 + m.extent 0 * m.extent 1 * m.ringPos id 2

/-- The number of modules of the slice. -/
def Mach.sliceSize (m : Mach) : Nat := m.extent 0 * m.extent 1 * m.extent 2

/-- The module of rank `q` (R296). -/
def Mach.ofRank (m : Mach) (q : Nat) : Nat :=
  (m.origin 0 + q % m.extent 0) % 64 + 64 * ((m.origin 1 + q / m.extent 0 % m.extent 1) % 64)
    + 4096 * ((m.origin 2 + q / (m.extent 0 * m.extent 1)) % 64)

/-- The axis of a direction code (R339), and whether it is a plus direction. -/
def dirAxis (d : Nat) : Nat := d / 2
def dirPlus (d : Nat) : Bool := d % 2 == 0
def dirOpp (d : Nat) : Nat := if d % 2 = 0 then d + 1 else d - 1

/-- step(c, d) of R354: one step along the axis of `d`, modulo the installed extent `n`. -/
def stepDir (id d n : Nat) : Nat :=
  let c := axisOf id (dirAxis d)
  setAxis id (dirAxis d) (if dirPlus d then (c + 1) % n else (c + n - 1) % n)

/-- The neighbour of module `id` in direction `d`. -/
def Mach.neighbour (m : Mach) (id d : Nat) : Nat := stepDir id d (max 1 (m.installed (dirAxis d)))

def Mach.linkState (m : Mach) (k : Nat) : Nat := m.rd .FAB_LINK_STATE k
def Mach.linkUp (m : Mach) (k : Nat) : Bool := m.linkState k == 3

/-- A laser port's LIGHT (Table PHY-7): at least 0.6 W in all, in units of 10 mW, with 30 mW on every line. -/
def hasLight (power : Nat) (lines : Bool) : Bool := lines && decide (60 ≤ power)

/-- Sets a link's state and reason, with the LINK trace record of a change (Table DBG-5). -/
def Mach.setLink (m : Mach) (k st reason : Nat) : Mach :=
  let changed := m.linkState k != st
  let m := (m.wr .FAB_LINK_STATE k st).wr .FAB_LINK_REASON k reason
  if changed then m.trace srcHub 9 (leBytes 1 k ++ leBytes 1 st ++ leBytes 1 reason) else m

/-- The six links of a direction. -/
def dirLinks (d : Nat) : List Nat := (List.range 6).map (6 * d + ·)

/-- The lowest-numbered UP link of a direction (R349). -/
def Mach.lowestUp (m : Mach) (d : Nat) : Option Nat := (dirLinks d).find? m.linkUp

def Mach.onFab (m : Mach) (f : Fab → Fab) : Mach := { m with fab := f m.fab }

/-- The number under which a link's credits of a class are held. -/
def credKey (k cls : Nat) : Nat := k * 8 + cls

/-- The credits owed to the peer of a link, one byte a class, which any frame's CREDIT field returns at level 4 (R346). -/
def Mach.takeOwed (m : Mach) (k : Nat) : Nat × Mach :=
  if m.rd .FAB_LINK_LEVEL k = 4 then
    let v := ([1, 2, 3, 4] : List Nat).foldl (fun v c => v + min 255 (m.fab.owed.get nat0 (credKey k c)) * 256 ^ (c - 1)) 0
    (v, m.onFab fun b => { b with owed := ([1, 2, 3, 4] : List Nat).foldl (fun o c =>
      NMap.set nat0 o (credKey k c) (o.get nat0 (credKey k c) - min 255 (o.get nat0 (credKey k c)))) b.owed })
  else (0, m)

/-- A frame as it leaves on a link now, with the credits owed there in its header. -/
def Mach.stamped (m : Mach) (k : Nat) (f : Frame) : Frame := { f with credit := (m.takeOwed k).1 }

/-- Sends a control frame over a link. It takes no credit itself. -/
def Mach.sendRaw (m : Mach) (k : Nat) (f : Frame) : Mach :=
  (m.takeOwed k).2.onFab fun b => { b with out := b.out ++ [(k, m.stamped k f)] }

/-- A control frame of this module. -/
def Mach.ctlFrame (m : Mach) (ty : Nat) (payload : List Byte) : Frame :=
  ⟨ty, 0, false, m.rd .MOD_STATUS_GEN 0, 0, 0, 0, 0, m.myId, 0, 0, 0, payload, false⟩

def Mach.sendCtl (m : Mach) (k ty : Nat) (payload : List Byte) : Mach := m.sendRaw k (m.ctlFrame ty payload)

/-- Sends a control frame on every UP link. -/
def Mach.sendCtlAll (m : Mach) (ty : Nat) (payload : List Byte) : Mach :=
  ((List.range 36).filter m.linkUp).foldl (fun m k => m.sendCtl k ty payload) m

/-- The port that carries a class in a direction (R347). -/
def Mach.portOf (m : Mach) (d cls : Nat) : Nat :=
  m.rd (if cls = 1 then .FAB_PORT_CFG_NET_PORT else if cls = 2 then .FAB_PORT_CFG_RED_PORT
    else if cls = 3 then .FAB_PORT_CFG_MEM_PORT else .FAB_PORT_CFG_ING_PORT) d

/-- The links of port `p` of direction `d` that carry traffic of a class: those UP, for MEM also those whose peer is in data-path reset
(R369); reduction avoids those that COLL_MISMATCH excludes. -/
def Mach.portLinks (m : Mach) (d p cls : Nat) : List Nat :=
  (dirLinks d).filter fun k => (m.linkUp k || (cls == 3 && m.linkState k == 8)) && m.rd .FAB_LINK_PORT k == p && m.on .FAB_LINK_IN_PORT k
    && !(cls == 2 && m.on .FAB_LINK_COLL_MISMATCH k)

/-- The direction of a detour code for a port of direction `d` (FAB_PORT_CFG_d.DETOUR). -/
def detourDir (d code : Nat) : Option Nat :=
  if code = 0 ∨ code > 4 then none
  else some (2 * ((dirAxis d + (code + 1) / 2) % 3) + (code + 1) % 2)

/-- R365: the detour's first direction, where A′ and B′ lie in the slice. -/
def Mach.detour (m : Mach) (d p : Nat) : Option Nat :=
  match detourDir d (m.rd .FAB_PORT_CFG_DETOUR (d * 6 + p)) with
  | none => none
  | some e =>
    let a' := m.neighbour m.myId e
    if m.inSlice a' && m.inSlice (m.neighbour a' d) then some e else none

/-- R349, R361, R362: the link that a control frame of the slice takes in direction `d`: the lowest that is UP, else that of the
direction's detour, with the mark. -/
def Mach.ctlLink (m : Mach) (d : Nat) : Option (Nat × Bool) :=
  match m.lowestUp d with
  | some k => some (k, false)
  | none => (((List.range 6).findSome? fun p => m.detour d p).bind m.lowestUp).map (·, true)

/-- R361, R362, R365: how a control frame for module `b` that arrived from direction `r` on a detour goes on: across along the axis on
which the detour is not, then back along the detour's. -/
def Mach.detourOn (m : Mach) (b r : Nat) : Option Nat :=
  let differs (a : Nat) : Bool := axisOf b a != axisOf m.myId a
  let dir (a : Nat) : Nat := if axisOf (m.neighbour m.myId (2 * a)) a = axisOf b a then 2 * a else 2 * a + 1
  (match (List.range 3).find? fun a => a != dirAxis r && differs a with
    | some a => some a
    | none => if differs (dirAxis r) then some (dirAxis r) else none).map dir

/-- Passes on a control frame that is on a detour to another module. -/
def Mach.passDetour (m : Mach) (k b : Nat) (f : Frame) : Mach :=
  match (m.detourOn b (k / 6)).bind m.lowestUp with
  | some j => m.sendRaw j { f with dMod := b, detour := true }
  | none => m

/-- How many hops a broadcast of module `src` travels from it along direction `d` (R361). -/
def Mach.castReach (m : Mach) (src d : Nat) : Nat :=
  let a := dirAxis d
  let e := m.extent a
  if m.spans a then (if dirPlus d then e / 2 else (e - 1) / 2)
  else if dirPlus d then e - 1 - m.ringPos src a else m.ringPos src a

/-- How far this module stands from `src` along direction `d`. -/
def Mach.castDist (m : Mach) (src d : Nat) : Nat :=
  let a := dirAxis d
  let n := max 1 (if m.spans a then m.installed a else 64)
  if dirPlus d then (axisOf m.myId a + n - axisOf src a) % n else (axisOf src a + n - axisOf m.myId a) % n

/-- Sends a broadcast frame one hop in direction `d` while its reach is not used up. -/
def Mach.castHop (m : Mach) (f : Frame) (d : Nat) : Mach :=
  if m.castDist f.sMod d < m.castReach f.sMod d then
    match m.ctlLink d with
    | some (k, det) => m.sendRaw k { f with detour := det, dMod := if det then m.neighbour m.myId d else f.dMod }
    | none => m
  else m

/-- R361: the direction in which a broadcast of module `src` reaches this module: along the last axis on which they differ. -/
def Mach.castDir (m : Mach) (src : Nat) : Option Nat :=
  ([2, 1, 0].find? fun a => axisOf m.myId a != axisOf src a).map fun a =>
    if m.castDist src (2 * a) ≤ m.castReach src (2 * a) then 2 * a else 2 * a + 1

/-- R361: where a broadcast of module `src` goes on from here: on along the same line, and both ways along each later axis; from its
origin, both ways along every axis. -/
def Mach.castDirs (m : Mach) (src : Nat) : List Nat :=
  match m.castDir src with
  | none => List.range 6
  | some d => d :: (List.range 6).filter fun e => decide (dirAxis d < dirAxis e)

/-- R361: sends a slice broadcast on. -/
def Mach.castForward (m : Mach) (f : Frame) : Mach := (m.castDirs f.sMod).foldl (fun m d => m.castHop f d) m

/-- Originates a slice broadcast (STRETCH 0x21, FREEZE 0x22). -/
def Mach.broadcast (m : Mach) (ty : Nat) (payload : List Byte) : Mach := m.castForward (m.ctlFrame ty payload)

/-- R359: the direction of the next hop from module `id` toward `dest` inside the slice. -/
def Mach.dirFrom (m : Mach) (id dest : Nat) : Option Nat :=
  match (List.range 3).find? fun a => axisOf dest a != axisOf id a with
  | none => none
  | some a =>
    if m.spans a then
      let n := max 1 (m.installed a)
      let plus := (axisOf dest a + n - axisOf id a) % n
      some (if plus ≤ n - plus then 2 * a else 2 * a + 1)
    else some (if m.ringPos id a < m.ringPos dest a then 2 * a else 2 * a + 1)

/-- The next hop from this module. -/
def Mach.nextDir (m : Mach) (dest : Nat) : Option Nat := m.dirFrom m.myId dest

/-- R347, R348, R365: the link on which a frame of class `cls` leaves in direction `d` (round robin over its port's links),
or its detour's link with the mark, or none. -/
def Mach.pickLink (m : Mach) (d cls : Nat) : Option (Nat × Bool) :=
  let p := m.portOf d cls
  let pick (d p : Nat) : Option Nat :=
    let ls := m.portLinks d p cls
    ls[(m.fab.rr.get nat0 (d * 8 + p)) % max 1 ls.length]?
  match pick d p with
  | some k => some (k, false)
  | none =>
    match m.detour d p with
    | some e => (pick e (m.portOf e cls)).map (·, true)
    | none => none

/-- Bytes that the unacknowledged frames of a link hold (R345: header, payload and CRC). -/
def Mach.retryBytes (m : Mach) (k : Nat) : Nat :=
  ((m.fab.unacked.get (fun _ => []) k).map fun u => 28 + u.frame.payload.length).foldl (· + ·) 0

/-- R346: credits are kept per port: the links whose credits a frame of link `k` may use, `k` first, then the others of its port. -/
def Mach.creditLinks (m : Mach) (k : Nat) : List Nat :=
  k :: if m.on .FAB_LINK_IN_PORT k then
      (dirLinks (k / 6)).filter fun j => j != k && m.on .FAB_LINK_IN_PORT j && m.rd .FAB_LINK_PORT j == m.rd .FAB_LINK_PORT k
    else []

/-- The link whose credit a data frame of link `k` takes, where its port holds one. -/
def Mach.creditLink (m : Mach) (k cls : Nat) : Option Nat :=
  (m.creditLinks k).find? fun j => decide (0 < m.fab.credits.get nat0 (credKey j cls))

/-- R345, R346: link `k` can take one more data frame of the class. -/
def Mach.canSend (m : Mach) (k cls len : Nat) : Bool :=
  (m.creditLink k cls).isSome && decide (m.retryBytes k + 28 + len ≤ 524288)

/-- Sends a data frame over link `k`: its link sequence number, its port's credit of the class, the retry buffer, and the port's
round-robin place. -/
def Mach.sendOn (m : Mach) (k : Nat) (f : Frame) : Mach :=
  let (cr, m) := m.takeOwed k
  let n := m.fab.txSeq.get nat0 k
  let f := { f with seq := n % 2 ^ 32, credit := cr }
  let j := credKey ((m.creditLink k f.cls).getD k) f.cls
  let d := k / 6
  let p := m.portOf d f.cls
  (m.onFab fun b => { b with
    txSeq := NMap.set nat0 b.txSeq k (n + 1)
    credits := NMap.set nat0 b.credits j (b.credits.get nat0 j - 1)
    unacked := NMap.set (fun _ => []) b.unacked k (b.unacked.get (fun _ => []) k ++ [⟨f, 0⟩])
    rr := NMap.set nat0 b.rr (d * 8 + p) (b.rr.get nat0 (d * 8 + p) + 1)
    out := b.out ++ [(k, f)] }).hev 0 (8 + f.cls) 1

/-- Where a data frame leaves now in direction `d`: a link that can take it. -/
def Mach.routeDir (m : Mach) (d cls len : Nat) : Option (Nat × Bool) :=
  match m.pickLink d cls with
  | some (k, det) => if m.canSend k cls len then some (k, det) else none
  | none => none

/-- Where a data frame for `dest` leaves now. -/
def Mach.route (m : Mach) (dest cls len : Nat) : Option (Nat × Bool) := (m.nextDir dest).bind fun d => m.routeDir d cls len

/-- A frame waits for a credit of its class at its port. -/
def Mach.creditWaits (m : Mach) : Bool :=
  m.fab.wait.any fun w => match (w.dir <|> m.nextDir w.frame.dMod).bind fun d => m.pickLink d w.frame.cls with
    | some (k, _) => (m.creditLink k w.frame.cls).isNone
    | none => false

/-- R370: `dest` is the neighbour that the next hop would enter, and every link to it is ABSENT or GONE, or for NET and RED in
data-path reset. -/
def Mach.unreachable (m : Mach) (dest cls : Nat) : Bool :=
  match m.nextDir dest with
  | none => false
  | some d => m.neighbour m.myId d == dest && cls != 4
    && (dirLinks d).all (fun k => !m.linkUp k)
    && (dirLinks d).any fun k => m.linkState k == 6 || m.linkState k == 7 || (m.linkState k == 8 && cls != 3)

/-- The flow of R348 and Table FAB-1: source core, destination module, class. -/
def flowKey (core dest cls : Nat) : Nat := (core * 2 ^ 18 + dest) * 8 + cls

/-- A data frame of this module's core `core` to `dest`, with the next number of its flow. -/
def Mach.dataFrame (m : Mach) (core dest dCore dEnd cls : Nat) (payload : List Byte) (poison : Bool) : Frame × Mach :=
  let n := m.fab.flowTx.get nat0 (flowKey core dest cls)
  (⟨1, cls, false, m.rd .MOD_STATUS_GEN 0, 0, dest, dCore, dEnd, m.myId, core, n % 2 ^ 32, 0, payload, poison⟩,
    m.onFab fun b => { b with flowTx := NMap.set nat0 b.flowTx (flowKey core dest cls) (n + 1) })

end Sys2Proof.Machine
end

