-- ==== Sys2Proof/Machine/IngDesc.lean ====
section
/-! DEFINITION. The ingest job descriptor (R275, Table ING-1): its fields, its sections and its reserved encodings. -/
namespace Sys2Proof.Machine

/-- Bytes `o` to `o + n - 1` of a descriptor as a number. -/
def fieldAt (raw : List Byte) (o n : Nat) : Nat := leNat ((raw.drop o).take n)

/-- Named parts of a job descriptor (Table ING-1). -/
def jVideo (raw : List Byte) : Bool := bitsAt (fieldAt raw 1 1) 0 1 == 1
def jAudio (raw : List Byte) : Bool := bitsAt (fieldAt raw 1 1) 1 1 == 1
def jCaption (raw : List Byte) : Bool := bitsAt (fieldAt raw 1 1) 2 1 == 1
def jShuffle (raw : List Byte) : Bool := bitsAt (fieldAt raw 1 1) 3 1 == 1
def jBudget (raw : List Byte) : Nat := fieldAt raw 2 2
def jItems (raw : List Byte) : Nat := fieldAt raw 16 8
def jMbTotal (raw : List Byte) : Nat := fieldAt raw 44 4
def jOutW (raw : List Byte) : Nat := fieldAt raw 88 2
def jOutH (raw : List Byte) : Nat := fieldAt raw 90 2
def jPt (raw : List Byte) : Nat := fieldAt raw 92 1
def jPh (raw : List Byte) : Nat := fieldAt raw 93 1
def jPw (raw : List Byte) : Nat := fieldAt raw 94 1
def jHop (raw : List Byte) : Nat := fieldAt raw 98 2
def jRing (raw : List Byte) : Nat := fieldAt raw 136 1

/-- The group of section `i` (0 video, 1 audio, 2 captions), 0xFF for none. -/
def jGroup (raw : List Byte) (i : Nat) : Nat := fieldAt raw (137 + i) 1

/-- Sections that name a group. -/
def jGroups (raw : List Byte) : List (Nat × Nat) :=
  ((List.range 3).map fun i => (i, jGroup raw i)).filter fun ig => ig.2 != 255

/-- The audio fields: rate, FFT size, mel bins, channels, and whether frames are PCM. -/
def jRate (raw : List Byte) : Nat := if bitsAt (fieldAt raw 97 1) 0 1 = 0 then 16000 else 48000
def jFft (raw : List Byte) : Nat := if bitsAt (fieldAt raw 97 1) 1 1 = 0 then 400 else 512
def jMel (raw : List Byte) : Nat :=
  if bitsAt (fieldAt raw 97 1) 2 2 = 0 then 64 else if bitsAt (fieldAt raw 97 1) 2 2 = 1 then 80 else 128
def jChans (raw : List Byte) : Nat := bitsAt (fieldAt raw 97 1) 4 1 + 1
def jPcm (raw : List Byte) : Bool := bitsAt (fieldAt raw 97 1) 5 1 == 1

/-- Tokens of a layer (R294), bytes of a value, of a token and of an audio frame (R289, R300). -/
def jLayer (raw : List Byte) : Nat := if jVideo raw then (jOutW raw / max 1 (jPw raw)) * (jOutH raw / max 1 (jPh raw)) else 1
def jValBytes (raw : List Byte) : Nat := if fieldAt raw 96 1 = 2 then 1 else 2
def jTokBytes (raw : List Byte) : Nat := 3 * jPt raw * jPh raw * jPw raw * jValBytes raw
def jFrameBytes (raw : List Byte) : Nat := (if jPcm raw then jHop raw else jMel raw) * jChans raw * 2

def up256 (n : Nat) : Nat := (n + 255) / 256 * 256

/-- R300: the size of section `i`, and where it begins; section 3 begins at USED. -/
def jSecSize (raw : List Byte) (i : Nat) : Nat :=
  if i = 0 then (if jVideo raw then up256 (jBudget raw * jTokBytes raw) else 0)
  else if i = 1 then (if jAudio raw then up256 (fieldAt raw 100 2 * jFrameBytes raw) else 0)
  else if i = 2 then (if jCaption raw then fieldAt raw 102 2 else 0)
  else 0
def jSecOff (raw : List Byte) (i : Nat) : Nat := 4352 + ((List.range i).map (jSecSize raw)).foldl (· + ·) 0
def jUsed (raw : List Byte) : Nat := jSecOff raw 3

/-- Whether a two-digit BCD byte is one. -/
def bcdOk (b : Nat) : Bool := decide (b / 16 ≤ 9 ∧ b % 16 ≤ 9)

/-- Reserved encodings and ranges of Table ING-1. They hold whatever ENABLE is; CHANNEL's range is that of KIND, and a teletext KIND needs its
magazine and page (log entry 68). -/
def jEncOk (raw : List Byte) : Bool :=
  let b (o : Nat) := fieldAt raw o 1
  let kind := bitsAt (b 77) 0 2
  let chan := bitsAt (b 77) 2 3
  decide (b 0 = 1) && decide (bitsAt (b 1) 4 4 = 0) && (jVideo raw || jAudio raw || jCaption raw) && decide (0 < jBudget raw)
    && decide (1 ≤ jItems raw ∧ jItems raw ≤ 2 ^ 40) && decide (fieldAt raw 32 8 % 64 = 0)
    && decide (1 ≤ fieldAt raw 40 4 ∧ fieldAt raw 40 4 ≤ 1048576) && decide (0 < jMbTotal raw)
    && decide (fieldAt raw 64 2 ≤ 4096) && decide (0 < b 66) && decide (b 67 ≤ 2)
    && decide (kind ≠ 3 ∧ bitsAt (b 77) 5 3 = 0) && decide (bitsAt (fieldAt raw 78 2) 12 4 = 0)
    && (if kind = 0 then decide (1 ≤ chan ∧ chan ≤ 4)
      else if kind = 1 then decide (1 ≤ chan ∧ chan ≤ 6)
      else decide (1 ≤ bitsAt (fieldAt raw 78 2) 8 4 ∧ bitsAt (fieldAt raw 78 2) 8 4 ≤ 8) && bcdOk (b 78))
    && decide (bitsAt (b 95) 2 2 ≠ 3 ∧ bitsAt (b 95) 5 3 = 0) && decide (b 96 ≤ 2)
    && decide (bitsAt (b 97) 2 2 ≠ 3 ∧ bitsAt (b 97) 6 2 = 0)
    && decide (jRing raw < 16 ∨ jRing raw = 255) && (jGroups raw).all (fun ig => decide (ig.2 < 64))
    && (raw.drop 140).all (· == 0)
    && decide (1 ≤ jOutW raw ∧ jOutW raw ≤ 4096 ∧ 1 ≤ jOutH raw ∧ jOutH raw ≤ 4096)
    && decide (jPt raw = 1 ∨ jPt raw = 2 ∨ jPt raw = 4) && decide (1 ≤ jPh raw ∧ jPh raw ≤ 64 ∧ 1 ≤ jPw raw ∧ jPw raw ≤ 64)
    && decide (1 ≤ jHop raw ∧ jHop raw ≤ jFft raw)
    && decide (fieldAt raw 104 4 < 2 ^ 31 ∨ fieldAt raw 104 4 = 2 ^ 31) && decide (fieldAt raw 104 4 % 2 ^ 31 < fieldAt raw 108 4)
    && decide (fieldAt raw 108 4 ≤ (if jRate raw = 16000 then 0x45FA0000 else 0x46BB8000))
    && decide (fieldAt raw 102 2 % 256 = 0)

end Sys2Proof.Machine
end

