-- ==== Sys2Proof/Machine/IngEnd.lean ====
section
/-! DEFINITION. How an ingest job ends (R278, Table HIF-3), whatever ends it, and what it leaves of its multicast groups (R312). -/
namespace Sys2Proof.Machine

/-- Items of the job that this module has not packed (R278). -/
def IngCur.undelivered (c : IngCur) : Nat :=
  if jShuffle c.raw then (jItems c.raw - c.rank + c.size - 1) / max 1 c.size - c.k else (c.orders.filter fun o => decide (c.k ≤ o)).length

/-- The groups that have sent the first entry of the micro-batch in delivery and not its last. -/
def IngCur.midGroups (c : IngCur) : List Nat :=
  (c.mb.elim [] (·.parts)).filterMap fun p => if 0 < p.sent ∧ p.sent < 17 + p.size then some p.group else none

/-- R278: the current job ends with a status of Table ING-3. -/
def Mach.endJob (m : Mach) (c : IngCur) (status detail : Nat) : Mach :=
  { m with ing := { m.ing with cur := none, mid := m.ing.mid ++ c.midGroups } }.complete c.job.desc (if status = 0 then 0 else 0x30 + status) detail
    (c.done + 2 ^ 32 * min c.failedItems (2 ^ 32 - 1))
    (leBytes 4 c.done ++ leBytes 4 0 ++ leBytes 8 c.failedItems ++ leBytes 8 c.undelivered ++ leBytes 8 (fieldAt c.raw 24 8))

end Sys2Proof.Machine
end

