-- ==== Sys2Proof/Machine/Fault.lean ====
section
/-! DEFINITION. Global freeze (R473-R475), trace triggers (R481), and the raising of a fault (R494-R497, R501): freeze, log
entry, trace record, event bit, and the abort of the step. -/
namespace Sys2Proof.Machine

/-- R481: a trigger of CENTRE mode; its number is its bit of DBG_TRACE_CFG.TRIG. The first one only has an effect. -/
def Mach.trigger (m : Mach) (src : Nat) : Mach :=
  if m.rd .MOD_MODE_TRACE 0 = 3 ∧ bitsAt (m.rd .DBG_TRACE_CFG_TRIG 0) src 1 = 1 ∧ m.rd .DBG_TRACE_STATUS_TRIGGERED 0 = 0
  then (m.wr .DBG_TRACE_STATUS_TRIGGERED 0 1).trace srcHub 11 (leBytes 1 src) else m

/-- R473-R475: a freeze begins; where one holds, only a lower source of the same ref cycle is recorded. Sources by the codes of DBG_FREEZE_CTRL.SOURCE: 1 PIN, 2 TICK, 3 TIME, 4 FAULT, 5 HOST, 6 FABRIC, 7 CUT. -/
def Mach.freeze (m : Mach) (src : Nat) : Mach :=
  if !m.mainUp then m
  else if m.frozen then
    if m.rd .DBG_FREEZE_AT 0 / 10 = m.time / 10 ∧ src < m.rd .DBG_FREEZE_CTRL_SOURCE 0 then m.wr .DBG_FREEZE_CTRL_SOURCE 0 src else m
  else
    let m := m.wr .DBG_FREEZE_AT 0 m.time
    let m := m.trace srcHub 6 (leBytes 1 src ++ leBytes 8 m.time)
    let m := if m.on .DBG_FREEZE_CTRL_BCAST 0 && src != 6 then m.broadcast 0x22 [] else m
    let m := m.markGated (List.range 69)
    (((m.wr .DBG_FREEZE_CTRL_SOURCE 0 src).wr .DBG_FREEZE_CTRL_FROZEN 0 1).wr .MOD_STATUS_FROZEN 0 1).wr
      .TICK_STATE_HELD 0 1

/-- R473: a source that DBG_FREEZE_CTRL enables (bit 0 PIN, 1 TICK, 2 TIME, 3 FAULT, 4 FABRIC). -/
def Mach.freezeOn (m : Mach) (bit : Nat) : Bool := bitsAt (m.rd .DBG_FREEZE_CTRL_SRC_EN 0) bit 1 == 1

/-- The class of a fault code (Tables FLT-1, FLT-3). -/
def faultClass (code : Nat) : Nat :=
  if code < 0x20 then 3 else if code < 0x30 then 4 else if code < 0x40 then 2 else if code < 0x50 then 1 else 0

/-- Writes a fault log entry into the ring of 1,024 (R496) and sets HIF_EVT.FAULT_LOG (R494). -/
def Mach.logFault (m : Mach) (e : FaultEnt) : Mach :=
  let w := m.rd .MOD_FLT_STATUS_WPTR 0
  let m := { m with faultLog := m.faultLog.set (fun _ => FaultEnt.zero) w e }
  let m := (m.wr .MOD_FLT_STATUS_WPTR 0 (w + 1)).wr .MOD_FLT_STATUS_TOTAL 0 (m.rd .MOD_FLT_STATUS_TOTAL 0 + 1)
  m.event .HIF_EVT_FAULT_LOG

/-- The completion's result values of a step (Table HIF-3): first tick, ticks, stretches, TIME. -/
def Mach.stepResult (m : Mach) (s : StepReq) (ticks : Nat) : List Byte :=
  leBytes 8 s.stepAt ++ leBytes 4 ticks ++ leBytes 4 (m.rd .TICK_STRETCHES 0 - s.stretch0) ++ leBytes 8 m.time

/-- Ends the running step: its completion, STEP_RUNNING and the phase. -/
def Mach.endStep (m : Mach) (status detail info ticks : Nat) : Mach :=
  match m.step with
  | none => m
  | some s =>
    let m := { m with step := none }
    let m := m.complete s.desc status detail info (m.stepResult s ticks)
    m.wrs 0 [(.MOD_STATUS_STEP_RUNNING, 0), (.TICK_STATE_PHASE, 0), (.TICK_STATE_PHASE_LEFT, 0)]

/-- Discards every pending flag operation (R169). -/
def Mach.dropDeferred (m : Mach) : Mach :=
  { m with ctxs := m.ctxs.map fun kc => (kc.1, { kc.2 with defer := [] }) }

/-- R497: the first FATAL_STEP of a running step aborts it. -/
def Mach.abortStep (m : Mach) (code : Nat) : Mach :=
  match m.step with
  | none => m
  | some s =>
    let t := m.rd .TICK_NUMBER 0
    ((m.endStep 0x1B code t (t + 1 - s.stepAt)).dropDeferred).wr .MOD_FLT_STATUS_ABORTED 0 1

/-- The ABORTED status of a descriptor by its type: SWAP and INGEST_SUBMIT report their own codes (R410, R419). -/
def abortedStatus (ty : Nat) : Nat := if ty = 5 then 0x2F else if ty = 6 then 0x34 else 0x04

/-- Completes every descriptor of a list with ABORTED, the current ingest job's with its counts (R278). -/
def Mach.abortDescs (m : Mach) (ds : List Desc) : Mach :=
  ds.foldl (fun m d => match m.ing.cur.filter fun c => c.job.desc == d with
    | some c => m.endJob c 4 0
    | none => m.complete d (abortedStatus d.ty) 0 0 []) m

/-- R501: the data path stops, descriptors complete with ABORTED, ALERT_N asserts. -/
def Mach.fatalModule (m : Mach) : Mach :=
  let m := { m with step := none, armed := none }.dropDeferred
  let m := m.wrs 0 [(.MOD_STATUS_STEP_RUNNING, 0), (.TICK_STATE_PHASE, 0), (.TICK_STATE_PHASE_LEFT, 0)]
  let m := m.abortDescs m.hif.descs
  ({ m with ing := { m.ing with jobs := [] } }.wr .MOD_FLT_STATUS_FATAL_MODULE 0 1).event .HIF_EVT_ALERT

def Mach.notice (m : Mach) (code : Nat) : NoticeCnt := m.notices.get (fun _ => ⟨0, none⟩) code

/-- R495: whether a raise of a NOTICE or CORRECTED code writes an entry, and its count. -/
def Mach.countNotice (m : Mach) (code : Nat) : Option Nat × Mach :=
  let n := m.notice code
  let due := match n.last with
    | none => true
    | some t => decide (t + 1000000000 ≤ m.time)
  let put (n : NoticeCnt) := { m with notices := m.notices.set (fun _ => ⟨0, none⟩) code n }
  if due then (some (min (n.count + 1) (2 ^ 32 - 1)), put ⟨0, some m.time⟩)
  else (none, put ⟨n.count + 1, n.last⟩)

/-- R473: the code in DBG_FREEZE_CTRL.SOURCE of the source that bit `b` of its enables names. -/
def freezeCode (b : Nat) : Nat := if b = 4 then 6 else b + 1

/-- R473: a freeze holds since an earlier ref cycle, so that a source has no effect. -/
def Mach.heldFrozen (m : Mach) : Bool := m.frozen && m.rd .DBG_FREEZE_AT 0 / 10 != m.time / 10

/-- R473, R481: a source fires: it triggers a CENTRE trace, and freezes the module where it is enabled. -/
def Mach.fires (m : Mach) (b : Nat) : Mach :=
  if m.heldFrozen then m
  else
    let m := m.trigger b
    if m.freezeOn b then m.freeze (freezeCode b) else m

/-- R473, R481: a fault fires its source where DBG_FREEZE_FAULT.CLASS has its class. -/
def Mach.raiseFreeze (m : Mach) (cls : Nat) : Mach :=
  if decide (1 ≤ cls ∧ cls ≤ 3) && bitsAt (m.rd .DBG_FREEZE_FAULT_CLASS 0) (cls - 1) 1 == 1 then m.fires 3 else m

/-- R495, R496: the entry of a fault; bit 3 of its class marks a FATAL_STEP after the first of its step (R497). -/
def Mach.raiseLog (m : Mach) (code sub src arg0 arg1 : Nat) : Mach :=
  let cls := faultClass code
  let second := cls == 3 && m.aborted
  let ent (a0 : Nat) : FaultEnt :=
    ⟨m.time, m.rd .TICK_NUMBER 0 % 2 ^ 48, code, cls + (if second then 8 else 0), sub, src, a0 % 2 ^ 32, arg1⟩
  if cls ≤ 1 then
    let c := m.countNotice code
    match c.1 with
    | some n => c.2.logFault (ent n)
    | none => c.2
  else m.logFault (ent arg0)

/-- R494: the FAULT trace record of a code of a class. -/
def Mach.faultTrace (m : Mach) (src code cls : Nat) : Mach :=
  m.trace src 5 (leBytes 1 code ++ leBytes 1 cls ++ leBytes 1 (if cls = 3 then code else 0))

/-- R494: raises a fault of Table FLT-3 in region `src`. -/
def Mach.raise (m : Mach) (code sub src arg0 arg1 : Nat) : Mach :=
  let cls := faultClass code
  let m := (m.raiseFreeze cls).raiseLog code sub src arg0 arg1
  let m := m.faultTrace src code cls
  if cls = 3 then m.abortStep code else if cls = 4 then m.fatalModule else m

end Sys2Proof.Machine
end

