-- ==== Sys2Proof/Machine/Flags.lean ====
section
/-! DEFINITION. Counting flags and module flags (R167-R169): their operations, saturation and last setters. -/
namespace Sys2Proof.Machine

/-- A flag's number among the setters: counting flags of each die first, then module flags. -/
def flagKey (die : Nat) (g : Bool) (n : Nat) : Nat := if g then 1024 + n % 64 else die * 256 + n

/-- The count of a flag that a thread of die `die` names (R180). -/
def Mach.flag (m : Mach) (die : Nat) (g : Bool) (n : Nat) : Nat :=
  if g then m.rd .MFLAG (n % 64) else m.rd .FLAG (die * 256 + n)

/-- The exact result of a flag operation, before clamping (R167). -/
def FlagFn.apply (f : FlagFn) (x : Nat) : Int :=
  match f with
  | .set v => (v : Int)
  | .add v => (x : Int) + v
  | .clr => 0

/-- The range 0 to 65,535 of a flag (R167). -/
def clamp16 (v : Int) : Nat := if v < 0 then 0 else if v > 65535 then 65535 else v.toNat

/-- R167, R168: applies an operation, counts a clamping, and records the thread and ICOUNT as the last setter. -/
def Mach.applyFlag (m : Mach) (thr : Nat) (o : DefOp) : Mach :=
  let d := thrDie thr
  let v := o.fn.apply (m.flag d o.g o.flag)
  let m := if o.g then m.wr .MFLAG (o.flag % 64) (clamp16 v) else m.wr .FLAG (d * 256 + o.flag) (clamp16 v)
  let m := if (clamp16 v : Int) = v then m
    else if o.g then m.bump .MFLAG_SATURATIONS 0 1 else m.bump .FLAG_SATURATIONS d 1
  { m with setters := m.setters.set (fun _ => none) (flagKey d o.g o.flag) (some ⟨thr, o.icount⟩) }

/-- The classes that a Cmd's instruction belongs to (Table ZVI-1), LSU 0, OPE 1, DRU 2, VEC 3, NIU 4, DMA 5, stream
engine 6, control 7. -/
def unitOf : Instr → Nat
  | .ldv .. | .lds .. | .stv .. | .qmov .. | .qdup .. => 0
  | .opu .. | .opus .. => 1
  | .tload .. | .tdrain .. | .tdraing .. | .epi .. => 2
  | .vadd .. | .vsub .. | .vmul .. | .vfma .. | .vmax .. | .vmin .. | .vcmp .. | .vsel .. | .vcvt .. | .vexp .. | .vlog ..
  | .vrsq .. | .vrcp .. | .vred .. | .vshuf .. | .vbcast .. | .vamax .. | .vrng .. | .vadamw .. | .vlion .. | .vsgdm .. => 3
  | .nsend .. | .nrecv .. | .nmcast .. | .rred .. | .rgath .. => 4
  | .dcopy .. | .dpref .. | .ipull .. => 5
  | .sdef .. | .srun .. => 6
  | _ => 7

/-- The present values of a table of slots. -/
def slotVals {α : Type} (t : NMap (Option α)) : List α := t.filterMap (·.2)

/-- The commands of a core that are queued or in progress in a unit: none of them has retired (R44). -/
def Core.cmds (c : Core) (u : Nat) : List Cmd :=
  match u with
  | 0 => c.lsuQ ++ (slotVals c.lsu).map (·.cmd)
  | 1 => c.opeQ ++ c.ope.toList.map (·.cmd) ++ c.opePipe.map (·.cmd)
  | 2 => c.druQ ++ c.drains.map (·.cmd) ++ c.pre.toList.map (·.cmd)
  | 3 => c.vecQ ++ c.vec.toList.map (·.cmd) ++ c.vecPipe.map (·.cmd)
  | 4 => c.niuQ ++ (slotVals c.niu).map (·.cmd)
  | 5 => c.dmaQ ++ (slotVals c.dma).map (·.cmd)
  | 6 => c.strQ ++ (slotVals c.gens).map (·.cmd)
  | _ => []

/-- Some command of thread `thr` with ICOUNT at most `ic` of a unit class in the set `units` has not retired on core `g`. -/
def Mach.outstanding (m : Mach) (g thr ic : Nat) (units : List Nat) : Bool :=
  units.any fun u => ((m.core g).cmds u).any fun c => c.thr == thr && decide (c.icount ≤ ic)

/-- R169: the AFTER set is met when every earlier command of its classes has retired on every member core. -/
def Mach.afterMet (m : Mach) (thr : Nat) (o : DefOp) : Bool :=
  let us := (List.range 6).filter fun u => bitsAt o.after u 1 == 1
  (m.members thr).all fun g => !m.outstanding g thr o.icount us

end Sys2Proof.Machine
end

