-- ==== Sys2Proof/Machine/Memory.lean ====
section
/-! DEFINITION. The address map (Table MEM-1), the interleaved alias (R242), plain storage with its poison marks (R248,
R249), the T2 windows (R253), the reserved regions (R244) and the code windows (R234-R236). -/
namespace Sys2Proof.Machine

/-- The ranges of Table MEM-1. -/
inductive Range where
  | t0 | staging | linear | alias_ | packed | t2 | t2packed | unmapped
  deriving DecidableEq, Repr

/-- R239: the range of a local address, by its place alone. -/
def rangeOf (a : Nat) : Range :=
  if a < 0x40000000 then .t0
  else if a < 0x48000000 then .staging
  else if a < 0x10000000000 then .unmapped
  else if a < 0x20000000000 then .linear
  else if a < 0x30000000000 then .alias_
  else if a < 0x40000000000 then .unmapped
  else if a < 0x80000000000 then .packed
  else if a < 0xC0000000000 then .t2
  else if a < 0x100000000000 then .t2packed
  else .unmapped

/-- Bytes of each stack (R2, MOD_ID.STACK_GIB). -/
def Mach.stackBytes (m : Mach) : Nat := m.rd .MOD_ID_STACK_GIB 0 * 2 ^ 30

/-- R239: the byte at `a` is mapped: the map names its range and the module has the storage. -/
def Mach.mapped (m : Mach) (a : Nat) : Bool :=
  match rangeOf a with
  | .unmapped => false
  | .linear => decide ((a - 0x10000000000) % 0x800000000 < m.stackBytes)
  | .alias_ => decide (a - 0x20000000000 < 32 * m.stackBytes)
  | _ => true

/-- R242: the linear T1 address of an alias address. -/
def aliasLinear (a : Nat) : Nat :=
  let o := a - 0x20000000000
  0x10000000000 + o / 4096 % 32 * 0x800000000 + o / 131072 * 4096 + o % 4096

/-- The address under which a byte of T0, staging or T1 is held. -/
def plainKey (a : Nat) : Nat := if rangeOf a = .alias_ then aliasLinear a else a

/-- R249: bytes of a poison granule: 64 in T1, one 64-bit word in a core store or staging SRAM. -/
def granule (a : Nat) : Nat := if a < 0x48000000 then 8 else 64

/-- The granule that holds the byte of key `k`. -/
def granKey (k : Nat) : Nat := k - k % granule k

/-- The error that stands in the granule of key `k`: 0 none, 1 correctable, 2 not. -/
def Mach.cellError (m : Mach) (k : Nat) : Nat := NMap.get (fun _ => 0) m.hurt.cells (granKey k)

/-- The granule of key `k` reads as poisoned: it is stored so, or an error that cannot be corrected stands in it (R246-R248). -/
def Mach.isPoison (m : Mach) (k : Nat) : Bool := m.poison.get (fun _ => false) (granKey k) || m.cellError k == 2

/-- One byte with its poison mark. -/
abbrev PByte := Byte × Bool

/-- The canonical form of a memory: addresses strictly rise, and no cell holds the 0 that an unlisted address reads as. -/
def Memory.wf (mem : List Host.Cell) : Bool := NMap.wf byte0 mem

/-- Reads one byte of T0, staging or T1 by its key. -/
def Mach.byteAt (m : Mach) (k : Nat) : Byte := NMap.get byte0 m.mem k

/-- The keys of `n` bytes from local address `a`. -/
def plainKeys (a n : Nat) : List Nat := (List.range n).map fun i => plainKey (a + i)

/-- Reads `n` bytes of plain storage with their poison. -/
def Mach.plainRead (m : Mach) (a n : Nat) : List PByte := (plainKeys a n).map fun k => (m.byteAt k, m.isPoison k)

/-- Marks or clears poison after a write of `ks` with poison `ps` (R248, R249): a granule written whole takes the data's
poison, one written in part keeps what it had as well, an error that could not be corrected with it; either way its check bits are
new. -/
def Mach.markPoison (m : Mach) (kps : List (Nat × Bool)) : Mach :=
  let gs := (kps.map fun kp => granKey kp.1).eraseDups
  { m with poison := gs.foldl (fun t g =>
      let mine := kps.filter fun kp => granKey kp.1 == g
      let whole := decide (granule g ≤ mine.length)
      let p := mine.any (·.2) || (!whole && (t.get (fun _ => false) g || m.cellError g == 2))
      NMap.set (fun _ => false) t g p) m.poison
           hurt := { m.hurt with cells := gs.foldl NMap.erase m.hurt.cells } }

/-- Writes bytes of plain storage with their poison. -/
def Mach.plainWrite (m : Mach) (a : Nat) (bs : List PByte) : Mach :=
  let ks := plainKeys a bs.length
  let m := { m with mem := NMap.setMany byte0 m.mem (ks.zip (bs.map Prod.fst)) }
  m.markPoison (ks.zip (bs.map Prod.snd))

/-- R248, R254, R263: captures the first uncorrectable detection of the module. -/
def Mach.originCapture (m : Mach) (kind addr : Nat) : Mach :=
  if m.on .MEM_POISON_ORIGIN_VALID 0 then m
  else m.wrs 0 [(.MEM_POISON_ORIGIN_VALID, 1), (.MEM_POISON_ORIGIN_KIND, kind), (.MEM_POISON_ORIGIN_ADDR, addr)]

/-- A detection of region `src` that creates poison: the capture, and POISON_CREATED. -/
def Mach.poisonOrigin (m : Mach) (kind src addr : Nat) : Mach := (m.originCapture kind addr).raise 0x30 kind src 0 addr

/-- Where a granule's code is checked: KIND of MEM_POISON_ORIGIN (0 stack, 1 core store, 2 staging SRAM), the stack or core, and the
region that reports. -/
def eccPlace (g : Nat) : Nat × Nat × Nat :=
  if g < 0x40000000 then (1, g / 2 ^ 24, g / 2 ^ 24)
  else if g < 0x48000000 then (2, 0, srcHub)
  else let s := (g - 0x10000000000) / 0x800000000; (0, s, srcDie (s / 8))

/-- Adds 1 to the corrected or the uncorrectable count of the place of granule `g`; staging SRAM has no count. -/
def Mach.eccCount (m : Mach) (g : Nat) (uncorr : Bool) : Mach :=
  let p := eccPlace g
  if p.1 = 0 then m.bump (if uncorr then .MEM_STK_UNCORR else .MEM_STK_CORR) p.2.1 1
  else if p.1 = 1 then m.bump (if uncorr then .CS_ECC_UNCORR else .CS_ECC_CORR) p.2.1 1
  else m

/-- R246-R248: a read of one granule: it corrects an error, or finds it uncorrectable, as it always does stored poison (moving which
raises nothing, R249). -/
def Mach.eccGranule (m : Mach) (g : Nat) : Mach :=
  let p := eccPlace g
  if m.cellError g = 2 then (m.eccCount g true).poisonOrigin p.1 p.2.2 g
  else if m.isPoison g then (m.eccCount g true).originCapture p.1 g
  else if m.cellError g = 1 then (m.eccCount g false).raise 0x40 p.1 p.2.2 0 g
  else m

/-- What the codes of plain storage find in a read of the keys `ks`. -/
def Mach.eccRead (m : Mach) (ks : List Nat) : Mach :=
  if m.hurt.cells.isEmpty && m.poison.isEmpty then m else ((ks.map granKey).eraseDups).foldl Mach.eccGranule m

/-- Plain bytes as a list without poison. -/
def Mach.bytes (m : Mach) (a n : Nat) : List Byte := (plainKeys a n).map m.byteAt

/-- The little-endian value at a plain address. -/
def Mach.word (m : Mach) (a n : Nat) : Nat := leNat (m.bytes a n)

/-- Writes plain bytes without poison. -/
def Mach.store (m : Mach) (a : Nat) (bs : List Byte) : Mach := m.plainWrite a (bs.map (·, false))

/-- R253: the window that covers a T2 offset, lowest-numbered first, and the host bus address it sends it to. -/
def Mach.t2Host (m : Mach) (o : Nat) : Option Nat :=
  ((List.range 16).find? fun n =>
    m.on .MEM_T2_WIN_LO_ENABLE n
      && decide (m.rd .MEM_T2_WIN_LO_BASE n * 2 ^ 21 ≤ o)
      && decide (o < (m.rd .MEM_T2_WIN_LO_BASE n + m.rd .MEM_T2_WIN_LO_SIZE n) * 2 ^ 21)).map fun n =>
    m.rd .MEM_T2_WIN_HI_HADDR n * 2 ^ 21 + (o - m.rd .MEM_T2_WIN_LO_BASE n * 2 ^ 21)

def Mach.hostPoisoned (m : Mach) (h : Nat) : Bool := m.hostPoison.get (fun _ => false) (h / 64)

/-- Reads `n` bytes from T2 offset `o` by the windows; the transfer has been checked. -/
def Mach.t2Read (m : Mach) (o n : Nat) : List PByte :=
  (List.range n).map fun i =>
    match m.t2Host (o + i) with
    | some h => (NMap.get byte0 m.host h, m.hostPoisoned h)
    | none => (0, true)

/-- Writes bytes to T2 offset `o`; poisoned data is written marked on the host link (R394). -/
def Mach.t2Write (m : Mach) (o : Nat) (bs : List PByte) : Mach :=
  ((List.range bs.length).zip bs).foldl (fun m ib =>
    match m.t2Host (o + ib.1) with
    | some h => { m with host := NMap.set byte0 m.host h ib.2.1,
                         hostPoison := NMap.set (fun _ => false) m.hostPoison (h / 64) ib.2.2 }
    | none => m) m

/-- R244: the first alias address of reserved region `n`, and the bytes that the regions take from the top. -/
def Mach.rsvBase (m : Mach) (n : Nat) : Nat := 0x20000000000 + m.rd .MEM_RSV_BASE n * 2 ^ 28
def Mach.rsvBytes (m : Mach) (n : Nat) : Nat := m.rd .MEM_RSV_SIZE n * 2 ^ 28

/-- A local address lies in a module-reserved region. -/
def Mach.inReserved (m : Mach) (a : Nat) : Bool :=
  let o := if rangeOf a = .alias_ then a - 0x20000000000
    else (a - 0x10000000000) % 0x800000000 / 4096 * 131072 + (a - 0x10000000000) / 0x800000000 * 4096 + a % 4096
  (List.range 4).any fun n =>
    decide (m.rd .MEM_RSV_BASE n * 2 ^ 28 ≤ o) && decide (o < m.rd .MEM_RSV_BASE n * 2 ^ 28 + m.rsvBytes n)

/-- A context runs and has not ended: a HALT ends it once all it issued has retired and been applied (R183). -/
def Mach.ctxLive (m : Mach) (k : Nat) : Bool :=
  let c := m.ctx k
  c.running && !(c.wait == .halt && c.defer.isEmpty
    && (m.members k).all fun g => !m.outstanding g k c.icount (List.range 7))

/-- Some context of the stage group of core `g` runs (R235, R236). -/
def Mach.groupRuns (m : Mach) (g : Nat) : Bool :=
  match m.seqOf g with
  | none => false
  | some s =>
    if m.rd .SEQ_MEMBER_FORM (coreDie g * 8 + s) = 0 then
      (List.range 8).any fun x => m.ctxLive (thrNum (coreDie g) 0 s x)
    else (m.groupCores (coreDie g) s).any fun h => (List.range 8).any fun x => m.ctxLive (thrNum (coreDie g) 1 (h % 16) x)

/-- The code window of core `g` holds some key of the list (R234). -/
def Mach.windowHit (m : Mach) (g : Nat) (ks : List Nat) : Option Nat :=
  if m.on .CC_CODE_WIN_LO_ENABLE g then
    ks.find? fun k => decide (m.rd .CC_CODE_WIN_LO_BASE g * 256 ≤ k) && decide (k < m.rd .CC_CODE_WIN_HI_LIMIT g * 256)
  else none

/-- R234-R236: a write to stack memory from source `src` (0 DMA, 1 host, 2 remote module, 3 ingest, 4 Cordwood) is compared
with every window; a running core stops with CODE_MODIFIED, another becomes STALE. -/
def Mach.codeCheck (m : Mach) (src : Nat) (ks : List Nat) : Mach :=
  let t1 := ks.filter fun k => decide (0x10000000000 ≤ k)
  if t1.isEmpty then m
  else (List.range 64).foldl (fun m g =>
    match m.windowHit g t1 with
    | none => m
    | some k =>
      let first := !m.on .CC_CODE_STATUS_MODIFIED g && !m.on .CC_CODE_STATUS_STALE g
      let m := if first then (m.wr .CC_CODE_STATUS_ADDR g k).wr .CC_CODE_STATUS_SOURCE g src else m
      if m.groupRuns g then
        if (m.core g).stopped then m
        else ((m.wr .CC_CODE_STATUS_MODIFIED g 1).onCore g fun c => { c with stopped := true }).raise 0x03 src g g k
      else m.wr .CC_CODE_STATUS_STALE g 1) m

/-- A checked write to T0, staging or T1 by an agent: the bytes, then the code windows. -/
def Mach.agentWrite (m : Mach) (src a : Nat) (bs : List PByte) : Mach :=
  (m.plainWrite a bs).codeCheck src (plainKeys a bs.length)

/-- The source of a write whose agent has no code of its own in CC_CODE_STATUS (trace, reduction, a Peat unit): a free value. -/
def Mach.freeSource (m : Mach) : Nat × Mach := ((Config.freeBits m.free).toNat % 8, m.fresh.2)

/-- A write of plain bytes by such an agent. -/
def Mach.unitStore (m : Mach) (a : Nat) (bs : List Byte) : Mach := m.freeSource.2.agentWrite m.freeSource.1 a (bs.map (·, false))

end Sys2Proof.Machine
end

