-- ==== Sys2Proof/Machine/Control.lean ====
section
/-! DEFINITION. Issue (R159, R160, R164, R177), contexts (R158, R183), loops and phases (R170, R171, R181, R185), flag
instructions (R167-R169, R180), TICKW, DWAIT and MARK. -/
namespace Sys2Proof.Machine

/-- The commands of class DMA of thread `thr` before ICOUNT `ic` whose TAG is in the mask have retired on every member
(R213). -/
def tagOf : Instr → Nat
  | .dcopy _ f => f.tag.toNat
  | .dpref _ f => f.tag.toNat
  | .ipull _ _ _ _ tag => tag.toNat
  | _ => 16

def Mach.dmaDone (m : Mach) (thr mask ic : Nat) : Bool :=
  (m.members thr).all fun g => ((m.core g).cmds 5).all fun c =>
    !(c.thr == thr && decide (c.icount < ic) && bitsAt mask (tagOf c.ins) 1 == 1)

/-- R159: a running context waits for none of the conditions of Table ZPM-4. -/
def Mach.ctxReady (m : Mach) (k : Nat) : Bool :=
  match (m.ctx k).wait with
  | .none => true
  | .join c => !m.ctxLive (k - thrCtx k + c) || c == thrCtx k
  | .dma mask ic => m.dmaDone k mask ic
  | .dmaq | .flagq => true
  | _ => false

/-- The 256-byte instruction-cache line of a context's next word (R166; lines are counted in ZVI words, log entry 21). -/
def lineOf (pc : Nat) : Nat := pc / 32

/-- The group of some core of the list stands at a cut (R489). -/
def Mach.cutStops (m : Mach) (gs : List Nat) : Bool :=
  match m.cut with
  | none => false
  | some c => gs.any (c.cores.contains ·)

/-- The code that a thread runs: its sequencer's active bank, or its core's code region. -/
def Mach.textOf (m : Mach) (k : Nat) : Option Text :=
  if thrForm k = 0 then
    let i := thrDie k * 8 + thrUnit k
    m.banks.get (fun _ => none) (i * 2 + m.rd .SEQ_BANK_SEL i)
  else m.codes.get (fun _ => none) (m.rd .CC_CODE_WIN_LO_BASE (thrDie k * 16 + thrUnit k))

/-- The lines of a set of an instruction cache (64 KiB, 256-byte lines, 4-way: 64 sets), most recently used first. -/
def icacheSet (ln : Nat) : Nat := ln % 64
def Core.icacheWays (c : Core) (ln : Nat) : List Nat := c.icache.get (fun _ => []) (icacheSet ln)
def Core.cached (c : Core) (ln : Nat) : Bool := (c.icacheWays ln).contains ln

/-- Line `ln` becomes the most recently used of its set; a fifth line displaces the least recently used one. -/
def Core.useLine (c : Core) (ln : Nat) : Core :=
  { c with icache := c.icache.set (fun _ => []) (icacheSet ln) ((ln :: (c.icacheWays ln).filter (· != ln)).take 4) }

/-- A line leaves the cache, to be fetched again (R500). -/
def Core.dropLine (c : Core) (ln : Nat) : Core :=
  { c with icache := c.icache.set (fun _ => []) (icacheSet ln) ((c.icacheWays ln).filter (· != ln)) }

/-- R166: the instruction cache of a per-core thread holds its next word. -/
def Mach.lineHeld (m : Mach) (k : Nat) : Bool :=
  thrForm k == 0 || (m.core (thrDie k * 16 + thrUnit k)).cached (lineOf (m.ctx k).pc)

/-- A core's engine queue of a class, and its capacity (R161). -/
def Core.engQ (c : Core) (u : Nat) : List Cmd :=
  match u with
  | 0 => c.lsuQ | 1 => c.opeQ | 2 => c.druQ | 3 => c.vecQ | 4 => c.niuQ | 5 => c.dmaQ | _ => c.strQ

def Core.setEngQ (c : Core) (u : Nat) (l : List Cmd) : Core :=
  match u with
  | 0 => { c with lsuQ := l } | 1 => { c with opeQ := l } | 2 => { c with druQ := l } | 3 => { c with vecQ := l }
  | 4 => { c with niuQ := l } | 5 => { c with dmaQ := l } | _ => { c with strQ := l }

def engCap (u : Nat) : Nat := if u = 5 then 512 else 16

def Mach.engRoom (m : Mach) (g u : Nat) : Bool := decide (((m.core g).engQ u).length < engCap u)

/-- R159: the context takes part in the round: it is ready, with an instruction to issue that no condition of its own stops. -/
def Mach.inRound (m : Mach) (k : Nat) : Bool :=
  let c := m.ctx k
  c.running && m.ctxReady k && m.lineHeld k && (m.textOf k).elim true (fun t => decide (c.pc < t.words.length))
    && match c.wait with
      | .dmaq => (m.members k).all fun g => m.engRoom g 5
      | .flagq => decide (c.defer.length < 4)
      | _ => true

/-- R159: contexts are served round robin, from the one after the context that issued last; one that takes no part may still count its wait. -/
def Mach.itsTurn (m : Mach) (k : Nat) : Bool :=
  !m.inRound k || (((List.range 8).map fun d => k - thrCtx k + (m.turn.get nat0 (k / 8) + d) % 8).find? m.inRound) == some k

/-- R160: a full engine queue stops every context of the unit but the one that waits for it. -/
def Mach.jammed (m : Mach) (k : Nat) : Bool :=
  match m.jam.get nat0 (k / 8) with
  | 0 => false
  | x + 1 => x != thrCtx k && (m.ctx (k - thrCtx k + x)).running

/-- The unit of thread `k` has issued for it: the next context is served first, and nothing stops the unit. -/
def Mach.roundOn (m : Mach) (k : Nat) : Mach :=
  { m with turn := NMap.set nat0 m.turn (k / 8) ((thrCtx k + 1) % 8), jam := NMap.set nat0 m.jam (k / 8) 0 }

/-- What lets thread `k` issue now (R158-R160, R164, R235, R448, R474, R489, R497, R501). -/
def Mach.canIssue (m : Mach) (k : Nat) : Bool :=
  let gs := m.members k
  m.ready && !m.frozen && !m.aborted && !m.pathStopped && m.stepRunning
    && m.rd .TICK_STATE_PHASE 0 != 0 && (m.ctx k).running && m.ctxReady k
    && gs.all (fun g => !(m.core g).stopped && bitsAt (m.rd .MOD_FENCE 0) g 1 == 0) && !m.cutStops gs
    && m.lineHeld k && !m.jammed k && m.itsTurn k

/-- R166: a per-core thread's next instruction is read from its core's instruction cache, whose line becomes the most recently used. -/
def Mach.lineUsed (m : Mach) (k : Nat) : Mach :=
  if thrForm k = 0 then m else m.onCore (thrDie k * 16 + thrUnit k) fun c => c.useLine (lineOf (m.ctx k).pc)

/-- R177: the issue of one instruction of `words` words. -/
def Mach.issue (m : Mach) (k words : Nat) : Mach :=
  let m := (m.lineUsed k).onCtx k fun c => { c with icount := (c.icount + 1) % 2 ^ 48, pc := c.pc + words, wait := .none, since := m.time }
  let m := m.roundOn k
  if thrForm k = 0 then m.bump .SEQ_ISSUED (thrDie k * 8 + thrUnit k) 1
  else m.ev (thrDie k * 16 + thrUnit k) (0xC0 + thrCtx k) 1

/-- R183: a context whose next instruction would begin beyond its text executes an implicit HALT. -/
def Mach.implicitHalt (m : Mach) (k : Nat) : Mach :=
  match m.textOf k with
  | some t => if t.words.length ≤ (m.ctx k).pc && (m.ctx k).wait == .none then m.onCtx k fun c => { c with wait := .halt, since := m.time } else m
  | none => m

/-- The thread that a REPLAY's cut names (R489). -/
def Mach.cutThread (m : Mach) (s : StepReq) : Nat :=
  let q := s.cutSeq % 8
  if m.rd .SEQ_MEMBER_FORM (s.cutDie % 4 * 8 + q) = 0 then thrNum (s.cutDie % 4) 0 q (s.cutCtx % 8)
  else thrNum (s.cutDie % 4) 1 (s.cutSeq / 16 % 16) (s.cutCtx % 8)

/-- R489: the cut is reached when its thread's ICOUNT becomes CUT_AT; the group then issues no more. -/
def Mach.cutCheck (m : Mach) (k : Nat) : Mach :=
  match m.step, m.cut with
  | some s, none =>
    if s.cutKind = 1 ∧ m.cutThread s = k ∧ (m.ctx k).icount = s.cutAt then
      { m with cut := some ⟨m.groupCores (s.cutDie % 4) (s.cutSeq % 8), m.time + m.rd .DBG_CUT_SETTLE_US 0 * 1000, k⟩ }.wr
        .TICK_STATE_HELD 0 1
    else m
  | _, _ => m

/-- A context begins to wait. -/
def Mach.waitFor (m : Mach) (k : Nat) (w : Wait) : Mach := m.onCtx k fun c => { c with wait := w, since := m.time }

/-- R183: contexts that are ready and stand at the end of their text execute the implicit HALT. -/
def Mach.settleHalts (m : Mach) : Mach :=
  (m.ctxs.filter fun kc => kc.2.running && m.ctxReady kc.1).foldl (fun m kc =>
    match m.textOf kc.1 with
    | some t => if t.words.length ≤ kc.2.pc then m.onCtx kc.1 fun c => { c with wait := .halt, since := m.time } else m
    | none => m) m

/-- What follows every issue. -/
def Mach.issued (m : Mach) (k : Nat) : Mach := (m.implicitHalt k).cutCheck k

/-- A control instruction: where the thread can issue, its issue, its effect, and what follows. -/
def control (t : ThreadId) (f : Nat → Mach → Mach) (m : Mach) : Mach :=
  if m.canIssue (threadNum t) then (f (threadNum t) (m.issue (threadNum t) 1)).issued (threadNum t) else m

/-- L of the innermost enclosing loop, 0 without one (R200). -/
def Mach.loopIter (m : Mach) (k : Nat) : Nat :=
  match (m.ctx k).loops with
  | l :: _ => l.iter
  | [] => 0

/-- The tile that an instruction names at issue (R170, R200). -/
def Mach.tileAt (m : Mach) (k : Nat) (tile : BitVec 7) (tinc : BitVec 1) : Nat :=
  if tinc = 1 then (tile.toNat + m.loopIter k) % 128 else tile.toNat

/-- A context begins to wait for what stops its next instruction (R160); one that waits for it already goes on. -/
def Mach.stopsFor (m : Mach) (k : Nat) (w : Wait) : Mach := if (m.ctx k).wait == w then m else m.waitFor k w

/-- A cycle in which an engine command waits for a queue entry that the cores `lack` lack (R160, R164, R554): its context stops for a DMA
queue, its whole unit for another. -/
def Mach.engStall (m : Mach) (k u : Nat) (gs lack : List Nat) : Mach :=
  if u = 5 then (gs.foldl (fun m g => m.stall g .CC_STALL_DMAQ 3) m).stopsFor k .dmaq
  else
    let m := { m with jam := NMap.set nat0 m.jam (k / 8) (1 + thrCtx k) }
    let m := lack.foldl (fun m g => m.bump .CC_STALL_ENGQ g 1) m
    if thrForm k = 0 then
      let i := thrDie k * 8 + thrUnit k
      if lack.length = gs.length then m.bump .SEQ_STALL_ENGQ i 1
      else (m.bump .SEQ_STALL_LOCKSTEP i 1).wr .SEQ_STATUS_LAGGARD i (lack.headD 0 % 16)
    else gs.foldl (fun m g => m.ev g 0x13 1) m

/-- R164: issues an engine command to every member core, or to none of them. -/
def engine (t : ThreadId) (i : Instr) (tile words : Nat) (m : Mach) : Mach :=
  let k := (threadNum t)
  if m.canIssue k then
    let gs := m.members k
    let u := unitOf i
    let lack := gs.filter fun g => !m.engRoom g u
    if lack.isEmpty then
      let m := m.issue k words
      let cmd : Cmd := ⟨i, k, (m.ctx k).icount, tile⟩
      (gs.foldl (fun m g => m.onCore g fun c => c.setEngQ u (c.engQ u ++ [cmd])) m).issued k
    else m.engStall k u gs lack
  else m

/-- R45, R167: a context whose FWAIT is met goes on. -/
def Mach.woken (m : Mach) (k : Nat) (c : Ctx) : Ctx :=
  match c.wait with
  | .flag g f th => if th ≤ m.flag (thrDie k) g f then { c with wait := .none, since := m.time } else c
  | _ => c

/-- Every context whose FWAIT is met goes on. -/
def Mach.wakeFlags (m : Mach) : Mach := { m with ctxs := m.ctxs.map fun kc => (kc.1, m.woken kc.1 kc.2) }

/-- Applies a flag operation and wakes the contexts it satisfies. -/
def Mach.flagOp (m : Mach) (k : Nat) (o : DefOp) : Mach := (m.applyFlag k o).wakeFlags

/-- A flag instruction: applied at issue without an AFTER set; deferred with one; a fifth pending operation waits
(R169). -/
def flagInstr (t : ThreadId) (g : BitVec 1) (flag : BitVec 8) (after : BitVec 6) (fn : FlagFn) (m : Mach) : Mach :=
  let k := (threadNum t)
  if m.canIssue k then
    if after ≠ 0 ∧ (m.ctx k).defer.length ≥ 4 then ((m.members k).foldl (fun m g => m.stall g .CC_WAIT_FLAG 5) m).stopsFor k .flagq
    else
      let m := m.issue k 1
      let o : DefOp := ⟨g == 1, flag.toNat, fn, after.toNat, (m.ctx k).icount⟩
      let m := if after = 0 then m.flagOp k o else m.onCtx k fun c => { c with defer := c.defer ++ [o] }
      m.issued k
  else m

/-- The phase tick index i of R171: ticks from the start of the phase. -/
def Mach.phaseIndex (m : Mach) : Nat :=
  let left := m.rd .TICK_STATE_PHASE_LEFT 0
  match m.step with
  | none => 0
  | some s =>
    let n := match m.rd .TICK_STATE_PHASE 0 with
      | 1 => s.f | 2 => s.b | 3 => s.u | _ => 0
    n - left

/-- The window OFF, LEN of a sequencer in a phase (R171). -/
def Mach.window (m : Mach) (seq phase : Nat) : Nat × Nat :=
  match phase with
  | 1 => (m.rd .SEQ_WIN_FB_F_OFF seq, m.rd .SEQ_WIN_FB_F_LEN seq)
  | 2 => (m.rd .SEQ_WIN_FB_B_OFF seq, m.rd .SEQ_WIN_FB_B_LEN seq)
  | 3 => (m.rd .SEQ_WIN_U_U_OFF seq, m.rd .SEQ_WIN_U_U_LEN seq)
  | _ => (0, 0)

/-- R171, R185: the PHASE test. -/
def Mach.phaseTest (m : Mach) (k pset sel : Nat) : Bool :=
  let p := m.rd .TICK_STATE_PHASE 0
  match m.thrSeq k with
  | none => false
  | some s =>
    let (off, len) := m.window (thrDie k * 8 + s) p
    let i := m.phaseIndex
    decide (p ≠ 0) && bitsAt pset (p - 1) 1 == 1 && decide (off ≤ i) && decide (i < off + len)
      && (if sel = 1 then i == off else if sel = 2 then i + 1 == off + len else true)

/-- Starts a context (R158): no loop level, at a word of its text; its ICOUNT goes on (R177). -/
def Ctx.start (c : Ctx) (now pc : Nat) : Ctx := { c with running := true, wait := .none, since := now, pc := pc, loops := [], defer := [] }

/-- R183: CTXSTART. -/
def ctxStart (ctx target k : Nat) (m : Mach) : Mach :=
  let j := k - thrCtx k + ctx
  if m.ctxLive j then (m.members k).foldl (fun m g => m.wr .CC_STATUS_START_BUSY g 1) m
  else m.onCtx j fun c => c.start m.time target

/-- R181: ENDL. -/
def endLoop (k : Nat) (m : Mach) : Mach :=
  m.onCtx k fun c =>
    match c.loops with
    | [] => c
    | l :: rest =>
      if l.count = 0 ∨ l.iter + 1 < l.count then { c with pc := l.start, loops := { l with iter := l.iter + 1 } :: rest }
      else { c with loops := rest }

/-- R186: the cairn record of a MARK; a CLASS equal to TRIG_CLASS triggers a CENTRE trace (R481). -/
def mark (cls value k : Nat) (m : Mach) : Mach :=
  let src := if thrForm k = 0 then srcDie (thrDie k) else thrDie k * 16 + thrUnit k
  let m := m.trace src 3 (leBytes 4 value ++ leBytes 6 (m.ctx k).icount ++ leBytes 1 (cls + 16 * thrForm k)
    ++ leBytes 1 (thrDie k + 4 * thrCtx k) ++ leBytes 1 (thrUnit k))
  if m.tracing && cls == m.rd .DBG_TRACE_CFG_TRIG_CLASS 0 then m.trigger 6 else m

namespace Control

def nop (t : ThreadId) : Mach → Mach := control t fun _ m => m
def yield (t : ThreadId) : Mach → Mach := control t fun _ m => m
def loop (t : ThreadId) (n : BitVec 16) : Mach → Mach :=
  control t fun k m => m.onCtx k fun c => { c with loops := ⟨c.pc, n.toNat, 0⟩ :: c.loops }
def endl (t : ThreadId) : Mach → Mach := control t endLoop
def ctxstart (t : ThreadId) (ctx : BitVec 3) (target : BitVec 20) : Mach → Mach :=
  control t (ctxStart ctx.toNat target.toNat)
def ctxjoin (t : ThreadId) (ctx : BitVec 3) : Mach → Mach :=
  control t fun k m => m.waitFor k (.join ctx.toNat)
def halt (t : ThreadId) : Mach → Mach := control t fun k m => m.waitFor k .halt
def tickw (t : ThreadId) : Mach → Mach := control t fun k m => m.waitFor k .tick
def dwait (t : ThreadId) (mask : BitVec 16) : Mach → Mach :=
  control t fun k m => m.waitFor k (.dma mask.toNat (m.ctx k).icount)
def fset (t : ThreadId) (g : BitVec 1) (flag : BitVec 8) (after : BitVec 6) (v : BitVec 16) : Mach → Mach :=
  flagInstr t g flag after (.set v.toNat)
def fadd (t : ThreadId) (g : BitVec 1) (flag : BitVec 8) (after : BitVec 6) (v : BitVec 16) : Mach → Mach :=
  flagInstr t g flag after (.add v.toInt)
def fclr (t : ThreadId) (g : BitVec 1) (flag : BitVec 8) (after : BitVec 6) : Mach → Mach := flagInstr t g flag after .clr
def fwait (t : ThreadId) (g : BitVec 1) (flag : BitVec 8) (th : BitVec 16) : Mach → Mach :=
  control t fun k m => (m.waitFor k (.flag (g == 1) flag.toNat th.toNat)).wakeFlags
def phase (t : ThreadId) (pset : BitVec 3) (sel : BitVec 2) (target : BitVec 20) : Mach → Mach :=
  control t fun k m =>
    if m.phaseTest k pset.toNat sel.toNat then m else m.onCtx k fun c => { c with pc := target.toNat }
def mark (t : ThreadId) (cls : BitVec 4) (value : BitVec 32) : Mach → Mach :=
  control t (Machine.mark cls.toNat value.toNat)

/-- R169: the oldest pending operation of a thread is applied once its AFTER set is met. -/
def deferredFlagApply (t : ThreadId) (m : Mach) : Mach :=
  let k := (threadNum t)
  match (m.ctx k).defer with
  | [] => m
  | o :: rest =>
    if m.mainUp && !m.frozen && m.afterMet k o then (m.onCtx k fun c => { c with defer := rest }).flagOp k o else m

/-- R166: a miss of a per-core thread is counted and its line filled, in place of the least recently used line of its set. -/
def icacheMissFill (t : ThreadId) (m : Mach) : Mach :=
  let k := (threadNum t)
  let g := thrDie k * 16 + thrUnit k
  let ln := lineOf (m.ctx k).pc
  if thrForm k = 1 && m.coreRuns g && (m.ctx k).running && !(m.core g).cached ln then
    (m.bump .CC_ICACHE_MISS g 1).onCore g fun c => c.useLine ln
  else m

end Control
end Sys2Proof.Machine
end

