-- ==== Sys2Proof/Machine/Approx.lean ====
section
/-! DEFINITION. The functions that the spec computes within an error bound (R112, R113, R129, R144, R145): their values to 384 binary
places, and the binary32 results that the bound allows, of which the module's fixed algorithm gives one (`Config.pick`; log entry 4). -/
namespace Sys2Proof.Machine

/-- A number in units of 2^-384; every value below has an error of less than 2^-180. -/
abbrev Fx := Int

def fx1 : Fx := 2 ^ 384
def fxMul (a b : Fx) : Fx := a * b / fx1
def fxDiv (a b : Fx) : Fx := a * fx1 / b

/-- A finite binary32 pattern, exactly. -/
def fxOf (x : Nat) : Fx :=
  match val32 x with
  | .fin neg m e => FVal.units neg m e (-384)
  | _ => 0

/-- ln 2 and 2 pi. -/
def fxLn2 : Fx := 0xb17217f7d1cf79abc9e3b39803f2f6af40f343267298b62d8a0d175b8baafa2be7b876206debac98559552fb4afa1b10
def fxTau : Fx := 0x6487ed5110b4611a62633145c06e0e68948127044533e63a0105df531d89cd9128a5043cc71a026ef7ca8cd9e69d218d9

/-- The square root of a number below 2^150. -/
def fxSqrt (a : Fx) : Fx := ((isqrt (a.toNat * 2 ^ 384) 460 0 : Nat) : Int)

/-- A series in Horner's form: `step i acc` for i from `n` down to 1. -/
def fxHorner (n : Nat) (step : Nat → Fx → Fx) (last : Fx) : Fx := (List.range n).foldl (fun acc i => step (n - i) acc) last

/-- e^x, of x below 2^8. -/
def fxExp (x : Fx) : Fx :=
  if x < -400 * fx1 then 0
  else
    let n := x / fxLn2
    let r := x - n * fxLn2
    let s := fxHorner 80 (fun i acc => fx1 + fxMul r acc / i) fx1
    if 0 ≤ n then s * 2 ^ n.toNat else s / 2 ^ (-n).toNat

/-- ln x of x above 0. -/
def fxLn (x : Fx) : Fx :=
  let k : Int := (Nat.log2 x.toNat : Int) - 384
  let m := if 0 ≤ k then x / 2 ^ k.toNat else x * 2 ^ (-k).toNat
  let z := fxDiv (m - fx1) (m + fx1)
  let z2 := fxMul z z
  2 * fxMul z (fxHorner 125 (fun i acc => fx1 / (2 * i - 1 : Nat) + fxMul z2 acc) 0) + k * fxLn2

/-- cos (2 pi u) of u from 0 to 1. -/
def fxCosTau (u : Fx) : Fx :=
  let t := fxMul fxTau u
  let t2 := fxMul t t
  fxHorner 80 (fun i acc => fx1 - fxMul t2 acc / ((2 * i - 1) * (2 * i) : Nat)) fx1

/-- sigma(x) = 1 / (1 + e^-x). -/
def fxSigma (x : Fx) : Fx :=
  let e := fxExp (-(x.natAbs : Int))
  if 0 ≤ x then fxDiv fx1 (fx1 + e) else fxDiv e (fx1 + e)

/-- phi(x) and Phi(x), the density and distribution of R112; beyond 16 they are 0, and 0 or 1, within the error. -/
def fxDensity (x : Fx) : Fx := fxMul (fxSqrt (fxDiv fx1 fxTau)) (fxExp (-(fxMul x x / 2)))
def fxPhi (x : Fx) : Fx :=
  if x ≤ -16 * fx1 then 0
  else if 16 * fx1 ≤ x then fx1
  else
    let x2 := fxMul x x
    fx1 / 2 + fxMul (fxDensity x) (fxMul x (fxHorner 600 (fun i acc => fx1 + fxMul x2 acc / (2 * i + 1 : Nat)) fx1))

/-- y = k(x + 0.044715 x^3) and k(1 + 0.134145 x^2), k = sqrt(2 / pi) (R112); beyond 64 in magnitude the argument is cut off, where
sigma(2y) is 0 or 1 within the error. -/
def fxK : Fx := 2 * fxSqrt (fxDiv fx1 fxTau)
def fxCut (x : Fx) : Fx := max (-64 * fx1) (min (64 * fx1) x)
def fxY (x : Fx) : Fx := fxMul fxK (x + fxMul x (fxMul x x) * 44715 / 1000000)
def fxY' (x : Fx) : Fx := fxMul fxK (fx1 + fxMul x x * 134145 / 1000000)

/-- Table ACC-4: f of ACT 2 to 7. With y as above, (1 + tanh y) / 2 = sigma(2y). -/
def fxAct (act : Nat) (x : Fx) : Fx :=
  match act with
  | 2 => fxMul x (fxSigma (2 * fxY (fxCut x)))
  | 3 => fxMul x (fxPhi x)
  | 4 => fxMul x (fxSigma x)
  | 5 => fxSigma x
  | 6 =>
    let e := fxExp (-2 * (x.natAbs : Int))
    let t := fxDiv (fx1 - e) (fx1 + e)
    if 0 ≤ x then t else -t
  | _ => max x 0 + fxLn (fx1 + fxExp (-(x.natAbs : Int)))

/-- Table ACC-4: f' of ACT 2 to 7. 1 - tanh^2 y = 4 sigma(2y) sigma(-2y). -/
def fxDeriv (act : Nat) (x : Fx) : Fx :=
  match act with
  | 2 =>
    let x := fxCut x
    let s := fxSigma (2 * fxY x)
    let s' := fxSigma (-2 * fxY x)
    s + 2 * fxMul (fxMul x (fxMul s s')) (fxY' x)
  | 3 => let x := fxCut x; fxPhi x + fxMul x (fxDensity x)
  | 4 =>
    let x := max (-400 * fx1) (min (400 * fx1) x)
    fxMul (fxSigma x) (fx1 + fxMul x (fxSigma (-x)))
  | 5 => fxMul (fxSigma x) (fxSigma (-x))
  | 6 => 4 * fxMul (fxSigma (2 * x)) (fxSigma (-2 * x))
  | _ => fxSigma x

/-- Table VEC-2's functions VEXP, VLOG, VRSQ and VRCP (0 to 3) of a finite argument. -/
def fxTransc (op : Nat) (x : Fx) : Fx :=
  match op with
  | 0 => fxExp x
  | 1 => fxLn x
  | 2 => fxSqrt (fxDiv fx1 x)
  | _ => fxDiv fx1 x

/-- The unit of the bound at a value, in units of 2^-384, and the bound: `k` ulp of binary32, or an absolute 2^-149 below 2^-126. -/
def errUnit (v : Fx) : Nat := if v.natAbs < 2 ^ 258 then 2 ^ 235 else 2 ^ (Nat.log2 v.natAbs - 23)
def errBound (k : Nat) (v : Fx) : Nat := if v.natAbs < 2 ^ 258 then 2 ^ 235 else k * errUnit v

/-- The finite binary32 patterns that differ from `v` by no more than the bound, in rising order. -/
def within (k : Nat) (v : Fx) : List Nat :=
  let h : Int := ((errUnit v / 2 : Nat) : Int)
  let b : Int := ((errBound k v : Nat) : Int)
  (List.range (4 * k + 3)).filterMap fun (i : Nat) =>
    let w : Fx := ((v - b) / h + i) * h
    let r := rn (FVal.ofUnits w (-384))
    if decide (v - b ≤ w ∧ w ≤ v + b) && isFin32 r && decide (fxOf r = w) then some r else none

/-- The result of function `f` of the input pattern `x`, whose exact value is `v`, within `k` ulp; a zero's sign is free too. -/
def pickFp (f x k : Nat) (v : Fx) : Nat :=
  let c := (Config.pick f (BitVec.ofNat 32 x)).toNat
  let rs := within k v
  let r := rs.getD (c / 2 % rs.length) (rn (FVal.ofUnits v (-384)))
  if r = 0 ∧ c % 2 = 1 then 0x80000000 else r

/-- R113: the ulps of an activation and its derivative. -/
def actUlps (act : Nat) : Nat := if act = 2 ∨ act = 3 then 4 else 2

/-- The functions' numbers: ACT, 16 + ACT for its derivative, 32 + op for Table VEC-2, and VRNG's square root and cosine. -/
def actPick (act x : Nat) : Nat := pickFp act x (actUlps act) (fxAct act (fxOf x))
def derivPick (act x : Nat) : Nat := pickFp (16 + act) x (actUlps act) (fxDeriv act (fxOf x))
def transcPick (op x : Nat) : Nat := pickFp (32 + op) x (if op ≤ 1 then 2 else 1) (fxTransc op (fxOf x))
def sqrtPick (x : Nat) : Nat := pickFp 36 x 1 (fxSqrt (fxOf x))
def cosPick (u : Nat) : Nat := pickFp 37 u 2 (fxCosTau (u * 2 ^ 360))

end Sys2Proof.Machine
end

