-- ==== Sys2Proof/Machine/Poison.lean ====
section
/-! DEFINITION. POISON_CONSUMED (R250): the capture, the halt of the consuming unit, and the fault. -/
namespace Sys2Proof.Machine

/-- The number of a unit in MEM_POISON_CONSUMED.UNIT. -/
def UnitCls.code : UnitCls → Nat
  | .lsu => 0 | .ope => 1 | .dru => 2 | .vec => 3 | .niu => 4 | .dma => 5 | .str => 6

/-- R250: unit `u` of core `g` took poisoned data from queue end `e` (63: from core-store offset `off`). -/
def Mach.poisonConsumed (m : Mach) (g : Nat) (u : UnitCls) (e off : Nat) : Mach :=
  let m := if m.on .MEM_POISON_CONSUMED_VALID 0 then m
    else m.wrs 0 [(.MEM_POISON_CONSUMED_VALID, 1), (.MEM_POISON_CONSUMED_CORE, g), (.MEM_POISON_CONSUMED_UNIT, u.code),
      (.MEM_POISON_CONSUMED_QUEUE, e), (.MEM_POISON_CONSUMED_CS_ADDR, off)]
  let m := m.onCore g fun c => { c with halted := u :: c.halted }
  m.raise 0x04 u.code g e off

/-- The unit of a core can work: the core's clock runs and the unit has not taken poison. -/
def Mach.unitRuns (m : Mach) (g : Nat) (u : UnitCls) : Bool := m.coreRuns g && !(m.core g).halted.contains u

/-- The least place among starts is the oldest. -/
def nextOrd (os : List Nat) : Nat := os.foldl max 0 + 1

end Sys2Proof.Machine
end

