-- ==== Sys2Proof/Machine/Streams.lean ====
section
/-! DEFINITION. The stream engine (R153-R156, R551): SDEF and SRUN as engine commands, generators and addresses. -/
namespace Sys2Proof.Machine

/-- A count of dimension: 0 stands for 2^24 (Table ZPM-3). -/
def dimCount (c : BitVec 24) : Nat := if c = 0 then 2 ^ 24 else c.toNat

/-- Addresses of one pass. -/
def sdefTotal (d : SdefF) : Nat := dimCount d.count0 * dimCount d.count1 * dimCount d.count2 * dimCount d.count3

/-- R154: r = (T + TSHIFT) mod TMOD, 0 without rotation. -/
def sdefRing (d : SdefF) (t : Nat) : Int := if d.tmod = 0 then 0 else ((t : Int) + d.tshift.toInt) % (d.tmod.toNat : Int)

/-- R154: the address at place `q` of a pass, for group position `p` and step tick index `t`. -/
def sdefAddr (d : SdefF) (p t q : Nat) : Word64 :=
  let c0 := dimCount d.count0
  let c1 := dimCount d.count1
  let c2 := dimCount d.count2
  let i : Nat → Int := fun k => match k with
    | 0 => ((q % c0 : Nat) : Int)
    | 1 => ((q / c0 % c1 : Nat) : Int)
    | 2 => ((q / (c0 * c1) % c2 : Nat) : Int)
    | _ => ((q / (c0 * c1 * c2) : Nat) : Int)
  BitVec.ofInt 64 ((d.base.toNat : Int) + p * d.pstride.toInt + sdefRing d t * d.tstride.toInt + i 0 * d.stride0.toInt
    + i 1 * d.stride1.toInt + i 2 * d.stride2.toInt + i 3 * d.stride3.toInt)

/-- A descriptor of a context of a core. -/
def descKey (thr s : Nat) : Nat := thrCtx thr * 16 + s

def Core.descAt (c : Core) (k : Nat) : StreamDesc := c.desc.get (fun _ => StreamDesc.undef) k
def Core.setDesc (c : Core) (k : Nat) (d : StreamDesc) : Core := { c with desc := c.desc.set (fun _ => StreamDesc.undef) k d }
def Core.gen (c : Core) (i : Nat) : Option GenRun := c.gens.get (fun _ => none) i
def Core.setGen (c : Core) (i : Nat) (r : Option GenRun) : Core := { c with gens := c.gens.set (fun _ => none) i r }

/-- The descriptor and address queue of an SRUN. -/
def srunOf : Instr → Option (Nat × Nat × Nat)
  | .srun _ s a n => some (s.toNat, a.toNat, n.toNat)
  | _ => none

/-- The SRUN of a generator uses descriptor `k`. -/
def GenRun.uses (r : GenRun) (k : Nat) : Bool :=
  match srunOf r.cmd.ins with
  | some (s, _, _) => descKey r.cmd.thr s == k
  | none => false

/-- The address queue of a generator's SRUN. -/
def GenRun.queue (r : GenRun) : Nat := (srunOf r.cmd.ins).elim 63 (·.2.1)

/-- T of R154: ticks since the running step began. -/
def Mach.stepTick (m : Mach) : Nat := m.rd .TICK_NUMBER 0 - m.step.elim 0 (·.stepAt)

/-- Drops the head of a core's engine queue. -/
def Mach.popEng (m : Mach) (g u : Nat) : Mach := m.onCore g fun c => c.setEngQ u ((c.engQ u).drop 1)

namespace Streams

def sdef (t : ThreadId) (d : SdefF) : Mach → Mach := engine t (.sdef t d) 0 9
def srun (t : ThreadId) (s : BitVec 4) (a : BitVec 6) (n : BitVec 25) : Mach → Mach := engine t (.srun t s a n) 0 1

/-- R155: how many addresses an SRUN gives: n, or what remains of the pass for 0; a free count for an undefined
descriptor (R551). -/
def srunCount (m : Mach) (d : StreamDesc) (n : Nat) : Nat × Mach :=
  if n ≠ 0 then (n, m)
  else if d.defined then (sdefTotal d.d - d.pos, m)
  else
    let (i, m) := m.fresh
    ((Config.freeBits i).toNat % 2 ^ 24 + 1, m)

/-- Starts an SRUN on generator `i` of core `g`: it takes its places of the pass and reads T (R154, R155). -/
def srunStart (g i : Nat) (cmd : Cmd) (s n : Nat) (m : Mach) : Mach :=
  let k := descKey cmd.thr s
  let d := (m.core g).descAt k
  let (cnt, m) := srunCount m d n
  let r : GenRun := ⟨cmd, nextOrd ((slotVals (m.core g).gens).map (·.ord)), cnt, m.stepTick, d.pos⟩
  let pos := if d.defined then (d.pos + cnt) % sdefTotal d.d else d.pos
  (m.popEng g 6).onCore g fun c => (c.setGen i (some r)).setDesc k { d with pos := pos }

/-- R156: the stream engine takes the head of its queue: an SDEF once no running SRUN uses its descriptor, an SRUN once a
generator is free. -/
def genStart (g6 : BitVec 6) (m : Mach) : Mach :=
  let g := g6.toNat
  let c := m.core g
  if !m.unitRuns g .str then m
  else match c.strQ with
    | [] => m
    | cmd :: _ =>
      match cmd.ins with
      | .sdef _ d =>
        let k := descKey cmd.thr d.s.toNat
        if (slotVals c.gens).any (·.uses k) then m
        else (m.popEng g 6).onCore g fun c => c.setDesc k ⟨d, 0, true⟩
      | .srun _ s _ n =>
        match (List.range 8).find? fun i => (c.gen i).isNone with
        | none => m
        | some i => srunStart g i cmd s.toNat n.toNat m
      | _ => m

/-- The next address of a generator: the descriptor's, or a free one for an undefined descriptor (R551). -/
def nextAddr (g : Nat) (r : GenRun) (m : Mach) : AddrEnt × Mach :=
  match srunOf r.cmd.ins with
  | none => (⟨0, 0⟩, m)
  | some (s, _, _) =>
    let d := (m.core g).descAt (descKey r.cmd.thr s)
    if d.defined then (⟨sdefAddr d.d (m.position r.cmd.thr g) r.t r.pos, d.d.mode⟩, m)
    else
      let (i, m) := m.fresh
      let (j, m) := m.fresh
      (⟨Config.freeBits i, BitVec.ofNat 2 (Config.freeBits j).toNat⟩, m)

/-- R156, R151: a generator pushes one address once its queue has room, the oldest SRUN of a queue first. -/
def addressPush (g6 : BitVec 6) (i3 : BitVec 3) (m : Mach) : Mach :=
  let g := g6.toNat
  let i := i3.toNat
  let c := m.core g
  match c.gen i with
  | none => m
  | some r =>
    let a := r.queue
    let first := (slotVals c.gens).all fun q => decide (r.ord ≤ q.ord) || q.queue != a
    if m.unitRuns g .str && first && isAddrQ a && m.aqRoom g a then
      let (e, m) := nextAddr g r m
      let d := srunOf r.cmd.ins |>.elim StreamDesc.undef fun x => (m.core g).descAt (descKey r.cmd.thr x.1)
      let pos := if d.defined then (r.pos + 1) % sdefTotal d.d else r.pos
      let r' : Option GenRun := if r.left ≤ 1 then none else some { r with left := r.left - 1, pos := pos }
      ((m.pushA g a e).onCore g fun c => c.setGen i r').ev g (0x80 + a) 1
    else m

end Streams
end Sys2Proof.Machine
end

