-- ==== Sys2Proof/Machine/Chan.lean ====
section
/-! DEFINITION. Channel ends (R152, R207): acceptance at NET_TX (R346, R390) and RED_TX ends (R318, R320), delivery at
NET_RX and MCAST_RX ends, their pops with credit and settlement, and the frames that wait for a link. -/
namespace Sys2Proof.Machine

/-- The instance number of channel end `c` (0-15) of core `g`. -/
def endKey (g c : Nat) : Nat := g * 16 + c

/-- Fields of an end's binding (Table ZPM-2). -/
def Mach.chKind (m : Mach) (g c : Nat) : Nat := m.rd .CHAN_BIND_KIND (endKey g c)
def Mach.chGroup (m : Mach) (g c : Nat) : Nat := m.rd .CHAN_BIND_GROUP (endKey g c)

/-- Entries of an end not yet settled, and those that its present binding waits for (R390). -/
def Mach.unsettled (m : Mach) (k : Nat) : Nat := m.fab.unsettled.get nat0 k
def Mach.waitSettle (m : Mach) (k : Nat) : Nat := m.fab.waitSettle.get nat0 k

/-- One more entry of a NET_TX end is under way. -/
def Mach.addUnsettled (m : Mach) (k : Nat) : Mach :=
  m.onFab fun b => { b with unsettled := NMap.set nat0 b.unsettled k (b.unsettled.get nat0 k + 1) }

/-- R390: one entry of NET_TX end `k` has been settled. -/
def Mach.settle (m : Mach) (k : Nat) : Mach :=
  m.onFab fun b => { b with
    unsettled := NMap.set nat0 b.unsettled k (b.unsettled.get nat0 k - 1)
    waitSettle := NMap.set nat0 b.waitSettle k (b.waitSettle.get nat0 k - 1) }

/-- Puts an entry into a receiving end. -/
def Mach.deliver (m : Mach) (g c : Nat) (e : ChEnt) : Mach :=
  (m.onCore g fun co => co.setChan c (co.chan c ++ [e])).ev g (0x80 + 32 + c) 1

/-- The entry of a payload. -/
def entOf (payload : List Byte) (poison : Bool) : Ent := ⟨slotOfBytes payload, poison⟩

/-- R370: a frame of class `cls` from module `src` to `dest` is discarded as unreachable; on its source module a running step faults. -/
def Mach.dropUnreachable (m : Mach) (cls src dest : Nat) : Mach :=
  let m := m.bump .FAB_UNREACHABLE_DROPS 0 1
  if src = m.myId ∧ m.stepRunning then m.raise 0x09 cls srcHub dest 0 else m

/-- A NET_TX end's acceptance: to the peer's end on this module, or in a frame over the fabric. -/
def Mach.netAccept (m : Mach) (g c : Nat) (d : Ent) : Option Mach :=
  let k := endKey g c
  if 0 < m.waitSettle k then none
  else
    let dm := m.rd .CHAN_BIND_PEER_MODULE k
    let dg := m.rd .CHAN_BIND_PEER_CORE k
    let dc := m.rd .CHAN_BIND_PEER_END k
    if dm = m.myId then some ((m.deliver dg dc ⟨d, 1 + k, 0, false, false⟩).addUnsettled k)
    else if m.unreachable dm 1 then some (m.dropUnreachable 1 m.myId dm)
    else
      match m.route dm 1 512 with
      | none => none
      | some (l, det) =>
        let (f, m) := m.dataFrame g dm dg dc 1 (slotBytes d.bits 512) d.poison
        let m := m.sendOn l { f with detour := det }
        some ((m.onFab fun b => { b with
          netOut := NMap.set (fun _ => []) b.netOut l (b.netOut.get (fun _ => []) l ++ [1 + k]) }).addUnsettled k)

/-- Bytes of an entry in the reduction buffer: 256 for SUM16, else 512 (R320). -/
def redWidth (op : Nat) : Nat := if op = 0 then 256 else 512

/-- The 256-byte units of a block. -/
def RedBlk.units (b : RedBlk) : Nat := b.need * (redWidth b.op / 256)

/-- The block holds its space in its core's buffer: it is of RED_TX ends, not in the bucket, and its last hop addition on this module is still
to come (R320). -/
def RedBlk.buffered (b : RedBlk) : Bool := b.kind == 0 && !b.bucketed && !b.gather && !b.done

/-- The runs of units that some blocks hold, in rising order. -/
def runsOf (bs : List RedBlk) : NMap Nat := (bs.flatMap (·.place)).foldl (fun t (r : Nat × Nat) => NMap.set nat0 t r.1 r.2) []

/-- Units in runs. -/
def runUnits (rs : List (Nat × Nat)) : Nat := (rs.map Prod.snd).foldl (· + ·) 0

/-- The lowest `need` units from `at_` on that the runs leave free, as runs. -/
def freeRuns (at_ need : Nat) : NMap Nat → List (Nat × Nat)
  | [] => if need = 0 then [] else [(at_, need)]
  | (u, l) :: rs =>
    let n := min need (u - at_)
    (if n = 0 then [] else [(at_, n)]) ++ freeRuns (u + l) (need - n) rs

/-- Unit `i` of runs. -/
def unitAt : List (Nat × Nat) → Nat → Nat
  | [], i => i
  | (u, l) :: rs, i => if i < l then u + i else unitAt rs (i - l)

/-- Units of core `g`'s reduction buffer in use (R320). -/
def Mach.redRuns (m : Mach) (g : Nat) : NMap Nat := runsOf (m.red.blks.filter fun b => b.g == g && b.buffered)

/-- The block of channel (n, g) that still takes entries of RED_TX ends. -/
def RedBlk.open? (b : RedBlk) (n g : Nat) : Bool := b.n == n && b.g == g && b.kind == 0 && decide (b.cnt < b.need)

/-- R320, R322: the address of unit `i` of a block: in its core's buffer in staging SRAM, or in the bucket. -/
def Mach.redUnit (m : Mach) (b : RedBlk) (i : Nat) : Nat :=
  (if b.bucketed then m.rd .RED_BUCKET_BASE 0 * 4096 else 0x40000000 + (m.rd .RED_BUF_BASE 0 + b.g) * 2 ^ 20) + 256 * unitAt b.place i

/-- Writes an accepted entry into the buffer. -/
def Mach.redPut (m : Mach) (b : RedBlk) (d : Ent) : Mach :=
  let w := redWidth b.op / 256
  let bs := (slotBytes d.bits (256 * w)).map (·, d.poison)
  (List.range w).foldl (fun m j => m.plainWrite (m.redUnit b (b.cnt * w + j)) ((bs.drop (256 * j)).take 256)) m

def Mach.redCount (m : Mach) (n g : Nat) : Nat := m.red.counts.get nat0 (n * 64 + g)

/-- Starts a block of a channel with the next number (R318). -/
def Mach.redNew (m : Mach) (n g kind op need : Nat) : Mach :=
  let k := m.redCount n g
  let b : RedBlk := ⟨n, g, k, kind, op, need, 0, [], [], [], m.rd .TICK_NUMBER 0, false, false, false, false, 0, [], 0, false, 0, [], []⟩
  { m with red := { m.red with blks := m.red.blks ++ [b], counts := NMap.set nat0 m.red.counts (n * 64 + g) (k + 1) } }

/-- Adds an entry to a block; a full block is released at once in TILE mode, and always for RRED and RGATH (R322, R323). -/
def RedBlk.take (b : RedBlk) (tile : Bool) (d : Ent) : RedBlk :=
  let full := decide (b.need ≤ b.cnt + 1)
  { b with cnt := b.cnt + 1, ents := if b.kind = 0 then b.ents else b.ents ++ [d.bits]
           poison := NMap.set (fun _ => false) b.poison b.cnt d.poison, released := b.released || (full && (tile || b.kind != 0)) }

/-- Blocks released and not complete, those in the bucket: RED_STATUS. -/
def Mach.redTile (m : Mach) : Bool := m.rd .MOD_MODE_REDUCE 0 == 0

/-- R318, R320: a RED_TX end's acceptance. -/
def Mach.redAccept (m : Mach) (g c : Nat) (d : Ent) : Option Mach :=
  let n := m.chGroup g c
  if !m.on .RED_STREAM_CFG_ENABLE n || !m.on .RED_BUF_ENABLE 0 then none
  else
    let op := m.rd .RED_STREAM_CFG_OP n
    let need := m.rd .RED_STREAM_CFG_BLOCK n
    let isOpen := m.red.blks.any fun b => b.open? n g
    let used := m.redRuns g
    let units := need * (redWidth op / 256)
    if !isOpen && decide (4096 < runUnits used + units) then none
    else
      let m := if isOpen then m
        else
          let m := m.redNew n g 0 op need
          { m with red := { m.red with blks := m.red.blks.map fun b => if b.open? n g then { b with place := freeRuns 0 units used } else b } }
      let m := (m.red.blks.find? (·.open? n g)).elim m fun b => m.redPut b d
      let before := m.red.blks.countP RedBlk.released
      let blks := m.red.blks.map fun b => if b.open? n g then b.take m.redTile d else b
      some ({ m with red := { m.red with blks := blks } }.hev 2 0x29 (blks.countP RedBlk.released - before))

/-- R152, R207, R320: channel end `c` of core `g` accepts an entry, or does not (none). -/
def Mach.accept (m : Mach) (g c : Nat) (d : Ent) : Option Mach :=
  let r := match m.chKind g c with
    | 1 => m.netAccept g c d
    | 4 => m.redAccept g c d
    | _ => none
  r.map fun m => m.ev g (0x80 + 32 + c) 1

/-- R470: the cycle in which end `e` (by its queue end code) refuses a unit's entry: under cause 8 of Table DBG-2 where it is a RED_TX end (R320),
else under cause 12, in the unit's counter `f`. -/
def Mach.refused (m : Mach) (g e : Nat) (f : Fld) : Mach :=
  if isChan e && m.chKind g (e - 32) == 4 then (m.bump .RED_BACKPRESSURE_CYCLES 0 1).ev g 0x18 1 else m.stall g f 12

/-- Pushes an entry to a data queue or channel end, where it has room. -/
def Mach.pushEnd (m : Mach) (g e : Nat) (d : Ent) : Option Mach :=
  if isDataQ e then (if m.qRoom g e 1 then some ((m.pushQ g e d).ev g (0x80 + e) 1) else none)
  else if isChan e then m.accept g (e - 32) d
  else some m

/-- Pushes a list of (end, entry) pairs, all of them or none. -/
def Mach.pushAll (m : Mach) (g : Nat) : List (Nat × Ent) → Option Mach
  | [] => some m
  | (e, d) :: rest =>
    match m.pushEnd g e d with
    | none => none
    | some m => m.pushAll g rest

/-- The link over which the credits of link `l` return: itself, or where it has left its port another of that port. -/
def Mach.creditHome (m : Mach) (l : Nat) : Nat :=
  if m.linkState l = 3 ∨ m.linkState l = 8 then l
  else ((dirLinks (l / 6)).find? fun j => m.on .FAB_LINK_IN_PORT j && m.rd .FAB_LINK_PORT j == m.rd .FAB_PORT_CFG_LINK_PORT l).getD l

/-- R346: one receive buffer of class `cls` that link `l0` filled is free again: returned in a CREDIT frame at level 3, else in the
next frame's CREDIT field. -/
def Mach.returnCredit (m : Mach) (l0 cls : Nat) : Mach :=
  let l := m.creditHome l0
  if m.rd .FAB_LINK_LEVEL l = 3 then m.sendCtl l 4 (padTo 16 (leBytes 1 cls ++ leBytes 2 1))
  else m.onFab fun b => { b with owed := NMap.set nat0 b.owed (credKey l cls) (b.owed.get nat0 (credKey l cls) + 1) }

/-- What the pop of an entry of a receiving end does besides: the credit of the link it came over, or the settlement of its
sender on this module (R346, R390). -/
def Mach.popped (m : Mach) (e : ChEnt) : Mach :=
  let m := if e.link = 0 then m else m.returnCredit (e.link - 1) 1
  if e.org = 0 then m else m.settle (e.org - 1)

/-- One waiting frame: discarded where its destination cannot be reached, sent where a link can take it, else it waits on. -/
def Mach.tryWaiting (m : Mach) (w : Waiting) : Mach :=
  let f := w.frame
  let back (m : Mach) : Mach := if w.link = 0 then m else m.returnCredit (w.link - 1) f.cls
  if m.unreachable f.dMod f.cls then
    let m := back (m.dropUnreachable f.cls f.sMod f.dMod)
    if w.org = 0 then m else m.settle (w.org - 1)
  else
    match (match w.dir with | some d => m.routeDir d f.cls f.payload.length | none => m.route f.dMod f.cls f.payload.length) with
    | none => m.onFab fun b => { b with wait := b.wait ++ [w] }
    | some (k, det) =>
      let m := m.onFab fun b => { b with
        netOut := if f.cls = 1 then NMap.set (fun _ => []) b.netOut k (b.netOut.get (fun _ => []) k ++ [w.org]) else b.netOut }
      back (m.sendOn k { f with detour := f.detour || det })

/-- The first frame of each flow among those that wait, and the rest, each in order. -/
def heads (ws : List Waiting) : List Waiting × List Waiting :=
  let key (w : Waiting) : Nat := flowKey w.frame.sCore w.frame.dMod w.frame.cls + 2 ^ 27 * w.frame.sMod
  ws.foldl (fun a w => if a.1.any fun v => key v == key w then (a.1, a.2 ++ [w]) else (a.1 ++ [w], a.2)) ([], [])

/-- R349: the flows of one class share equally: one frame of each in turn. -/
def turns : Nat → List Waiting → List Waiting
  | 0, ws => ws
  | n + 1, ws => (heads ws).1 ++ turns n (heads ws).2

/-- R349: weighted round robin: each round takes as many frames of each list as its weight. -/
def rounds : Nat → List (Nat × List Waiting) → List Waiting
  | 0, ls => ls.flatMap Prod.snd
  | n + 1, ls => (ls.flatMap fun wl => wl.2.take wl.1) ++ rounds n (ls.map fun wl => (wl.1, wl.2.drop wl.1))

/-- FAB_ARB: the weight of a class. -/
def Mach.arbWeight (m : Mach) (cls : Nat) : Nat :=
  max 1 (m.rd (if cls = 1 then .FAB_ARB_W_NET else if cls = 2 then .FAB_ARB_W_RED else if cls = 3 then .FAB_ARB_W_MEM else .FAB_ARB_W_ING) 0)

/-- R349: the order in which what waits is offered to its ports. -/
def Mach.arbitrate (m : Mach) (ws : List Waiting) : List Waiting :=
  if ws.length ≤ 1 then ws
  else
    let ofClass (c : Nat) : List Waiting := ws.filter fun w => (if w.frame.cls ≤ 3 then max 1 w.frame.cls else 4) == c
    rounds ws.length (([1, 2, 3, 4] : List Nat).map fun c => (m.arbWeight c, turns ws.length (ofClass c)))

/-- Sends what waits for a link and can go now. -/
def Mach.flush (m : Mach) : Mach :=
  let ws := m.arbitrate m.fab.wait
  ws.foldl Mach.tryWaiting (m.onFab fun b => { b with wait := [] })

/-- Puts a formed data frame among those that wait, and sends what can go. -/
def Mach.sendLater (m : Mach) (f : Frame) : Mach := (m.onFab fun b => { b with wait := b.wait ++ [⟨f, none, 0, 0⟩] }).flush

end Sys2Proof.Machine
end

