-- ==== Sys2Proof/Machine/Lsu.lean ====
section
/-! DEFINITION. The LSU (R73-R81, R157, R188-R194, R550): scree blocks, line reads with their unpacking, scale entries,
stores and moves between queues. -/
namespace Sys2Proof.Machine

/-- The queue ends an LSU command pops: address queues, then data queues. -/
def lsuPopsA : Instr → List Nat
  | .ldv _ a _ ca _ _ _ _ _ => [a.toNat, ca.toNat].filter isAddrQ
  | .lds _ aa ab _ _ _ _ _ => [aa.toNat, ab.toNat].filter isAddrQ
  | .stv _ _ a _ _ => [a.toNat]
  | _ => []

def lsuPopsQ : Instr → List Nat
  | .stv _ q _ _ _ => [q.toNat]
  | .qmov _ qs _ _ => [qs.toNat]
  | .qdup _ qs _ _ _ => [qs.toNat]
  | _ => []

/-- The queues an LSU command pushes. -/
def lsuPushes : Instr → List Nat
  | .ldv _ _ q _ _ _ _ _ _ => [q.toNat]
  | .lds _ _ _ q _ _ _ _ => [q.toNat]
  | .qmov _ _ qd _ => [qd.toNat]
  | .qdup _ _ d1 d2 _ => [d1.toNat, d2.toNat]
  | _ => []

/-- N of an LSU command, 0 standing for 2^24 (Table ZVI-4). -/
def lsuN : Instr → Nat
  | .ldv _ _ _ _ _ _ _ _ n => dimCount n
  | .lds _ _ _ _ _ _ _ n => dimCount n
  | .stv _ _ _ _ n => dimCount n
  | .qmov _ _ _ n => dimCount n
  | .qdup _ _ _ _ n => dimCount n
  | _ => 0

def Core.lsuAt (c : Core) (i : Nat) : Option LsuRun := c.lsu.get (fun _ => none) i
def Core.setLsu (c : Core) (i : Nat) (r : Option LsuRun) : Core := { c with lsu := c.lsu.set (fun _ => none) i r }

/-- R194: the slot that a command takes: a free read port (0 first), write port 2, scale path 3, move path 4. -/
def Core.lsuSlot (c : Core) (i : Instr) : Option Nat :=
  let s := match i with
    | .ldv .. => if (c.lsuAt 0).isNone then 0 else 1
    | .stv .. => 2
    | .lds .. => 3
    | _ => 4
  if (c.lsuAt s).isNone then some s else none

/-- R151: a command started earlier has yet to finish popping one of the queues that this one pops. -/
def Core.lsuPopBusy (c : Core) (r : LsuRun) : Bool :=
  (slotVals c.lsu).any fun e => decide (e.ord < r.ord) && decide (e.started < lsuN e.cmd.ins)
    && ((lsuPopsA r.cmd.ins ++ lsuPopsQ r.cmd.ins).any (lsuPopsA e.cmd.ins ++ lsuPopsQ e.cmd.ins).contains)

/-- R151: a command started earlier has yet to finish pushing to one of the queues that this one pushes. -/
def Core.lsuPushBusy (c : Core) (r : LsuRun) : Bool :=
  (slotVals c.lsu).any fun e => decide (e.ord < r.ord) && ((lsuPushes r.cmd.ins).any (lsuPushes e.cmd.ins).contains)

/-- The commands that read the core store for a queue. -/
def lsuReads : Instr → Bool
  | .ldv .. | .lds .. => true
  | _ => false

/-- Entries that reads in progress will push to queue `q` (R550). -/
def Core.lsuComing (c : Core) (q : Nat) : Nat :=
  (((slotVals c.lsu).filter fun r => lsuReads r.cmd.ins).flatMap (·.flight)).countP (·.1 == q)

/-- R157: the block base, the index, and whether the line is a row. -/
def blockOf (a : AddrEnt) : Nat := a.addr.toNat % 2 ^ 24 / 2 ^ 15 * 2 ^ 15
def lineIdx (a : AddrEnt) : Nat := bitsAt a.addr.toNat 8 7

/-- R73: the offset of slot (i, j) of the block at base `b`. -/
def slotOff (b i j : Nat) : Nat := b + 256 * i + 2 * ((i + j) % 128)

/-- The core-store offsets of the 128 slots of a line (R74). -/
def lineSlots (a : AddrEnt) : List Nat :=
  (List.range 128).map fun l =>
    if a.tag = 1 then slotOff (blockOf a) (lineIdx a) l else slotOff (blockOf a) l (lineIdx a)

/-- R188: the offset and length of a LIN access. -/
def linOff (a : AddrEnt) (w32 : Bool) : Nat :=
  let g := if w32 then 512 else 256
  a.addr.toNat % 2 ^ 24 / g * g

/-- The offsets of the bytes that a line covers, in the order of the entry's bytes. -/
def lineBytes (a : AddrEnt) (w32 : Bool) : List Nat :=
  if a.tag = 1 ∨ a.tag = 2 then (lineSlots a).flatMap fun o => [o, o + 1]
  else (List.range (if w32 then 512 else 256)).map (linOff a w32 + ·)

/-- The address of offset `o` of core `g`'s store; offsets are taken mod 16 MiB (R188). -/
def coreAddr (g o : Nat) : Nat := g * 2 ^ 24 + o % 2 ^ 24

/-- Reads core-store bytes: their values and whether any word of them is poisoned. -/
def Mach.csRead (m : Mach) (g : Nat) (os : List Nat) : List Byte × Bool :=
  (os.map fun o => m.byteAt (coreAddr g o), os.any fun o => m.isPoison (coreAddr g o))

/-- R246: what the store's code finds in that read. -/
def Mach.csCheck (m : Mach) (g : Nat) (os : List Nat) : Mach := m.eccRead (os.map (coreAddr g))

/-- Writes core-store bytes. -/
def Mach.csWrite (m : Mach) (g : Nat) (obs : List (Nat × Byte)) : Mach :=
  let kbs : List (Nat × Byte) := obs.map fun ob => (coreAddr g ob.1, ob.2)
  let m := { m with mem := NMap.setMany byte0 m.mem kbs }
  m.markPoison (kbs.map fun kb => (kb.1, false))

/-- The element format of a packed FMT code (Table OPE-2) and its packing factor. -/
def packFmt (fmt : Nat) : FFmt := if fmt = 3 then e5m2 else if fmt = 5 then e2m1 else if fmt = 1 then fp16
  else if fmt = 0 then bf16 else e4m3
def packP (fmt : Nat) : Nat := if fmt = 5 then 4 else if fmt ≥ 2 then 2 else 1
def isMx (fmt : Nat) : Bool := fmt == 4 || fmt == 5

/-- R80: an unpacking read: a packed block read along its pack axis (ROW of COLIDX, COL of ROWIDX). -/
def unpacks (pack : Nat) (tag : BitVec 2) : Bool := (pack == 1 && tag == 1) || (pack == 2 && tag == 2)

/-- R80, R81: one unpacked element: its BF16 pattern, and whether its scaled value overflowed. -/
def unpackElem (fmt : Nat) (bits : Nat) (scale : Option Nat) : Conv :=
  match scale with
  | none => convRne bf16 false ((packFmt fmt).decode bits)
  | some v =>
    match scaleExp v with
    | none => ⟨bf16.nanEnc, false⟩
    | some x => convRne bf16 false (((packFmt fmt).decode bits).scale x)

/-- The offset of the scale byte of element `q` of a line read along its pack axis: companion COLIDX layout for a row,
ROWIDX layout for a column (R191's layouts). -/
def scaleOff (fmt comp line q : Nat) (row : Bool) : Nat :=
  if row then comp + 4 * packP fmt * line + q / 32 else comp + 128 * (q / 32) + line

/-- The scale-byte offsets of a whole line. -/
def lineScales (fmt comp line : Nat) (row : Bool) : List Nat :=
  (List.range (4 * packP fmt)).map fun c => scaleOff fmt comp line (32 * c) row

/-- R80: the entries of an unpacking read of a line, in order of u, each with its count of overflows. -/
def unpackLine (fmt : Nat) (line : Slot) (scales : Option (List Nat)) : List (Slot × Nat) :=
  let p := packP fmt
  let w := 16 / p
  (List.range p).map fun u =>
    let es := (List.range 128).map fun l =>
      let q := 128 * u + l
      unpackElem fmt (bitsAt (lane16 line (q / p)) (w * (q % p)) w) (scales.map fun s => s.getD (q / 32) 0)
    (slot16 fun l => (es.getD l ⟨0, false⟩).enc, es.countP (·.lost))

namespace Lsu

def ldv (t : ThreadId) (a q ca : BitVec 6) (fmt : BitVec 4) (pack : BitVec 2) (part : BitVec 3) (w32 : BitVec 1)
    (n : BitVec 24) : Mach → Mach := engine t (.ldv t a q ca fmt pack part w32 n) 0 1
def lds (t : ThreadId) (aa ab q : BitVec 6) (fmt : BitVec 4) (pka pkb : BitVec 1) (n : BitVec 24) : Mach → Mach :=
  engine t (.lds t aa ab q fmt pka pkb n) 0 1
def stv (t : ThreadId) (q a : BitVec 6) (w32 : BitVec 1) (n : BitVec 24) : Mach → Mach := engine t (.stv t q a w32 n) 0 1
def qmov (t : ThreadId) (qs qd : BitVec 6) (n : BitVec 24) : Mach → Mach := engine t (.qmov t qs qd n) 0 1
def qdup (t : ThreadId) (qs qd1 qd2 : BitVec 6) (n : BitVec 24) : Mach → Mach := engine t (.qdup t qs qd1 qd2 n) 0 1

/-- R194: the head of the engine queue takes slot `s` when that is its slot and it is free. -/
def take (g s : Nat) (m : Mach) : Mach :=
  let c := m.core g
  match c.lsuQ with
  | [] => m
  | cmd :: _ =>
    if c.lsuSlot cmd.ins = some s then
      (m.popEng g 0).onCore g fun c => c.setLsu s (some ⟨cmd, nextOrd ((slotVals c.lsu).map (·.ord)), 0, []⟩)
    else m

/-- The run with one more line started and entries in flight; a finished command leaves its slot (it has retired). -/
def put (g s : Nat) (r : LsuRun) (m : Mach) : Mach :=
  m.onCore g fun c => c.setLsu s (if lsuN r.cmd.ins ≤ r.started ∧ r.flight = [] then none else some r)

/-- R195: a line that meets poison pushes nothing. -/
def poisoned (g s : Nat) (r : LsuRun) (e off : Nat) (m : Mach) : Mach :=
  (put g s { r with started := r.started + 1 } m).poisonConsumed g .lsu e off

/-- R188, R189: one line read of an LDV; the companion's address is popped after the line's. With PART not 0 only the overflows of the entry
that is pushed are counted (DESIGN CHOICE: R81 does not say whether those of the entries not pushed count; log entry 66). -/
def readLine (g s : Nat) (r : LsuRun) (a q ca fmt pack part : Nat) (w32 : Bool) (m : Mach) : Mach :=
  match m.headA g a with
  | none => m.stallEmpty g .LSU_STALL_QEMPTY 10 a
  | some e =>
    let un := unpacks pack e.tag
    let mx := un && isMx fmt
    let count := if un && part = 0 then packP fmt else 1
    let ce := (m.dropA g a).headA g ca
    if mx && ce.isNone then m.stallEmpty g .LSU_STALL_QEMPTY 10 ca
    else if !m.qRoom g q ((m.core g).lsuComing q + count) then m
    else
      let comp := (ce.elim 0 (·.addr.toNat)) % 2 ^ 24
      let m := m.dropA g a
      let m := if mx then m.dropA g ca else m
      let m := (m.ev g 7 1)
      let (bs, bad) := m.csRead g (lineBytes e w32)
      let m := m.csCheck g (lineBytes e w32)
      let line := slotOfBytes bs
      let row := e.tag == 1
      let (ss, bad2) := if mx then m.csRead g (lineScales fmt comp (lineIdx e) row) else ([], false)
      let m := if mx then m.csCheck g (lineScales fmt comp (lineIdx e) row) else m
      let m := if un then (m.bump .LSU_UNPACK_LINES g 1).ev g 8 1 else m
      if bad || bad2 then poisoned g s r 63 (if bad then (lineBytes e w32).headD 0 else comp) m
      else if un then
        let es := unpackLine fmt line (if mx then some (ss.map (·.toNat)) else none)
        let es := if part = 0 then es else (es.drop (part - 1)).take 1
        let m := m.bump .LSU_UNPACK_INF g ((es.map (·.2)).foldl (· + ·) 0)
        put g s { r with started := r.started + 1, flight := r.flight ++ es.map fun x => (q, ⟨x.1, false⟩) } m
      else put g s { r with started := r.started + 1, flight := r.flight ++ [(q, ⟨line, false⟩)] } m

/-- R191: the scale bytes that one operand of an LDS gives, as offsets, or none for no operand. -/
def scaleSide (m : Mach) (g a : Nat) (stride : Nat) : Option (List Nat) :=
  if isAddrQ a then (m.headA g a).map fun e => (List.range 128).map fun l => e.addr.toNat % 2 ^ 24 + l * stride
  else some []

/-- R191: one scale entry of an LDS; AA is popped before AB. -/
def scaleEntry (g s : Nat) (r : LsuRun) (aa ab q fmt pka pkb : Nat) (m : Mach) : Mach :=
  let sa := scaleSide m g aa (if pka = 1 then 4 * packP fmt else 1)
  let sb := scaleSide (if isAddrQ aa then m.dropA g aa else m) g ab (if pkb = 1 then 4 * packP fmt else 1)
  match sa, sb with
  | some oa, some ob =>
    if !m.qRoom g q ((m.core g).lsuComing q + 1) then m
    else
      let m := if isAddrQ aa then m.dropA g aa else m
      let m := if isAddrQ ab then m.dropA g ab else m
      let (ba, pa) := m.csRead g oa
      let (bb, pb) := m.csRead g ob
      let m := m.csCheck g (oa ++ ob)
      if pa || pb then poisoned g s r 63 (if pa then oa.headD 0 else ob.headD 0) m
      else
        let e := slot16 fun l => (ba.getD l 0).toNat + 256 * (bb.getD l 0).toNat
        put g s { r with started := r.started + 1, flight := r.flight ++ [(q, ⟨e, false⟩)] } m
  | none, _ => m.stallEmpty g .LSU_STALL_QEMPTY 10 aa
  | _, none => m.stallEmpty g .LSU_STALL_QEMPTY 10 ab

/-- R192: one entry of an STV. -/
def storeLine (g s : Nat) (r : LsuRun) (q a : Nat) (w32 : Bool) (m : Mach) : Mach :=
  match m.headA g a, m.headQ g q with
  | some e, some d =>
    let m := (m.dropA g a).dropQ g q 1
    if d.poison then poisoned g s r q 0 m
    else
      let os := lineBytes e w32
      put g s { r with started := r.started + 1 } (m.csWrite g (os.zip (slotBytes d.bits os.length)))
  | none, _ => m.stallEmpty g .LSU_STALL_QEMPTY 10 a
  | _, none => m.stallEmpty g .LSU_STALL_DQEMPTY 11 q

/-- R193: QMOV and QDUP pop one entry for each of their destinations, once the pushes of the entry before are done. -/
def moveEntry (g s : Nat) (r : LsuRun) (qs : Nat) (ds : List Nat) (m : Mach) : Mach :=
  if r.flight != [] then m
  else match m.headQ g qs with
  | none => m.stallEmpty g .LSU_STALL_DQEMPTY 11 qs
  | some d =>
    let m := m.dropQ g qs 1
    if d.poison then poisoned g s r qs 0 m
    else put g s { r with started := r.started + 1, flight := r.flight ++ ds.map (·, d) } m

/-- R189, R191-R193, R550: slot `s` of core `g` takes its command and starts one line, entry or move. A read starts only once its entries can
be pushed as it ends: not while an earlier command has still to push to its queue (R151). -/
def readStart (g6 : BitVec 6) (s3 : BitVec 3) (m : Mach) : Mach :=
  let g := g6.toNat
  let s := s3.toNat
  if !m.unitRuns g .lsu || s > 4 then m
  else
    let m := take g s m
    match (m.core g).lsuAt s with
    | none => m
    | some r =>
      if lsuN r.cmd.ins ≤ r.started || (m.core g).lsuPopBusy r || (lsuReads r.cmd.ins && (m.core g).lsuPushBusy r) then m
      else match r.cmd.ins with
        | .ldv _ a q ca fmt pack part w32 _ =>
          readLine g s r a.toNat q.toNat ca.toNat fmt.toNat pack.toNat part.toNat (w32 == 1) m
        | .lds _ aa ab q fmt pka pkb _ => scaleEntry g s r aa.toNat ab.toNat q.toNat fmt.toNat pka.toNat pkb.toNat m
        | .stv _ q a w32 _ => storeLine g s r q.toNat a.toNat (w32 == 1) m
        | .qmov _ qs qd _ => moveEntry g s r qs.toNat [qd.toNat] m
        | .qdup _ qs d1 d2 _ => moveEntry g s r qs.toNat [d1.toNat, d2.toNat] m
        | _ => m

/-- R78, R193: the oldest entry in flight of slot `s` is pushed; a QDUP pushes to both queues or to neither. -/
def entryPush (g6 : BitVec 6) (s3 : BitVec 3) (m : Mach) : Mach :=
  let g := g6.toNat
  let s := s3.toNat
  match (m.core g).lsuAt s with
  | none => m
  | some r =>
    let k := match r.cmd.ins with
      | .qdup .. => 2
      | _ => 1
    let es := r.flight.take k
    let room := es.all fun e => m.qRoom g e.1 ((es.countP fun x => x.1 == e.1))
    if m.unitRuns g .lsu && !es.isEmpty && room && !(m.core g).lsuPushBusy r then
      put g s { r with flight := r.flight.drop k }
        (es.foldl (fun m e => (m.pushQ g e.1 e.2).ev g (0x80 + e.1) 1) m)
    else m

end Lsu
end Sys2Proof.Machine
end

