-- ==== Sys2Proof/Machine/Ope.lean ====
section
/-! DEFINITION. The OPE (R63-R72, R83-R88, R196): issue of updates, the exact sum of an update and its single rounding, and
the non-finite events of accumulator writes (R97-R99). -/
namespace Sys2Proof.Machine

/-- Row `i` of tile `t`: 128 FP32 entries. -/
def Core.accRow (c : Core) (t i : Nat) : Slot := c.acc.get (fun _ => slot0) (t % 128 * 128 + i % 128)
def Core.setAccRow (c : Core) (t i : Nat) (s : Slot) : Core :=
  { c with acc := c.acc.set (fun _ => slot0) (t % 128 * 128 + i % 128) s }

/-- Writes every row of a tile. -/
def Core.setTile (c : Core) (t : Nat) (f : Nat → Slot) : Core :=
  (List.range 128).foldl (fun c i => c.setAccRow t i (f i)) c

/-- The elements of a lane (R68). -/
def laneElems (fmt v : Nat) : List FVal :=
  let p := packP fmt
  (List.range p).map fun e => (packFmt fmt).decode (bitsAt v (16 / p * e) (16 / p))

/-- An operand lane with its scale exponent: a scale of 0xFF makes its elements NaNs; an operand without scales ignores
its byte (R65, R66, R70). -/
def scaledElems (fmt v sc : Nat) : List FVal :=
  if isMx fmt then
    match scaleExp sc with
    | none => (laneElems fmt v).map fun _ => .nan
    | some x => (laneElems fmt v).map (FVal.scale x)
  else laneElems fmt v

/-- R65, R66: the exact term of two lanes. The sum of products is exact; it is a NaN where a product is one or where
infinities of both signs meet, and an exact zero is -0 only where every product is -0. -/
def updTerm (as bs : List FVal) : FVal :=
  match (as.zip bs).map fun ab => ab.1.mul ab.2 with
  | [] => .fin false 0 0
  | p :: ps => ps.foldl FVal.add p

/-- R65: acc(x, s): one rounding to nearest even. -/
def accum (x : Nat) (s : FVal) : Nat := rn ((val32 x).add s)

/-- A non-finite event (R97): row, column, and kind 0 +inf, 1 -inf, 2 NaN. -/
structure NfEvent where
  row : Nat
  col : Nat
  kind : Nat
  deriving DecidableEq, Repr

/-- R97: the events of writing row `i` from `old` to `new`. -/
def nfRow (i : Nat) (old new : Slot) : List NfEvent :=
  (List.range 128).filterMap fun j =>
    if isFin32 (lane32 old j) && !isFin32 (lane32 new j) then
      some ⟨i, j, if isNan32 (lane32 new j) then 2 else if neg32 (lane32 new j) then 1 else 0⟩
    else none

/-- R98, R99: captures one event of a write (source 0 update, 1 preload) while VALID is 0, with its trace record and
its notice, and counts them all. -/
def Mach.nonfinite (m : Mach) (g : Nat) (es : List NfEvent) (src tile pos : Nat) (cmd : Cmd) : Mach :=
  let m := m.bump .NONFINITE_EVENTS g es.length
  match es with
  | [] => m
  | e :: _ =>
    if m.on .ACC_NF_CAPTURE_VALID g then m
    else
      ((m.wrs g [(.ACC_NF_CAPTURE_VALID, 1), (.ACC_NF_CAPTURE_SOURCE, src), (.ACC_NF_CAPTURE_KIND, e.kind),
        (.ACC_NF_CAPTURE_TILE, tile), (.ACC_NF_CAPTURE_ROW, e.row), (.ACC_NF_CAPTURE_COL, e.col),
        (.ACC_NF_CAPTURE_UPDATE, pos), (.ACC_NF_TICK, m.rd .TICK_NUMBER 0), (.ACC_NF_ICOUNT_ICOUNT, cmd.icount),
        (.ACC_NF_ICOUNT_CTX, thrCtx cmd.thr)]).trace g 4
        (leBytes 6 cmd.icount ++ leBytes 1 tile ++ leBytes 1 e.row ++ leBytes 1 e.col ++ leBytes 1 (src + 2 * e.kind)
          ++ leBytes 1 (thrCtx cmd.thr) ++ leBytes 3 pos)).raise 0x5B e.kind g 0 g

/-- The fields of an OPU or OPUS: QA, QB, QS (63 for none), FA, FB, N. -/
structure OpuF where
  qa : Nat
  qb : Nat
  qs : Nat
  fa : Nat
  fb : Nat
  n : Nat
  deriving DecidableEq, Repr

def opuOf : Instr → Option OpuF
  | .opu _ qa qb _ _ fa fb n => some ⟨qa.toNat, qb.toNat, 63, fa.toNat, fb.toNat, if n = 0 then 2 ^ 20 else n.toNat⟩
  | .opus _ qa qb qs _ _ fa fb n => some ⟨qa.toNat, qb.toNat, qs.toNat, fa.toNat, fb.toNat, if n = 0 then 2 ^ 20 else n.toNat⟩
  | _ => none

/-- R87: a tile's state: 0 IDLE, 1 ACCUM, 2 DRAIN, 3 PRELOAD. -/
def Core.tileState (c : Core) (t : Nat) : Nat :=
  if c.drains.any fun d => d.cmd.tile == t && decide (d.pos < d.f.nlines.toNat) then 2
  else if c.pre.any fun p => p.cmd.tile == t then 3
  else if c.opePipe.any fun p => p.tile == t then 1
  else 0

namespace Ope

def opu (t : ThreadId) (qa qb : BitVec 6) (tile : BitVec 7) (tinc : BitVec 1) (fa fb : BitVec 4) (n : BitVec 20) (m : Mach) :
    Mach := engine t (.opu t qa qb tile tinc fa fb n) (m.tileAt (threadNum t) tile tinc) 1 m
def opus (t : ThreadId) (qa qb qs : BitVec 6) (tile : BitVec 7) (tinc : BitVec 1) (fa fb : BitVec 4) (n : BitVec 20)
    (m : Mach) : Mach :=
  engine t (.opus t qa qb qs tile tinc fa fb n) (m.tileAt (threadNum t) tile tinc) 1 m

/-- The command in progress, or the head of the engine queue. -/
def current (c : Core) : Option OpeRun :=
  match c.ope with
  | some r => some r
  | none => c.opeQ.head?.map fun cmd => ⟨cmd, 0, 0⟩

/-- The queues whose entries the next update pops (R71, R84). -/
def needs (f : OpuF) (issued : Nat) : List Nat :=
  let period := 32 / packP f.fa
  [f.qa, f.qb] ++ (if isDataQ f.qs && issued % period == 0 then [f.qs] else [])

/-- R63, R71, R83: pops the operands of one update and puts it into the pipeline. -/
def issueUpd (g : Nat) (r : OpeRun) (f : OpuF) (m : Mach) : Mach :=
  let c := m.core g
  let m := if c.ope.isNone then m.popEng g 1 else m
  let a := (m.headQ g f.qa).getD ⟨0, false⟩
  let m := m.dropQ g f.qa 1
  let b := (m.headQ g f.qb).getD ⟨0, false⟩
  let m := m.dropQ g f.qb 1
  let scaled := decide (2 < (needs f r.issued).length)
  let s := if scaled then (m.headQ g f.qs).getD ⟨0, false⟩ else ⟨r.scale, false⟩
  let m := if scaled then m.dropQ g f.qs 1 else m
  if a.poison || b.poison || s.poison then
    (m.onCore g fun c => { c with ope := some r }).poisonConsumed g .ope
      (if a.poison then f.qa else if b.poison then f.qb else f.qs) 0
  else
    let last := decide (f.n ≤ r.issued + 1)
    let p : OpePend := ⟨r.cmd, r.cmd.tile, r.issued, a.bits, b.bits, s.bits, last⟩
    let next : Option OpeRun := if last then none else some { r with issued := r.issued + 1, scale := s.bits }
    let m := m.onCore g fun c => { c with opePipe := c.opePipe ++ [p], ope := next }
    let rk := packP f.fa
    let m := m.wrs g [(.OPE_STATUS_TILE, r.cmd.tile), (.OPE_STATUS_RANK, if rk = 1 then 0 else if rk = 2 then 1 else 2)]
    if rk = 1 then (m.bump .OPE_UPD_RANK1 g 1).ev g 2 1
    else if rk = 2 then (m.bump .OPE_UPD_RANK2 g 1).ev g 3 1
    else (m.bump .OPE_UPD_RANK4 g 1).ev g 4 1

/-- R84, R88: one update issues once its tile allows it and every entry it pops is present. -/
def updateIssue (g6 : BitVec 6) (m : Mach) : Mach :=
  let g := g6.toNat
  if !m.unitRuns g .ope then m
  else match current (m.core g) with
    | none => m
    | some r =>
      match opuOf r.cmd.ins with
      | none => m
      | some f =>
        let st := (m.core g).tileState r.cmd.tile
        if st = 2 then m.stall g .OPE_STALL_DRAIN 1
        else if st = 3 then m.stall g .OPE_STALL_PRELOAD 1
        else
          let qs := needs f r.issued
          match qs.find? fun q => ((m.core g).dq q).length < qs.count q with
          | some q => m.stallEmpty g .OPE_STALL_QEMPTY 11 q
          | none => issueUpd g r f m

/-- R63-R66: what an update makes of row `i` of its tile. -/
def updRow (f : OpuF) (p : OpePend) (bl : List (List FVal)) (i : Nat) (old : Slot) : Slot :=
  let al := scaledElems f.fa (lane16 p.a i) (lane16 p.sc i % 256)
  slot32 fun j => accum (lane32 old j) (updTerm al (bl.getD j []))

/-- The rows of its tile after an update. -/
def updRows (c : Core) (f : OpuF) (p : OpePend) : List Slot :=
  let bl := (List.range 128).map fun j => scaledElems f.fb (lane16 p.b j) (lane16 p.sc j / 256)
  (List.range 128).map fun i => updRow f p bl i (c.accRow p.tile i)

/-- R86: the core's tiles with every issued update applied, as they stand for a reader of accumulator entries. -/
def settle (c : Core) : Core :=
  c.opePipe.foldl (fun c p => match opuOf p.cmd.ins with
    | none => c
    | some f =>
      let news := updRows c f p
      c.setTile p.tile fun i => news.getD i slot0) c

/-- R67, R83: the oldest update in the pipeline is applied, whole (R86: also where the clock has stopped). -/
def updateComplete (g6 : BitVec 6) (m : Mach) : Mach :=
  let g := g6.toNat
  let c := m.core g
  match c.opePipe with
  | [] => m
  | p :: rest =>
    match opuOf p.cmd.ins with
    | none => m
    | some f =>
      if !m.mainUp then m
      else
        let news := updRows c f p
        let es := (List.range 128).flatMap fun i => nfRow i (c.accRow p.tile i) (news.getD i slot0)
        let m := m.onCore g fun c => ({ c with opePipe := rest }).setTile p.tile fun i => news.getD i slot0
        m.nonfinite g es 0 p.tile p.pos p.cmd

end Ope
end Sys2Proof.Machine
end

