-- ==== Sys2Proof/Machine/Philox.lean ====
section
/-! DEFINITION. Philox-4x32 with 10 rounds, the lane generators of R138, as its publication (Salmon and others, 2011) gives
the rounds, multipliers and key schedule. -/
namespace Sys2Proof.Machine

/-- The four 32-bit words of a counter or an output. -/
structure Quad where
  w0 : Nat
  w1 : Nat
  w2 : Nat
  w3 : Nat
  deriving DecidableEq, Repr

/-- Word `i` of four. -/
def Quad.word (q : Quad) (i : Nat) : Nat :=
  if i % 4 = 0 then q.w0 else if i % 4 = 1 then q.w1 else if i % 4 = 2 then q.w2 else q.w3

/-- One Philox round under the round key (k0, k1). -/
def philoxRound (k0 k1 : Nat) (c : Quad) : Quad :=
  let p0 := 0xD2511F53 * c.w0
  let p1 := 0xCD9E8D57 * c.w2
  ⟨(p1 / 2 ^ 32) ^^^ c.w1 ^^^ k0, p1 % 2 ^ 32, (p0 / 2 ^ 32) ^^^ c.w3 ^^^ k1, p0 % 2 ^ 32⟩

/-- `n` rounds, the key rising by the Weyl constants between them. -/
def philoxRounds : Nat → Nat → Nat → Quad → Quad
  | 0, _, _, c => c
  | n + 1, k0, k1, c =>
    philoxRounds n ((k0 + 0x9E3779B9) % 2 ^ 32) ((k1 + 0xBB67AE85) % 2 ^ 32) (philoxRound k0 k1 c)

/-- R138: the four words that lane `l` of core `g` gives for call `n` of a stream (0 VEC, 1 DRU) under SEED. -/
def laneCall (seed g l stream n : Nat) : Quad :=
  philoxRounds 10 (seed % 2 ^ 32) (seed / 2 ^ 32 % 2 ^ 32)
    ⟨n % 2 ^ 32, n / 2 ^ 32 % 2 ^ 32, n / 2 ^ 64 % 2 ^ 32, l % 128 + g % 64 * 128 + stream % 4 * 8192⟩

/-- R139: the 32-bit word at position `w` of the VEC stream. -/
def vecWord (seed g l w : Nat) : Nat := (laneCall seed g l 0 (w / 4)).word (w % 4)

/-- R139: the 16-bit draw at position `h` of the DRU stream. -/
def druDraw (seed g l h : Nat) : Nat :=
  let x := (laneCall seed g l 1 (h / 8)).word (h % 8 / 2)
  if h % 2 = 0 then x % 2 ^ 16 else x / 2 ^ 16 % 2 ^ 16

end Sys2Proof.Machine
end

