-- ==== Sys2Proof/Machine/Dru.lean ====
section
/-! DEFINITION. The DRU (R87-R89, R100-R121, R197-R199, R549): preloads, drains, the epilogue with its activations and output
formats, epilogue entries, and the lane generators' DRU stream (R119, R120, R139-R142). -/
namespace Sys2Proof.Machine

/-- An entry with FP32 lane `j` replaced. -/
def setLane32 (s : Slot) (j v : Nat) : Slot := BitVec.ofNat 4096 (putBits s.toNat (32 * j) 32 v)

/-- R112, Table ACC-4: f at the infinities. -/
def actInf (act : Nat) (neg : Bool) : Nat :=
  match act with
  | 5 => if neg then 0 else 0x3F800000
  | 6 => if neg then 0xBF800000 else 0x3F800000
  | 7 => if neg then 0 else 0x7F800000
  | _ => if neg then 0x80000000 else 0x7F800000

/-- R112, Table ACC-4: f' at the infinities. -/
def derivInf (act : Nat) (neg : Bool) : Nat :=
  match act with
  | 5 => 0
  | 6 => 0
  | _ => if neg then 0 else 0x3F800000

/-- R112, R113: the activation f of an FP32 pattern. Identity and ReLU are exact; the others, on finite inputs, are
within R113's bounds of Table ACC-4's functions (`actPick`). -/
def actF (act x : Nat) : Nat :=
  if isNan32 x then defaultNan
  else if act = 0 then x
  else if act = 1 then (if neg32 x || x % 2 ^ 31 == 0 then 0 else x)
  else if isFin32 x then actPick act x
  else actInf act (neg32 x)

/-- The derivative f' of an FP32 pattern. -/
def derivF (act x : Nat) : Nat :=
  if isNan32 x then defaultNan
  else if act = 0 then 0x3F800000
  else if act = 1 then (if neg32 x || x % 2 ^ 31 == 0 then 0 else 0x3F800000)
  else if isFin32 x then derivPick act x
  else derivInf act (neg32 x)

/-- Lane `l` of an entry in a format of RFMT or SFMT (0 FP32, 1 BF16, 2 FP16), as FP32. -/
def rlane (fmt : Nat) (s : Slot) (l : Nat) : Nat := if fmt = 0 then rn (val32 (lane32 s l)) else vlane fmt s l

/-- Lane `l` of an entry in ZFMT (0 BF16, 1 FP16, 2 FP32), as FP32. -/
def zlane (fmt : Nat) (s : Slot) (l : Nat) : Nat := rlane (if fmt = 0 then 1 else if fmt = 1 then 2 else 0) s l

/-- R111 step 2: the z entry of FP32 lanes in ZFMT. -/
def zSlot (fmt : Nat) (f : Nat → Nat) : Slot :=
  if fmt = 0 then slot16 fun l => (convRne bf16 false (val32 (f l))).enc
  else if fmt = 1 then slot16 fun l => (convRne fp16 false (val32 (f l))).enc
  else slot32 f

/-- R109: the 18 used bits of a word 0 and word 1 as an entry. -/
def EpiEnt.ofWords (lo hi : Nat) : EpiEnt :=
  ⟨bitsAt lo 0 4, bitsAt lo 4 4, bitsAt lo 8 1 == 1, bitsAt lo 9 1 == 1, bitsAt lo 10 2, bitsAt lo 12 1 == 1, bitsAt lo 13 2,
    bitsAt lo 15 1 == 1, bitsAt lo 16 1 == 1, bitsAt lo 17 1 == 1, bitsAt hi 0 32⟩

/-- The epilogue entry `e` of core `g` as it stands. -/
def Mach.epi (m : Mach) (g e : Nat) : EpiEnt :=
  let i := g * 32 + e
  ⟨m.rd .EPI_ENTRY_LO_ACT i, m.rd .EPI_ENTRY_LO_OFMT i, m.on .EPI_ENTRY_LO_SCALE_EN i, m.on .EPI_ENTRY_LO_RESID_EN i,
    m.rd .EPI_ENTRY_LO_RFMT i, m.on .EPI_ENTRY_LO_ZOUT_EN i, m.rd .EPI_ENTRY_LO_ZFMT i, m.on .EPI_ENTRY_LO_AMAX_EN i,
    m.on .EPI_ENTRY_LO_ROUND i, m.on .EPI_ENTRY_LO_SAT i, m.rd .EPI_ENTRY_HI_SCALE i⟩

/-- Writes an epilogue entry. -/
def Mach.setEpi (m : Mach) (g e : Nat) (x : EpiEnt) : Mach :=
  m.wrs (g * 32 + e) [(.EPI_ENTRY_LO_ACT, x.act), (.EPI_ENTRY_LO_OFMT, x.ofmt), (.EPI_ENTRY_LO_SCALE_EN, b2n x.scaleEn),
    (.EPI_ENTRY_LO_RESID_EN, b2n x.residEn), (.EPI_ENTRY_LO_RFMT, x.rfmt), (.EPI_ENTRY_LO_ZOUT_EN, b2n x.zoutEn),
    (.EPI_ENTRY_LO_ZFMT, x.zfmt), (.EPI_ENTRY_LO_AMAX_EN, b2n x.amaxEn), (.EPI_ENTRY_LO_ROUND, b2n x.round),
    (.EPI_ENTRY_LO_SAT, b2n x.sat), (.EPI_ENTRY_HI_SCALE, x.scale)]

/-- R110: fields that EPI writes with reserved encodings are treated as 0; whether there were any. -/
def EpiEnt.legal (x : EpiEnt) : EpiEnt × Bool :=
  ({ x with act := if 7 < x.act then 0 else x.act, ofmt := if 5 < x.ofmt ∧ x.ofmt < 15 then 0 else x.ofmt,
            rfmt := if x.rfmt = 3 then 0 else x.rfmt, zfmt := if x.zfmt = 3 then 0 else x.zfmt },
    decide (7 < x.act) || (decide (5 < x.ofmt) && decide (x.ofmt < 15)) || x.rfmt == 3 || x.zfmt == 3)

/-- R109, R110: writes an epilogue entry from an entry's first 16 bytes. -/
def Mach.epiWrite (m : Mach) (g e : Nat) (d : Slot) : Mach :=
  let lo := bitsAt d.toNat 0 64
  let hi := bitsAt d.toNat 64 64
  let (x, bad) := (EpiEnt.ofWords lo hi).legal
  let bad := bad || bitsAt lo 18 46 != 0 || bitsAt hi 32 32 != 0
  let m := m.setEpi g e x
  if bad then (m.wr .EPI_STATUS_RESERVED_SEEN g 1).wr .EPI_STATUS_LAST_ENTRY g e else m

/-- The places among starts of the DRU's commands in progress. -/
def Core.druOrds (c : Core) : List Nat := c.drains.map (·.ord) ++ c.pre.toList.map (·.ord)

/-- Position of a core's VEC (0) or DRU (1) stream (R140); under FAST it stands for 4 or 8 times the call number (R142). -/
def Mach.rngPos (m : Mach) (g s : Nat) : Nat :=
  if s = 0 then m.rd .VEC_RNG_POS_VEC_LO_POS g + 2 ^ 64 * m.rd .VEC_RNG_POS_VEC_HI_POS g
  else m.rd .VEC_RNG_POS_DRU_LO_POS g + 2 ^ 64 * m.rd .VEC_RNG_POS_DRU_HI_POS g

def Mach.setRngPos (m : Mach) (g s p : Nat) : Mach :=
  if s = 0 then m.wrs g [(.VEC_RNG_POS_VEC_LO_POS, p % 2 ^ 64), (.VEC_RNG_POS_VEC_HI_POS, p / 2 ^ 64)]
  else m.wrs g [(.VEC_RNG_POS_DRU_LO_POS, p % 2 ^ 64), (.VEC_RNG_POS_DRU_HI_POS, p / 2 ^ 64)]

/-- R141, R142: `k` draws a lane on a stream: the position of the first, and the state after. Under FAST the draws of one
cycle share its call; more than it holds wait for the next cycle (none). -/
def Mach.draw (m : Mach) (g s k : Nat) : Option (Nat × Mach) :=
  let p := m.rngPos g s
  if m.exact then some (p, m.setRngPos g s (p + k))
  else
    let used := if s = 0 then (m.core g).vecUsed else (m.core g).druUsed
    if used + k > (if s = 0 then 4 else 8) then none
    else some (p + used, m.onCore g fun c => if s = 0 then { c with vecUsed := used + k } else { c with druUsed := used + k })

/-- R142: what a stream's draws of this cycle stand at after a write of its position: none can be made, and the next cycle keeps the
call. -/
def drawsWait : Nat := 9

/-- Draws on a stream wait for the next cycle's call (R142). -/
def Mach.holdDraws (m : Mach) (g s : Nat) : Mach :=
  if m.exact then m else m.onCore g fun c => if s = 0 then { c with vecUsed := drawsWait } else { c with druUsed := drawsWait }

/-- R142, R143: a write of a position; under FAST it stands for a call. -/
def Mach.writePos (m : Mach) (g s p : Nat) : Mach :=
  let k := if s = 0 then 4 else 8
  (m.setRngPos g s (if m.exact then p else p / k * k)).holdDraws g s

/-- R143: a write of a seed. -/
def Mach.writeSeed (m : Mach) (g v : Nat) : Mach := ((m.wr .VEC_RNG_SEED g v).writePos g 0 0).writePos g 1 0

/-- R142: the cycles in which stream `s` of a core takes a new call, of `n` cycles that end. -/
def Core.calls (c : Core) (s n : Nat) : Nat := n - b2n ((if s = 0 then c.vecUsed else c.druUsed) == drawsWait)

/-- A 16-bit draw of lane `l` at position `h` of the DRU stream of core `g`. -/
def Mach.dru16 (m : Mach) (g l h : Nat) : Nat := druDraw (m.rd .VEC_RNG_SEED g) g l h

/-- The packing factor and format of OFMT codes 0 to 5 and 15 (Table ACC-5). -/
def ofmtP (o : Nat) : Nat := if o = 15 then 1 else packP o

/-- The format to which a drain converts its elements: TDRAING gives FP16 or BF16 (R117). -/
def DrainRun.ofmt (d : DrainRun) : Nat := if d.grad then (if d.epi.ofmt = 1 then 1 else 0) else d.epi.ofmt

/-- R111, R117: the element of lane `l` of a line before conversion. -/
def DrainRun.elem (d : DrainRun) (ln : DrainLine) (l : Nat) : Nat :=
  let a := lane32 ln.acc l
  if d.grad then
    let v1 := if d.epi.act = 0 ∨ d.f.zq = 63 then mul32 a 0x3F800000 else mul32 a (derivF d.epi.act (zlane d.epi.zfmt ln.z l))
    if d.epi.scaleEn then mul32 v1 d.epi.scale else v1
  else
    let v2 := actF d.epi.act (if d.epi.scaleEn then mul32 a d.epi.scale else a)
    if d.epi.residEn && d.f.res != 63 then add32 v2 (rlane d.epi.rfmt ln.res l) else v2

/-- R111 step 2: the z entry of a line. -/
def DrainRun.zEnt (d : DrainRun) (ln : DrainLine) : Slot :=
  zSlot d.epi.zfmt fun l => if d.epi.scaleEn then mul32 (lane32 ln.acc l) d.epi.scale else lane32 ln.acc l

/-- R114, R119: one element converted to OFMT with its draw. -/
def DrainRun.conv (d : DrainRun) (v rnd : Nat) : Conv :=
  let o := d.ofmt
  if o = 15 then ⟨v, false⟩
  else
    let sat := d.epi.sat && !d.grad && decide (2 ≤ o)
    if d.epi.round then convStoch (packFmt o) sat rnd (val32 v) else convRne (packFmt o) sat (val32 v)

/-- Whether the drain draws (R120). -/
def DrainRun.draws (d : DrainRun) : Bool := d.epi.round && d.ofmt != 15 && !isMx d.ofmt

/-- NLINES. -/
def DrainRun.n (d : DrainRun) : Nat := d.f.nlines.toNat

/-- The line `u` that has been read. -/
def DrainRun.lineAt (d : DrainRun) (u : Nat) : DrainLine := d.lines.getD u ⟨0, 0, 0⟩

/-- R114, R549: element entry `w`: its lines' elements with their draws from `rnd`, absent lines +0; and its overflows. -/
def DrainRun.entry (d : DrainRun) (rnd : Nat → Nat → Nat) (w : Nat) : Slot × Nat :=
  let p := ofmtP d.ofmt
  let cs : Nat → List Conv := fun l => (List.range p).map fun e =>
    if p * w + e < d.n then d.conv (d.elem (d.lineAt (p * w + e)) l) (rnd l e) else ⟨0, false⟩
  let lost := ((List.range 128).map fun l => (cs l).countP (·.lost)).foldl (· + ·) 0
  (if d.ofmt = 15 then slot32 fun l => ((cs l).getD 0 ⟨0, false⟩).enc
   else slot16 fun l => packLanes (16 / p) ((cs l).map (·.enc)), lost)

/-- The largest magnitude of a list of FP32 patterns (R116). -/
def amaxOf (vs : List Nat) : Nat := vs.foldl (fun a v => max32 a (abs32 v)) 0

/-- R115: the scale byte of a lane's group. -/
def mxScale (fmt : Nat) (vs : List Nat) : Nat :=
  if vs.any fun v => !isFin32 v then 255
  else match val32 (amaxOf vs) with
    | .fin _ m e =>
      if m = 0 then 0
      else (max (-127) (min 127 ((Nat.log2 m : Int) + e - (if fmt = 5 then 2 else 8))) + 127).toNat
    | _ => 255

/-- R115: an element of a lane whose group has scale byte `s`. -/
def mxElem (fmt s v : Nat) : Nat :=
  match scaleExp s with
  | none => 0
  | some x => (convRne (packFmt fmt) true ((val32 v).scale (-x))).enc

/-- The elements of lane `l` of MX group `gr` (R549: those lines that the drain has). -/
def DrainRun.group (d : DrainRun) (gr l : Nat) : List Nat :=
  (List.range (min 32 (d.n - 32 * gr))).map fun u => d.elem (d.lineAt (32 * gr + u)) l

/-- R115: the scale entry of a group, and element entry `w` of it. -/
def DrainRun.mxScaleEnt (d : DrainRun) (gr : Nat) : Slot := slot16 fun l => mxScale d.ofmt (d.group gr l)
def DrainRun.mxEnt (d : DrainRun) (gr w : Nat) : Slot :=
  let p := packP d.ofmt
  slot16 fun l =>
    let vs := d.group gr l
    let s := mxScale d.ofmt vs
    packLanes (16 / p) ((List.range p).map fun e => match vs[p * w + e]? with
      | some v => mxElem d.ofmt s v
      | none => 0)

/-- R105, R549: the cycle, counted from 20, in which the scale entry of MX group `gr` is pushed. -/
def DrainRun.scaleAt (d : DrainRun) (gr : Nat) : Nat := min (32 * gr + 31) (d.n - 1)

/-- The element entries of MX group `gr`, and the cycle of the first: after its scale entry, one per cycle. A short last group's wait until
those of the group before are all pushed (DEDUCED: Table ACC-2 pushes them whole and in order; log entry 66). -/
def DrainRun.mxCount (d : DrainRun) (gr : Nat) : Nat := (min 32 (d.n - 32 * gr) + packP d.ofmt - 1) / packP d.ofmt
def DrainRun.mxAt (d : DrainRun) : Nat → Nat
  | 0 => d.scaleAt 0 + 1
  | gr + 1 => max (d.scaleAt (gr + 1) + 1) (d.mxAt gr + d.mxCount gr)

/-- What a cycle of a drain's epilogue pushes besides z: element entry w, a scale entry, an element entry of an MX group, or the amax
entry (Table ACC-2). -/
inductive DrainOut where
  | entry (w : Nat)
  | scale (g : Nat)
  | mx (g w : Nat)
  | amax
  deriving DecidableEq, Repr

/-- Cycles of the epilogue up to the last output entry. -/
def DrainRun.cycles (d : DrainRun) : Nat :=
  if isMx d.ofmt then
    let gr := (d.n - 1) / 32
    d.mxAt gr + d.mxCount gr
  else d.n

/-- What cycle `t` pushes. -/
def DrainRun.outAt (d : DrainRun) (t : Nat) : List DrainOut :=
  let p := ofmtP d.ofmt
  if t = d.cycles then [.amax]
  else if isMx d.ofmt then
    let gs := (List.range 4).filter fun gr => decide (32 * gr < d.n)
    (gs.filter fun gr => d.scaleAt gr == t).map .scale
      ++ (gs.filter fun gr => decide (d.mxAt gr ≤ t ∧ t < d.mxAt gr + d.mxCount gr)).map fun gr => .mx gr (t - d.mxAt gr)
  else if t % p = p - 1 ∨ t = d.n - 1 then [.entry (t / p)]
  else []

namespace Dru

def tload (t : ThreadId) (q : BitVec 6) (tile : BitVec 7) (tinc : BitVec 1) (mode : BitVec 2) (ax : BitVec 1)
    (sfmt : BitVec 2) (c : BitVec 32) (m : Mach) : Mach :=
  engine t (.tload t q tile tinc mode ax sfmt c) (m.tileAt (threadNum t) tile tinc) 1 m
def tdrain (t : ThreadId) (f : DrainF) (m : Mach) : Mach :=
  engine t (.tdrain t f) (m.tileAt (threadNum t) f.tile f.tinc) 2 m
def tdraing (t : ThreadId) (f : DrainF) (m : Mach) : Mach :=
  engine t (.tdraing t f) (m.tileAt (threadNum t) f.tile f.tinc) 2 m
def epi (t : ThreadId) (q : BitVec 6) (entry : BitVec 5) : Mach → Mach := engine t (.epi t q entry) 0 1

/-- R89: the drain line port is in use. -/
def portBusy (c : Core) : Bool := c.drains.any fun d => decide (d.pos < d.n)

/-- R108: the functions that an entry enables and whose operand is none. The scales of an MX output are no such function: they are
discarded, and OPERAND_MISSING is not set for them (DESIGN CHOICE: R108 says the one and leaves the other open; log entry 66). -/
def missing (grad : Bool) (f : DrainF) (e : EpiEnt) : Bool :=
  (e.amaxEn && f.amax == 63) || (if grad then e.act != 0 && f.zq == 63
    else (e.residEn && f.res == 63) || (e.zoutEn && f.zq == 63))

/-- R88, R89, R108, R109: a drain starts with the entry in force. -/
def begin (g : Nat) (cmd : Cmd) (grad : Bool) (f : DrainF) (m : Mach) : Mach :=
  if (m.core g).tileState cmd.tile ≠ 0 then m.stall g .TILE_SB_WAIT 1
  else if portBusy (m.core g) then m
  else
    let e := m.epi g f.epi.toNat
    let m := if missing grad f e then (m.wr .EPI_STATUS_OPERAND_MISSING g 1).wr .EPI_STATUS_LAST_ENTRY g f.epi.toNat else m
    let m := m.wrs g [(.DRU_STATUS_DRAIN_TILE, cmd.tile), (.DRU_STATUS_DRAIN_EPI, f.epi.toNat)]
    (m.popEng g 2).onCore g fun c => { c with drains := c.drains ++ [⟨cmd, nextOrd c.druOrds, grad, f, e, 0, [], 0⟩] }

/-- The queues a drain pops for each line (R105, R108). -/
def linePops (d : DrainRun) : List Nat :=
  if d.grad then (if d.epi.act = 0 ∨ d.f.zq = 63 then [] else [d.f.zq.toNat])
  else if d.epi.residEn && d.f.res != 63 then [d.f.res.toNat] else []

/-- The fields of a TLOAD: Q, MODE, AX, SFMT, C. -/
def tloadOf : Instr → Option (Nat × Nat × Nat × Nat × Nat)
  | .tload _ q _ _ mode ax sfmt c => some (q.toNat, mode.toNat, ax.toNat, sfmt.toNat, c.toNat)
  | _ => none

/-- The queue that a preload pops for its next line (R100, R102). -/
def prePops (r : PreRun) : List Nat :=
  match tloadOf r.cmd.ins with
  | some (q, mode, _) => if (mode = 1 ∧ r.line = 0) ∨ mode = 2 then [q] else []
  | none => []

/-- R151: a drain or preload that started before place `ord` has still to pop one of the queues `qs`. -/
def popBusy (c : Core) (ord : Nat) (qs : List Nat) : Bool :=
  (c.drains.any fun d => decide (d.ord < ord ∧ d.pos < d.n) && (linePops d).any qs.contains)
    || c.pre.any fun r => decide (r.ord < ord) && (prePops r).any qs.contains

/-- R109, R151: EPI at the head of the DRU's queue. -/
def epiExec (g : Nat) (q e : Nat) (m : Mach) : Mach :=
  if popBusy (m.core g) (nextOrd (m.core g).druOrds) [q] then m
  else match m.headQ g q with
  | none => m.stallEmpty g .DRU_STALL_QEMPTY 11 q
  | some d =>
    let m := (m.dropQ g q 1).popEng g 2
    if d.poison then m.poisonConsumed g .dru q 0 else m.epiWrite g e d.bits

/-- R88, R89: the command at the head of the DRU's queue starts, where it is a drain or an EPI. -/
def drainStart (g6 : BitVec 6) (m : Mach) : Mach :=
  let g := g6.toNat
  if !m.unitRuns g .dru then m
  else match (m.core g).druQ with
    | [] => m
    | cmd :: _ =>
      match cmd.ins with
      | .tdrain _ f => begin g cmd false f m
      | .tdraing _ f => begin g cmd true f m
      | .epi _ q e => epiExec g q.toNat e.toNat m
      | _ => m

/-- A line of a tile (R103). -/
def tileLine (c : Core) (t : Nat) (col : Bool) (k : Nat) : Slot :=
  if col then slot32 fun i => lane32 (c.accRow t i) k else c.accRow t k

/-- Writes a line of a tile. -/
def setTileLine (c : Core) (t : Nat) (col : Bool) (k : Nat) (s : Slot) : Core :=
  if col then c.setTile t fun i => setLane32 (c.accRow t i) k (lane32 s i) else c.setAccRow t k s

/-- What one output of the epilogue of `d` is: its pushes, its overflows, and what it draws. With OUT none the elements are converted all the
same: they draw and their overflows count (DESIGN CHOICE: R108 and R120 do not say whether elements that are never pushed are converted; log
entry 66). -/
def output (m : Mach) (g : Nat) (d : DrainRun) (o : DrainOut) : Option (List (Nat × Ent) × Nat × Mach) :=
  let put (e : BitVec 6) (s : Slot) : List (Nat × Ent) := if e = 63 then [] else [(e.toNat, ⟨s, false⟩)]
  match o with
  | .entry w =>
    let k := min (ofmtP d.ofmt) (d.n - ofmtP d.ofmt * w)
    match (if d.draws then m.draw g 1 k else some (0, m)) with
    | none => none
    | some (h, m) =>
      let (s, lost) := d.entry (fun l e => if d.draws then m.dru16 g l (h + e) else 0) w
      some (put d.f.out s, lost, m)
  | .scale gr => some (put d.f.scl (d.mxScaleEnt gr), 0, m)
  | .mx gr w => some (put d.f.out (d.mxEnt gr w), 0, m)
  | .amax =>
    some (if d.epi.amaxEn then put d.f.amax (slot32 fun l => amaxOf (d.lines.map (d.elem · l))) else [], 0, m)

/-- What a cycle of the epilogue of `d` pushes, z first, with what it draws. -/
def bundle (m : Mach) (g : Nat) (d : DrainRun) : Option (List (Nat × Ent) × Nat × Mach) :=
  let t := d.pushed
  let z : List (Nat × Ent) :=
    if !d.grad && d.epi.zoutEn && d.f.zq != 63 && decide (t < d.n) then [(d.f.zq.toNat, ⟨d.zEnt (d.lineAt t), false⟩)] else []
  (d.outAt t).foldl (fun r o =>
    match r with
    | none => none
    | some (es, lost, m) => (output m g d o).map fun x => (es ++ x.1, lost + x.2.1, x.2.2)) (some (z, 0, m))

/-- R105: the lines of the earlier cycles have been read: the epilogue is 20 cycles behind the reads. -/
def due (d : DrainRun) : Bool := decide (min (d.pushed + 20) d.n ≤ d.pos)

/-- R106: the line that the drain reads in the cycle of its next pushes lacks an entry that it pops. -/
def popWaits (c : Core) (d : DrainRun) : Bool :=
  decide (d.pos < d.n ∧ d.pos = d.pushed + 20) && (linePops d).any fun q => (c.dq q).isEmpty

/-- R89, R106: a drain of the core waits on a push. -/
def pushWaits (m : Mach) (g : Nat) : Bool :=
  match (m.core g).drains with
  | [] => false
  | d :: _ =>
    due d && match bundle m g d with
      | none => true
      | some (es, _, m) => (m.pushAll g es).isNone

/-- A drain that has lines to read reads none now: it, or an earlier drain, waits on a push (R106), or an earlier command still pops from its
queue (R151). -/
def readWaits (m : Mach) (g : Nat) (d : DrainRun) : Bool :=
  decide (d.pushed + 20 < d.pos)
    || (if (m.core g).drains.head? = some d then d.pos == d.pushed + 20 && pushWaits m g else d.pos == d.pushed + 20 || pushWaits m g)
    || popBusy (m.core g) d.ord (linePops d)

/-- R103-R106: the drain that holds the port reads its next line. -/
def lineRead (g6 : BitVec 6) (m : Mach) : Mach :=
  let g := g6.toNat
  let c := m.core g
  match c.drains.find? fun d => decide (d.pos < d.n) with
  | none => m
  | some d =>
    if !m.unitRuns g .dru || readWaits m g d then m
    else match (linePops d).find? fun q => (c.dq q).isEmpty with
      | some q => m.stallEmpty g .DRU_STALL_QEMPTY 11 q
      | none =>
        let es := (linePops d).map fun q => (q, (m.headQ g q).getD ⟨0, false⟩)
        let m := es.foldl (fun m e => m.dropQ g e.1 1) m
        match es.find? (·.2.poison) with
        | some e => m.poisonConsumed g .dru e.1 0
        | none =>
          let x := (es.head?.map (·.2.bits)).getD 0
          let k := d.f.first.toNat + d.pos
          let col := d.f.order == 1
          let ln : DrainLine := ⟨tileLine c d.cmd.tile col k, if d.grad then 0 else x, if d.grad then x else 0⟩
          let d' := { d with pos := d.pos + 1, lines := d.lines ++ [ln] }
          let m := m.onCore g fun c => { c with drains := c.drains.map fun e => if e = d then d' else e }
          let m := if d.f.zafter = 1 then m.onCore g fun c => setTileLine c d.cmd.tile col k 0 else m
          (m.bump .DRU_LINES g 1).ev g 5 1

/-- R105, R106, R549: the oldest drain makes one cycle's pushes, all of them or none; after its last it has retired. -/
def entryPush (g6 : BitVec 6) (m : Mach) : Mach :=
  let g := g6.toNat
  match (m.core g).drains with
  | [] => m
  | d :: rest =>
    if !m.unitRuns g .dru || !due d || popWaits (m.core g) d then m
    else match bundle m g d with
      | none => m
      | some (es, lost, m') =>
        match m'.pushAll g es with
        | none => m.refused g ((es.find? fun e => isChan e.1).elim 63 (·.1)) .DRU_STALL_QFULL
        | some m =>
          let m := m.bump .DRU_OUT_OVERFLOW g lost
          m.onCore g fun c => { c with drains := if d.pushed = d.cycles then rest else { d with pushed := d.pushed + 1 } :: rest }

/-- R88, R89: the TLOAD at the head of the DRU's queue starts. -/
def preloadStart (g6 : BitVec 6) (m : Mach) : Mach :=
  let g := g6.toNat
  if !m.unitRuns g .dru then m
  else match (m.core g).druQ with
    | [] => m
    | cmd :: _ =>
      match cmd.ins with
      | .tload .. =>
        if (m.core g).tileState cmd.tile ≠ 0 then m.stall g .TILE_SB_WAIT 1
        else if (m.core g).pre.isSome then m
        else ((m.popEng g 2).onCore g fun c => { c with pre := some ⟨cmd, nextOrd c.druOrds, 0, 0⟩ }).wr .DRU_STATUS_PRELOAD_TILE g cmd.tile
      | _ => m

/-- R100, R101: the values of line `u`. -/
def preLine (c : Core) (tile mode ax sfmt cc u : Nat) (e bias : Slot) : Slot :=
  match mode with
  | 1 => slot32 fun j => rlane sfmt bias (if ax = 0 then j else u)
  | 2 => slot32 fun j => rlane sfmt e j
  | 3 => slot32 fun j => mul32 (lane32 (c.accRow tile u) j) cc
  | _ => 0

/-- R97: the events of writing column `u`. -/
def nfCol (u : Nat) (old new : Slot) : List NfEvent := (nfRow u old new).map fun e => ⟨e.col, u, e.kind⟩

/-- R100-R102: the preload in progress writes its next line, popping its entry where it needs one. -/
def preloadLineWrite (g6 : BitVec 6) (m : Mach) : Mach :=
  let g := g6.toNat
  match (m.core g).pre with
  | none => m
  | some r =>
    match tloadOf r.cmd.ins with
    | none => m
    | some (q, mode, ax, sfmt, cc) =>
      if !m.unitRuns g .dru || popBusy (m.core g) r.ord (prePops r) then m
      else
        let pops := !(prePops r).isEmpty
        match (if pops then m.headQ g q else some ⟨0, false⟩) with
        | none => m.stallEmpty g .DRU_STALL_QEMPTY 11 q
        | some e =>
          let m := if pops then m.dropQ g q 1 else m
          if e.poison then m.poisonConsumed g .dru q 0
          else
            let bias := if pops then e.bits else r.bias
            let c := m.core g
            let col := mode == 2 && ax == 1
            let old := tileLine c r.cmd.tile col r.line
            let new := preLine c r.cmd.tile mode ax sfmt cc r.line e.bits bias
            let m := m.onCore g fun c => { setTileLine c r.cmd.tile col r.line new with
              pre := if r.line = 127 then none else some { r with line := r.line + 1, bias := bias } }
            m.nonfinite g (if col then nfCol r.line old new else nfRow r.line old new) 1 r.cmd.tile r.line r.cmd

end Dru
end Sys2Proof.Machine
end

