-- ==== Sys2Proof/Machine/Zvi.lean ====
section
/-! DEFINITION. The words of the ZVI instructions (chapter 07): opcodes (Table ZVI-1), field places (Tables ZVI-2 to ZVI-9), the
encoder and the decoder. -/
namespace Sys2Proof.Machine

/-- The opcode of a ZVI instruction, bits [63:54] of its word 0 (Table ZVI-1); none for the block's other commands. -/
def opcodeOf : Instr → Option Nat
  | .nop .. => some 0x000 | .loop .. => some 0x001 | .endl .. => some 0x002 | .ctxstart .. => some 0x003
  | .ctxjoin .. => some 0x004 | .yield .. => some 0x005 | .halt .. => some 0x006 | .fset .. => some 0x008
  | .fadd .. => some 0x009 | .fclr .. => some 0x00A | .fwait .. => some 0x00B | .tickw .. => some 0x00C
  | .phase .. => some 0x00D | .mark .. => some 0x00E | .sdef .. => some 0x040 | .srun .. => some 0x041
  | .ldv .. => some 0x048 | .lds .. => some 0x049 | .stv .. => some 0x04A | .qmov .. => some 0x050
  | .qdup .. => some 0x051 | .opu .. => some 0x080 | .opus .. => some 0x081 | .tload .. => some 0x089
  | .tdrain .. => some 0x090 | .tdraing .. => some 0x091 | .epi .. => some 0x098 | .vadd .. => some 0x0C0
  | .vsub .. => some 0x0C1 | .vmul .. => some 0x0C2 | .vfma .. => some 0x0C3 | .vmax .. => some 0x0C8
  | .vmin .. => some 0x0C9 | .vcmp .. => some 0x0CA | .vsel .. => some 0x0CB | .vcvt .. => some 0x0D0
  | .vexp .. => some 0x0D8 | .vlog .. => some 0x0D9 | .vrsq .. => some 0x0DA | .vrcp .. => some 0x0DB
  | .vred .. => some 0x0E0 | .vshuf .. => some 0x0E1 | .vbcast .. => some 0x0E2 | .vamax .. => some 0x0E3
  | .vrng .. => some 0x0E8 | .vadamw .. => some 0x0F0 | .vlion .. => some 0x0F1 | .vsgdm .. => some 0x0F2
  | .nsend .. => some 0x180 | .nrecv .. => some 0x181 | .nmcast .. => some 0x182 | .rred .. => some 0x188
  | .rgath .. => some 0x189 | .dcopy .. => some 0x1C0 | .dpref .. => some 0x1C1 | .dwait .. => some 0x1C2
  | .ipull .. => some 0x1C8
  | _ => none

/-- The thread that issues a ZVI instruction; none for the block's other commands. -/
def threadOf : Instr → Option ThreadId
  | .nop t => some t | .loop t .. => some t | .endl t => some t | .ctxstart t .. => some t | .ctxjoin t .. => some t
  | .yield t => some t | .halt t => some t | .fset t .. => some t | .fadd t .. => some t | .fclr t .. => some t
  | .fwait t .. => some t | .tickw t => some t | .phase t .. => some t | .mark t .. => some t | .sdef t .. => some t
  | .srun t .. => some t | .ldv t .. => some t | .lds t .. => some t | .stv t .. => some t | .qmov t .. => some t
  | .qdup t .. => some t | .opu t .. => some t | .opus t .. => some t | .tload t .. => some t | .tdrain t .. => some t
  | .tdraing t .. => some t | .epi t .. => some t | .vadd t .. => some t | .vsub t .. => some t | .vmul t .. => some t
  | .vfma t .. => some t | .vmax t .. => some t | .vmin t .. => some t | .vcmp t .. => some t | .vsel t .. => some t
  | .vcvt t .. => some t | .vexp t .. => some t | .vlog t .. => some t | .vrsq t .. => some t | .vrcp t .. => some t
  | .vred t .. => some t | .vshuf t .. => some t | .vbcast t .. => some t | .vamax t .. => some t | .vrng t .. => some t
  | .vadamw t .. => some t | .vlion t .. => some t | .vsgdm t .. => some t | .nsend t .. => some t | .nrecv t .. => some t
  | .nmcast t .. => some t | .rred t .. => some t | .rgath t .. => some t | .dcopy t .. => some t | .dpref t .. => some t
  | .dwait t .. => some t | .ipull t .. => some t
  | _ => none

/-- A field of a word: its low bit and its value. -/
structure FieldVal where
  lo : Nat
  val : Nat
  deriving DecidableEq, Repr

/-- The word that fields make. -/
def fieldWord (fs : List FieldVal) : Word64 := BitVec.ofNat 64 ((fs.map fun f => f.val * 2 ^ f.lo).foldl (· + ·) 0)

/-- A field of a word. -/
def fld {w : Nat} (lo : Nat) (v : BitVec w) : FieldVal := ⟨lo, v.toNat⟩

/-- The fields of a VEC instruction of the common layout. -/
def vecFields (f : VecF) : List FieldVal :=
  [fld 48 f.x, fld 42 f.y, fld 36 f.z, fld 30 f.d, fld 28 f.fx, fld 26 f.fy, fld 24 f.fz, fld 22 f.fd, fld 16 f.ext, fld 0 f.n]

/-- The fields of word 0 and word 1 of a drain. -/
def drainFields (f : DrainF) : List FieldVal :=
  [fld 47 f.tile, fld 46 f.tinc, fld 41 f.epi, fld 40 f.order, fld 39 f.zafter, fld 32 f.first, fld 24 f.nlines]
def drainFields1 (f : DrainF) : List FieldVal :=
  [fld 0 f.res, fld 6 f.zq, fld 12 f.out, fld 18 f.amax, fld 24 f.scl]

/-- The fields of word 0 and word 1 of a fused optimizer. -/
def optFields (f : OptF) : List FieldVal :=
  [fld 48 f.p, fld 42 f.w, fld 36 f.m, fld 30 f.v, fld 24 f.g, fld 22 f.fg, fld 21 f.wcopy, fld 20 f.round, fld 0 f.n]
def optFields1 (f : OptF) : List FieldVal := [fld 0 f.wo, fld 6 f.mo, fld 12 f.vo, fld 18 f.wb]

/-- The fields of a DCOPY or DPREF. -/
def dmaFields (f : DmaF) : List FieldVal :=
  [fld 48 f.src, fld 42 f.dst, fld 26 f.bytes, fld 10 f.n, fld 9 f.esz, fld 7 f.layout, fld 3 f.tag, fld 0 f.share]

/-- The fields of word 0 of an instruction, without its opcode. -/
def word0Fields : Instr → List FieldVal
  | .loop _ n => [fld 0 n]
  | .ctxstart _ c t => [fld 51 c, fld 0 t]
  | .ctxjoin _ c => [fld 51 c]
  | .fset _ g f a v => [fld 53 g, fld 45 f, fld 39 a, fld 0 v]
  | .fadd _ g f a v => [fld 53 g, fld 45 f, fld 39 a, fld 0 v]
  | .fclr _ g f a => [fld 53 g, fld 45 f, fld 39 a]
  | .fwait _ g f v => [fld 53 g, fld 45 f, fld 0 v]
  | .phase _ p s t => [fld 51 p, fld 49 s, fld 0 t]
  | .mark _ c v => [fld 50 c, fld 0 v]
  | .sdef _ d => [fld 50 d.s, fld 48 d.mode, fld 0 d.pstride]
  | .srun _ s a n => [fld 50 s, fld 44 a, fld 0 n]
  | .ldv _ a q ca fmt pack part w32 n =>
    [fld 48 a, fld 42 q, fld 36 ca, fld 32 fmt, fld 30 pack, fld 27 part, fld 26 w32, fld 0 n]
  | .lds _ aa ab q fmt pka pkb n => [fld 48 aa, fld 42 ab, fld 36 q, fld 32 fmt, fld 31 pka, fld 30 pkb, fld 0 n]
  | .stv _ q a w32 n => [fld 48 q, fld 42 a, fld 26 w32, fld 0 n]
  | .qmov _ qs qd n => [fld 48 qs, fld 42 qd, fld 0 n]
  | .qdup _ qs d1 d2 n => [fld 48 qs, fld 42 d1, fld 36 d2, fld 0 n]
  | .opu _ qa qb t ti fa fb n => [fld 48 qa, fld 42 qb, fld 35 t, fld 34 ti, fld 30 fa, fld 26 fb, fld 0 n]
  | .opus _ qa qb qs t ti fa fb n => [fld 48 qa, fld 42 qb, fld 36 qs, fld 29 t, fld 28 ti, fld 24 fa, fld 20 fb, fld 0 n]
  | .tload _ q t ti mode ax sfmt c => [fld 48 q, fld 41 t, fld 40 ti, fld 38 mode, fld 37 ax, fld 35 sfmt, fld 0 c]
  | .tdrain _ f => drainFields f
  | .tdraing _ f => drainFields f
  | .epi _ q e => [fld 48 q, fld 43 e]
  | .vadd _ f => vecFields f | .vsub _ f => vecFields f | .vmul _ f => vecFields f | .vfma _ f => vecFields f
  | .vmax _ f => vecFields f | .vmin _ f => vecFields f | .vcmp _ f => vecFields f | .vsel _ f => vecFields f
  | .vcvt _ x d i o s r n => [fld 48 x, fld 30 d, fld 26 i, fld 22 o, fld 21 s, fld 20 r, fld 0 n]
  | .vexp _ f => vecFields f | .vlog _ f => vecFields f | .vrsq _ f => vecFields f | .vrcp _ f => vecFields f
  | .vred _ f => vecFields f | .vshuf _ f => vecFields f
  | .vbcast _ x l d fx fd n => [fld 48 x, fld 41 l, fld 30 d, fld 28 fx, fld 22 fd, fld 0 n]
  | .vamax _ f => vecFields f
  | .vrng _ p d mode n => [fld 38 p, fld 30 d, fld 16 mode, fld 0 n]
  | .vadamw _ f => optFields f | .vlion _ f => optFields f | .vsgdm _ f => optFields f
  | .nsend _ q c n => [fld 48 q, fld 42 c, fld 0 n]
  | .nrecv _ c q n => [fld 48 c, fld 42 q, fld 0 n]
  | .nmcast _ q mask n => [fld 48 q, fld 24 mask, fld 0 n]
  | .rred _ q d c op n => [fld 48 q, fld 42 d, fld 36 c, fld 34 op, fld 0 n]
  | .rgath _ q d c n => [fld 48 q, fld 42 d, fld 36 c, fld 0 n]
  | .dcopy _ f => dmaFields f
  | .dpref _ f => dmaFields f
  | .dwait _ mask => [fld 0 mask]
  | .ipull _ a ring n tag => [fld 48 a, fld 36 ring, fld 10 n, fld 3 tag]
  | _ => []

/-- The fields of the words after word 0. -/
def moreFields : Instr → List (List FieldVal)
  | .sdef _ d =>
    [[fld 0 d.base], [fld 0 d.count0, fld 24 d.count1, fld 48 d.tmod], [fld 0 d.count2, fld 24 d.count3, fld 48 d.tshift],
      [fld 0 d.stride0], [fld 0 d.stride1], [fld 0 d.stride2], [fld 0 d.stride3], [fld 0 d.tstride]]
  | .tdrain _ f => [drainFields1 f]
  | .tdraing _ f => [drainFields1 f]
  | .vadamw _ f => [optFields1 f] | .vlion _ f => [optFields1 f] | .vsgdm _ f => [optFields1 f]
  | _ => []

/-- The words of a ZVI instruction; none for the block's other commands. -/
def zviEncode (i : Instr) : Option (List Word64) :=
  (opcodeOf i).map fun op => fieldWord (⟨54, op⟩ :: word0Fields i) :: (moreFields i).map fieldWord

/-- How many words the instruction with an opcode has (Table ZVI-1). -/
def zviWords (op : Nat) : Nat :=
  if op = 0x040 then 9
  else if op = 0x090 ∨ op = 0x091 ∨ op = 0x0F0 ∨ op = 0x0F1 ∨ op = 0x0F2 then 2 else 1

/-- The opcodes of Table ZVI-1. -/
def opcodes : List Nat :=
  [0x000, 0x001, 0x002, 0x003, 0x004, 0x005, 0x006, 0x008, 0x009, 0x00A, 0x00B, 0x00C, 0x00D, 0x00E] ++
  [0x040, 0x041, 0x048, 0x049, 0x04A, 0x050, 0x051, 0x080, 0x081, 0x089, 0x090, 0x091, 0x098] ++
  [0x0C0, 0x0C1, 0x0C2, 0x0C3, 0x0C8, 0x0C9, 0x0CA, 0x0CB, 0x0D0, 0x0D8, 0x0D9, 0x0DA, 0x0DB, 0x0E0, 0x0E1, 0x0E2, 0x0E3] ++
  [0x0E8, 0x0F0, 0x0F1, 0x0F2, 0x180, 0x181, 0x182, 0x188, 0x189, 0x1C0, 0x1C1, 0x1C2, 0x1C8]

/-- A field read from a word. -/
def rdf (v : Word64) (lo w : Nat) : BitVec w := v.extractLsb' lo w

def readVec (v : Word64) : VecF :=
  ⟨rdf v 48 6, rdf v 42 6, rdf v 36 6, rdf v 30 6, rdf v 28 2, rdf v 26 2, rdf v 24 2, rdf v 22 2, rdf v 16 3, rdf v 0 16⟩
def readDrain (v u : Word64) : DrainF :=
  ⟨rdf v 47 7, rdf v 46 1, rdf v 41 5, rdf v 40 1, rdf v 39 1, rdf v 32 7, rdf v 24 8, rdf u 0 6, rdf u 6 6, rdf u 12 6,
    rdf u 18 6, rdf u 24 6⟩
def readOpt (v u : Word64) : OptF :=
  ⟨rdf v 48 6, rdf v 42 6, rdf v 36 6, rdf v 30 6, rdf v 24 6, rdf v 22 2, rdf v 21 1, rdf v 20 1, rdf v 0 16, rdf u 0 6,
    rdf u 6 6, rdf u 12 6, rdf u 18 6⟩
def readDma (v : Word64) : DmaF :=
  ⟨rdf v 48 6, rdf v 42 6, rdf v 26 16, rdf v 10 16, rdf v 9 1, rdf v 7 2, rdf v 3 4, rdf v 0 3⟩

/-- SDEF of its nine words (Table ZVI-3). -/
def readSdef : List Word64 → Option SdefF
  | [w0, w1, w2, w3, w4, w5, w6, w7, w8] =>
    some ⟨rdf w0 50 4, rdf w0 48 2, rdf w0 0 40, w1, rdf w2 0 24, rdf w2 24 24, rdf w2 48 16, rdf w3 0 24, rdf w3 24 24,
      rdf w3 48 16, rdf w4 0 40, rdf w5 0 40, rdf w6 0 40, rdf w7 0 40, rdf w8 0 40⟩
  | _ => none

/-- The VEC instruction of the common layout with an opcode. -/
def decodeVec (t : ThreadId) (op : Nat) (v : Word64) : Option Instr :=
  let f := readVec v
  match op with
  | 0x0C0 => some (.vadd t f) | 0x0C1 => some (.vsub t f) | 0x0C2 => some (.vmul t f) | 0x0C3 => some (.vfma t f)
  | 0x0C8 => some (.vmax t f) | 0x0C9 => some (.vmin t f) | 0x0CA => some (.vcmp t f) | 0x0CB => some (.vsel t f)
  | 0x0D0 => some (.vcvt t (rdf v 48 6) (rdf v 30 6) (rdf v 26 4) (rdf v 22 4) (rdf v 21 1) (rdf v 20 1) (rdf v 0 16))
  | 0x0D8 => some (.vexp t f) | 0x0D9 => some (.vlog t f) | 0x0DA => some (.vrsq t f) | 0x0DB => some (.vrcp t f)
  | 0x0E0 => some (.vred t f) | 0x0E1 => some (.vshuf t f)
  | 0x0E2 => some (.vbcast t (rdf v 48 6) (rdf v 41 7) (rdf v 30 6) (rdf v 28 2) (rdf v 22 2) (rdf v 0 16))
  | 0x0E3 => some (.vamax t f)
  | 0x0E8 => some (.vrng t (rdf v 38 16) (rdf v 30 6) (rdf v 16 3) (rdf v 0 16))
  | _ => none

/-- The instruction of class Control with an opcode. -/
def decodeCtl (t : ThreadId) (op : Nat) (v : Word64) : Option Instr :=
  match op with
  | 0x000 => some (.nop t) | 0x001 => some (.loop t (rdf v 0 16)) | 0x002 => some (.endl t)
  | 0x003 => some (.ctxstart t (rdf v 51 3) (rdf v 0 20)) | 0x004 => some (.ctxjoin t (rdf v 51 3))
  | 0x005 => some (.yield t) | 0x006 => some (.halt t)
  | 0x008 => some (.fset t (rdf v 53 1) (rdf v 45 8) (rdf v 39 6) (rdf v 0 16))
  | 0x009 => some (.fadd t (rdf v 53 1) (rdf v 45 8) (rdf v 39 6) (rdf v 0 16))
  | 0x00A => some (.fclr t (rdf v 53 1) (rdf v 45 8) (rdf v 39 6))
  | 0x00B => some (.fwait t (rdf v 53 1) (rdf v 45 8) (rdf v 0 16))
  | 0x00C => some (.tickw t)
  | 0x00D => some (.phase t (rdf v 51 3) (rdf v 49 2) (rdf v 0 20))
  | 0x00E => some (.mark t (rdf v 50 4) (rdf v 0 32))
  | 0x1C2 => some (.dwait t (rdf v 0 16))
  | _ => none

/-- The instruction of the LSU, OPE, DRU, NIU or DMA, one word, with an opcode. -/
def decodeEng (t : ThreadId) (op : Nat) (v : Word64) : Option Instr :=
  match op with
  | 0x041 => some (.srun t (rdf v 50 4) (rdf v 44 6) (rdf v 0 25))
  | 0x048 => some (.ldv t (rdf v 48 6) (rdf v 42 6) (rdf v 36 6) (rdf v 32 4) (rdf v 30 2) (rdf v 27 3) (rdf v 26 1) (rdf v 0 24))
  | 0x049 => some (.lds t (rdf v 48 6) (rdf v 42 6) (rdf v 36 6) (rdf v 32 4) (rdf v 31 1) (rdf v 30 1) (rdf v 0 24))
  | 0x04A => some (.stv t (rdf v 48 6) (rdf v 42 6) (rdf v 26 1) (rdf v 0 24))
  | 0x050 => some (.qmov t (rdf v 48 6) (rdf v 42 6) (rdf v 0 24))
  | 0x051 => some (.qdup t (rdf v 48 6) (rdf v 42 6) (rdf v 36 6) (rdf v 0 24))
  | 0x080 => some (.opu t (rdf v 48 6) (rdf v 42 6) (rdf v 35 7) (rdf v 34 1) (rdf v 30 4) (rdf v 26 4) (rdf v 0 20))
  | 0x081 => some (.opus t (rdf v 48 6) (rdf v 42 6) (rdf v 36 6) (rdf v 29 7) (rdf v 28 1) (rdf v 24 4) (rdf v 20 4) (rdf v 0 20))
  | 0x089 => some (.tload t (rdf v 48 6) (rdf v 41 7) (rdf v 40 1) (rdf v 38 2) (rdf v 37 1) (rdf v 35 2) (rdf v 0 32))
  | 0x098 => some (.epi t (rdf v 48 6) (rdf v 43 5))
  | 0x180 => some (.nsend t (rdf v 48 6) (rdf v 42 6) (rdf v 0 24))
  | 0x181 => some (.nrecv t (rdf v 48 6) (rdf v 42 6) (rdf v 0 24))
  | 0x182 => some (.nmcast t (rdf v 48 6) (rdf v 24 16) (rdf v 0 24))
  | 0x188 => some (.rred t (rdf v 48 6) (rdf v 42 6) (rdf v 36 6) (rdf v 34 2) (rdf v 0 24))
  | 0x189 => some (.rgath t (rdf v 48 6) (rdf v 42 6) (rdf v 36 6) (rdf v 0 24))
  | 0x1C0 => some (.dcopy t (readDma v))
  | 0x1C1 => some (.dpref t (readDma v))
  | 0x1C8 => some (.ipull t (rdf v 48 6) (rdf v 36 6) (rdf v 10 16) (rdf v 3 4))
  | _ => none

/-- The instruction that one word makes. -/
def decode1 (t : ThreadId) (v : Word64) : Option Instr :=
  let op := (rdf v 54 10).toNat
  (decodeCtl t op v).orElse fun _ => (decodeVec t op v).orElse fun _ => decodeEng t op v

/-- The instruction that two words make. -/
def decode2 (t : ThreadId) (v u : Word64) : Option Instr :=
  match (rdf v 54 10).toNat with
  | 0x090 => some (.tdrain t (readDrain v u))
  | 0x091 => some (.tdraing t (readDrain v u))
  | 0x0F0 => some (.vadamw t (readOpt v u))
  | 0x0F1 => some (.vlion t (readOpt v u))
  | 0x0F2 => some (.vsgdm t (readOpt v u))
  | _ => none

/-- The instruction of thread `t` that the words of one instruction make, its reserved bits aside; none for a reserved opcode and for
the wrong number of words. -/
def zviRead (t : ThreadId) (ws : List Word64) : Option Instr :=
  match ws with
  | [v] => decode1 t v
  | [v, u] => decode2 t v u
  | v :: _ => if (rdf v 54 10).toNat = 0x040 then (readSdef ws).map (.sdef t ·) else none
  | [] => none

/-- R174, R175: the instruction that the words make; none also where a reserved bit is not 0 (the words are then not those that the
encoder gives). -/
def zviDecode (t : ThreadId) (ws : List Word64) : Option Instr :=
  match zviRead t ws with
  | some i => if zviEncode i = some ws then some i else none
  | none => none

end Sys2Proof.Machine
end

