-- ==== Sys2Proof/Machine/Vec.lean ====
section
/-! DEFINITION. The VEC (R124-R137, R139-R145, R201-R206): lane operations, conversions, cross-lane trees, random transforms,
fused optimizers, and the pops and pushes of its pipeline (R128). -/
namespace Sys2Proof.Machine

/-- R125: a NaN result is the default NaN. -/
def canon (x : Nat) : Nat := if isNan32 x then defaultNan else x

/-- R125: an FP32 lane in an output format (0 FP32, 1 BF16, 2 FP16). -/
def vout (code : Nat) (f : Nat → Nat) : Slot :=
  if code = 0 then slot32 fun l => canon (f l)
  else slot16 fun l => (convRne (vfmt code) false (val32 (f l))).enc

/-- R127: the six conditions of VCMP. -/
def vcmp (cond x y : Nat) : Bool :=
  let a := val32 x
  let b := val32 y
  match cond with
  | 0 => a.eqv b
  | 1 => !a.eqv b
  | 2 => a.lt b
  | 3 => a.lt b || a.eqv b
  | 4 => b.lt a
  | _ => b.lt a || a.eqv b

/-- Table VEC-2: VEXP, VLOG, VRSQ, VRCP (0 to 3) of an FP32 pattern; what the table does not fix is within R129's
bounds. -/
def transc (op x : Nat) : Nat :=
  let free := transcPick op x
  let neg := neg32 x
  let mag := x % 2 ^ 31
  if isNan32 x then defaultNan
  else match op with
    | 0 =>
      if mag = 0 then 0x3F800000
      else if neg then (if 0x42CE8ED0 ≤ mag then 0 else free)
      else if 0x42B17218 ≤ mag then 0x7F800000 else if mag = 0x3F800000 then 0x402DF854 else free
    | 1 =>
      if mag = 0 then 0xFF800000 else if neg then defaultNan
      else if mag = 0x7F800000 then 0x7F800000 else if mag = 0x3F800000 then 0 else free
    | 2 =>
      if mag = 0 then (if neg then 0xFF800000 else 0x7F800000) else if neg then defaultNan
      else if mag = 0x7F800000 then 0 else if mag = 0x3F800000 then 0x3F800000 else free
    | _ =>
      if mag ≤ 0x00200000 then (if neg then 0xFF800000 else 0x7F800000)
      else if mag = 0x7F800000 then (if neg then 0x80000000 else 0)
      else if x = 0x3F800000 then 0x3F800000 else free

/-- R132: one level of the tree: lanes l and l + h for l below h. -/
def treeLevel (op : Nat → Nat → Nat) (vs : List Nat) : List Nat :=
  let h := vs.length / 2
  ((vs.take h).zip (vs.drop h)).map fun ab => op ab.1 ab.2

/-- R132: seven levels leave the result of 128 lanes in lane 0. -/
def treeReduce (op : Nat → Nat → Nat) (vs : List Nat) : Nat :=
  ((List.range 7).foldl (fun vs _ => treeLevel op vs) vs).headD 0

/-- R132: VRED's operations SUM, MAX, MIN, AMAX. -/
def vredOp (k : Nat) (vs : List Nat) : Nat :=
  match k with
  | 0 => treeReduce add32 vs
  | 1 => treeReduce max32 vs
  | 2 => treeReduce min32 vs
  | _ => treeReduce max32 (vs.map abs32)

/-- R144, R145: NORMAL: the root of -2 ln u1 by R129's algorithms (the root's error bound, 1 ulp, is DEDUCED from VRSQ's; log entry 4), times the
cosine of 2 pi u2, rounded once. -/
def normalF (x0 x1 : Nat) : Nat :=
  mul32 (sqrtPick (mul32 0xC0000000 (transc 1 (rn (.fin false (x0 / 2 ^ 8 + 1) (-24)))))) (cosPick (x1 / 2 ^ 8))

/-- R144, Table VEC-5: the transform of the words drawn. -/
def vrng (mode p16 x0 x1 : Nat) : Nat :=
  match mode with
  | 0 => x0
  | 1 => rn (.fin false (x0 / 2 ^ 8) (-24))
  | 2 => rn ((FVal.fin false (x0 / 2 ^ 8) (-23)).add (.fin true 1 0))
  | 3 => normalF x0 x1
  | _ => if x0 / 2 ^ 16 < p16 then 0x3F800000 else 0

/-- R204: the value of element `e` of lane `l` of an entry in a VCVT format. -/
def cvtIn (c : Nat) (s : Slot) (l e : Nat) : FVal :=
  if c = 15 then val32 (lane32 s l)
  else if c = 14 then ofInt32 (lane32 s l)
  else if c < 2 then (packFmt c).decode (lane16 s l)
  else (packFmt c).decode (bitsAt (lane16 s l) (8 * e) 8)

/-- R130, R131: an element in a VCVT output format, with its draw where ROUND applies. -/
def cvtOut (c : Nat) (sat : Bool) (rnd : Option Nat) (v : FVal) : Nat :=
  if c = 15 then rn v
  else if c = 14 then toInt32 v
  else match rnd with
    | some r => (convStoch (packFmt c) (sat && decide (2 ≤ c)) r v).enc
    | none => (convRne (packFmt c) (sat && decide (2 ≤ c)) v).enc

/-- Whether a format takes 32 bits a lane. -/
def wide (c : Nat) : Bool := decide (14 ≤ c)

/-- The entry of one element a lane in a format that is not FP8. -/
def cvtSlot (c : Nat) (f : Nat → Nat) : Slot := if wide c then slot32 f else slot16 f

/-- R202: the entries that VCVT makes of one input entry: two from FP8, one for another format or FP8 from FP8, and for a
conversion to FP8 the halves of `hold` with this entry once `odd`; and the entry to hold. `w l e` is the draw. -/
def vcvt (i o : Nat) (sat round odd : Bool) (hold s : Slot) (w : Nat → Nat → Nat) : List Slot × Slot :=
  let draw (l e : Nat) : Option Nat := if round && !wide o then some (w l e % 2 ^ 16) else none
  let el (l e : Nat) : Nat := cvtOut o sat (draw l e) (cvtIn i s l e)
  let fp8 (c : Nat) : Bool := c == 2 || c == 3
  if fp8 i && fp8 o then ([slot16 fun l => el l 0 + 256 * el l 1], 0)
  else if fp8 i then ([cvtSlot o fun l => el l 0, cvtSlot o fun l => el l 1], 0)
  else if fp8 o then
    if odd then ([slot16 fun l => lane16 hold l + 256 * el l 0], 0) else ([], slot16 fun l => el l 0)
  else ([cvtSlot o fun l => el l 0], 0)

/-- What a fused optimizer makes of one element: w', m', v' (Table VEC-4); `p` is the parameter lane. -/
structure OptOut where
  w : Nat
  m : Nat
  v : Nat
  deriving DecidableEq, Repr

/-- R136: sign(c) of VLION. -/
def signOf (c : Nat) : Nat :=
  if isNan32 c then defaultNan else if c % 2 ^ 31 = 0 then 0 else if neg32 c then 0xBF800000 else 0x3F800000

/-- The weight update of VADAMW and VLION: rn(w - rn(lr * rn(u + rn(lambda * w)))). -/
def optStep (p : Nat → Nat) (w u : Nat) : Nat := sub32 w (mul32 (p 0) (add32 u (mul32 (p 6) w)))

def vadamw (p : Nat → Nat) (w m v g0 : Nat) : OptOut :=
  let g := mul32 g0 (p 9)
  let m' := fma32 (p 1) m (mul32 (p 2) g)
  let v' := fma32 (p 3) v (mul32 (mul32 (p 4) g) g)
  let d := add32 (sqrt32 (mul32 v' (p 8))) (p 5)
  ⟨optStep p w (div32 (mul32 m' (p 7)) d), m', v'⟩

def vlion (p : Nat → Nat) (w m g0 : Nat) : OptOut :=
  let g := mul32 g0 (p 9)
  let c := fma32 (p 1) m (mul32 (p 2) g)
  ⟨optStep p w (signOf c), fma32 (p 3) m (mul32 (p 4) g), 0⟩

def vsgdm (p : Nat → Nat) (w m g0 : Nat) : OptOut :=
  let g2 := fma32 (p 6) w (mul32 g0 (p 9))
  let m' := fma32 (p 1) m g2
  ⟨sub32 w (mul32 (p 0) m'), m', 0⟩

/-- The optimizer of an instruction and its fields. -/
def optOf : Instr → Option (Nat × OptF)
  | .vadamw _ f => some (0, f)
  | .vlion _ f => some (1, f)
  | .vsgdm _ f => some (2, f)
  | _ => none

/-- A VEC count of entries, 0 standing for 65,536 (R201). -/
def n16 (n : BitVec 16) : Nat := if n = 0 then 65536 else n.toNat

/-- The common fields of a VEC instruction. -/
def vecOf : Instr → Option VecF
  | .vadd _ f => some f | .vsub _ f => some f | .vmul _ f => some f | .vfma _ f => some f | .vmax _ f => some f
  | .vmin _ f => some f | .vcmp _ f => some f | .vsel _ f => some f | .vexp _ f => some f | .vlog _ f => some f
  | .vrsq _ f => some f | .vrcp _ f => some f | .vred _ f => some f | .vshuf _ f => some f | .vamax _ f => some f
  | _ => none

/-- Entries (or element entries) of a VEC command. -/
def vecN (i : Instr) : Nat :=
  match vecOf i with
  | some f => n16 f.n
  | none => match optOf i with
    | some (_, f) => n16 f.n
    | none => match i with
      | .vcvt _ _ _ _ _ _ _ n => n16 n
      | .vbcast _ _ _ _ _ _ n => n16 n
      | .vrng _ _ _ _ n => n16 n
      | _ => 0

/-- The queues whose entries a command's next pop takes; the first pop of a fused optimizer is P alone (R206). -/
def vecPops (i : Instr) (first : Bool) : List Nat :=
  match vecOf i with
  | some f => ([f.x, f.y, f.z].filter fun e => e != 63).map (·.toNat)
  | none => match optOf i with
    | some (_, f) => if first then [f.p.toNat] else [f.w.toNat, f.m.toNat] ++ (if f.v = 63 then [] else [f.v.toNat]) ++ [f.g.toNat]
    | none => match i with
      | .vcvt _ x _ _ _ _ _ _ => [x.toNat]
      | .vbcast _ x _ _ _ _ _ => [x.toNat]
      | _ => []

/-- Words drawn on each lane for one pop (R131, R137, R144). -/
def vecDraws : Instr → Nat
  | .vcvt _ _ _ i o _ r _ =>
    if r = 1 ∧ o.toNat < 4 then (if i = 2 ∨ i = 3 then 2 else 1) else 0
  | .vrng _ _ _ mode _ => if mode = 3 then 2 else 1
  | .vadamw _ f => if f.wcopy = 1 ∧ f.round = 1 then 1 else 0
  | .vlion _ f => if f.wcopy = 1 ∧ f.round = 1 then 1 else 0
  | .vsgdm _ f => if f.wcopy = 1 ∧ f.round = 1 then 1 else 0
  | _ => 0

/-- Results in flight toward one destination that an operation's latency covers: latency / interval of Table VEC-1. -/
def vecCap : Instr → Nat
  | .vmax .. | .vmin .. | .vcmp .. | .vsel .. => 4
  | .vexp .. | .vlog .. | .vrsq .. | .vrcp .. => 8
  | .vshuf .. | .vbcast .. => 12
  | .vred .. | .vamax .. => 24
  | .vrng _ _ _ mode _ => if mode = 3 then 10 else 20
  | .vadamw .. => 20
  | .vlion .. | .vsgdm .. => 40
  | _ => 6

/-- The ends that a VEC command's results go to. -/
def vecDests (i : Instr) : List Nat :=
  match vecOf i, optOf i with
  | some f, _ => [f.d.toNat]
  | none, some (_, f) => ([f.wo, f.mo, f.vo, f.wb].map (·.toNat)).filter (· != 63)
  | none, none => match i with
    | .vcvt _ _ d _ _ _ _ _ => [d.toNat]
    | .vbcast _ _ _ d _ _ _ => [d.toNat]
    | .vrng _ _ d _ _ => [d.toNat]
    | _ => []

/-- What one pop makes: results with their ends, the entry to hold, and non-finite weights (R137). -/
structure VecOut where
  res : List (Nat × Slot)
  hold : Slot
  bad : Nat
  deriving DecidableEq, Repr

/-- The results of a common VEC operation on its popped entries `x`, `y`, `z`. -/
def vecCommon (i : Instr) (f : VecF) (x y z hold : Slot) (last : Bool) : VecOut :=
  let a := vlane f.fx.toNat x
  let b := vlane f.fy.toNat y
  let c := vlane f.fz.toNat z
  let out (g : Nat → Nat) : VecOut := ⟨[(f.d.toNat, vout f.fd.toNat g)], 0, 0⟩
  match i with
  | .vadd .. => out fun l => add32 (a l) (b l)
  | .vsub .. => out fun l => sub32 (a l) (b l)
  | .vmul .. => out fun l => mul32 (a l) (b l)
  | .vfma .. => out fun l => fma32 (a l) (b l) (c l)
  | .vmax .. => out fun l => max32 (a l) (b l)
  | .vmin .. => out fun l => min32 (a l) (b l)
  | .vcmp .. => ⟨[(f.d.toNat, slot32 fun l => if vcmp f.ext.toNat (a l) (b l) then 0xFFFFFFFF else 0)], 0, 0⟩
  | .vsel .. => out fun l => if (if f.fx = 0 then lane32 x l else lane16 x l) = 0 then c l else b l
  | .vexp .. => out fun l => transc 0 (a l)
  | .vlog .. => out fun l => transc 1 (a l)
  | .vrsq .. => out fun l => transc 2 (a l)
  | .vrcp .. => out fun l => transc 3 (a l)
  | .vred .. =>
    let r := vredOp f.ext.toNat ((List.range 128).map a)
    out fun _ => r
  | .vshuf .. => out fun l => a (lane32 y l % 128)
  | .vamax .. =>
    let run := (List.range 128).map fun l => max32 (lane32 hold l) (abs32 (a l))
    if last then
      let r := treeReduce max32 run
      out fun _ => r
    else ⟨[], slot32 fun l => run.getD l 0, 0⟩
  | _ => ⟨[], 0, 0⟩

/-- R136, R137: the results of one element entry of a fused optimizer. -/
def optEntry (k : Nat) (f : OptF) (p w m v g : Slot) (wd : Nat → Nat → Nat) : VecOut :=
  let os := (List.range 128).map fun l =>
    let ga := vlane f.fg.toNat g l
    if k = 0 then vadamw (lane32 p) (lane32 w l) (lane32 m l) (lane32 v l) ga
    else if k = 1 then vlion (lane32 p) (lane32 w l) (lane32 m l) ga
    else vsgdm (lane32 p) (lane32 w l) (lane32 m l) ga
  let o (l : Nat) : OptOut := os.getD l ⟨0, 0, 0⟩
  let copy (l : Nat) : Nat :=
    if f.round = 1 then (convStoch bf16 false (wd l 0 % 2 ^ 16) (val32 (o l).w)).enc else (convRne bf16 false (val32 (o l).w)).enc
  ⟨[(f.wo.toNat, slot32 fun l => (o l).w), (f.mo.toNat, slot32 fun l => (o l).m)]
    ++ (if k = 0 then [(f.vo.toNat, slot32 fun l => (o l).v)] else [])
    ++ (if f.wcopy = 1 then [(f.wb.toNat, slot16 copy)] else []),
    0, (List.range 128).countP fun l => isFin32 (lane32 w l) && !isFin32 (o l).w⟩

/-- The results of one pop of a VEC command: `done` entries were popped before, `es` are the entries popped now. -/
def vecStep (r : VecRun) (es : List Slot) (wd : Nat → Nat → Nat) : VecOut :=
  let e (k : Nat) : Slot := es.getD k 0
  match vecOf r.cmd.ins, optOf r.cmd.ins with
  | some f, _ => vecCommon r.cmd.ins f (e 0) (e 1) (e 2) r.hold (decide (n16 f.n ≤ r.done + 1))
  | none, some (k, f) =>
    let v := if k = 0 then e 2 else 0
    optEntry k f (r.param.getD 0) (e 0) (e 1) v (e (if k = 0 then 3 else 2)) wd
  | none, none =>
    match r.cmd.ins with
    | .vcvt _ _ d i o s rd _ =>
      let (ss, h) := vcvt i.toNat o.toNat (s == 1) (rd == 1) (r.done % 2 == 1) r.hold (e 0) wd
      ⟨ss.map (d.toNat, ·), h, 0⟩
    | .vbcast _ _ lane d fx fd _ => ⟨[(d.toNat, vout fd.toNat fun _ => vlane fx.toNat (e 0) lane.toNat)], 0, 0⟩
    | .vrng _ p d mode _ => ⟨[(d.toNat, slot32 fun l => vrng mode.toNat p.toNat (wd l 0) (wd l 1))], 0, 0⟩
    | _ => ⟨[], 0, 0⟩

namespace Vec

def vadd (t : ThreadId) (f : VecF) : Mach → Mach := engine t (.vadd t f) 0 1
def vsub (t : ThreadId) (f : VecF) : Mach → Mach := engine t (.vsub t f) 0 1
def vmul (t : ThreadId) (f : VecF) : Mach → Mach := engine t (.vmul t f) 0 1
def vfma (t : ThreadId) (f : VecF) : Mach → Mach := engine t (.vfma t f) 0 1
def vmax (t : ThreadId) (f : VecF) : Mach → Mach := engine t (.vmax t f) 0 1
def vmin (t : ThreadId) (f : VecF) : Mach → Mach := engine t (.vmin t f) 0 1
def vcmp (t : ThreadId) (f : VecF) : Mach → Mach := engine t (.vcmp t f) 0 1
def vsel (t : ThreadId) (f : VecF) : Mach → Mach := engine t (.vsel t f) 0 1
def vcvt (t : ThreadId) (x d : BitVec 6) (i o : BitVec 4) (s r : BitVec 1) (n : BitVec 16) : Mach → Mach :=
  engine t (.vcvt t x d i o s r n) 0 1
def vexp (t : ThreadId) (f : VecF) : Mach → Mach := engine t (.vexp t f) 0 1
def vlog (t : ThreadId) (f : VecF) : Mach → Mach := engine t (.vlog t f) 0 1
def vrsq (t : ThreadId) (f : VecF) : Mach → Mach := engine t (.vrsq t f) 0 1
def vrcp (t : ThreadId) (f : VecF) : Mach → Mach := engine t (.vrcp t f) 0 1
def vred (t : ThreadId) (f : VecF) : Mach → Mach := engine t (.vred t f) 0 1
def vshuf (t : ThreadId) (f : VecF) : Mach → Mach := engine t (.vshuf t f) 0 1
def vbcast (t : ThreadId) (x : BitVec 6) (lane : BitVec 7) (d : BitVec 6) (fx fd : BitVec 2) (n : BitVec 16) : Mach → Mach :=
  engine t (.vbcast t x lane d fx fd n) 0 1
def vamax (t : ThreadId) (f : VecF) : Mach → Mach := engine t (.vamax t f) 0 1
def vrng (t : ThreadId) (p : BitVec 16) (d : BitVec 6) (mode : BitVec 3) (n : BitVec 16) : Mach → Mach :=
  engine t (.vrng t p d mode n) 0 1
def vadamw (t : ThreadId) (f : OptF) : Mach → Mach := engine t (.vadamw t f) 0 2
def vlion (t : ThreadId) (f : OptF) : Mach → Mach := engine t (.vlion t f) 0 2
def vsgdm (t : ThreadId) (f : OptF) : Mach → Mach := engine t (.vsgdm t f) 0 2

/-- The command in progress, or the head of the engine queue taken into progress. -/
def take (g : Nat) (m : Mach) : Mach :=
  let c := m.core g
  match c.vec, c.vecQ with
  | none, cmd :: _ =>
    ((m.popEng g 3).onCore g fun c => { c with vec := some ⟨cmd, 0, none, 0⟩ }).wr .VEC_STATUS_OPCODE g
      ((opcodeOf cmd.ins).getD 0)
  | _, _ => m

/-- The entries that a pop takes from the queues, in the order of the operands: a queue named twice gives its next entry each time. -/
def heads (m : Mach) (g : Nat) (qs : List Nat) : List (Nat × Ent) :=
  (List.range qs.length).map fun i =>
    let q := qs.getD i 63
    (q, ((m.core g).dq q).getD ((qs.take i).count q) ⟨0, false⟩)

/-- The VEC pops nothing: its oldest result waits, or as many results as the latency covers are under way to a destination (R128). -/
def full (c : Core) (r : VecRun) : Bool :=
  (c.vecHeld && !c.vecPipe.isEmpty)
    || (vecDests r.cmd.ins).any fun d => decide (vecCap r.cmd.ins ≤ c.vecPipe.countP fun p => p.dst == d)

/-- The next pop is a fused optimizer's of its parameter entry (R206). -/
def takesParam (r : VecRun) : Bool := (optOf r.cmd.ins).isSome && r.param.isNone

/-- R124, R128, R206: pops one set of entries, computes their results and puts them into the pipeline. -/
def popEntries (g : Nat) (r : VecRun) (base : Nat) (m : Mach) : Mach :=
  let qs := vecPops r.cmd.ins r.param.isNone
  let es := heads m g qs
  let m := qs.foldl (fun m q => m.dropQ g q 1) m
  match es.find? (·.2.poison) with
  | some e => m.poisonConsumed g .vec e.1 0
  | none =>
    let ss := es.map (·.2.bits)
    let seed := m.rd .VEC_RNG_SEED g
    let o := vecStep r ss fun l k => vecWord seed g l (base + k)
    let next : Option VecRun := if vecN r.cmd.ins ≤ r.done + 1 then none else some { r with done := r.done + 1, hold := o.hold }
    let pend : List VecPend := o.res.map fun x => ⟨r.cmd, x.1, ⟨x.2, false⟩⟩
    if takesParam r then m.onCore g fun c => { c with vec := some { r with param := ss.head? } }
    else (m.onCore g fun c => { c with vec := next, vecPipe := c.vecPipe ++ pend }).bump .VEC_OPT_NONFINITE g o.bad

/-- R128: the VEC takes its next input entries, where they are present and its oldest result is not held back. Its draws are taken before
it sees whether an entry is poisoned (DESIGN CHOICE: R141 does not say; log entry 66). -/
def entryPop (g6 : BitVec 6) (m : Mach) : Mach :=
  let g := g6.toNat
  if !m.unitRuns g .vec then m
  else
    let m := take g m
    match (m.core g).vec with
    | none => m
    | some r =>
      if full (m.core g) r then m
      else
        let qs := vecPops r.cmd.ins r.param.isNone
        match qs.find? fun q => decide (((m.core g).dq q).length < qs.count q) with
        | some q => m.stallEmpty g .VEC_STALL_QEMPTY 11 q
        | none =>
          match (if vecDraws r.cmd.ins = 0 ∨ takesParam r then some (0, m) else m.draw g 0 (vecDraws r.cmd.ins)) with
          | none => m
          | some (b, m) => popEntries g r b m

/-- R128: the oldest result is pushed once its queue has room or its channel end accepts it. -/
def resultPush (g6 : BitVec 6) (m : Mach) : Mach :=
  let g := g6.toNat
  match (m.core g).vecPipe with
  | [] => m
  | p :: rest =>
    if !m.unitRuns g .vec then m
    else match m.pushEnd g p.dst p.ent with
      | none => (m.refused g p.dst .VEC_STALL_QFULL).onCore g fun c => { c with vecHeld := true }
      | some m => ((m.onCore g fun c => { c with vecPipe := rest, vecHeld := false }).bump .VEC_ENTRIES g 1).ev g 6 1

end Vec
end Sys2Proof.Machine
end

