-- ==== Sys2Proof/Machine/Niu.lean ====
section
/-! DEFINITION. The NIU (R207-R209, R555, R471): sends, receives, NMCAST, and the contributions and results of RRED and
RGATH. -/
namespace Sys2Proof.Machine

def Core.niuAt (c : Core) (i : Nat) : Option NiuRun := c.niu.get (fun _ => none) i
def Core.setNiu (c : Core) (i : Nat) (r : Option NiuRun) : Core := { c with niu := c.niu.set (fun _ => none) i r }

/-- Entries of an NIU command, 0 standing for 2^24 (Table ZVI-8). -/
def niuN : Instr → Nat
  | .nsend _ _ _ n => dimCount n
  | .nrecv _ _ _ n => dimCount n
  | .nmcast _ _ _ n => dimCount n
  | .rred _ _ _ _ _ n => dimCount n
  | .rgath _ _ _ _ n => dimCount n
  | _ => 0

/-- The queue ends an NIU command pops, and those it pushes (channel ends by their codes). RRED and RGATH hold the end that names their
stream: a channel's blocks are formed one after another (R318). -/
def niuPops : Instr → List Nat
  | .nsend _ q _ _ => [q.toNat]
  | .nrecv _ c _ _ => [c.toNat]
  | .nmcast _ q _ _ => [q.toNat]
  | .rred _ q _ _ _ _ => [q.toNat]
  | .rgath _ q _ _ _ => [q.toNat]
  | _ => []

def maskEnds (mask : Nat) : List Nat := (List.range 16).filter fun k => bitsAt mask k 1 == 1

def niuPushes : Instr → List Nat
  | .nsend _ _ c _ => [c.toNat]
  | .nrecv _ _ q _ => [q.toNat]
  | .nmcast _ _ mask _ => (maskEnds mask.toNat).map (32 + ·)
  | .rred _ _ d c _ _ => [d.toNat, c.toNat]
  | .rgath _ _ d c _ => [d.toNat, c.toNat]
  | _ => []

/-- R151: an earlier command of the NIU holds one of the ends that this one pops (while it still pops) or pushes. -/
def Core.niuBusy (c : Core) (r : NiuRun) : Bool :=
  (slotVals c.niu).any fun e => decide (e.ord < r.ord)
    && ((decide (e.done < niuN e.cmd.ins) && (niuPops r.cmd.ins).any (niuPops e.cmd.ins).contains)
      || (niuPushes r.cmd.ins).any (niuPushes e.cmd.ins).contains)

/-- RRED and RGATH take nothing while their stream or the reduction buffer is off (R320). -/
def Mach.niuOpen (m : Mach) (g : Nat) (i : Instr) : Bool :=
  let open_ (c : BitVec 6) : Bool := m.on .RED_STREAM_CFG_ENABLE (m.chGroup g (c.toNat - 32)) && m.on .RED_BUF_ENABLE 0
  match i with
  | .rred _ _ _ c _ _ => open_ c
  | .rgath _ _ _ c _ => open_ c
  | _ => true

/-- What the pop of a multicast member's entry does besides (R310, R311): the end is no longer full, and the last entry of a
micro-batch moves the attached member's cursor on. -/
def Mach.mcPopped (m : Mach) (g c : Nat) (e : ChEnt) : Mach :=
  let m := { m with ing := { m.ing with full := m.ing.full.set (fun _ => none) (endKey g c) none } }
  let n := m.chGroup g c
  if e.last then
    let i := m.rd .ING_MC_RING n * 64 + g
    m.wr .ING_RING_CUR i (m.rd .ING_RING_CUR i + 1)
  else m

/-- Pops the oldest entry of a receiving end, with its credit, settlement or cursor. -/
def Mach.popEnd (m : Mach) (g c : Nat) (e : ChEnt) : Mach :=
  let m := m.onCore g fun co => co.setChan c ((co.chan c).drop 1)
  if m.chKind g c = 3 then m.mcPopped g c e else m.popped e

namespace Niu

def nsend (t : ThreadId) (q c : BitVec 6) (n : BitVec 24) : Mach → Mach := engine t (.nsend t q c n) 0 1
def nrecv (t : ThreadId) (c q : BitVec 6) (n : BitVec 24) : Mach → Mach := engine t (.nrecv t c q n) 0 1
def nmcast (t : ThreadId) (q : BitVec 6) (mask : BitVec 16) (n : BitVec 24) : Mach → Mach := engine t (.nmcast t q mask n) 0 1
def rred (t : ThreadId) (q d c : BitVec 6) (op : BitVec 2) (n : BitVec 24) : Mach → Mach := engine t (.rred t q d c op n) 0 1
def rgath (t : ThreadId) (q d c : BitVec 6) (n : BitVec 24) : Mach → Mach := engine t (.rgath t q d c n) 0 1

/-- The head of the engine queue takes slot `s` when it is the first free one (R161, R555). -/
def take (g s : Nat) (m : Mach) : Mach :=
  let c := m.core g
  match c.niuQ with
  | [] => m
  | cmd :: _ =>
    if (List.range 4).find? (fun i => (c.niuAt i).isNone) = some s then
      (m.popEng g 4).onCore g fun c => c.setNiu s (some ⟨cmd, nextOrd ((slotVals c.niu).map (·.ord)), 0, none, 0, 0⟩)
    else m

/-- Puts back a run, or frees its slot when the command has retired. -/
def put (g s : Nat) (r : NiuRun) (retired : Bool) (m : Mach) : Mach :=
  m.onCore g fun c => c.setNiu s (if retired then none else some r)

/-- A cycle that waits for an end to accept (R471), with its cause in Table DBG-2. -/
def waitSend (g e : Nat) (m : Mach) : Mach := m.refused g e .NIU_WAIT_SEND

/-- NSEND: one entry. -/
def send (g s : Nat) (r : NiuRun) (q c : Nat) (m : Mach) : Mach :=
  match m.headQ g q with
  | none => m
  | some d =>
    match m.accept g (c - 32) d with
    | none => waitSend g c m
    | some m => put g s { r with done := r.done + 1 } (decide (niuN r.cmd.ins ≤ r.done + 1)) (m.dropQ g q 1)

/-- NRECV: one entry. -/
def recv (g s : Nat) (r : NiuRun) (c q : Nat) (m : Mach) : Mach :=
  match (m.core g).chan (c - 32) with
  | [] => m.stallEmpty g .NIU_WAIT_RECV 9 c
  | e :: _ =>
    if m.qRoom g q 1 then
      put g s { r with done := r.done + 1 } (decide (niuN r.cmd.ins ≤ r.done + 1))
        (((m.popEnd g (c - 32) e).pushQ g q e.ent).ev g (0x80 + q) 1)
    else m

/-- NMCAST: offers the entry in hand to each end that has not taken it, in ascending order, and pops the next one only when
all have. -/
def mcast (g s : Nat) (r : NiuRun) (q mask : Nat) (m : Mach) : Mach :=
  let go (d : Ent) (r : NiuRun) (m : Mach) : Mach :=
    let (taken, m) := (maskEnds mask).foldl (fun (tm : Nat × Mach) k =>
      if bitsAt tm.1 k 1 = 1 then tm
      else match tm.2.accept g k d with
        | some m => (tm.1 + 2 ^ k, m)
        | none => tm) (r.taken, m)
    if taken = mask then
      put g s { r with done := r.done + 1, cur := none, taken := 0 } (decide (niuN r.cmd.ins ≤ r.done + 1)) m
    else
      let left := (maskEnds mask).filter fun k => bitsAt taken k 1 = 0
      let e := ((left.find? fun k => m.chKind g k == 4) <|> left.head?).getD 0
      waitSend g (32 + e) (put g s { r with cur := some d, taken := taken } false m)
  match r.cur, m.headQ g q with
  | some d, _ => go d r m
  | none, some d => go d r (m.dropQ g q 1)
  | none, none => m

/-- The block that RRED or RGATH command `r` of channel (n, g) has formed and whose results it awaits. -/
def blockOf (m : Mach) (n g : Nat) : Option RedBlk := m.red.blks.find? fun b => b.n == n && b.g == g && b.kind != 0

/-- The result entries of a block: its working values, or for RGATH every member's entries in rank order (R208). -/
def results (b : RedBlk) : List Ent :=
  let w := if b.op = 0 ∧ b.kind ≠ 2 then 16 else 32
  let entry (vs : List Nat) (base i : Nat) : Ent :=
    ⟨BitVec.ofNat 4096 (packLanes w ((vs.drop (128 * i)).take 128)), b.poison.get (fun _ => false) (base + i)⟩
  if b.kind = 2 then b.members.flatMap fun kv => (List.range b.need).map (entry kv.2 (kv.1 * b.need))
  else (List.range b.need).map (entry b.vals 0)

/-- RRED and RGATH (R208, R320): pops its contribution into its block, then pushes the block's results to D. -/
def reduce (g s : Nat) (r : NiuRun) (kind q d c op : Nat) (m : Mach) : Mach :=
  let n := m.chGroup g (c - 32)
  let total := niuN r.cmd.ins
  if !m.on .RED_STREAM_CFG_ENABLE n || !m.on .RED_BUF_ENABLE 0 then m.stall g .NIU_WAIT_SEND 12
  else if r.done < total then
    match m.headQ g q with
    | none => m
    | some e =>
      let m := m.dropQ g q 1
      if kind == 1 && e.poison then m.poisonConsumed g .niu q 0
      else
        let m := if r.done = 0 then m.redNew n g kind op total else m
        let blks := m.red.blks.map fun b =>
          if b.n == n && b.g == g && b.kind != 0 && decide (b.cnt < b.need) then b.take true e else b
        put g s { r with done := r.done + 1 } false { m with red := { m.red with blks := blks } }
  else
    match blockOf m n g with
    | none => m
    | some b =>
      if !b.done then m.stall g .NIU_WAIT_SEND 12
      else match (results b)[r.results]? with
        | none => put g s r true m
        | some x =>
          if m.qRoom g d 1 then
            let all := decide ((results b).length ≤ r.results + 1)
            let m := (m.pushQ g d x).ev g (0x80 + d) 1
            let m := if all then { m with red := { m.red with blks := m.red.blks.erase b } } else m
            put g s { r with results := r.results + 1 } all m
          else m.stall g .NIU_WAIT_SEND 12

/-- R555: the command of slot `s` moves one entry. -/
def entryMove (g6 : BitVec 6) (s2 : BitVec 2) (m : Mach) : Mach :=
  let g := g6.toNat
  let s := s2.toNat
  if !m.unitRuns g .niu then m
  else
    let m := take g s m
    match (m.core g).niuAt s with
    | none => m
    | some r =>
      if (m.core g).niuBusy r then m
      else match r.cmd.ins with
        | .nsend _ q c _ => send g s r q.toNat c.toNat m
        | .nrecv _ c q _ => recv g s r c.toNat q.toNat m
        | .nmcast _ q mask _ => mcast g s r q.toNat mask.toNat m
        | .rred _ q d c op _ => reduce g s r 1 q.toNat d.toNat c.toNat op.toNat m
        | .rgath _ q d c _ => reduce g s r 2 q.toNat d.toNat c.toNat 0 m
        | _ => m

end Niu
end Sys2Proof.Machine
end

