-- ==== Sys2Proof/Machine/Peat.lean ====
section
/-! DEFINITION. Peat compression: page tables and pools (R256-R259), codecs (R260-R263), and the read, write and
read-modify-write of a page (R264-R267). Unit 0-3 is a compute die's, unit 4 the hub's. -/
namespace Sys2Proof.Machine

/-- A page-table entry (Table MEM-2). -/
structure PageEnt where
  sector : Nat
  count : Nat
  cls : Nat
  codec : Nat
  poison : Bool
  deriving DecidableEq, Repr

def PageEnt.ofNat (n : Nat) : PageEnt :=
  ⟨bitsAt n 0 32, bitsAt n 32 4, bitsAt n 36 2, bitsAt n 38 2, bitsAt n 40 1 == 1⟩

def PageEnt.toNat (e : PageEnt) : Nat :=
  e.sector % 2 ^ 32 + e.count % 16 * 2 ^ 32 + e.cls % 4 * 2 ^ 36 + e.codec % 4 * 2 ^ 38 + b2n e.poison * 2 ^ 40

/-- The unit and page number of a packed address (R255). -/
def peatUnit (a : Nat) : Nat := if rangeOf a = .packed then (a - 0x40000000000) / 2 ^ 40 else 4
def peatPage (a : Nat) : Nat :=
  if rangeOf a = .packed then (a - 0x40000000000) % 2 ^ 40 / 4096 else (a - 0xC0000000000) / 4096

/-- R255: the page exists and its unit's pool is enabled. -/
def Mach.peatOk (m : Mach) (a : Nat) : Bool :=
  decide (peatPage a < m.rd .MEM_PEAT_CFG_PAGES (peatUnit a)) && m.on .MEM_PEAT_POOL_ENABLE (peatUnit a)

/-- R256: bytes of a unit's page table, and where the entry of page `n` lies. -/
def Mach.peatTable (m : Mach) (d : Nat) : Nat := (8 * m.rd .MEM_PEAT_CFG_PAGES d + 4095) / 4096 * 4096
def Mach.peatEntryAddr (m : Mach) (d n : Nat) : Nat :=
  m.rsvBase 3 + 4096 + ((List.range d).map m.peatTable).foldl (· + ·) 0 + 8 * n

def Mach.peatEntry (m : Mach) (d n : Nat) : PageEnt := PageEnt.ofNat (m.word (m.peatEntryAddr d n) 8)

/-- Writes a page's entry on behalf of source `src` (R234). -/
def Mach.setPeatEntry (m : Mach) (src d n : Nat) (e : PageEnt) : Mach :=
  m.agentWrite src (m.peatEntryAddr d n) ((leBytes 8 e.toNat).map (·, false))

/-- R258: the linear address of sector `s` of a die's pool. -/
def Mach.sectorAddr (m : Mach) (d s : Nat) : Nat :=
  let c := s / 16
  0x10000000000 + (8 * d + c % 8) * 0x800000000 + m.rd .MEM_PEAT_POOL_OFF d * 256 + c / 8 * 4096 + s % 16 * 256

/-- R253, R258: the sectors lie where a window covers them, in the hub's pool. -/
def Mach.sectorsOk (m : Mach) (d s n : Nat) : Bool :=
  d != 4 || (List.range n).all fun i => (m.t2Host (m.rd .MEM_PEAT_POOL_OFF 4 * 256 + 256 * (s + i))).isSome

/-- Reads `n` sectors of a pool from sector `s`. -/
def Mach.readSectors (m : Mach) (d s n : Nat) : List PByte :=
  (List.range n).flatMap fun i =>
    if d = 4 then m.t2Read (m.rd .MEM_PEAT_POOL_OFF 4 * 256 + 256 * (s + i)) 256
    else m.plainRead (m.sectorAddr d (s + i)) 256

/-- Writes a stream into the sectors of a run, zeros after its end. -/
def Mach.writeSectors (m : Mach) (src d s : Nat) (bs : List Byte) : Mach :=
  (List.range ((bs.length + 255) / 256)).foldl (fun m i =>
    let chunk := (padTo 256 ((bs.drop (256 * i)).take 256)).map (·, false)
    if d = 4 then m.t2Write (m.rd .MEM_PEAT_POOL_OFF 4 * 256 + 256 * (s + i)) chunk
    else m.agentWrite src (m.sectorAddr d (s + i)) chunk) m

/-- R259: the record of class `k` of a unit, and its ring of run indices. A run's index is taken as the number of its first
sector (log entry 20). -/
def Mach.classRec (m : Mach) (d k : Nat) : Nat := m.rsvBase 3 + 128 * d + 32 * k

/-- Writes a 4-byte field of a class record or a ring entry. -/
def Mach.putWord (m : Mach) (src a v : Nat) : Mach := m.agentWrite src a ((leBytes 4 v).map (·, false))

/-- Pops a run from the ring of class `k`, if it holds one. -/
def Mach.popRun (m : Mach) (src d k : Nat) : Option (Nat × Mach) :=
  let r := m.classRec d k
  let free := m.word (r + 20) 4
  if free = 0 then none
  else
    let len := max 1 (m.word (r + 8) 4)
    let head := m.word (r + 12) 4
    let s := m.word (m.word r 8 + 4 * head) 4
    some (s, (m.putWord src (r + 12) ((head + 1) % len)).putWord src (r + 20) (free - 1))

/-- Pushes a run back to the ring of its class. -/
def Mach.pushRun (m : Mach) (src d k s : Nat) : Mach :=
  let r := m.classRec d k
  let len := max 1 (m.word (r + 8) 4)
  let tail := m.word (r + 16) 4
  ((m.putWord src (m.word r 8 + 4 * tail) s).putWord src (r + 16) ((tail + 1) % len)).putWord src (r + 20) (m.word (r + 20) 4 + 1)

/-- Pops from the smallest class at or above `k` whose ring holds a run (R267). -/
def Mach.popFrom (m : Mach) (src d k : Nat) : Option (Nat × Nat × Mach) :=
  (List.range 4).findSome? fun j => if j < k then none else (m.popRun src d j).map fun p => (j, p.1, p.2)

/-- The little-endian fields of `w` bits each of a number, lowest first. -/
def bitFields (w : Nat) : Nat → Nat → List Nat
  | 0, _ => []
  | n + 1, v => v % 2 ^ w :: bitFields w n (v / 2 ^ w)

/-- The exponent of a 16-bit value and its residue in an EXPO16 variant (R261): 0 E8, 1 E5. -/
def expoOf (variant v : Nat) : Nat := if variant = 0 then bitsAt v 7 8 else bitsAt v 10 5
def residOf (variant v : Nat) : Nat :=
  if variant = 0 then bitsAt v 0 7 + bitsAt v 15 1 * 128 else bitsAt v 0 10 + bitsAt v 15 1 * 1024
def residBits (variant : Nat) : Nat := if variant = 0 then 8 else 11

/-- The value with exponent `e` and residue `r`. -/
def expoJoin (variant e r : Nat) : Nat :=
  if variant = 0 then r % 128 + e % 256 * 128 + r / 128 * 32768 else r % 1024 + e % 32 * 1024 + r / 1024 * 32768

/-- The 16-bit little-endian values of a list of bytes. -/
def halves : List Byte → List Nat
  | a :: b :: rest => (a.toNat + 256 * b.toNat) :: halves rest
  | _ => []

/-- The fewest bits that hold `n`. -/
def bitLen (n : Nat) : Nat := if n = 0 then 0 else Nat.log2 n + 1

/-- R261: the group header and body of 128 values. -/
def expoGroup (variant : Nat) (vs : List Nat) : List Byte × List Byte :=
  let es := vs.map (expoOf variant)
  let b := es.foldl min 255
  let w := bitLen (es.foldl max 0 - b)
  let rb := residBits variant
  let deltas := packLanes w (es.map (· - b))
  let resids := packLanes rb (vs.map (residOf variant))
  ([BitVec.ofNat 8 b, BitVec.ofNat 8 w], leBytes (16 * w + 16 * rb) (deltas + resids * 2 ^ (128 * w)))

/-- R261: the EXPO16 stream of a page. -/
def expoEncode (variant : Nat) (page : List Byte) : List Byte :=
  let vs := halves page
  let gs := (List.range 16).map fun g => expoGroup variant ((vs.drop (128 * g)).take 128)
  leBytes 4 variant ++ gs.flatMap (·.1) ++ gs.flatMap (·.2)

/-- The values of the groups of an EXPO16 stream's bodies. -/
def expoBodies (variant : Nat) : List (Nat × Nat) → List Byte → List Nat
  | [], _ => []
  | (b, w) :: hs, bs =>
    let n := 16 * w + 16 * residBits variant
    let v := leNat (bs.take n)
    let ds := bitFields w 128 v
    let rs := bitFields (residBits variant) 128 (v / 2 ^ (128 * w))
    (ds.zip rs).map (fun dr => expoJoin variant (b + dr.1) dr.2) ++ expoBodies variant hs (bs.drop n)

/-- R261, R263: the page of an EXPO16 stream; none where it cannot be parsed. -/
def expoDecode (s : List Byte) : Option (List Byte) :=
  let variant := leNat (s.take 4)
  if variant > 1 then none
  else
    let hs := (bitFields 16 16 (leNat ((s.drop 4).take 32))).map fun h => (h % 256, h / 256)
    let wmax := if variant = 0 then 8 else 5
    let need := 36 + (hs.map fun h => 16 * h.2 + 16 * residBits variant).foldl (· + ·) 0
    if hs.any (fun h => decide (h.2 > wmax)) || decide (s.length < need) then none
    else some ((expoBodies variant hs (s.drop 36)).flatMap (leBytes 2))

/-- Zero bytes at the front of a list, at most `cap`. -/
def zeroRun : Nat → List Byte → Nat
  | 0, _ => 0
  | cap + 1, b :: bs => if b = 0 then 1 + zeroRun cap bs else 0
  | _, [] => 0

/-- Bytes at the front that a literal token takes: up to `cap`, ending before the next pair of zeros. -/
def litRun : Nat → List Byte → Nat
  | 0, _ => 0
  | _, [] => 0
  | _ + 1, [_] => 1
  | cap + 1, a :: b :: bs => if a = 0 ∧ b = 0 then 0 else 1 + litRun cap (b :: bs)

/-- R262: the tokens of one plane (`fuel` at least its length). -/
def planeEncode : Nat → List Byte → List Byte
  | 0, _ => []
  | _, [] => []
  | fuel + 1, bs =>
    let z := zeroRun 129 bs
    if z ≥ 2 then BitVec.ofNat 8 (z + 0x7E) :: planeEncode fuel (bs.drop z)
    else
      let n := max 1 (litRun 128 bs)
      BitVec.ofNat 8 (n - 1) :: bs.take n ++ planeEncode fuel (bs.drop n)

/-- R262: one plane of `n` bytes from a token stream, and what follows it; none where a token overruns. -/
def planeDecode : Nat → Nat → List Byte → Option (List Byte × List Byte)
  | _, 0, s => some ([], s)
  | 0, _ + 1, _ => none
  | _, _ + 1, [] => none
  | fuel + 1, n + 1, t :: s =>
    let k := if t.toNat < 0x80 then t.toNat + 1 else t.toNat - 0x7E
    if k > n + 1 then none
    else if t.toNat < 0x80 then
      if s.length < k then none
      else (planeDecode fuel (n + 1 - k) (s.drop k)).map fun p => (s.take k ++ p.1, p.2)
    else (planeDecode fuel (n + 1 - k) s).map fun p => (List.replicate k 0 ++ p.1, p.2)

/-- Byte `k` of each `w`-byte word of a page. -/
def planeOf (w k : Nat) (page : List Byte) : List Byte :=
  (List.range (page.length / w)).map fun i => page.getD (w * i + k) 0

/-- R262: the BYTEPLANE stream of a page, W = 2 or 4. -/
def planesEncode (w : Nat) (page : List Byte) : List Byte :=
  leBytes 4 (if w = 2 then 0 else 1) ++ (List.range w).flatMap fun k => planeEncode 4096 (planeOf w k page)

/-- The planes of a stream, one after another. -/
def planesRead (w : Nat) : Nat → List Byte → Option (List (List Byte))
  | 0, _ => some []
  | k + 1, s =>
    match planeDecode 4096 (4096 / w) s with
    | none => none
    | some (p, rest) => (planesRead w k rest).map (p :: ·)

/-- R262, R263: the page of a BYTEPLANE stream. -/
def planesDecode (s : List Byte) : Option (List Byte) :=
  let h := leNat (s.take 4)
  if h > 1 then none
  else
    let w := if h = 0 then 2 else 4
    (planesRead w w (s.drop 4)).map fun ps =>
      (List.range (4096 / w)).flatMap fun i => ps.map fun p => p.getD i 0

/-- Sectors of a stream. -/
def sectorsOf (s : List Byte) : Nat := (s.length + 255) / 256

/-- R260: the codec (1 RAW, 2 EXPO16, 3 BYTEPLANE) and stream kept for a page that is not all zero. -/
def peatEncode (raw : Bool) (page : List Byte) : Nat × List Byte :=
  if raw then (1, page)
  else
    let cs : List (Nat × List Byte) :=
      [(2, expoEncode 0 page), (2, expoEncode 1 page), (3, planesEncode 2 page), (3, planesEncode 4 page)]
    cs.foldl (fun best c =>
      if sectorsOf c.2 ≤ 15 ∧ (sectorsOf c.2 < sectorsOf best.2) then c else best) (1, page)

/-- The smallest class whose run holds `c` sectors (Table MEM-2). -/
def classOf (c : Nat) : Nat := (c + 3) / 4 - 1

/-- A page's 4,096 bytes with its poison mark, and whether its stream failed to parse (R263). -/
structure PageRead where
  bytes : List Byte
  poison : Bool
  broken : Bool
  deriving DecidableEq, Repr

/-- R264: reads and decodes a page. -/
def Mach.peatRead (m : Mach) (d n : Nat) : PageRead :=
  let e := m.peatEntry d n
  let zeros := List.replicate 4096 (0 : Byte)
  if e.codec = 0 then ⟨zeros, e.poison, false⟩
  else
    let raw := m.readSectors d e.sector (e.count + 1)
    let s := raw.map Prod.fst
    let bad := raw.any Prod.snd
    match (if e.codec = 1 then some (padTo 4096 s) else if e.codec = 2 then expoDecode s else planesDecode s) with
    | some p => ⟨p, e.poison || bad, false⟩
    | none => ⟨zeros, true, true⟩

/-- The logical address of a unit's page. -/
def peatAddr (d n : Nat) : Nat :=
  if d = 4 then 0xC0000000000 + 4096 * n else 0x40000000000 + d * 2 ^ 40 + 4096 * n

/-- R263: a stream that cannot be parsed sets the page's POISON bit and captures the origin. -/
def Mach.peatBreak (m : Mach) (d n : Nat) : Mach :=
  (m.freeSource.2.setPeatEntry m.freeSource.1 d n { m.peatEntry d n with poison := true }).poisonOrigin 3
    (if d = 4 then srcHub else srcDie d) (peatAddr d n)

/-- R254: a read of T2 that came back poisoned delivers its data poisoned, with KIND LINK; `a` is the T2 address of the bytes `bs`, which the
host interface counts (Table DBG-3). -/
def Mach.linkOrigin (m0 : Mach) (a : Nat) (bs : List PByte) : Mach :=
  let m := m0.hev 3 0x31 ((bs.length + 63) / 64)
  match bs.findIdx? (·.2) with
  | some i => m.poisonOrigin 4 srcHub (a + i)
  | none => m

/-- The T2 address of the run of a page of the hub's unit. -/
def Mach.runT2 (m : Mach) (n : Nat) : Nat := 0x80000000000 + m.rd .MEM_PEAT_POOL_OFF 4 * 256 + 256 * (m.peatEntry 4 n).sector

/-- R247, R254, R264: what the read of a page's sectors finds in the stacks, or on the host link. -/
def Mach.pageSectors (m : Mach) (d n : Nat) : Mach :=
  let e := m.peatEntry d n
  if e.codec = 0 then m
  else if d = 4 then m.linkOrigin (m.runT2 n) (m.readSectors 4 e.sector (e.count + 1))
  else m.eccRead ((List.range (e.count + 1)).flatMap fun i => plainKeys (m.sectorAddr d (e.sector + i)) 256)

/-- R263, R264: a read of a page, and what the unit reports of it. -/
def Mach.pageRead (m : Mach) (d n : Nat) : PageRead × Mach :=
  let r := m.peatRead d n
  let m := m.pageSectors d n
  (r, if r.broken then m.peatBreak d n else m)

/-- R265, R267: writes a page whole; an error is the cause for which it cannot (R271): no run is free, or the run's T2 sectors have no
window. -/
def Mach.peatWrite (m : Mach) (src : Nat) (raw : Bool) (d n : Nat) (page : List Byte) (poison : Bool) : Except Nat Mach :=
  let old := m.peatEntry d n
  if page.all (· == 0) && !poison then
    let m := if old.codec = 0 then m else m.pushRun src d old.cls old.sector
    .ok (m.setPeatEntry src d n ⟨0, 0, 0, 0, false⟩)
  else
    let (codec, s) := peatEncode (raw || poison) page
    let c := sectorsOf s
    let k := classOf c
    if old.codec ≠ 0 ∧ old.cls ≥ k then
      if m.sectorsOk d old.sector c then
        .ok ((m.writeSectors src d old.sector s).setPeatEntry src d n ⟨old.sector, c - 1, old.cls, codec, poison⟩)
      else .error 7
    else
      match m.popFrom src d k with
      | none => .error 11
      | some (j, sec, m) =>
        let m := if old.codec = 0 then m else m.pushRun src d old.cls old.sector
        if m.sectorsOk d sec c then .ok ((m.writeSectors src d sec s).setPeatEntry src d n ⟨sec, c - 1, j, codec, poison⟩)
        else .error 7

/-- R265, R266: writes bytes at `off` of a page: whole, or merged into what the page reads as, which MEM_PEAT_RMW_d counts. -/
def Mach.peatPut (m : Mach) (src : Nat) (raw : Bool) (d n off : Nat) (bs : List PByte) : Except Nat Mach :=
  let data := bs.map Prod.fst
  let p := bs.any Prod.snd
  if bs.length = 4096 then m.peatWrite src raw d n data p
  else
    let r := m.peatRead d n
    let page := r.bytes.take off ++ data ++ r.bytes.drop (off + bs.length)
    (m.peatWrite src raw d n page (p || r.poison)).map (·.bump .MEM_PEAT_RMW d 1)

end Sys2Proof.Machine
end

