-- ==== Sys2Proof/Machine/Transfer.lean ====
section
/-! DEFINITION. Transfers (R240-R242, R253-R255, R264-R271): the forms of an address, the checks of a side, reading and writing
a side of the module's own memory, and the scree permutation. -/
namespace Sys2Proof.Machine

/-- A side of a transfer: the remote module that it names, if any, and the local address there (R241). -/
structure Side where
  remote : Option Nat
  addr : Nat
  deriving DecidableEq, Repr

/-- R241: the side that a 64-bit address names on this module. -/
def Mach.side (m : Mach) (a : Nat) : Side :=
  if bitsAt a 63 1 = 1 ∧ bitsAt a 44 18 ≠ m.myId then ⟨some (bitsAt a 44 18), bitsAt a 0 44⟩ else ⟨none, bitsAt a 0 44⟩

/-- R240, R241: cause FORM. -/
def badForm (a : Nat) : Bool :=
  bitsAt a 62 1 == 1 || (bitsAt a 63 1 == 0 && bitsAt a 44 18 != 0)

/-- The bytes of a side lie in different ranges of Table MEM-1 or different core stores (R269). -/
def spansRanges (a n : Nat) : Bool :=
  let e := a + n - 1
  rangeOf a != rangeOf e || (rangeOf a == .t0 && decide (a / 2 ^ 24 ≠ e / 2 ^ 24))

/-- Every byte of a side is mapped. Unmapped holes are wider than any side, so its ends decide. -/
def Mach.allMapped (m : Mach) (a n : Nat) : Bool := m.mapped a && m.mapped (a + n - 1)

/-- The units of `size` bytes that a side touches, by their first byte. -/
def unitsOf (a n size : Nat) : List Nat :=
  (List.range ((a + n - 1) / size - a / size + 1)).map fun i => (a / size + i) * size

/-- R253: every byte of a T2 plain side has a window. -/
def Mach.t2Covered (m : Mach) (a n : Nat) : Bool :=
  (unitsOf (a - 0x80000000000) n (2 ^ 21)).all fun o => (m.t2Host o).isSome

/-- R255: every page of a packed side exists. -/
def Mach.pagesOk (m : Mach) (a n : Nat) : Bool := (unitsOf a n 4096).all m.peatOk

/-- The side lies in the store of a fenced core (R271, R504). -/
def Mach.inFenced (m : Mach) (a n : Nat) : Bool :=
  rangeOf a == .t0 && (bitsAt (m.rd .MOD_FENCE 0) (a / 2 ^ 24) 1 == 1 || bitsAt (m.rd .MOD_FENCE 0) ((a + n - 1) / 2 ^ 24 % 64) 1 == 1)

def isT2 (a : Nat) : Bool := rangeOf a == .t2 || rangeOf a == .t2packed

/-- R253: the stored sectors that an access to a side in T2 packed reads all have a window; a page written whole is not read. -/
def Mach.poolCovered (m : Mach) (a n : Nat) (wr : Bool) : Bool :=
  (unitsOf a n 4096).all fun p => (wr && decide (a ≤ p ∧ p + 4096 ≤ a + n))
    || (let e := m.peatEntry 4 (peatPage p); e.codec == 0 || m.sectorsOk 4 e.sector (e.count + 1))

/-- The causes that a side on this module has (R271's codes), read or written (`wr`): mapping, windows, pages and fences. -/
def Mach.localCauses (m : Mach) (a n : Nat) (wr : Bool) : List Nat :=
  (if m.allMapped a n then [] else [1])
    ++ (if rangeOf a = .t2 ∧ rangeOf (a + n - 1) = .t2 ∧ !m.t2Covered a n then [7] else [])
    ++ (if rangeOf a = .t2packed ∧ rangeOf (a + n - 1) = .t2packed ∧ m.pagesOk a n ∧ !m.poolCovered a n wr then [7] else [])
    ++ (if (rangeOf a = .packed ∨ rangeOf a = .t2packed) ∧ rangeOf a = rangeOf (a + n - 1) ∧ !m.pagesOk a n then [8] else [])
    ++ (if m.inFenced a n then [10] else [])

/-- R269, R271: the causes that a side of a DMA transfer of `n` bytes has, its source or its destination (`wr`). `own` is the core
whose store a scree side must lie in, or none for the hub's engine; `scree` says that this is the scree side. -/
def Mach.sideCauses (m : Mach) (a n : Nat) (wr scree : Bool) (own : Option Nat) : List Nat :=
  let s := m.side a
  let oneStore := s.remote.isNone && rangeOf s.addr == .t0 && !spansRanges s.addr n
  let store := match own with
    | some g => oneStore && s.addr / 2 ^ 24 == g
    | none => oneStore
  (if badForm a then [2] else [])
    ++ (match (if badForm a then none else s.remote) with
      | some r => (if m.inSlice r then [] else [3]) ++ (if isT2 s.addr then [4] else [])
          ++ (if rangeOf s.addr = .unmapped ∨ rangeOf (s.addr + n - 1) = .unmapped then [1] else [])
      | none => if badForm a then [] else m.localCauses s.addr n wr)
    ++ (if a % 64 = 0 then [] else [5])
    ++ (if spansRanges s.addr n then [6] else [])
    ++ (if scree && !store then [9] else [])

/-- The lowest code of a list of causes (R271). -/
def lowest (cs : List Nat) : Option Nat := cs.min?

/-- R271: MEM_ADDR_FAULT captures the first fault of the module; `src` is a core (hub false) or a hub agent's code. -/
def Mach.captureFault (m : Mach) (cause addr : Nat) (hub : Bool) (src : Nat) : Mach :=
  if m.on .MEM_ADDR_FAULT_VALID 0 then m
  else m.wrs 0 [(.MEM_ADDR_FAULT_VALID, 1), (.MEM_ADDR_FAULT_ADDR, addr), (.MEM_ADDR_FAULT_CAUSE, cause),
    (.MEM_ADDR_FAULT_CORE, if hub then 0 else src), (.MEM_ADDR_FAULT_HUB, b2n hub), (.MEM_ADDR_FAULT_HUB_SRC, if hub then src else 0)]

/-- R267, R271: an address fault of core `g`'s DMA engine. -/
def Mach.addrFault (m : Mach) (g cause addr : Nat) : Mach :=
  let m := m.captureFault cause addr false g
  if cause = 11 then m.raise 0x08 (peatUnit (bitsAt addr 0 44)) g g addr else m.raise 0x07 cause g g addr

/-- Table DBG-3: staging SRAM counts the bytes that are read (0x38) or written (0x39) there. -/
def Mach.stagingBytes (m : Mach) (staging : Bool) (code n : Nat) : Mach := if staging then m.hev 4 code ((n + 63) / 64) else m

/-- Reads a side of this module: plain storage, T2 through its windows, or Peat pages; what it finds poisoned on the host link or
cannot parse is captured (R248, R254, R263). -/
def Mach.readSide (m : Mach) (a n : Nat) : List PByte × Mach :=
  match rangeOf a with
  | .t2 =>
    let bs := m.t2Read (a - 0x80000000000) n
    (bs, m.linkOrigin a bs)
  | .packed | .t2packed =>
    let r := (unitsOf a n 4096).foldl (fun (bm : List PByte × Mach) p =>
      let x := bm.2.pageRead (peatUnit p) (peatPage p)
      (bm.1 ++ x.1.bytes.map (·, x.1.poison), x.2)) ([], m)
    ((r.1.drop (a % 4096)).take n, r.2)
  | r => (m.plainRead a n, (m.stagingBytes (r == .staging) 0x38 n).eccRead (plainKeys a n))

/-- A write that fails: its cause (R271), the address that it met it at, and the module, which holds nothing of the write. -/
abbrev Written := Except (Nat × Nat × Mach) Mach

/-- Writes a side of this module from source `src` of CC_CODE_STATUS. Pages written in part are read first (R266). -/
def Mach.writeSide (m : Mach) (src a : Nat) (raw : Bool) (bs : List PByte) : Written :=
  match rangeOf a with
  | .t2 => .ok (m.t2Write (a - 0x80000000000) bs)
  | .packed | .t2packed =>
    let m := ((unitsOf a bs.length 4096).filter fun p => decide (p < a ∨ a + bs.length < p + 4096)).foldl
      (fun m p => (m.pageRead (peatUnit p) (peatPage p)).2) m
    (unitsOf a bs.length 4096).foldl (fun (r : Written) p =>
      match r with
      | .error e => .error e
      | .ok m' =>
        let lo := max p a
        let hi := min (p + 4096) (a + bs.length)
        match m'.peatPut src raw (peatUnit p) (peatPage p) (lo - p) ((bs.drop (lo - a)).take (hi - lo)) with
        | .ok m' => .ok m'
        | .error c => .error (c, p, m)) (.ok m)
  | r => .ok ((m.stagingBytes (r == .staging) 0x39 bs.length).agentWrite src a bs)

/-- The parts of `n` bytes from `a` that no range boundary of Table MEM-1 cuts, for writers and readers that SPAN does not bind (R269). -/
def partsOf (a n : Nat) : List (Nat × Nat) :=
  (unitsOf a n (2 ^ 27)).map fun u => (max u a, min (u + 2 ^ 27) (a + n) - max u a)

/-- Reads `n` bytes across ranges. -/
def Mach.readAny (m : Mach) (a n : Nat) : List PByte × Mach :=
  (partsOf a n).foldl (fun bm p => let r := bm.2.readSide p.1 p.2; (bm.1 ++ r.1, r.2)) ([], m)

/-- Writes bytes across ranges, up to the first part that fails. -/
def Mach.writeAny (m : Mach) (src a : Nat) (bs : List PByte) : Written :=
  (partsOf a bs.length).foldl (fun (r : Written) p =>
    match r with
    | .error e => .error e
    | .ok m => m.writeSide src p.1 false ((bs.drop (p.1 - a)).take p.2)) (.ok m)

/-- R211: where byte `i` of a plain 32 KiB lies in its scree block (R73). -/
def screePlace (i : Nat) : Nat := i / 32768 * 32768 + slotOff 0 (i % 32768 / 256) (i % 256 / 2) + i % 2

/-- The plain place of byte `x` of a scree block. -/
def plainPlace (x : Nat) : Nat :=
  let row := x % 32768 / 256
  x / 256 * 256 + 2 * ((x % 256 / 2 + 128 - row % 128) % 128) + x % 2

/-- The bytes of a list at given places. -/
def permute (f : Nat → Nat) (bs : List PByte) : List PByte :=
  let a := bs.toArray
  (List.range a.size).map fun i => a.getD (f i) (0, false)

/-- R211: the layout's permutation: plain to scree (1), scree to plain (2). -/
def relayout (layout : Nat) (bs : List PByte) : List PByte :=
  if layout = 1 then permute plainPlace bs else if layout = 2 then permute screePlace bs else bs

/-- R26: both addresses name one unit: a core store, the staging SRAM, a stack (the alias meets every stack), a Peat unit, the host
link, or one remote module. -/
def Mach.sameUnit (m : Mach) (a b : Nat) : Bool :=
  let x := m.side a
  let y := m.side b
  let r := rangeOf x.addr
  let q := rangeOf y.addr
  if x.remote.isSome || y.remote.isSome then x.remote == y.remote
  else match r, q with
    | .t0, .t0 => x.addr / 2 ^ 24 == y.addr / 2 ^ 24
    | .linear, .linear => x.addr / 0x800000000 == y.addr / 0x800000000
    | .alias_, .linear | .linear, .alias_ => true
    | .packed, .packed => peatUnit x.addr == peatUnit y.addr
    | .t2, .t2packed | .t2packed, .t2 => true
    | _, _ => r == q

/-- R254: data that a link's packets of 256 bytes bring, poisoned where `ps` says so. -/
def withPoison (ps : List Bool) (bs : List PByte) : List PByte :=
  ((List.range bs.length).zip bs).map fun ib => (ib.2.1, ib.2.2 || ps.getD (ib.1 / 256) false)

/-- R254: completions with an error or none at all, among those of a read of a T2 side: `ps` marks them for each 256 bytes of T2 plain and for
each page of T2 packed that has sectors. -/
def Mach.linkErrors (m : Mach) (a n : Nat) (ps : List Bool) (bs : List PByte) : List PByte × Mach :=
  if !ps.contains true then (bs, m)
  else match rangeOf a with
    | .t2 => (withPoison ps bs, m.linkOrigin (a - a % 256) (withPoison ps (bs.map fun b => (b.1, false))))
    | .t2packed =>
      let us := unitsOf a n 4096
      let bad := ((List.range us.length).zip us).filterMap fun iu =>
        if ps.getD iu.1 false && (m.peatEntry 4 (peatPage iu.2)).codec != 0 then some iu.2 else none
      (((List.range bs.length).zip bs).map fun ib => (ib.2.1, ib.2.2 || bad.contains ((a + ib.1) / 4096 * 4096)),
        match bad with
        | [] => m
        | p :: _ => m.poisonOrigin 4 srcHub (m.runT2 (peatPage p)))
    | _ => (bs, m)

/-- The plain data of a transfer's source: this module's memory, or what a remote module sent (R172), none while that has not come; `ps`
marks the poisoned packets of what came over a link. -/
def Mach.sourceSide (m : Mach) (a n : Nat) (ack : Bool) (data : List Byte) (ps : List Bool) : Option (List PByte × Mach) :=
  match (m.side a).remote with
  | some _ => if ack then some (withPoison ps ((padTo n data).map (·, false)), m) else none
  | none =>
    let r := m.readSide (m.side a).addr n
    some (r.2.linkErrors (m.side a).addr n ps r.1)

/-- The payload of a memory frame: address and bytes of this frame's part, operation (0 write, 1 read, 2 data, 3 fault, 4 written), the
fault's cause, whether pages are stored RAW, the whole side's address and bytes, and data (log entry 30). -/
def memPayload (op addr n cause raw base total : Nat) (data : List Byte) : List Byte :=
  leBytes 8 addr ++ leBytes 4 n ++ leBytes 1 op ++ leBytes 1 cause ++ leBytes 2 raw ++ leBytes 8 base ++ leBytes 4 total ++ leBytes 4 0
    ++ padTo ((data.length + 15) / 16 * 16) data

/-- Sends a request of core `core` to module `dest`'s memory: a read, or a write in frames of at most 256 bytes of data. -/
def Mach.memRead (m : Mach) (core dest addr n : Nat) : Mach :=
  let (f, m) := m.dataFrame core dest 0 0 3 (memPayload 1 addr n 0 0 addr n []) false
  m.sendLater f
def Mach.memWrite (m : Mach) (core dest addr : Nat) (raw : Bool) (bs : List PByte) : Mach :=
  (List.range ((bs.length + 255) / 256)).foldl (fun m i =>
    let c := (bs.drop (256 * i)).take 256
    let (f, m) := m.dataFrame core dest 0 0 3 (memPayload 0 (addr + 256 * i) c.length 0 (b2n raw) addr bs.length (c.map Prod.fst))
      (c.any Prod.snd)
    m.sendLater f) m

end Sys2Proof.Machine
end

