-- ==== Sys2Proof/Machine/Dma.lean ====
section
/-! DEFINITION. A core's DMA engine (R161, R163, R172, R210-R214, R268-R271, R306): its sixteen slots, transfers with address
and queue sides, remote sides, IPULL slot copies, and address faults. -/
namespace Sys2Proof.Machine

def Core.dmaAt (c : Core) (i : Nat) : Option DmaRun := c.dma.get (fun _ => none) i
def Core.setDma (c : Core) (i : Nat) (r : Option DmaRun) : Core := { c with dma := c.dma.set (fun _ => none) i r }

/-- The fields of a DCOPY or DPREF. -/
def dmaOf : Instr → Option DmaF
  | .dcopy _ f => some f
  | .dpref _ f => some f
  | _ => none

/-- Transfers of a DMA command, 0 standing for 65,536, and bytes of each. -/
def dmaN : Instr → Nat
  | .dcopy _ f => n16 f.n
  | .dpref _ f => n16 f.n
  | .ipull _ _ _ n _ => n16 n
  | _ => 0
def dmaBytes (f : DmaF) : Nat := 256 * n16 f.bytes

/-- The queue ends a DMA command pops, and pushes. -/
def dmaPops : Instr → List Nat
  | .ipull _ a _ _ _ => [a.toNat]
  | i => match dmaOf i with
    | some f => f.src.toNat :: (if isAddrQ f.dst.toNat then [f.dst.toNat] else [])
    | none => []
def dmaPushes (i : Instr) : List Nat :=
  match dmaOf i with
  | some f => if isDataQ f.dst.toNat then [f.dst.toNat] else []
  | none => []

/-- The ends that a run has still to pop: an address queue until its last transfer has opened, a data queue until it has taken its last
entry. -/
def DmaRun.popping (r : DmaRun) : List Nat :=
  let i := r.cmd.ins
  let n := (dmaOf i).elim 0 dmaBytes
  (if r.done + b2n r.src.isSome < dmaN i then (dmaPops i).filter isAddrQ else [])
    ++ (if r.done + 1 < dmaN i ∨ r.held.length + r.moved < n then (dmaPops i).filter isDataQ else [])

/-- R151: a command started earlier has still to pop an end that this one pops, or to push to one that this one pushes. -/
def Core.dmaBusy (c : Core) (r : DmaRun) : Bool :=
  (slotVals c.dma).any fun e => decide (e.ord < r.ord)
    && ((dmaPops r.cmd.ins).any e.popping.contains || (dmaPushes r.cmd.ins).any (dmaPushes e.cmd.ins).contains)

/-- A run whose transfer in progress is between two addresses, and has not moved its bytes yet: these addresses. -/
def DmaRun.between (r : DmaRun) : Option (Nat × Nat) :=
  match dmaOf r.cmd.ins, r.src, r.dst with
  | some f, some a, some b =>
    if isAddrQ f.src.toNat && isAddrQ f.dst.toNat && r.moved == 0 then some (a.addr.toNat, b.addr.toNat) else none
  | _, _, _ => none

/-- R26: a transfer opened earlier, between the same two units, has not moved its bytes yet. -/
def Mach.dmaBehind (m : Mach) (g : Nat) (r : DmaRun) : Bool :=
  match r.between with
  | none => false
  | some (a, b) => (slotVals (m.core g).dma).any fun e => decide (e.seq < r.seq) && match e.between with
    | some (x, y) => m.sameUnit x a && m.sameUnit y b
    | none => false

/-- R304: the address of slot `w mod SLOTS` of a ring. -/
def Mach.ringSlot (m : Mach) (n w : Nat) : Nat :=
  m.rd .ING_RING_BASE_BASE n * 4096 + w % max 1 (m.rd .ING_RING_CFG_SLOTS n) * (m.rd .ING_RING_CFG_SLOT_4K n * 4096)

namespace Dma

def dcopy (t : ThreadId) (f : DmaF) : Mach → Mach := engine t (.dcopy t f) 0 1
def dpref (t : ThreadId) (f : DmaF) : Mach → Mach := engine t (.dpref t f) 0 1
def ipull (t : ThreadId) (a ring : BitVec 6) (n : BitVec 16) (tag : BitVec 4) : Mach → Mach := engine t (.ipull t a ring n tag) 0 1

/-- R161: the head of the DMA command queue takes the first free slot. -/
def commandStart (g6 : BitVec 6) (m : Mach) : Mach :=
  let g := g6.toNat
  let c := m.core g
  match c.dmaQ, (List.range 16).find? fun i => (c.dmaAt i).isNone with
  | cmd :: _, some s =>
    if m.unitRuns g .dma then
      (m.popEng g 5).onCore g fun c => c.setDma s (some ⟨cmd, nextOrd ((slotVals c.dma).map (·.ord)), 0, none, none, 0, [], 0⟩)
    else m
  | _, _ => m

/-- One transfer of the run is over: the next one, or the command has retired. -/
def finish (g s : Nat) (r : DmaRun) (m : Mach) : Mach :=
  m.onCore g fun c => c.setDma s
    (if dmaN r.cmd.ins ≤ r.done + 1 then none else some { r with done := r.done + 1, src := none, dst := none, moved := 0, held := [] })

/-- R271: the transfer faults: nothing is written and it retires. -/
def faulted (g s : Nat) (r : DmaRun) (cause addr : Nat) (m : Mach) : Mach := (finish g s r m).addrFault g cause addr

/-- Bytes moved through the DMA port, in units of 64 (DMA_BYTES, Table DBG-3). -/
def count (g n : Nat) (pref : Bool) (m : Mach) : Mach :=
  let m := (m.bump .DMA_BYTES g (n / 64)).ev g 9 (n / 64)
  if pref then m.ev g 0xA (n / 64) else m

/-- The address that a side pops: the one already popped, the head of its queue, or none for a queue side. -/
def sideAddr (m : Mach) (g e : Nat) (have_ : Option AddrEnt) : Option AddrEnt :=
  match have_ with
  | some a => some a
  | none => if isAddrQ e then m.headA g e else some ⟨0, 0⟩

/-- R210: pops the addresses of the transfer in progress where it has not yet, checks both sides (R269), and asks for a remote
source. -/
def open_ (g s : Nat) (r : DmaRun) (f : DmaF) (m : Mach) : Option (DmaRun × Mach) :=
  if r.src.isSome then some (r, m)
  else
    let m' := if isAddrQ f.src.toNat then m.dropA g f.src.toNat else m
    match sideAddr m g f.src.toNat none, sideAddr m' g f.dst.toNat none with
    | some a, some b =>
      let m := if isAddrQ f.dst.toNat then m'.dropA g f.dst.toNat else m'
      let n := dmaBytes f
      let cs := if isAddrQ f.src.toNat then m.sideCauses a.addr.toNat n false (f.layout == 2) (some g) else []
      let cd := if isAddrQ f.dst.toNat then m.sideCauses b.addr.toNat n true (f.layout == 1) (some g) else []
      match lowest (cs ++ cd) with
      | some c => some ({ r with moved := n }, faulted g s r c (if cs.contains c then a.addr.toNat else b.addr.toNat) m)
      | none =>
        let m := match (m.side a.addr.toNat).remote, isAddrQ f.src.toNat with
          | some d, true => m.memRead g d (m.side a.addr.toNat).addr n
          | _, _ => m
        let r := { r with src := some a, dst := some b, seq := nextOrd ((slotVals (m.core g).dma).map (·.seq)) }
        some (r, m.onCore g fun c => c.setDma s (some r))
    | _, _ => none

/-- Writes the bytes of the transfer to its destination: this module's memory, or a remote module's. -/
def writeDst (g b : Nat) (bs : List PByte) (m : Mach) : Written :=
  match (m.side b).remote with
  | some d => .ok (m.memWrite g d (m.side b).addr false bs)
  | none => m.writeSide 0 (m.side b).addr false bs

/-- R269, R271: the bytes of the transfer are all there and are written as one; a remote destination is complete once that module has
written it. -/
def store (g s : Nat) (r : DmaRun) (b : Nat) (pref : Bool) (bs : List PByte) (m : Mach) : Mach :=
  match writeDst g b bs m with
  | .error (c, p, m) => faulted g s r c p m
  | .ok m =>
    let m := count g bs.length pref m
    if (m.side b).remote.isNone then finish g s r m
    else m.onCore g fun c => c.setDma s (some { r with moved := bs.length, held := [] })

/-- Bytes of a queue entry that a transfer moves (R163). -/
def entBytes (f : DmaF) : Nat := if f.esz = 1 then 256 else 512

/-- R163, R211: takes as many entries of a source queue as it holds and the transfer needs; the last ones let it write. -/
def fromQueue (g s : Nat) (r : DmaRun) (f : DmaF) (b : Nat) (ack : Bool) (m : Mach) : Mach :=
  let e := entBytes f
  let q := f.src.toNat
  let n := dmaBytes f
  if r.moved = n then (if ack then finish g s r m else m)
  else
    let es := ((m.core g).dq q).take ((n - r.held.length) / e)
    let held := r.held ++ es.flatMap fun d => (slotBytes d.bits e).map (·, d.poison)
    let m := m.dropQ g q es.length
    if held.length < n then m.onCore g fun c => c.setDma s (some { r with held := held })
    else store g s r b false (relayout f.layout.toNat held) m

/-- R163: pushes as many of the entries that the engine holds as the destination queue has room for. -/
def toQueue (g s : Nat) (r : DmaRun) (f : DmaF) (m : Mach) : Mach :=
  let e := entBytes f
  let q := f.dst.toNat
  let k := min (m.depth g q - ((m.core g).dq q).length) (r.held.length / e)
  let es : List Ent := (List.range k).map fun i =>
    let c := (r.held.drop (e * i)).take e
    ⟨slotOfBytes (c.map Prod.fst), c.any Prod.snd⟩
  let m := (count g (k * e) false (m.pushQs g q es)).ev g (0x80 + q) k
  if dmaBytes f ≤ r.moved + k * e then finish g s r m
  else m.onCore g fun c => c.setDma s (some { r with moved := r.moved + k * e, held := r.held.drop (e * k) })

/-- R163, R211: a transfer into a queue reads its source once. -/
def intoQueue (g s : Nat) (r : DmaRun) (f : DmaF) (a : Nat) (ack : Bool) (data : List Byte) (ps : List Bool) (m : Mach) : Mach :=
  if r.moved + r.held.length = dmaBytes f then toQueue g s r f m
  else match m.sourceSide a (dmaBytes f) ack data ps with
    | none => m
    | some (bs, m) => toQueue g s { r with held := relayout f.layout.toNat bs } f m

/-- R172, R269: a transfer between two addresses. -/
def copy (g s : Nat) (r : DmaRun) (f : DmaF) (a b : Nat) (ack : Bool) (data : List Byte) (ps : List Bool) (m : Mach) : Mach :=
  let n := dmaBytes f
  if r.moved = n then (if ack then finish g s r m else m)
  else if m.dmaBehind g r then m
  else match m.sourceSide a n ack data ps with
    | none => m
    | some (bs, m) => store g s r b (match r.cmd.ins with | .dpref .. => true | _ => false) (relayout f.layout.toNat bs) m

/-- R269: the transfer of slot `s` moves what it can, and retires when it is complete. `ack` brings a remote source's bytes, or says that a
remote destination has written its own; `ps` marks the poisoned packets of what a link brought. -/
def transferComplete (g6 : BitVec 6) (s4 : BitVec 4) (ack : Bool) (data : List Byte) (ps : List Bool) (m : Mach) : Mach :=
  let g := g6.toNat
  let s := s4.toNat
  match (m.core g).dmaAt s with
  | none => m
  | some r =>
    match dmaOf r.cmd.ins with
    | none => m
    | some f =>
      if !m.unitRuns g .dma || (m.core g).dmaBusy r then m
      else match open_ g s r f m with
        | none => m
        | some (r', m) =>
          match r'.src, r'.dst with
          | some a, some b =>
            if isDataQ f.src.toNat then fromQueue g s r' f b.addr.toNat ack m
            else if isDataQ f.dst.toNat then intoQueue g s r' f a.addr.toNat ack data ps m
            else copy g s r' f a.addr.toNat b.addr.toNat ack data ps m
          | _, _ => m

/-- R271: the report of a remote side's fault arrives; the transfer retires. -/
def addrFaultReport (g6 : BitVec 6) (s4 : BitVec 4) (cause : BitVec 4) (addr : BitVec 64) (m : Mach) : Mach :=
  let g := g6.toNat
  match (m.core g).dmaAt s4.toNat with
  | none => m
  | some r =>
    if r.src.isSome && m.mainUp && !m.frozen then faulted g s4.toNat r cause.toNat addr.toNat m else m

/-- R306: a slot copy is over: the core's cursor moves. -/
def pulled (g s n : Nat) (r : DmaRun) (m : Mach) : Mach :=
  finish g s r (m.wr .ING_RING_CUR (n * 64 + g) (m.rd .ING_RING_CUR (n * 64 + g) + 1))

/-- R306: a slot copy of IPULL: it waits for the slot at the core's cursor, pops the destination and copies USED bytes; `ack` says that a
remote destination has written them. -/
def iPullSlotCopy (g6 : BitVec 6) (s4 : BitVec 4) (ack : Bool) (m : Mach) : Mach :=
  let g := g6.toNat
  let s := s4.toNat
  match (m.core g).dmaAt s with
  | none => m
  | some r =>
    match r.cmd.ins with
    | .ipull _ a ring _ _ =>
      let n := ring.toNat
      let cur := m.rd .ING_RING_CUR (n * 64 + g)
      if !m.unitRuns g .dma || (m.core g).dmaBusy r then m
      else if r.src.isSome then (if ack then pulled g s n r m else m)
      else if m.rd .ING_RING_WR_W n ≤ cur then m
      else match m.headA g a.toNat with
        | none => m
        | some d =>
          let m := m.dropA g a.toNat
          let slot := m.ringSlot n cur
          let used := m.word (slot + 28) 4
          let cs := m.sideCauses slot (max 1 used) false false (some g)
          match lowest (cs ++ m.sideCauses d.addr.toNat (max 1 used) true false (some g)) with
          | some c => faulted g s r c (if cs.contains c then slot else d.addr.toNat) m
          | none =>
            let (bs, m) := m.readSide slot used
            match writeDst g d.addr.toNat bs m with
            | .error (c, p, m) => faulted g s r c p m
            | .ok m =>
              let m := count g used false m
              if (m.side d.addr.toNat).remote.isNone then pulled g s n r m
              else m.onCore g fun c => c.setDma s (some { r with src := some ⟨BitVec.ofNat 64 slot, 0⟩, dst := some d, moved := used })
    | _ => m

end Dma
end Sys2Proof.Machine
end

