-- ==== Sys2Proof/Machine/Time.lean ====
section
/-! DEFINITION. The passing of time: TIME (R56, R58), the CYCLE counters of the regions (R60), what counts cycles (R470,
R554), and the lane generators' calls under FAST (R142); the core clock in effect (R32). -/
namespace Sys2Proof.Machine

/-- Quarters of a core cycle in one ns at PMODE_EFF 0, 1, 2 (Table PWR-3). -/
def quartersPerNs (p : Nat) : Nat := if p = 0 then 5 else if p = 1 then 4 else 3

/-- R32: PMODE_EFF; it reads 2 until READY. -/
def Mach.pmodeNow (m : Mach) : Nat :=
  if !m.ready || m.on .MOD_STATUS_DIP_ACTIVE 0 then 2
  else min 2 (max (m.rd .MOD_MODE_PMODE 0) (m.rd .SEC_POLICY_PMODE_FLOOR 0) + m.rd .MOD_STATUS_THROTTLE 0)

/-- Brings PMODE_EFF up to date after a change of what it depends on. -/
def Mach.repmode (m : Mach) : Mach := m.wr .MOD_STATUS_PMODE_EFF 0 m.pmodeNow

/-- Adds to a counter of 64 bits. -/
def Mach.addTo (m : Mach) (f : Fld) (i n : Nat) : Mach := m.wr f i (m.rd f i + n)

/-- `n` cycles of core `g`: CYCLE, the profile event of its edges, and the calls of its generators under FAST. A fenced core's clock runs
while it is under test (R505). -/
def Mach.coreCycles (n : Nat) (m : Mach) (g : Nat) : Mach :=
  if (m.coreRuns g || m.testing g) && n != 0 then
    let m := (m.addTo .CORE_CYCLE g n).ev g 1 n
    if m.exact || !m.coreRuns g then m
    else
      let c := m.core g
      let m := (m.setRngPos g 0 (m.rngPos g 0 + 4 * c.calls 0 n)).setRngPos g 1 (m.rngPos g 1 + 8 * c.calls 1 n)
      m.onCore g fun c => { c with vecUsed := 0, druUsed := 0 }
  else m

/-- `n` cycles of a context that waits in TICKW, FWAIT or DWAIT, on each core that its waiting is counted on (R470, R213). -/
def Mach.waitCycles (n : Nat) (m : Mach) (k : Nat) : Mach :=
  let count (f : Fld) (cause : Nat) (m : Mach) : Mach :=
    (m.members k).foldl (fun m g => if m.coreRuns g then (m.bump f g n).ev g (0x10 + cause) n else m) m
  match (m.ctx k).wait with
  | .tick => count .CC_WAIT_TICK 4 m
  | .flag _ _ _ => count .CC_WAIT_FLAG 5 m
  | .dma mask ic => if m.dmaDone k mask ic then m else count .CC_WAIT_DMA 6 m
  | _ => m

/-- R461: of `n` core-clock cycles those that die `d` counts: all, or in a droop at least half of them. -/
def Mach.stretched (m : Mach) (d n : Nat) : Nat × Mach :=
  if bitsAt m.aux.droop d 1 = 1 then
    let (k, m) := m.fresh
    (n - (Config.freeBits k).toNat % (n / 2 + 1), m)
  else (n, m)

/-- `n` core-clock cycles of die `d`: its cores, its uncore, and the contexts that wait on it. -/
def Mach.clockDie (n : Nat) (m : Mach) (d : Nat) : Mach :=
  let (k, m) := m.stretched d n
  let m := ((List.range 16).map (16 * d + ·)).foldl (Mach.coreCycles k) m
  let m := m.addTo .DIE_CYCLE d k
  ((m.ctxs.filter fun kc => kc.2.running && thrDie kc.1 == d).map (·.1)).foldl (Mach.waitCycles k) m

/-- `n` core-clock cycles of every region that follows it. -/
def Mach.clockCores (m : Mach) (n : Nat) : Mach := (List.range 4).foldl (Mach.clockDie n) m

/-- Every region's clock runs that can: the main domain is up and no freeze holds (R474). -/
def Mach.clocked (m : Mach) : Bool := m.mainUp && !m.frozen

/-- R419, R447: the data-path reset has finished: its descriptor completes. -/
def Mach.dpFinish (m : Mach) : Mach :=
  match m.aux.dpEnd with
  | none => m
  | some t =>
    if m.time < t then m
    else
      let m := { m with aux := { m.aux with dpEnd := none } }
      (m.hif.descs.filter (·.ty == 0x0C)).foldl (fun m d => m.complete d 0 0 0 []) m

/-- R58: what a slew adds to `n` counts of TIME or takes from them: at most 100 ppm, less than 1 ns of which waits for the next counts. How
much of that a correction takes is a free value. -/
def Mach.slewed (m : Mach) (n : Nat) : Int × Mach :=
  if m.tick.slew = 0 then (0, m)
  else
    let (i, m) := m.fresh
    let k := n + m.tick.slewFrac
    let d := min m.tick.slew.natAbs ((Config.freeBits i).toNat % (k / 10000 + 1))
    let d : Int := if m.tick.slew < 0 then -(d : Int) else d
    (d, { m with tick := { m.tick with slew := m.tick.slew - d, slewFrac := k % 10000 } })

/-- `n` ns pass, in which TIME counts `k`; TIME counts from AUX power-up (R56). -/
def Mach.passing (m : Mach) (n k : Nat) : Mach :=
  let hold := min n m.tick.holdNs
  let m := if m.aux.inLimits then m.wr .TICK_TIME 0 (m.time + k) else m
  let m := { m with tick := { m.tick with holdNs := m.tick.holdNs - hold } }.settleHalts
  let m := if m.clocked then
      let m := (List.range 5).foldl (fun m b => m.hev b 1 n) (m.addTo .TICK_HUB_CYCLE 0 n)
      let m := if m.creditWaits then m.hev 0 0x18 n else m
      let m := m.bump .HIF_CQ_WAIT_CYCLES 0 (n * m.cqWaits)
      let q := m.tick.quarters + n * quartersPerNs (m.rd .MOD_STATUS_PMODE_EFF 0)
      { m with tick := { m.tick with quarters := q % 4 } }.clockCores (q / 4)
    else m
  m.dpFinish

/-- `n` ns pass, those of a hold first (R58). -/
def Mach.elapse (m : Mach) (n : Nat) : Mach :=
  let (d, m) := m.slewed (n - m.tick.holdNs)
  m.passing n (((n - m.tick.holdNs : Nat) : Int) + d).toNat

/-- Time passes until TIME reads at least `t`. -/
def Mach.advanceTo (m : Mach) (t : Nat) : Mach :=
  if m.time < t then
    let k := t - m.time
    let (d, m) := m.slewed k
    m.passing (((k : Nat) : Int) - d + m.tick.holdNs).toNat k
  else m

end Sys2Proof.Machine
end

