-- ==== Sys2Proof/Machine/Swap.lean ====
section
/-! DEFINITION. Active and shadow configuration sets (chapter 13): the shadowed fields, the refusal conditions of a swap, its
application with redirection and generations, and the requests. -/
namespace Sys2Proof.Machine

/-- The fields whose access code is RWS (R372). -/
def Fld.shadowed : Fld → Bool
  | .MOD_MODE_DET | .MOD_MODE_PMODE | .MOD_MODE_REDUCE | .MOD_MODE_MCAST_DEFAULT | .MOD_MODE_TRACE
  | .MOD_MODE_CHECK_RATE | .MOD_MODE_STRETCH_MAX | .CFG_CTRL_REDIRECT_TICKS | .TICK_PERIOD_PERIOD_NS
  | .TICK_PERIOD_LEAD_NS | .TICK_SCHED_F_TICKS | .TICK_SCHED_B_TICKS | .TICK_SCHED_U_TICKS | .SEQ_WIN_FB_F_OFF
  | .SEQ_WIN_FB_F_LEN | .SEQ_WIN_FB_B_OFF | .SEQ_WIN_FB_B_LEN | .SEQ_WIN_U_U_OFF | .SEQ_WIN_U_U_LEN | .QCFG_DEPTH
  | .CHAN_BIND_KIND | .CHAN_BIND_PEER_MODULE | .CHAN_BIND_PEER_CORE | .CHAN_BIND_PEER_END | .CHAN_BIND_GROUP
  | .SEQ_BANK_SEL | .CC_CODE_WIN_LO_BASE | .CC_CODE_WIN_LO_ENABLE | .CC_CODE_WIN_HI_LIMIT | .SEQ_MEMBER_FIRST
  | .SEQ_MEMBER_COUNT | .SEQ_MEMBER_FORM | .MEM_T2_WIN_LO_BASE | .MEM_T2_WIN_LO_SIZE | .MEM_T2_WIN_LO_ENABLE
  | .MEM_T2_WIN_HI_HADDR | .ING_RING_BASE_BASE | .ING_RING_BASE_ENABLE | .ING_RING_CFG_SLOTS | .ING_RING_CFG_SLOT_4K
  | .ING_RING_READERS | .ING_MC_POLICY | .ING_MC_SKEW_MAX | .ING_MC_RING | .ING_MC_RING_EN | .ING_MC_LAG_TIMEOUT
  | .RED_CFG_AXIS_ORDER | .RED_BUF_BASE | .RED_BUF_ENABLE | .RED_BUCKET_BASE | .RED_BUCKET_SIZE
  | .RED_STREAM_CFG_ENABLE | .RED_STREAM_CFG_OP | .RED_STREAM_CFG_ORDER | .RED_STREAM_CFG_BLOCK
  | .RED_STREAM_CFG_CORE_STRIDE | .RED_STREAM_DEST | .FAB_SLICE_OX | .FAB_SLICE_OY | .FAB_SLICE_OZ | .FAB_SLICE_EX
  | .FAB_SLICE_EY | .FAB_SLICE_EZ | .FAB_SLICE_ID | .FAB_ARB_W_NET | .FAB_ARB_W_RED | .FAB_ARB_W_MEM | .FAB_ARB_W_ING
  | .FAB_PORT_CFG_LINK_PORT | .FAB_PORT_CFG_DETOUR | .FAB_PORT_CFG_NET_PORT | .FAB_PORT_CFG_RED_PORT
  | .FAB_PORT_CFG_MEM_PORT | .FAB_PORT_CFG_ING_PORT | .FAB_RDR_OLD_CORE | .FAB_RDR_OLD_END | .FAB_RDR_NEW_MODULE
  | .FAB_RDR_NEW_CORE | .FAB_RDR_NEW_END | .FAB_RDR_VALID => true
  | _ => false

/-- The shadow copy of a field differs from the active one. -/
def Mach.changes (m : Mach) (f : Fld) (i : Nat) : Bool := m.rdS f i != m.rd f i
def Mach.changesAny (m : Mach) (fs : List Fld) (i : Nat) : Bool := fs.any fun f => m.changes f i

/-- The next phase after `p` whose count is not 0, with its count; 0 IDLE (R40). -/
def StepReq.nextPhase (s : StepReq) (p : Nat) : Nat × Nat :=
  if p < 1 ∧ 0 < s.f then (1, s.f) else if p < 2 ∧ 0 < s.b then (2, s.b) else if p < 3 ∧ 0 < s.u then (3, s.u) else (0, 0)

/-- The boundary that is due ends the running step's last tick (R31, R40). -/
def Mach.lastTick (m : Mach) : Bool :=
  match m.step with
  | none => false
  | some s => decide (m.rd .TICK_STATE_PHASE_LEFT 0 ≤ 1) && (s.nextPhase (m.rd .TICK_STATE_PHASE 0)).1 == 0

/-- R31: a step runs, for the tests of action 1. -/
def Mach.runsForSwap (m : Mach) : Bool := m.step.isSome && !m.lastTick

/-- A group's POLICY in the shadow copies: it is in DETACH (R30). -/
def Mach.detachS (m : Mach) (n : Nat) : Bool :=
  m.rdS .ING_MC_POLICY n == 2 || (m.rdS .ING_MC_POLICY n == 0 && m.rdS .MOD_MODE_MCAST_DEFAULT 0 == 1)

/-- R321. -/
def redBlockMax (op : Nat) : Nat := if op = 0 then 4096 else 2048

/-- R30, R31, R36, R321, R330. -/
def Mach.modeConflict (m : Mach) : Bool :=
  (m.rdS .MOD_MODE_DET 0 == 0 && (List.range 64).any m.detachS)
    || (m.runsForSwap && m.changesAny [.MOD_MODE_DET, .MOD_MODE_REDUCE, .RED_CFG_AXIS_ORDER] 0)
    || decide (m.rdS .TICK_PERIOD_PERIOD_NS 0 ≤ m.rdS .TICK_PERIOD_LEAD_NS 0)
    || (List.range 64).any fun n =>
      (m.rdS .RED_STREAM_CFG_ENABLE n == 1 && decide (redBlockMax (m.rdS .RED_STREAM_CFG_OP n) < m.rdS .RED_STREAM_CFG_BLOCK n))
        || (m.runsForSwap && m.changes .RED_STREAM_CFG_ORDER n)

/-- The local cores of a sequencer's shadow group. -/
def Mach.groupS (m : Mach) (i : Nat) : List Nat :=
  (List.range (m.rdS .SEQ_MEMBER_COUNT i)).map (m.rdS .SEQ_MEMBER_FIRST i + ·)

/-- R34. -/
def Mach.coreUnavailable (m : Mach) : Bool :=
  (List.range 32).any fun i => (m.groupS i).any fun c =>
    decide (c < 16) && bitsAt (m.rd .MOD_CORE_AVAIL 0) (i / 8 * 16 + c) 1 == 0

/-- R392. -/
def Mach.groupConflict (m : Mach) : Bool :=
  (List.range 32).any fun i => decide (16 < m.rdS .SEQ_MEMBER_FIRST i + m.rdS .SEQ_MEMBER_COUNT i)
    || (List.range (i % 8)).any fun j => (m.groupS i).any (m.groupS (i / 8 * 8 + j)).contains

/-- R149. -/
def Mach.queueBusy (m : Mach) : Bool :=
  (List.range 64).any fun g => (List.range 32).any fun n => m.changes .QCFG_DEPTH (g * 32 + n)
    && (if n < 24 then !((m.core g).dq n).isEmpty else !((m.core g).adq (n - 24)).isEmpty)

/-- A context of sequencer `i` runs at the end of the tick, and goes on (R158, R233). -/
def Mach.seqRuns (m : Mach) (i : Nat) : Bool :=
  !m.lastTick && ((List.range 8).any (fun x => m.ctxLive (thrNum (i / 8) 0 (i % 8) x))
    || (m.groupCores (i / 8) (i % 8)).any fun g => (List.range 8).any fun x => m.ctxLive (thrNum (i / 8) 1 (g % 16) x))

def Mach.memberChanges (m : Mach) (i : Nat) : Bool := m.changesAny [.SEQ_MEMBER_FIRST, .SEQ_MEMBER_COUNT, .SEQ_MEMBER_FORM] i

/-- The bank that sequencer `i` will have must be loaded: its SEL changes, or its broadcast group does (R233). -/
def Mach.bankMatters (m : Mach) (i : Nat) : Bool :=
  m.changes .SEQ_BANK_SEL i || (m.memberChanges i && m.rdS .SEQ_MEMBER_FORM i == 0 && m.rdS .SEQ_MEMBER_COUNT i != 0)

/-- The VALID bit of bank `b` of sequencer `i`. -/
def Mach.bankValid (m : Mach) (i b : Nat) : Bool := m.on (if b = 0 then .SEQ_BANK_VALID_A else .SEQ_BANK_VALID_B) i

/-- R237: the code window of core `g` changes. -/
def Mach.windowChanges (m : Mach) (g : Nat) : Bool :=
  m.changesAny [.CC_CODE_WIN_LO_BASE, .CC_CODE_WIN_LO_ENABLE, .CC_CODE_WIN_HI_LIMIT] g

/-- R233, R237. -/
def Mach.bankBusy (m : Mach) : Bool :=
  (List.range 32).any fun i =>
    (m.bankMatters i && m.on .SEQ_BANK_LOAD_BUSY i)
      || ((m.changes .SEQ_BANK_SEL i || m.memberChanges i || (m.groupCores (i / 8) (i % 8)).any m.windowChanges) && m.seqRuns i)

def Mach.bankInvalid (m : Mach) : Bool :=
  (List.range 32).any fun i => m.bankMatters i && !m.bankValid i (m.rdS .SEQ_BANK_SEL i)

/-- The new redirect table names an end as an old role (R388, R389), by the lowest entry. -/
def Mach.rdrS (m : Mach) (g c : Nat) : Bool :=
  (List.range 64).any fun n => m.rdS .FAB_RDR_VALID n == 1 && m.rdS .FAB_RDR_OLD_CORE n == g && m.rdS .FAB_RDR_OLD_END n == c

def bindFields : List Fld := [.CHAN_BIND_KIND, .CHAN_BIND_PEER_MODULE, .CHAN_BIND_PEER_CORE, .CHAN_BIND_PEER_END, .CHAN_BIND_GROUP]

/-- R391. -/
def Mach.chanBusy (m : Mach) : Bool :=
  (List.range 64).any fun g => (List.range 16).any fun c =>
    m.chKind g c == 2 && !((m.core g).chan c).isEmpty && m.changesAny bindFields (endKey g c) && !m.rdrS g c

/-- The ring that a waiting ingest job names: RING of its job descriptor (Table ING-1, byte 136), in module memory or T2. -/
def IngJob.ring (m : Mach) (j : IngJob) : Nat := leNat ((m.readSide (j.addr + 136) 1).1.map Prod.fst)

/-- A group's POLICY in effect is DETACH (R309). -/
def Mach.detachOn (m : Mach) (n : Nat) : Bool :=
  m.rd .ING_MC_POLICY n == 2 || (m.rd .ING_MC_POLICY n == 0 && m.on .MOD_MODE_MCAST_DEFAULT 0)

/-- The member ends of multicast group `n`: core * 16 + end (R308). -/
def Mach.mcMembers (m : Mach) (n : Nat) : List Nat :=
  (List.range 1024).filter fun k => m.rd .CHAN_BIND_KIND k == 3 && m.rd .CHAN_BIND_GROUP k == n
def Mach.mcMembersS (m : Mach) (n : Nat) : List Nat :=
  (List.range 1024).filter fun k => m.rdS .CHAN_BIND_KIND k == 3 && m.rdS .CHAN_BIND_GROUP k == n

/-- The cores that read ring `n`: READERS, and the members of the DETACH groups whose ring it is (R305, R311). -/
def Mach.readers (m : Mach) (n : Nat) : List Nat :=
  let gs := (List.range 64).filter fun q => m.detachOn q && m.on .ING_MC_RING_EN q && m.rd .ING_MC_RING q == n
  let ks := gs.flatMap m.mcMembers
  (List.range 64).filter fun g => bitsAt (m.rd .ING_RING_READERS n) g 1 == 1 || ks.any fun k => k / 16 == g

/-- R307. -/
def Mach.ringBusy (m : Mach) : Bool :=
  (List.range 16).any fun n => m.changesAny [.ING_RING_BASE_BASE, .ING_RING_CFG_SLOTS, .ING_RING_CFG_SLOT_4K] n
    && (m.ing.jobs.any (fun j => j.ring m == n) || m.ing.cur.elim false (fun c => leNat ((c.raw.drop 136).take 1) == n)
      || (m.readers n).any fun g => decide (m.rd .ING_RING_CUR (n * 64 + g) < m.rd .ING_RING_WR_W n))

/-- R312: the group has sent the last entry of a micro-batch and not the first of the next, and every member end is empty. -/
def Mach.mcBetween (m : Mach) (n : Nat) : Bool :=
  !m.ing.mid.contains n && (match m.ing.cur.bind (·.mb) with
    | none => true
    | some b => b.parts.all fun p => p.group != n || p.sent == 0 || p.sent == 17 + p.size)
    && (m.mcMembers n).all fun k => ((m.core (k / 16)).chan (k % 16)).isEmpty

/-- R312; the policy in effect changes with MCAST_DEFAULT too. -/
def Mach.mcastBusy (m : Mach) : Bool :=
  (List.range 64).any fun n =>
    (m.changesAny [.ING_MC_POLICY, .ING_MC_SKEW_MAX, .ING_MC_LAG_TIMEOUT, .ING_MC_RING, .ING_MC_RING_EN] n
        || m.detachOn n != m.detachS n || m.mcMembers n != m.mcMembersS n) && !m.mcBetween n

def Mach.mcastNoRing (m : Mach) : Bool := (List.range 64).any fun n => m.detachS n && m.rdS .ING_MC_RING_EN n == 0

/-- R338: a block is held or in flight. -/
def Mach.redHeld (m : Mach) : Bool := m.red.blks.any fun b => !b.done

/-- R338. -/
def Mach.redBusy (m : Mach) : Bool :=
  m.redHeld
    && (((List.range 64).any fun n => m.on .RED_STREAM_CFG_ENABLE n && m.changesAny [.RED_STREAM_CFG_ENABLE, .RED_STREAM_CFG_OP,
          .RED_STREAM_CFG_ORDER, .RED_STREAM_CFG_BLOCK, .RED_STREAM_CFG_CORE_STRIDE, .RED_STREAM_DEST] n)
      || m.changesAny [.RED_BUF_BASE, .RED_BUF_ENABLE, .RED_BUCKET_BASE, .RED_BUCKET_SIZE] 0
      || (List.range 1024).any fun k => (m.rd .CHAN_BIND_KIND k == 4 || m.rdS .CHAN_BIND_KIND k == 4) && m.changesAny bindFields k)

/-- R347, R358. -/
def Mach.fabConfig (m : Mach) : Bool :=
  ((List.range 6).any fun d =>
      [Fld.FAB_PORT_CFG_NET_PORT, .FAB_PORT_CFG_RED_PORT, .FAB_PORT_CFG_MEM_PORT, .FAB_PORT_CFG_ING_PORT].any fun f =>
        (List.range 6).all fun i => m.rdS .FAB_PORT_CFG_LINK_PORT (d * 6 + i) != m.rdS f d)
    || [(Fld.FAB_SLICE_OX, Fld.FAB_SLICE_EX, Fld.FAB_COORD_NX), (.FAB_SLICE_OY, .FAB_SLICE_EY, .FAB_COORD_NY),
        (.FAB_SLICE_OZ, .FAB_SLICE_EZ, .FAB_COORD_NZ)].any fun oen =>
      m.changesAny [oen.1, oen.2.1] 0
        && !((m.rdS oen.2.1 0 == m.rd oen.2.2 0 && m.rdS oen.1 0 == 0) || decide (m.rdS oen.1 0 + m.rdS oen.2.1 0 ≤ m.rd oen.2.2 0))

/-- R378: the codes of Table CFG-2 whose conditions hold, lowest first. -/
def Mach.swapReasons (m : Mach) : List Nat :=
  ([(1, m.modeConflict), (2, m.coreUnavailable), (3, m.groupConflict), (4, m.queueBusy), (5, m.bankBusy), (6, m.bankInvalid),
    (7, m.chanBusy), (8, m.ringBusy), (9, m.mcastBusy), (10, m.mcastNoRing), (11, m.redBusy), (12, m.fabConfig)].filter
    (·.2)).map (·.1)

/-- R378: every shadow copy becomes active together. -/
def Mach.activate (m : Mach) : Mach :=
  { m with regs := NMap.setMany regDefault (m.regs.filter fun kv => !(Fld.ofKey kv.1).1.shadowed) m.shadow }

/-- R388: sends an entry to the new role of redirect entry `n`, under the active GEN. -/
def Mach.forwardTo (m : Mach) (n g : Nat) (e : Ent) : Mach :=
  let dm := m.rd .FAB_RDR_NEW_MODULE n
  let dg := m.rd .FAB_RDR_NEW_CORE n
  let dc := m.rd .FAB_RDR_NEW_END n
  let m := m.bump .CFG_REDIRECTED 0 1
  if dm = m.myId then m.deliver dg dc ⟨e, 0, 0, false, false⟩
  else
    let (f, m) := m.dataFrame g dm dg dc 1 (slotBytes e.bits 512) e.poison
    m.sendLater f

/-- The lowest active redirect entry for an end. -/
def Mach.rdrFor (m : Mach) (g c : Nat) : Option Nat :=
  (List.range 64).find? fun n => m.on .FAB_RDR_VALID n && m.rd .FAB_RDR_OLD_CORE n == g && m.rd .FAB_RDR_OLD_END n == c

/-- R389: the entries held in the NET_RX ends `ks` that the new active table names are forwarded, in the order held. -/
def Mach.forwardHeld (m : Mach) (ks : List Nat) : Mach :=
  ks.foldl (fun m k =>
    match m.rdrFor (k / 16) (k % 16) with
    | none => m
    | some n =>
      let es := (m.core (k / 16)).chan (k % 16)
      let m := m.onCore (k / 16) fun c => c.setChan (k % 16) []
      es.foldl (fun m e => (m.popped e).forwardTo n (k / 16) e.ent) m) m

/-- R142: a change from EXACT to FAST takes the first call of which no word has been drawn. -/
def Mach.toFast (m : Mach) : Mach :=
  (List.range 64).foldl (fun m g => (m.writePos g 0 ((m.rngPos g 0 + 3) / 4 * 4)).writePos g 1 ((m.rngPos g 1 + 7) / 8 * 8)) m

/-- R383: a GEN value that a swap replaces stays live for REDIRECT_TICKS boundaries. -/
def Mach.nextGen (m : Mach) : Mach :=
  let g := m.rd .MOD_STATUS_GEN 0
  let g' := (g + 1) % 16
  let live := (m.liveGens.filter fun l => l.1 != g && l.1 != g') ++ [(g, m.rd .CFG_CTRL_REDIRECT_TICKS 0)]
  { m with liveGens := live }.wr .MOD_STATUS_GEN 0 g'

/-- R350: at an applied swap each link that is UP (or whose peer is in data-path reset) takes the port that FAB_PORT_CFG gives it. -/
def Mach.placeLinks (m : Mach) : Mach :=
  (List.range 36).foldl (fun m k =>
    let p := m.rd .FAB_PORT_CFG_LINK_PORT k
    if (m.linkUp k || m.linkState k == 8) && p != 7 then m.wrs k [(.FAB_LINK_PORT, p), (.FAB_LINK_IN_PORT, 1), (.FAB_LINK_READY, 0)]
    else m.wrs k [(.FAB_LINK_PORT, 7), (.FAB_LINK_IN_PORT, 0)]) m

/-- R378, R389, R390, R482, R142: an applied swap. -/
def Mach.applySwap (m : Mach) : Mach :=
  let rx := (List.range 1024).filter fun k => m.rd .CHAN_BIND_KIND k == 2 && !((m.core (k / 16)).chan (k % 16)).isEmpty
  let tx := (List.range 1024).filter fun k => m.rdS .CHAN_BIND_KIND k == 1
    && m.changesAny [.CHAN_BIND_PEER_MODULE, .CHAN_BIND_PEER_CORE, .CHAN_BIND_PEER_END] k
  let fast := m.exact && m.rdS .MOD_MODE_DET 0 == 1
  let trace := m.changes .MOD_MODE_TRACE 0
  let m := m.activate.nextGen.placeLinks
  let m := m.onFab fun b => { b with waitSettle := tx.foldl (fun w k => NMap.set nat0 w k (b.unsettled.get nat0 k)) b.waitSettle }
  let m := if fast then m.toFast else m
  let m := if trace then { m.wrs 0 [(.DBG_TRACE_STATUS_WPTR, 0), (.DBG_TRACE_STATUS_FULL, 0), (.DBG_TRACE_STATUS_WRAPPED, 0),
      (.DBG_TRACE_STATUS_TRIGGERED, 0), (.DBG_TRACE_STATUS_STOPPED, 0)] with dbg := { m.dbg with post := none } } else m
  (m.repmode.forwardHeld rx).flush

/-- R379: the record of a swap that a boundary decided or a reset ended, and its descriptor's completion. -/
def Mach.recordSwap (m : Mach) (w : SwapReq) (status : Nat) (reasons : List Nat) (tick : Nat) : Mach :=
  let bits := (reasons.map fun c => 2 ^ (c - 1)).foldl (· + ·) 0
  let gen := m.rd .MOD_STATUS_GEN 0
  let m := m.wrs 0 [(.CFG_SWAP_RESULT_STATUS, status), (.CFG_SWAP_RESULT_GEN, gen), (.CFG_SWAP_RESULT_REASONS, bits),
    (.CFG_SWAP_RESULT_VALID, 1), (.CFG_SWAP_TICK, tick), (.MOD_STATUS_SWAP_PENDING, 0)]
  let m := m.trace srcHub 7 (leBytes 1 status ++ leBytes 1 gen ++ leBytes 2 bits ++ leBytes 6 w.at_)
  let m := { m with tick := { m.tick with swap := none } }
  match w.desc with
  | none => m
  | some d => m.complete d (if status = 0 then 0 else 0x20 + status) 0 (gen + 16 * bits + 65536 * (tick % 2 ^ 48)) (leBytes 8 tick)

/-- R378: decides the pending swap at a boundary that begins tick `tick`; the status it ends with. -/
def Mach.decideSwap (m : Mach) (w : SwapReq) (tick : Nat) : Nat × Mach :=
  match m.swapReasons with
  | [] => (0, m.applySwap.recordSwap w 0 [] tick)
  | c :: cs => (c, m.recordSwap w c (c :: cs) tick)

/-- The pending swap is taken at the boundary that begins tick `tick` at TIME `now` (R43, R377); a FATAL_MODULE has ended it (R501). -/
def Mach.swapDue (m : Mach) (tick now : Nat) : Option SwapReq :=
  m.tick.swap.filter fun w => !m.pathStopped && if w.at_ = 0 then decide (w.time + 1000 ≤ now) else w.at_ == tick

/-- R376, R377: a request for tick `t`, from a SWAP descriptor or a register write. -/
def Mach.requestSwap (m : Mach) (t : Nat) (d : Option Desc) : Mach :=
  let fail (c : Nat) : Mach := match d with
    | none => m
    | some d => m.complete d (0x20 + c) 0 0 []
  let next := m.rd .TICK_NUMBER 0 + 1
  if m.tick.swap.isSome then fail 14
  else if t ≠ 0 ∧ (t < next ∨ (t = next ∧ m.on .TICK_STATE_GEN_RUNNING 0 ∧ m.rd .TICK_NEXT 0 < m.time + 1000)) then fail 13
  else { m with tick := { m.tick with swap := some ⟨t, m.time, d⟩ } }.wr .MOD_STATUS_SWAP_PENDING 0 1

/-- The entry that group `n` will send next: its micro-batch in the ring, and its place there (R308, R311). -/
def Mach.mcNext (m : Mach) (n : Nat) : Nat × Nat :=
  let ring := m.rd .ING_MC_RING n
  match m.ing.cur.bind (·.mb) with
  | some b => match b.written, b.parts.find? (·.group == n) with
    | some w, some p => if 17 + p.size ≤ p.sent then (w + 1, 0) else (w, p.sent)
    | _, _ => (m.rd .ING_RING_WR_W ring, 0)
  | none => (m.rd .ING_RING_WR_W ring, 0)

/-- R311: the detached members whose feed has caught up rejoin their group. -/
def Mach.rejoin (m : Mach) : Mach :=
  (List.range 64).foldl (fun m n =>
    (m.mcMembers n).foldl (fun m k =>
      let g := k / 16
      let cs := (m.core g).chan (k % 16)
      if bitsAt (m.rd .ING_MC_DET n) g 1 == 1 && cs.all (fun e => !e.fed)
          && (m.rd .ING_RING_CUR (m.rd .ING_MC_RING n * 64 + g), m.ing.feed.get nat0 k) == m.mcNext n then
        m.wr .ING_MC_DET n (m.rd .ING_MC_DET n - 2 ^ g)
      else m) m) m

namespace Swap

/-- SWAP_REQUEST: a write of 1 to CFG_SWAP_CTRL.REQ. -/
def swapRequest (m : Mach) : Mach := if m.mainUp then m.requestSwap (m.rd .CFG_SWAP_AT_AT_TICK 0) none else m

/-- SWAP_IDLE_APPLY: with the generator stopped, a request for tick 0 is decided as if at a boundary. -/
def idleApply (m : Mach) : Mach :=
  match m.tick.swap with
  | none => m
  | some w =>
    if w.at_ = 0 ∧ !m.pathStopped ∧ !m.on .TICK_STATE_GEN_RUNNING 0 ∧ !m.frozen ∧ m.cut.isNone ∧ !m.cutHeld then
      (m.decideSwap w (m.rd .TICK_NUMBER 0)).2
    else m

end Swap
end Sys2Proof.Machine
end

