-- ==== Sys2Proof/Machine/Tick.lean ====
section
/-! DEFINITION. The tick (chapter 02): the done test (R44, R324), the wait-cycle check with its snapshot (R50-R53), stretching
(R46-R49), the boundary (Table TICK-1) with the beginning and end of a step (R39, R40, R158, R552, R553), and the generator. -/
namespace Sys2Proof.Machine

/-- The running contexts: the module's threads (R44). -/
def Mach.threads (m : Mach) : List Nat := (m.ctxs.filter (·.2.running)).map (·.1)

/-- R44, R183: a thread is done: in TICKW or HALT, with every command it issued retired and every flag operation applied. -/
def Mach.threadDone (m : Mach) (k : Nat) : Bool :=
  let c := m.ctx k
  (c.wait == .halt || c.wait == .tick) && c.defer.isEmpty && (m.members k).all fun g => !m.outstanding g k c.icount (List.range 7)

/-- A block of RED_TX ends lacks its full result on this module (R324). -/
def Mach.redWaits (m : Mach) : Bool := m.red.blks.any fun b => b.kind == 0 && !b.done

/-- R44, R324: the module is done. -/
def Mach.moduleDone (m : Mach) : Bool := m.threads.all m.threadDone && !m.redWaits

/-- What a blocked thread waits for, by the codes of Table TICK-3: KIND, OBJ, QCORE, COUNT, THRESH and the last setter or
producer. -/
structure Blocked where
  kind : Nat
  obj : Nat
  qcore : Nat
  count : Nat
  thresh : Nat
  set : Option Setter
  deriving DecidableEq, Repr

/-- The producer that the image's MAP declares for a queue of a group: 0 none, 1 + its code (R150). -/
def Mach.role (m : Mach) (k e : Nat) : Nat := (m.textOf k).elim 0 fun t => t.roles.getD e 0

/-- Queue end `e` of core `g` holds no entry. -/
def Mach.endEmpty (m : Mach) (g e : Nat) : Bool :=
  if e < 24 then ((m.core g).dq e).isEmpty else ((m.core g).adq (e - 24)).isEmpty

/-- A command that waits to pop: its thread, and the queue that lacks the entry. -/
structure PopWait where
  thr : Nat
  queue : Nat
  deriving DecidableEq, Repr

/-- The first of the queues `qs` (data and address queues by their codes) that lacks an entry for a command. -/
def Mach.lacks (m : Mach) (g : Nat) (c : Cmd) (qs : List Nat) : List PopWait :=
  ((qs.find? fun e => decide (e < 32) &&
    decide ((if e < 24 then ((m.core g).dq e).length else ((m.core g).adq (e - 24)).length) < qs.count e)).map fun e =>
      ⟨c.thr, e⟩).toList

/-- The queues of the next line, entry or move of an LSU command (R188-R193). -/
def Mach.lsuNext (m : Mach) (g : Nat) (i : Instr) : List Nat :=
  match i with
  | .ldv _ a _ ca fmt pack _ _ _ =>
    a.toNat :: match m.headA g a.toNat with
      | some e => if unpacks pack.toNat e.tag && isMx fmt.toNat then [ca.toNat] else []
      | none => []
  | _ => lsuPopsA i ++ lsuPopsQ i

/-- The command at the head of an engine queue, where `free` says that it can start. -/
def Mach.headCmd (m : Mach) (g u : Nat) (free : Cmd → Bool) : List Cmd := (((m.core g).engQ u).head?.filter free).toList

/-- The commands of unit `u` of core `g` that wait for nothing but an entry of a data or address queue. -/
def Mach.popWaits (m : Mach) (g u : Nat) : List PopWait :=
  let c := m.core g
  match u with
  | 0 =>
    (((slotVals c.lsu).filter fun r => decide (r.started < lsuN r.cmd.ins) && !c.lsuPopBusy r).map (·.cmd)
      ++ m.headCmd g 0 fun d => (c.lsuSlot d.ins).isSome).flatMap fun d => m.lacks g d (m.lsuNext g d.ins)
  | 1 =>
    match Ope.current c with
    | none => []
    | some r => if 2 ≤ c.tileState r.cmd.tile then [] else (opuOf r.cmd.ins).elim [] fun f => m.lacks g r.cmd (Ope.needs f r.issued)
  | 2 =>
    (match c.drains.find? fun d => decide (d.pos < d.n) with
      | some d => if Dru.readWaits m g d then [] else m.lacks g d.cmd (Dru.linePops d)
      | none => [])
    ++ (match c.pre with
      | some r => m.lacks g r.cmd (Dru.prePops r)
      | none => [])
    ++ (m.headCmd g 2 fun d => unitOf d.ins == 2).flatMap fun d => match d.ins with
      | .epi _ q _ => m.lacks g d [q.toNat]
      | _ => []
  | 3 =>
    match c.vec, c.vecQ with
    | some r, _ => if Vec.full c r then [] else m.lacks g r.cmd (vecPops r.cmd.ins r.param.isNone)
    | none, d :: _ => m.lacks g d (vecPops d.ins true)
    | none, [] => []
  | 4 =>
    (((slotVals c.niu).filter fun r => decide (r.done < niuN r.cmd.ins) && r.cur.isNone && !c.niuBusy r).map (·.cmd)
      ++ m.headCmd g 4 fun _ => (List.range 4).any fun i => (c.niuAt i).isNone).flatMap fun d =>
        if m.niuOpen g d.ins then m.lacks g d ((niuPops d.ins).filter (· < 32)) else []
  | _ => []

/-- The contexts whose code issues to unit `u` for thread `k`'s group (R162): the threads. -/
def Mach.issuers (m : Mach) (k u : Nat) : List Nat :=
  let mask := (m.textOf k).elim 0 fun t => t.issuers.getD u 0
  ((List.range 8).filter fun x => bitsAt mask x 1 == 1).map (k - thrCtx k + ·)

/-- A thread that issues nothing more in this tick, or is blocked. -/
def Mach.stands (m : Mach) (stuck : Nat → Bool) (j : Nat) : Bool :=
  !(m.ctx j).running || (m.ctx j).wait == .tick || (m.ctx j).wait == .halt || stuck j

/-- R50: the producer of an empty queue of core `g` is blocked or has reached TICKW, or is an engine that will push nothing: it has no
pending command and its issuing threads stand so, or what it does waits so itself (log entry 11). -/
def Mach.producerStuck (m : Mach) (n : Nat) (stuck : Nat → Bool) (k g e : Nat) : Bool :=
  match n, m.role k e with
  | _, 0 => true
  | 0, _ => true
  | n + 1, p + 1 =>
    if p < 8 then
      if ((m.core g).cmds p).isEmpty then (m.issuers k p).all (m.stands stuck)
      else
        let ws := m.popWaits g p
        !ws.isEmpty && ws.all fun w => m.producerStuck n stuck k g w.queue
    else
      !(((m.core g).cmds 6).any fun c => (srunOf c.ins).elim false fun x => x.2.1 == e) && m.stands stuck (k - thrCtx k + (p - 8))

/-- The pops of thread `k`'s commands that wait for an empty queue with a stuck producer: core and queue. -/
def Mach.popsStuck (m : Mach) (stuck : Nat → Bool) (k : Nat) : List (Nat × Nat) :=
  (m.members k).flatMap fun g => (List.range 5).flatMap fun u =>
    ((m.popWaits g u).filter fun w => w.thr == k && m.producerStuck 33 stuck k g w.queue).map fun w => (g, w.queue)

/-- R50, with the chain of producers followed `n` deep; a chain that closes on itself is blocked. -/
def Mach.blockedN (m : Mach) : Nat → Nat → Bool
  | 0, _ => true
  | n + 1, k =>
    match (m.ctx k).wait with
    | .flag _ _ _ => true
    | .tick | .halt => !(m.popsStuck (m.blockedN n) k).isEmpty
    | _ => false

/-- What a thread is blocked on (R50), none when it is not. -/
def Mach.blocked (m : Mach) (k : Nat) : Option Blocked :=
  match (m.ctx k).wait with
  | .flag g f th => some ⟨b2n g, f, 0, m.flag (thrDie k) g f, th, m.setters.get (fun _ => none) (flagKey (thrDie k) g f)⟩
  | _ =>
    if m.blockedN 9 k then
      (m.popsStuck (m.blockedN 8) k).head?.map fun ge =>
        let low := ((m.members k).find? fun g => m.endEmpty g ge.2).getD ge.1
        let r := m.role k ge.2
        let js := if 9 ≤ r then [k - thrCtx k + (r - 9)] else if r = 0 then [] else m.issuers k (r - 1)
        ⟨2, ge.2, low % 16, 0, 0, if js.length = 1 then js.head?.map fun j => ⟨j, (m.ctx j).icount⟩ else none⟩
    else none

/-- R51: every thread that is not done is blocked, and no reduction is in progress (R324). -/
def Mach.waitCycle (m : Mach) : Bool :=
  let ts := m.threads.filter fun k => !m.threadDone k
  !ts.isEmpty && !m.redWaits && ts.all fun k => (m.blocked k).isSome

/-- Bits of a thread in Table TICK-3: DIE, FORM, UNIT, CTX. -/
def thrBits (k : Nat) : Nat := thrDie k + 4 * thrForm k + 8 * thrUnit k + 128 * thrCtx k

/-- The record of a thread (Table TICK-3). -/
def Mach.waitRec (m : Mach) (k : Nat) : List Byte :=
  let b := (m.blocked k).getD ⟨3, 0, 0, 0, 0, none⟩
  let c := m.ctx k
  leBytes 8 (thrBits k + 2 ^ 10 * b.kind + 2 ^ 12 * b.obj + 2 ^ 20 * b.qcore + 2 ^ 24 * (b.count % 2 ^ 16) + 2 ^ 40 * (b.thresh % 2 ^ 16))
    ++ leBytes 8 c.icount
    ++ leBytes 8 (match b.set with
      | none => 0
      | some s => thrBits s.thr + 2 ^ 10 + 2 ^ 16 * s.icount)
    ++ leBytes 8 ((m.time - c.since) % 2 ^ 48)

/-- R52, R53: writes a wait snapshot of cause 1 WAIT_CYCLE or 2 TICK_BUDGET, or sets OVERRUN; how many records it has. -/
def Mach.snapshot (m : Mach) (cause first : Nat) : Nat × Mach :=
  let ts := (m.threads.filter fun k => !m.threadDone k).take 512
  if m.on .TICK_WSNAP_VALID 0 then (ts.length, m.wr .TICK_WSNAP_OVERRUN 0 1)
  else
    let head := leBytes 8 (ts.length + 2 ^ 16 + 2 ^ 24 * cause) ++ leBytes 8 (m.rd .TICK_NUMBER 0) ++ leBytes 8 first
      ++ leBytes 8 (m.rd .TICK_STATE_STRETCH_USED 0)
    let m := m.store (0x40000000 + m.rd .TICK_WSNAP_BASE 0 * 32768) (head ++ ts.flatMap m.waitRec)
    (ts.length, m.wrs 0 [(.TICK_WSNAP_VALID, 1), (.TICK_WSNAP_RECORDS, ts.length), (.TICK_WSNAP_CAUSE, cause)])

/-- R49: `n` stretch periods are applied to the current tick, whose count becomes `s`. -/
def Mach.stretchTo (m : Mach) (s origin src : Nat) : Mach :=
  let n := s - m.rd .TICK_STATE_STRETCH_USED 0
  let m := m.wr .TICK_STATE_STRETCH_USED 0 s
  let m := m.wr .TICK_NEXT 0 (m.rd .TICK_NEXT 0 + n * m.rd .TICK_PERIOD_PERIOD_NS 0)
  let m := { m with tick := { m.tick with deadline := some (m.rd .TICK_NEXT 0 - m.rd .TICK_PERIOD_LEAD_NS 0), sample := none } }
  ((List.range n).map (s - n + 1 + ·)).foldl (fun m i =>
    (m.bump .TICK_STRETCHES 0 1).trace srcHub 2 (leBytes 1 i ++ leBytes 1 origin ++ leBytes 4 src)) m

/-- R46: the module stretches its tick by one period and tells the slice. The record of a local stretch names this module as its source
(DESIGN CHOICE: the spec names a source for a notice only; log entry 66). -/
def Mach.stretchLocal (m : Mach) : Mach :=
  let s := m.rd .TICK_STATE_STRETCH_USED 0 + 1
  ((m.stretchTo s 0 m.myId).bump .TICK_STRETCH_LOCAL 0 1).broadcast 0x21 (padTo 16 (leBytes 8 (m.rd .TICK_NUMBER 0) ++ leBytes 1 s))

/-- R52: TICK_BUDGET with its snapshot. -/
def Mach.tickBudget (m : Mach) (first : Nat) : Mach := (m.snapshot 2 first).2.raise 0x01 0 srcHub (m.rd .TICK_STATE_STRETCH_USED 0) 0

/-- The generator is held (R55). -/
def Mach.held (m : Mach) : Bool := m.frozen || m.cut.isSome || m.cutHeld

/-- R47, R48, R55: a stretch notice for tick `t` with count `s` from module `src`. It is late where the boundary that it would have moved has
passed: of an earlier tick, or of the tick at whose end the generator stopped. -/
def Mach.stretchNotice (m : Mach) (t s src : Nat) : Mach :=
  let n := m.rd .TICK_NUMBER 0
  if t = n then
    if s ≤ m.rd .TICK_STATE_STRETCH_USED 0 then m
    else if m.tick.ended then m.raise 0x01 1 srcHub s 0
    else if m.on .TICK_STATE_GEN_RUNNING 0 && !m.held then m.stretchTo s 1 src else m
  else if n < t then
    let old := m.tick.held.get nat0 t
    if old % 8 < s then { m with tick := { m.tick with held := NMap.set nat0 m.tick.held t (s % 8 + 8 * src) } } else m
  else if s ≤ m.tick.past.get nat0 t then m
  else m.raise 0x01 1 srcHub s 0

/-- R322: at a deadline every unreleased block of the bucket is released. -/
def Mach.releaseBucket (m : Mach) : Mach :=
  let before := m.red.blks.countP RedBlk.released
  let blks := m.red.blks.map fun b => if b.bucketed then { b with released := true } else b
  { m with red := { m.red with blks := blks } }.hev 2 0x29 (blks.countP RedBlk.released - before)

/-- The deadline of the current tick, when it has one to come (R46). -/
def Mach.deadlineNow (m : Mach) : Mach :=
  match m.tick.deadline with
  | none => m
  | some t =>
    if !m.on .TICK_STATE_GEN_RUNNING 0 || m.held then m
    else
      let m := m.advanceTo t
      let m := ({ m with tick := { m.tick with deadline := none } }.settleHalts).releaseBucket
      if m.rd .TICK_STATE_PHASE 0 = 0 ∨ m.moduleDone then m
      else { m with tick := { m.tick with
        sample := some ⟨m.time + 2000, m.time, m.waitCycle, m.ctxs.map fun kc => (kc.1, kc.2.icount)⟩ } }

/-- R46, R51: the second sample of the check, when it falls before the boundary. -/
def Mach.secondSample (m : Mach) : Mach :=
  match m.tick.sample with
  | none => m
  | some w =>
    if !m.on .TICK_STATE_GEN_RUNNING 0 || m.held || decide (m.rd .TICK_NEXT 0 ≤ w.due) then m
    else
      let m := m.advanceTo w.due
      let m := { m with tick := { m.tick with sample := none } }.settleHalts
      if m.rd .TICK_STATE_PHASE 0 = 0 ∨ m.moduleDone then m
      else if w.cycle && m.waitCycle && (m.ctxs.map fun kc => (kc.1, kc.2.icount)) == w.icounts then
        let (n, m) := m.snapshot 1 w.first
        m.raise 0x02 0 srcHub n 0
      else if m.rd .MOD_MODE_STRETCH_MAX 0 ≤ m.rd .TICK_STATE_STRETCH_USED 0 then m.tickBudget w.first
      else m.stretchLocal

/-- R552: a stage group of the active configuration has no code. -/
def Mach.noCode (m : Mach) : Bool :=
  (List.range 32).any fun i => m.rd .SEQ_MEMBER_COUNT i != 0
    && if m.rd .SEQ_MEMBER_FORM i = 0 then !m.bankValid i (m.rd .SEQ_BANK_SEL i)
      else (m.groupCores (i / 8) (i % 8)).any fun g => !m.on .CC_CODE_WIN_LO_ENABLE g

/-- R236, R499: the step would start a core whose code is stale, or that stopped with CODE_MODIFIED. -/
def Mach.codeStale (m : Mach) : Bool :=
  (List.range 32).any fun i => (m.groupCores (i / 8) (i % 8)).any fun g => m.on .CC_CODE_STATUS_STALE g || (m.core g).stopped

/-- The module at slice position `p` of axis `a` on this module's ring (R326). -/
def Mach.ringAt (m : Mach) (a p : Nat) : Nat := setAxis m.myId a ((m.origin a + p) % 64)

/-- R337: an enabled, bound stream has a hop of this module's rings without a route: the plus direction, and on a line ring
the minus direction, over which the return hop crosses the module. -/
def Mach.ringDown (m : Mach) : Bool :=
  let bound := (List.range 64).any fun n => m.on .RED_STREAM_CFG_ENABLE n
    && (List.range 1024).any fun k => m.rd .CHAN_BIND_KIND k == 4 && m.rd .CHAN_BIND_GROUP k == n
  bound && (List.range 3).any fun a => decide (1 < m.extent a) &&
    let p := m.ringPos m.myId a
    let plus := m.spans a || decide (p + 1 < m.extent a)
    let minus := !m.spans a && decide (0 < p)
    (plus && (m.pickLink (2 * a) 2).isNone) || (minus && (m.pickLink (2 * a + 1) 2).isNone)

/-- Context 0 of every stage group starts at its entry point (R158). -/
def Mach.startGroups (m : Mach) : Mach :=
  (List.range 32).foldl (fun m i =>
    let start (k : Nat) (m : Mach) : Mach :=
      m.setCtx k (Ctx.idle.start m.time ((m.textOf k).elim 0 (·.entry)))
    if m.rd .SEQ_MEMBER_COUNT i = 0 then m
    else if m.rd .SEQ_MEMBER_FORM i = 0 then start (thrNum (i / 8) 0 (i % 8) 0) m
    else (m.groupCores (i / 8) (i % 8)).foldl (fun m g => start (thrNum (i / 8) 1 (g % 16) 0) m) m) m

/-- The step begins (R39, R40, R158, R177, R318, R551): its schedule is taken, its threads start, descriptors become undefined. -/
def Mach.beginStep (m : Mach) (s : StepReq) (t : Nat) : Mach :=
  let s := { s with stepAt := t, f := m.rd .TICK_SCHED_F_TICKS 0, b := m.rd .TICK_SCHED_B_TICKS 0, u := m.rd .TICK_SCHED_U_TICKS 0,
                    stretch0 := m.rd .TICK_STRETCHES 0 }
  let ph := s.nextPhase 0
  let m := { m with step := some s, armed := none, ctxs := [], jam := [], setters := [], red := { m.red with counts := [] } }
  let m := (m.cores.map (·.1)).foldl (fun m g => m.onCore g fun c => { c with desc := [] }) m
  (m.wrs 0 [(.MOD_STATUS_STEP_RUNNING, 1), (.TICK_STATE_PHASE, ph.1), (.TICK_STATE_PHASE_LEFT, ph.2)]).startGroups

/-- R40, R553: the armed step at the boundary that begins tick TICK_STEP_AT, while no other runs: it begins, or completes with the first
status that holds. -/
def Mach.takeArmed (m : Mach) (t : Nat) (swap : Option (Nat × Nat)) : Mach :=
  match m.armed with
  | none => m
  | some s =>
    if m.rd .TICK_STEP_AT 0 ≠ t ∨ m.step.isSome ∨ m.aborted then m
    else
      let end_ (st detail : Nat) : Mach := { m with armed := none }.complete s.desc st detail 0 []
      match swap.filter fun w => w.1 == t && w.2 != 0 with
      | some w => end_ 0x08 w.2
      | none =>
        if m.noCode then end_ 0x09 0
        else if m.codeStale then end_ 0x19 0
        else if m.ringDown then end_ 0x1A 0
        else m.beginStep s t

/-- Action 2 of Table TICK-1 for a running step: its phase advances; the step that ends here is answered. -/
def Mach.advancePhase (m : Mach) : Option StepReq × Mach :=
  match m.step with
  | none => (none, m)
  | some s =>
    let left := m.rd .TICK_STATE_PHASE_LEFT 0
    if 1 < left then (none, m.wr .TICK_STATE_PHASE_LEFT 0 (left - 1))
    else
      let ph := s.nextPhase (m.rd .TICK_STATE_PHASE 0)
      let m := m.wrs 0 [(.TICK_STATE_PHASE, ph.1), (.TICK_STATE_PHASE_LEFT, ph.2)]
      if ph.1 = 0 then (some s, { m with step := none, ctxs := [] }) else (none, m)

/-- R480: every n-th boundary writes COUNTER records of every profile counter; the block code of a core's records, which the
spec does not give, is a free value. -/
def Mach.snapCounters (m : Mach) : Mach :=
  let n := m.rd .DBG_TRACE_CFG_SNAP_EVERY 0
  if n = 0 ∨ !m.tracing then m
  else if m.dbg.snap + 1 < n then { m with dbg := { m.dbg with snap := m.dbg.snap + 1 } }
  else
    let (i, m) := m.fresh
    let blk := (Config.freeBits i).toNat % 256
    let cores := (List.range 1024).map fun k =>
      m.recNow (k / 16) 10 (leBytes 1 blk ++ leBytes 1 (k % 16) ++ leBytes 6 (m.rd .PROF_CNT k))
    let hubs := (List.range 160).map fun k =>
      m.recNow srcHub 10 (leBytes 1 (k / 32) ++ leBytes 1 (k % 32) ++ leBytes 6 (m.rd .DBG_HPROF_CNT k))
    { m with dbg := { m.dbg with snap := 0, snapQ := m.dbg.snapQ ++ cores ++ hubs } }

/-- R491: a cut has been reached: the freeze, DBG_CUT, the CUT record, and the completion of the REPLAY; the step is held. -/
def Mach.cutReached (m : Mach) (s : StepReq) (info : Nat) (settled : Bool) : Mach :=
  let m := m.wrs 0 [(.DBG_CUT_REACHED, 1), (.DBG_CUT_SETTLED, b2n settled)]
  let m := m.trace srcHub 12 (leBytes 1 s.cutKind ++ leBytes 8 s.cutAt)
  let m := m.freeze 7
  let ticks := m.rd .TICK_NUMBER 0 + 1 - s.stepAt
  let m := { m with step := none, cut := none, cutHeld := true }
  (m.complete s.desc 0x1C 0 info (m.stepResult s ticks)).wrs 0 [(.MOD_STATUS_STEP_RUNNING, 0), (.TICK_STATE_HELD, 1)]

/-- R490: the tick cut of the running step is the boundary that begins tick `t`. -/
def Mach.tickCut (m : Mach) (t : Nat) : Mach :=
  match m.step with
  | some s => if s.cutKind = 2 ∧ s.cutAt = t then m.cutReached s t true else m
  | none => m

/-- Action 6 of Table TICK-1: the threads in TICKW go on. -/
def Mach.releaseTickw (m : Mach) : Mach :=
  (m.ctxs.filter fun kc => kc.2.wait == .tick).foldl (fun m kc =>
    (m.onCtx kc.1 fun c => { c with wait := .none, since := m.time }).implicitHalt kc.1) m

/-- R40, R412: the step that ended at this boundary completes after its actions. -/
def Mach.finishStep (m : Mach) (t : Nat) (s : StepReq) : Mach :=
  (m.complete s.desc 0 0 0 (m.stepResult s (t - s.stepAt))).wr .MOD_STATUS_STEP_RUNNING 0 (b2n m.step.isSome)

/-- Action 4 of Table TICK-1: the new tick's boundary and deadline, with the notices held for it. -/
def Mach.newTick (m : Mach) (t : Nat) : Mach :=
  let h := m.tick.held.get nat0 t
  let m := { m with tick := { m.tick with past := NMap.set nat0 m.tick.past (t - 1) (m.rd .TICK_STATE_STRETCH_USED 0), ended := false, sample := none,
                                          held := m.tick.held.filter fun kv => decide (t < kv.1) } }
  let m := (m.wr .TICK_STATE_STRETCH_USED 0 0).wr .TICK_NEXT 0 (m.rd .TICK_NEXT 0 + m.rd .TICK_PERIOD_PERIOD_NS 0)
  m.stretchTo (h % 8) 1 (h / 8)

/-- The actions of Table TICK-1 at the boundary that begins tick `t`, at TIME = TICK_NEXT. -/
def Mach.boundaryActions (m : Mach) (t : Nat) : Mach :=
  let m := { m with liveGens := (m.liveGens.map fun (l : Nat × Nat) => (l.1, l.2 - 1)).filter fun (l : Nat × Nat) => l.2 != 0 }
  let (sw, m) := match m.swapDue t m.time with
    | none => (none, m)
    | some w => ((m.decideSwap w t).1 |> fun c => some (w.at_, c), (m.decideSwap w t).2)
  let m := m.rejoin
  let (ended, m) := m.advancePhase
  let m := (m.wr .TICK_NUMBER 0 t).takeArmed t sw
  let s := m.rd .TICK_STATE_STRETCH_USED 0
  let m := m.newTick t
  let m := m.trace srcHub 1 (leBytes 2 (t / 2 ^ 48) ++ leBytes 1 (m.rd .TICK_STATE_PHASE 0) ++ leBytes 1 (m.rd .MOD_STATUS_GEN 0) ++ leBytes 1 s)
  let m := m.snapCounters
  let m := if m.rd .DBG_FREEZE_TICK 0 == t then m.fires 1 else m
  let m := m.tickCut t
  let m := if m.held then m else m.releaseTickw
  ended.elim m (m.finishStep t)

/-- R51: a check that the boundary overtakes is abandoned; a module that is not done there raises TICK_BUDGET. -/
def Mach.abandonCheck (m : Mach) : Mach :=
  match m.tick.sample with
  | none => m
  | some w =>
    let m := { m with tick := { m.tick with sample := none } }.settleHalts
    if m.rd .TICK_STATE_PHASE 0 = 0 ∨ m.moduleDone then m else m.tickBudget w.first

/-- R42: the scheduled boundary. RUN at 0 stops the generator there (TICK_CTRL). -/
def Mach.boundaryNow (m : Mach) : Mach :=
  let m := (m.advanceTo (m.rd .TICK_NEXT 0)).abandonCheck
  if m.held then m
  else if m.on .TICK_CTRL_RUN 0 then m.boundaryActions (m.rd .TICK_NUMBER 0 + 1)
  else { m with tick := { m.tick with deadline := none, ended := true } }.wrs 0 [(.TICK_STATE_GEN_RUNNING, 0), (.TICK_NEXT, 0)]

namespace Tick

/-- TICK_BOUNDARY: what is due of the current tick comes first; the boundary falls unless that moved it. -/
def boundary (m : Mach) : Mach :=
  if !m.on .TICK_STATE_GEN_RUNNING 0 || m.held then m
  else
    let m := m.deadlineNow.secondSample
    if m.tick.deadline.isSome then m else m.boundaryNow

def deadline (m : Mach) : Mach := m.deadlineNow
def secondSample (m : Mach) : Mach := m.secondSample

/-- R35, R59: a write of RUN = 1, with the value written to SOLO. While TIME_LOCK is 0 without SOLO the write is ignored whole: it neither
cancels a stop nor sets ORIGIN_LATE (DEDUCED: R35's late write is one that R59 does not ignore; log entry 66). -/
def run (solo : Bool) (m : Mach) : Mach :=
  if !m.mainUp then m
  else
    let m := m.wr .TICK_CTRL_SOLO 0 (b2n solo)
    if !m.on .TICK_STATE_TIME_LOCK 0 && !solo then m
    else if m.on .TICK_STATE_GEN_RUNNING 0 then m.wr .TICK_CTRL_RUN 0 1
    else if m.rd .TICK_ORIGIN 0 < m.time + 10000 then m.wr .TICK_CTRL_ORIGIN_LATE 0 1
    else m.wrs 0 [(.TICK_CTRL_RUN, 1), (.TICK_STATE_GEN_RUNNING, 1), (.TICK_NEXT, m.rd .TICK_ORIGIN 0)]

/-- A write of RUN = 0, ignored while a step runs. -/
def stop (m : Mach) : Mach := if !m.mainUp || m.stepRunning then m else m.wr .TICK_CTRL_RUN 0 0

end Tick

/-- R362: the direction toward the time parent, when the slice time master is `id`. -/
def Mach.parentDir (m : Mach) (id : Nat) : Option Nat :=
  let dir (a : Nat) : Nat :=
    let n := max 1 (m.installed a)
    let plus := (axisOf id a + n - axisOf m.myId a) % n
    if m.spans a then (if plus ≤ n - plus then 2 * a else 2 * a + 1)
    else if m.ringPos m.myId a < m.ringPos id a then 2 * a else 2 * a + 1
  ([2, 1, 0].find? fun a => axisOf id a != axisOf m.myId a).map dir

/-- R58: TIME_LOCK clears. -/
def Mach.unlock (m : Mach) : Mach :=
  if m.on .TICK_STATE_TIME_LOCK 0 then (m.wr .TICK_STATE_TIME_LOCK 0 0).bump .TICK_TIME_UNLOCKS 0 1 else m

/-- R58: a completed exchange measured `off` ns of this module's TIME from the master's. The first lock after AUX power-up,
while the generator does not run, steps TIME forward or holds it, and TIME_LOCK then waits for the hold to end where the offset
is above 25 ns; every other correction is a slew, which TIME takes as it counts (`Mach.slewed`). -/
def Mach.exchange (m : Mach) (off : Int) : Mach :=
  let m := { m with tick := { m.tick with lastSync := m.time } }
  let m := m.wr .TICK_TIME_OFFSET 0 ((off % 2 ^ 32).toNat)
  if !m.tick.locked && !m.on .TICK_STATE_GEN_RUNNING 0 then
    let m := if off < 0 then m.wr .TICK_TIME 0 (m.time + (-off).toNat)
      else if 0 < off then { m with tick := { m.tick with holdNs := off.toNat } }.wr .TICK_STATE_TIME_HOLD 0 1
      else m
    let m := { m with tick := { m.tick with locked := true, lastSync := m.time, slew := 0, slewFrac := 0 } }
    if off ≤ 25 then m.wr .TICK_STATE_TIME_LOCK 0 1 else m
  else
    let m := { m with tick := { m.tick with slew := -off, slewFrac := 0 } }
    if -25 ≤ off ∧ off ≤ 25 then { m with tick := { m.tick with locked := true } }.wr .TICK_STATE_TIME_LOCK 0 1 else m.unlock

namespace Tick

/-- SYNC_TIMER: a SYNC frame to the time parent, for the slice time master `id`, carrying this module's TIME; the master itself
is at offset 0. -/
def syncTimer (id : BitVec 18) (m : Mach) : Mach :=
  if m.on .TICK_SYNC_MASTER 0 then m.exchange 0
  else match m.parentDir id.toNat with
    | none => m
    | some d => match m.ctlLink d with
      | some (k, det) => m.sendRaw k { m.ctlFrame 0x20 (leBytes 8 m.time ++ List.replicate 8 0) with
          detour := det, dMod := if det then m.neighbour m.myId d else 0 }
      | none => m

/-- TIME_LOCK_TIMEOUT: no exchange has completed for 10 ms. -/
def lockTimeout (m : Mach) : Mach := (m.advanceTo (m.tick.lastSync + 10000000)).unlock

/-- TIME_HOLD_END: the master's TIME has reached the TIME at which this module holds, which is then locked. -/
def holdEnd (m : Mach) : Mach :=
  if m.on .TICK_STATE_TIME_HOLD 0 then (m.elapse m.tick.holdNs).wrs 0 [(.TICK_STATE_TIME_HOLD, 0), (.TICK_STATE_TIME_LOCK, 1)] else m

end Tick
end Sys2Proof.Machine
end

