-- ==== Sys2Proof/Machine/Reset.lean ====
section
/-! DEFINITION. Reset levels (R33, R445-R448, R534, R535, Table BOOT-5) and core fence (R504); the writes that stand in rows of their
own on seeds, positions, captures, temperatures and sparing; read-modify-write of Peat pages and scrub. -/
namespace Sys2Proof.Machine

/-- Every core available: it passed its test at bring-up and is not fenced (MOD_CORE_AVAIL). -/
def Mach.reAvail (m : Mach) : Mach := m.wr .MOD_CORE_AVAIL 0 (m.aux.bistOk - (m.aux.bistOk &&& m.rd .MOD_FENCE 0))

/-- The fields that keep their values across a module reset (R446): TIME, the SEC block, what is fused, MOD_RESET_CAUSE,
MOD_FLT_SEL, and WPTR and TOTAL of MOD_FLT_STATUS. -/
def Fld.keptByModule : Fld → Bool
  | .TICK_TIME | .DIE_TIME | .MOD_RESET_CAUSE_CAUSE | .MOD_RESET_CAUSE_COUNT | .MOD_FLT_SEL_INDEX | .MOD_FLT_STATUS_WPTR
  | .MOD_FLT_STATUS_TOTAL | .MOD_SERIAL | .MOD_ID_STACK_GIB | .OPE_REPAIR_MFG_ROWS | .OPE_REPAIR_MFG_COLS
  | .OPE_REPAIR_FIELD_USED | .OPE_REPAIR_FIELD0_VALID | .OPE_REPAIR_FIELD0_KIND | .OPE_REPAIR_FIELD0_INDEX
  | .OPE_REPAIR_FIELD1_VALID | .OPE_REPAIR_FIELD1_KIND | .OPE_REPAIR_FIELD1_INDEX
  | .SEC_STATUS_KINDLING_UP | .SEC_STATUS_PATCH_VALID | .SEC_STATUS_IMAGE | .SEC_STATUS_FALLBACK
  | .SEC_STATUS_CORDWOOD_FAILED | .SEC_STATUS_OWNED | .SEC_STATUS_KINDLING_VER | .SEC_STATUS_CORDWOOD_VER
  | .SEC_POLICY_REQUIRE_SIG | .SEC_POLICY_BAR4 | .SEC_POLICY_DEBUG_LOCK | .SEC_POLICY_PMODE_FLOOR
  | .SEC_SVN_KINDLING_FUSED | .SEC_SVN_CORDWOOD_FUSED | .SEC_SVN_KINDLING_BOOTED | .SEC_SVN_CORDWOOD_BOOTED
  | .SEC_KEY_VALID | .SEC_KEY_USAGE | .SEC_KEY_FPR | .SEC_MBOX_CMD_ADDR | .SEC_MBOX_CMD_TYPE | .SEC_MBOX_CMD_GO
  | .SEC_MBOX_STATUS_BUSY | .SEC_MBOX_STATUS_RESULT | .SEC_MBOX_STATUS_SEQ | .SEC_WDOG_TIMEOUT_MS | .SEC_WDOG_KICK
  | .SEC_PROTECTED_WRITES | .SEC_WDOG_RESTARTS => true
  | _ => false

/-- What a module reset leaves of everything but the AUX domain's records (Table BOOT-5, column Module). -/
def Mach.clearMain (m : Mach) : Mach :=
  let tick := { TickGen.reset with locked := m.tick.locked, lastSync := m.tick.lastSync, holdNs := m.tick.holdNs, slew := m.tick.slew,
                                   slewFrac := m.tick.slewFrac }
  let aux := { m.aux with wdog := none, expiries := [], dpEnd := none, bistOk := 0, restarting := false, dipEnd := none, droop := 0 }
  let r : Mach :=
    { m with
      regs := m.regs.filter fun kv => (Fld.ofKey kv.1).1.keptByModule
      shadow := [], mem := [], poison := [], hurt := Hurt.reset, cores := [], ctxs := [], turn := [], jam := [], setters := []
      banks := [], codes := [], newSlots := [], dbg := Dbg.reset, hif := { Hif.reset with sent := m.hif.sent }, armed := none, step := none
      cut := none, cutHeld := false, fab := { Fab.reset with out := m.fab.out }, red := Red.reset, ing := Ing.reset
      liveGens := [], deferred := [], loads := [], acking := [], cache := [], image := none, timers := [], tick := tick, aux := aux }
  if m.tick.holdNs = 0 then r else r.wr .TICK_STATE_TIME_HOLD 0 1

/-- The main-domain regulators are on (1) or off (0): PWR_GOOD and each rail's GOOD (R440, R458). -/
def Mach.setRails (m : Mach) (v : Nat) : Mach :=
  (List.range 10).foldl (fun m n => m.wr .PWR_RAIL_GOOD n v) (m.wr .MOD_STATUS_PWR_GOOD 0 v)

/-- R445, R535: a module reset starts with its cause; the regulators stay on for causes 1 and 2 (R534). -/
def Mach.startReset (m : Mach) (cause due : Nat) (perst : Bool) : Mach :=
  let good := m.on .MOD_STATUS_PWR_GOOD 0
  let m := if cause ≤ 2 ∧ good then m.sendCtlAll 0x30 [] else m
  let m := { m.clearMain with aux := { m.clearMain.aux with reset := some ⟨m.time, due, perst⟩ } }
  let m := m.wrs 0 [(.MOD_RESET_CAUSE_CAUSE, cause), (.MOD_RESET_CAUSE_COUNT, m.rd .MOD_RESET_CAUSE_COUNT 0 + 1),
    (.HIF_STATUS_BAR4_EN, m.rd .SEC_POLICY_BAR4 0), (.SEC_STATUS_CORDWOOD_FAILED, 0)]
  if cause ≤ 2 ∧ good then (m.setRails 1).wr .MOD_BOOT_STAGE 0 1 else m

/-- R535: the order of the causes that fall in one ref cycle: thermal trip, power fail, PWR_EN, PERST_N, MOD_CTRL.RESET. -/
def causeRank (cause : Nat) : Nat := if cause = 5 then 0 else if cause = 3 then 1 else if cause = 4 then 2 else if cause = 1 then 3 else 4

/-- R535: a trigger of a module reset; one that comes during a reset extends it, and leaves CAUSE unless it falls in the ref cycle
of its start and stands before it. -/
def Mach.trigReset (m : Mach) (cause due : Nat) (perst : Bool) : Mach :=
  match m.aux.reset with
  | some r =>
    let m := { m with aux := { m.aux with reset := some ⟨r.start, max r.due due, r.perst || perst⟩ } }
    let m := if 3 ≤ cause then (m.setRails 0).wr .MOD_BOOT_STAGE 0 0 else m
    if r.start / 10 = m.time / 10 ∧ causeRank cause < causeRank (m.rd .MOD_RESET_CAUSE_CAUSE 0) then
      m.wr .MOD_RESET_CAUSE_CAUSE 0 cause
    else m
  | none => m.startReset cause due perst

/-- AUX12 is in limits and PWR_EN is high: a reset trigger has its effect (R535). -/
def Mach.mayReset (m : Mach) : Bool := m.aux.inLimits && m.pins.pwrEn

/-- Bring-up begins at stage 1, its times counted from now (R441, R534). -/
def Mach.bringUp (m : Mach) : Mach :=
  { m with aux := { m.aux with base := m.time } }.wrs 0 [(.MOD_BOOT_STAGE, 1), (.MOD_BOOT_FAIL_CAUSE, 0), (.MOD_BOOT_READY_MS, 0)]

/-- R445, R534: the reset in progress may end: the regulators are on, its time has come and PERST_N does not hold it; bring-up runs. -/
def Mach.endReset (m : Mach) : Mach :=
  match m.aux.reset with
  | none => m
  | some r =>
    if r.perst || !m.on .MOD_STATUS_PWR_GOOD 0 then m
    else
      let m := m.advanceTo r.due
      { m with aux := { m.aux with reset := none } }.bringUp

/-- A freeze ends (R476): core tests that it suspended go on (R505), and a boundary whose time has passed falls now. -/
def Mach.unfreeze (m : Mach) : Mach :=
  let gone := if m.frozen then m.time - m.rd .DBG_FREEZE_AT 0 else 0
  let m := { m with timers := m.timers.map fun (kt : Nat × Option Timer) =>
    if kt.1 < 64 then (kt.1, kt.2.map fun (t : Timer) => ⟨t.due + gone, t.obj⟩) else kt }
  let m := if m.frozen && m.on .TICK_STATE_GEN_RUNNING 0 then m.wr .TICK_NEXT 0 (max (m.rd .TICK_NEXT 0) m.time) else m
  let m := m.wrs 0 [(.DBG_FREEZE_CTRL_FROZEN, 0), (.MOD_STATUS_FROZEN, 0), (.DBG_FREEZE_CTRL_HOST, 0)]
  m.wr .TICK_STATE_HELD 0 (b2n (m.cut.isSome || m.cutHeld))

/-- What a data-path reset leaves of a core (Table BOOT-5). -/
def Core.dpReset (c : Core) : Core :=
  { Core.reset with icache := c.icache, stopped := c.stopped, vecUsed := c.vecUsed, druUsed := c.druUsed }

/-- The fields that a data-path reset returns to 0: flags, ring counts and cursors, DET bits, ABORTED, a core test's result. -/
def Fld.clearedByDp : Fld → Bool
  | .FLAG | .MFLAG | .ING_RING_WR_W | .ING_RING_CUR | .ING_MC_DET | .MOD_FLT_STATUS_ABORTED | .CORE_TEST_CTRL_BUSY
  | .CORE_TEST_CTRL_RESULT | .MOD_STATUS_STEP_RUNNING | .TICK_STATE_PHASE | .TICK_STATE_PHASE_LEFT | .SEQ_BANK_LOAD_BUSY
  | .OPE_TILE_SB_STATE => true
  | _ => false

/-- R380: a data-path reset ends a pending swap with ABORTED. -/
def Mach.abortSwap (m : Mach) : Mach :=
  match m.tick.swap with
  | none => m
  | some w =>
    let gen := m.rd .MOD_STATUS_GEN 0
    let t := m.rd .TICK_NUMBER 0
    let m := { m with tick := { m.tick with swap := none } }.wrs 0 [(.CFG_SWAP_RESULT_STATUS, 15), (.CFG_SWAP_RESULT_GEN, gen),
      (.CFG_SWAP_RESULT_REASONS, 0), (.CFG_SWAP_RESULT_VALID, 1), (.CFG_SWAP_TICK, t), (.MOD_STATUS_SWAP_PENDING, 0)]
    w.desc.elim m fun d => m.complete d 0x2F 0 (gen + 65536 * (t % 2 ^ 48)) (leBytes 8 t)

/-- Every entry that a channel end holds is discarded: its link gets its credit, its sender on this module its settlement. -/
def Mach.discardEnds (m : Mach) : Mach :=
  (m.cores.flatMap fun gc => gc.2.ch.flatMap (·.2)).foldl (fun m e => m.popped e) m

/-- How long a data-path reset takes: the bound of R447 (log entry 41). -/
def dpResetNs : Nat := 2000000

/-- R447, R419, Table BOOT-5: a data-path reset; `d` is the DP_RESET descriptor that asked for it. -/
def Mach.dpReset (m : Mach) (d : Option Desc) : Mach :=
  if m.aux.reset.isSome || m.aux.dpEnd.isSome then m
  else
    let m := m.abortSwap
    let m := { m with step := none, armed := none, deferred := [], loads := [], acking := [] }
    let m := m.abortDescs (m.hif.descs.filter fun e => d.elim true fun d => e.seq != d.seq)
    let m := m.discardEnds
    let m := { m with cores := (m.cores.map fun (gc : Nat × Core) => (gc.1, gc.2.dpReset)).filter fun (gc : Nat × Core) => gc.2 != Core.reset
                      ctxs := [], turn := [], jam := [], setters := [], cut := none, cutHeld := false, red := Red.reset, ing := { Ing.reset with rate := m.ing.rate, paused := m.ing.paused, roce := m.ing.roce }
                      liveGens := [], timers := m.timers.filter fun (kt : Nat × Option Timer) => decide (64 ≤ kt.1)
                      regs := m.regs.filter fun kv => !(Fld.ofKey kv.1).1.clearedByDp
                      tick := { m.tick with sample := none } }.unfreeze
    { m with aux := { m.aux with dpEnd := some (m.time + dpResetNs) } }.sendCtlAll 0x31 []

/-- R500: an error of control state is found: it is corrected and counted, an instruction cache line is fetched again, or it stops a core or
the module. Kinds: 0 an instruction bank (of sequencer index / 2), 1 a core's engine commands, 2 its stream descriptors, 3 a context
(by its number), 4 a line of a core's instruction cache (core * 2^20 + line), 5 the hub's control state, `index` being HUB_FAULT's SUB. -/
def Mach.upsetFound (m : Mach) (u : Upset) : Mach :=
  let i := u.index
  let seq (k : Nat) : Nat × Nat := (srcDie (k / 8 % 4), k % 8)
  let src : Nat × Nat := if u.kind = 0 then seq (i / 2) else if u.kind = 3 then
      (if thrForm i = 0 then seq (thrDie i * 8 + thrUnit i) else (thrDie i * 16 + thrUnit i, thrDie i * 16 + thrUnit i)) else (i % 64, i % 64)
  if u.kind = 4 then
    if u.hard then m.onCore (i / 2 ^ 20 % 64) fun c => c.dropLine (i % 2 ^ 20) else m.raise 0x40 1 (i / 2 ^ 20 % 64) 0 0
  else if u.kind = 5 then if u.hard then m.raise 0x20 (i % 5) srcHub 0 0 else m.raise 0x40 1 srcHub 0 0
  else if u.hard then m.raise 0x0A (u.kind % 4) src.1 src.2 0
  else m.raise 0x40 1 src.1 0 0

/-- The errors of control state that stand are found. -/
def Mach.upsetsFound (m : Mach) : Mach :=
  if m.hurt.found.isEmpty || !m.mainUp then m
  else m.hurt.found.foldl Mach.upsetFound { m with hurt := { m.hurt with found := [] } }

/-- R246, R247, R500: an error strikes a granule of plain storage that exists, or control state. -/
def Hurt.struck (h : Hurt) (up : Bool) (cell : Nat → Bool) (u : Option Upset) : Hurt :=
  match u with
  | none => h
  | some u =>
    if !up then h
    else if !u.cell then { h with found := h.found ++ [u] }
    else if cell u.index then { h with cells := NMap.set (fun _ => 0) h.cells u.index (if u.hard then 2 else 1) }
    else h

/-- `k` is the key of a granule of plain storage that the module has. -/
def Mach.cellKey (m : Mach) (k : Nat) : Bool :=
  granKey k == k && m.mapped k && (rangeOf k == .t0 || rangeOf k == .staging || rangeOf k == .linear)

/-- An idle step of the block: 1 ns passes, what stands is found, and an error may strike (log entries 20 and 65). -/
def Mach.idle (m : Mach) : Mach :=
  let m := (m.elapse 1).upsetsFound
  { m.fresh.2 with hurt := m.hurt.struck m.mainUp m.cellKey (Config.upset m.free) }

/-- The core lies in a stage group of the active or the shadow SEQ_MEMBER (R504). -/
def Mach.inGroup (m : Mach) (g : Nat) : Bool :=
  (m.seqOf g).isSome || (List.range 8).any fun s => (m.groupS (coreDie g * 8 + s)).contains (g % 16)

/-- R504: what bit `g` of MOD_FENCE becomes when `v` is written to it, and whether that was refused. -/
def Mach.fenceBit (m : Mach) (g v : Nat) : Nat × Bool :=
  if bitsAt (m.rd .MOD_FENCE 0) g 1 = 0 then
    if v = 0 then (0, false) else if m.inGroup g then (0, true) else (1, false)
  else if v = 1 then (1, false)
  else if m.on .OPE_REPAIR_FIELD_PENDING g || m.rd .CORE_TEST_CTRL_RESULT g == 2 then (1, true) else (0, false)

namespace Reset

/-- MOD_RESET: a write of MOD_CTRL.RESET = 1. -/
def modReset (m : Mach) : Mach := if m.mayReset && m.on .MOD_STATUS_PWR_GOOD 0 then m.trigReset 2 (m.time + 100000) false else m

/-- MOD_CTRL_DP_RESET: a write of MOD_CTRL.DP_RESET = 1. -/
def modCtrlDpReset (m : Mach) : Mach := if m.mainUp then m.dpReset none else m

def moduleResetEnd (m : Mach) : Mach := m.endReset

/-- MOD_FENCE_WRITE. -/
def fenceWrite (v : BitVec 64) (m : Mach) : Mach :=
  if !m.mainUp then m
  else
    let rs := (List.range 64).map fun g => m.fenceBit g (bitsAt v.toNat g 1)
    let m := (m.wr .MOD_FENCE 0 (packLanes 1 (rs.map (·.1)))).markGated ((List.range 64).filter fun g => (rs.getD g (0, false)).1 == 1)
    (if rs.any (·.2) then m.wr .MOD_FLT_STATUS_FENCE_REFUSED 0 1 else m).reAvail

/-- R143: a host write of a seed or position is ignored while a step runs. -/
def guardRng (host : Bool) (g : BitVec 6) (f : Mach → Mach) (m : Mach) : Mach :=
  if host && m.stepRunning then m.wr .VEC_STATUS_WRITE_IGNORED g.toNat 1 else f m

/-- RNG_SEED_WRITE (R142, R143). -/
def rngSeed (host : Bool) (g : BitVec 6) (v : BitVec 64) : Mach → Mach :=
  guardRng host g fun m => m.writeSeed g.toNat v.toNat

/-- RNG_POS_WRITE of the low or high register of a stream's position; under FAST the position stands for a call (R142). -/
def rngPos (host : Bool) (g : BitVec 6) (dru hi : Bool) (v : BitVec 64) : Mach → Mach :=
  guardRng host g fun m =>
    let s := b2n dru
    let p := m.rngPos g.toNat s
    m.writePos g.toNat s (if hi then p % 2 ^ 64 + 2 ^ 64 * v.toNat else p / 2 ^ 64 * 2 ^ 64 + v.toNat)

/-- NF_CAPTURE_CLEAR: VALID is cleared; with `complete`, the core's oldest update completes in the same cycle (R99). -/
def nfClear (g : BitVec 6) (complete : Bool) (m : Mach) : Mach :=
  let m := m.wr .ACC_NF_CAPTURE_VALID g.toNat 0
  if complete then Ope.updateComplete g m else m

/-- TEMP_MAX_WRITE (R517). -/
def tempMax (n : BitVec 6) (m : Mach) : Mach :=
  if n.toNat < 37 ∧ m.aux.inLimits then m.wr .PWR_TEMP_MAX n.toNat (m.rd .PWR_TEMP_TEMP n.toNat) else m

/-- SPARE_NEXT_WRITE (R251), whoever writes: ignored where the stack's spare is in use; Kindling records the request in flash. -/
def spareNext (n : BitVec 5) (pc : BitVec 6) (m : Mach) : Mach :=
  if !m.mainUp || m.rd .MEM_STK_STATUS_SPARED_PC n.toNat != 0x3F then m
  else
    { m with flash := { m.flash with sparing := NMap.set (fun _ => 0x3F) m.flash.sparing n.toNat pc.toNat } }.wr
      .MEM_STK_STATUS_SPARE_NEXT n.toNat pc.toNat

/-- PEAT_RMW (R266): a write of part of one page, by a core's engine or the hub's; an empty pool faults (R267). -/
def peatRmw (addr : BitVec 44) (data : List Byte) (poison : Bool) (g : BitVec 6) (hub : Bool) (m : Mach) : Mach :=
  let a := addr.toNat
  let packed := rangeOf a == .packed || rangeOf a == .t2packed
  let bs := (data.take (4096 - a % 4096)).map (·, poison)
  if !m.mainUp || !packed || bs.isEmpty then m
  else if !m.peatOk (a / 4096 * 4096) then
    if hub then m.captureFault 8 a true 0 else m.addrFault g.toNat 8 a
  else
    let m := (m.pageRead (peatUnit a) (peatPage a)).2
    match m.peatPut (if hub then 1 else 0) false (peatUnit a) (peatPage a) (a % 4096) bs with
    | .ok m => m
    | .error c => if hub then m.captureFault c a true 0 else m.addrFault g.toNat c a

/-- SCRUB_READ (R247, R248, R252): what a read of the codeword at a stack address found beside what stands in it: 0 no error, 1 corrected
and written back, 2 corrected but written since, 3 uncorrectable. -/
def scrub (addr : BitVec 44) (found : BitVec 2) (m : Mach) : Mach :=
  let a := addr.toNat / 64 * 64
  let n := (a - 0x10000000000) / 0x800000000
  if !m.mainUp || m.rd .MEM_SCRUB_PERIOD 0 == 0 || rangeOf a != .linear || !m.mapped a then m
  else
    let bad := found = 3 ∨ m.cellError a = 2
    let heal (m : Mach) : Mach := { m with hurt := { m.hurt with cells := NMap.erase m.hurt.cells a } }
    if m.poison.get (fun _ => false) a then (heal m |>.bump .MEM_STK_UNCORR n 1).originCapture 0 a
    else if bad then
      ({ heal m with poison := NMap.set (fun _ => false) m.poison a true }.bump .MEM_STK_UNCORR n 1).poisonOrigin 0 (srcDie (n / 8)) a
    else if found = 0 ∧ m.cellError a = 0 then m
    else ((if found = 2 then m else heal m).bump .MEM_STK_CORR n 1).raise 0x40 0 (srcDie (n / 8)) 0 a

end Reset
end Sys2Proof.Machine
end

