-- ==== Sys2Proof/Machine/ExecEngine.lean ====
section
/-! DEFINITION. The meanings of the events of the engines of a core and of memory (chapters 03 to 09): one definition for each command. -/
namespace Sys2Proof.Machine

/-- ICACHE_MISS_FILL (R166). A per-core instruction-cache miss is filled with a 256-byte line from the code region. -/
def execIcacheMissFill (t : ThreadId) (s : State) : Host.Outcome State Fault Refusal :=
  .next (s.lift (Control.icacheMissFill t))

/-- STREAM_GEN_START (R156). The stream engine starts a queued SRUN once a generator is free. -/
def execStreamGenStart (g : BitVec 6) (s : State) : Host.Outcome State Fault Refusal :=
  .next (s.lift (Streams.genStart g))

/-- STREAM_ADDRESS_PUSH (R156). A generator pushes its next address once the address queue has room. -/
def execStreamAddressPush (g : BitVec 6) (gen : BitVec 3) (s : State) : Host.Outcome State Fault Refusal :=
  .next (s.lift (Streams.addressPush g gen))

/-- LSU_READ_START (R550). A read port starts a line read once the destination queue has a slot for every entry the read will push. -/
def execLsuReadStart (g : BitVec 6) (slot : BitVec 3) (s : State) : Host.Outcome State Fault Refusal :=
  .next (s.lift (Lsu.readStart g slot))

/-- LSU_ENTRY_PUSH (R78). A line read pushes its entry 12 cycles after it starts, or 16 cycles for an unpacking read. -/
def execLsuEntryPush (g : BitVec 6) (slot : BitVec 3) (s : State) : Host.Outcome State Fault Refusal :=
  .next (s.lift (Lsu.entryPush g slot))

/-- OPE_UPDATE_ISSUE (R84). An update issues once all its operand entries are present and the tile scoreboard allows it. -/
def execOpeUpdateIssue (g : BitVec 6) (s : State) : Host.Outcome State Fault Refusal :=
  .next (s.lift (Ope.updateIssue g))

/-- OPE_UPDATE_COMPLETE (R83). An update completes 40 cycles after issue, and the tile leaves ACCUM after its last update. -/
def execOpeUpdateComplete (g : BitVec 6) (s : State) : Host.Outcome State Fault Refusal :=
  .next (s.lift (Ope.updateComplete g))

/-- DRAIN_START (R88). A drain starts when its tile is IDLE and the drain line port is free. -/
def execDrainStart (g : BitVec 6) (s : State) : Host.Outcome State Fault Refusal :=
  .next (s.lift (Dru.drainStart g))

/-- DRAIN_LINE_READ (R105). A drain reads or clears one line and pops its residual and z entries, or waits for them. -/
def execDrainLineRead (g : BitVec 6) (s : State) : Host.Outcome State Fault Refusal :=
  .next (s.lift (Dru.lineRead g))

/-- DRAIN_ENTRY_PUSH (R106). The epilogue pushes an output, z, scale or amax entry once its destination has room. -/
def execDrainEntryPush (g : BitVec 6) (s : State) : Host.Outcome State Fault Refusal :=
  .next (s.lift (Dru.entryPush g))

/-- PRELOAD_START (R88). A preload starts when its tile is IDLE and the preload line port is free. -/
def execPreloadStart (g : BitVec 6) (s : State) : Host.Outcome State Fault Refusal :=
  .next (s.lift (Dru.preloadStart g))

/-- PRELOAD_LINE_WRITE (R102). A preload writes one line, waiting for its source entry where it needs one. -/
def execPreloadLineWrite (g : BitVec 6) (s : State) : Host.Outcome State Fault Refusal :=
  .next (s.lift (Dru.preloadLineWrite g))

/-- VEC_ENTRY_POP (R128). A VEC command pops its next input entries once they are present and its oldest result is not held back. -/
def execVecEntryPop (g : BitVec 6) (s : State) : Host.Outcome State Fault Refusal :=
  .next (s.lift (Vec.entryPop g))

/-- VEC_RESULT_PUSH (R128). A VEC result is pushed once its queue or channel end accepts it. -/
def execVecResultPush (g : BitVec 6) (s : State) : Host.Outcome State Fault Refusal :=
  .next (s.lift (Vec.resultPush g))

/-- NIU_ENTRY_MOVE (R555). An NIU command moves one entry once its channel ends accept or deliver it. -/
def execNiuEntryMove (g : BitVec 6) (slot : BitVec 2) (s : State) : Host.Outcome State Fault Refusal :=
  .next (s.lift (Niu.entryMove g slot))

/-- DEFERRED_FLAG_APPLY (R169). A pending flag operation is applied once every earlier command of its AFTER classes has retired. -/
def execDeferredFlagApply (t : ThreadId) (s : State) : Host.Outcome State Fault Refusal :=
  .next (s.lift (Control.deferredFlagApply t))

/-- DMA_COMMAND_START (R161). The DMA engine starts the next queued command when one of its 16 slots is free. -/
def execDmaCommandStart (g : BitVec 6) (s : State) : Host.Outcome State Fault Refusal :=
  .next (s.lift (Dma.commandStart g))

/-- DMA_TRANSFER_COMPLETE (R269). A transfer finishes writing and retires, or retires on an address fault. -/
def execDmaTransferComplete (g : BitVec 6) (slot : BitVec 4) (ack : Bool) (data : List Byte) (poison : List Bool) (s : State) :
    Host.Outcome State Fault Refusal :=
  .next (s.lift (Dma.transferComplete g slot ack data poison))

/-- ADDR_FAULT_REPORT (R271). A remote side's fault report arrives, and the issuing module raises ADDR_FAULT. -/
def execAddrFaultReport (g : BitVec 6) (slot cause : BitVec 4) (addr : BitVec 64) (s : State) :
    Host.Outcome State Fault Refusal :=
  .next (s.lift (Dma.addrFaultReport g slot cause addr))

/-- IPULL_SLOT_COPY (R306). An IPULL copies a slot once it is complete and advances the core's cursor. -/
def execIPullSlotCopy (g : BitVec 6) (slot : BitVec 4) (ack : Bool) (s : State) : Host.Outcome State Fault Refusal :=
  .next (s.lift (Dma.iPullSlotCopy g slot ack))

/-- PEAT_RMW (R266). A partial page write is performed by read-modify-write once an RMW slot is free. -/
def execPeatRmw (addr : BitVec 44) (data : List Byte) (poison : Bool) (g : BitVec 6) (hub : Bool) (s : State) :
    Host.Outcome State Fault Refusal :=
  .next (s.lift (Reset.peatRmw addr data poison g hub))

/-- SCRUB_READ (R252). Scrub reads a codeword at its periodic pace and writes back corrected data. -/
def execScrubRead (addr : BitVec 44) (found : BitVec 2) (s : State) : Host.Outcome State Fault Refusal :=
  .next (s.lift (Reset.scrub addr found))

end Sys2Proof.Machine
end

