-- ==== Sys2Proof/Machine/Demux.lean ====
section
/-! DEFINITION. Demultiplexing of ingest's sources (R282-R284): the packets of a transport stream, its PAT and PMT, PES packets, the tracks of
an ISO BMFF file, and elementary streams. The layouts of ISO/IEC 13818-1 that R283 names are PRESUMED (log entry 68). -/
namespace Sys2Proof.Machine

/-- Big-endian fields, as the standards of chapter 10 use them. -/
def beNat (bs : List Byte) : Nat := bs.foldl (fun n b => 256 * n + b.toNat) 0
def beAt (d : List Byte) (o n : Nat) : Nat := beNat ((d.drop o).take n)

/-- The whole packets of 188 bytes, after a prefix of `pre` bytes each (R282). -/
def tsPackets (pre : Nat) (bs : List Byte) : List (List Byte) :=
  (List.range (bs.length / (188 + pre))).map fun i => (bs.drop ((188 + pre) * i + pre)).take 188

/-- What a packet brings its PID: a payload that does or does not start a unit, or a gap. -/
structure TsPart where
  pid : Nat
  start : Bool
  data : Option (List Byte)
  deriving DecidableEq, Repr

/-- A packet's payload, after its adaptation field, if it has one. -/
def tsPayload (p : List Byte) : Option (List Byte) :=
  let afc := bitsAt (beAt p 3 1) 4 2
  if afc = 1 then some (p.drop 4) else if afc = 3 then some (p.drop (5 + beAt p 4 1)) else none

/-- The continuity counters of the PIDs, the parts so far, and the packets discarded. -/
structure TsRun where
  last : NMap (Option Nat)
  parts : List TsPart
  errors : Nat
  deriving DecidableEq, Repr

/-- R283: one packet: one that fails sync, is marked in error, is scrambled, or whose continuity counter skips is discarded; a repetition of a
packet counts for nothing. -/
def TsRun.packet (r : TsRun) (p : List Byte) : TsRun :=
  let pid := beAt p 1 2 % 8192
  let cc := beAt p 3 1 % 16
  let bad (gap : Bool) (r : TsRun) : TsRun :=
    { r with parts := if gap then r.parts ++ [⟨pid, false, none⟩] else r.parts, errors := r.errors + 1 }
  if beAt p 0 1 ≠ 0x47 then bad false r
  else if bitsAt (beAt p 1 1) 7 1 = 1 ∨ bitsAt (beAt p 3 1) 6 2 ≠ 0 then bad true r
  else match tsPayload p with
    | none => r
    | some d =>
      let jump := decide (2 ≤ bitsAt (beAt p 3 1) 4 2 ∧ 0 < beAt p 4 1) && bitsAt (beAt p 5 1) 7 1 == 1
      let old := r.last.get (fun _ => none) pid
      let r' := { r with last := NMap.set (fun _ => none) r.last pid (some cc) }
      if pid = 8191 then r
      else if old = some cc ∧ !jump then r
      else if old.all (fun c => (c + 1) % 16 == cc) || jump then
        { r' with parts := r.parts ++ [⟨pid, bitsAt (beAt p 1 1) 6 1 == 1, some d⟩] }
      else bad true r'

def tsRun (pre : Nat) (bs : List Byte) : TsRun := (tsPackets pre bs).foldl TsRun.packet ⟨[], [], 0⟩

/-- The sections that lie one after another in a table's bytes. -/
def sectionsIn : Nat → List Byte → List (List Byte)
  | 0, _ => []
  | n + 1, bs =>
    let len := 3 + beAt bs 1 2 % 4096
    if bs.length < len ∨ beAt bs 0 1 = 0xFF then [] else bs.take len :: sectionsIn n (bs.drop len)

/-- The sections of a PID: a payload that starts one begins with a pointer to it. -/
def tsSections (parts : List TsPart) (pid : Nat) : List (List Byte) :=
  let r := (parts.filter fun t => t.pid == pid).foldl (fun (a : List (List Byte) × List Byte) t =>
    match t.data with
    | none => (a.1, [])
    | some d =>
      if t.start then
        let ptr := beAt d 0 1
        (a.1 ++ [a.2 ++ (d.drop 1).take ptr], d.drop (1 + ptr))
      else (a.1, if a.2.isEmpty then [] else a.2 ++ d)) ([], [])
  (r.1 ++ [r.2]).flatMap fun b => sectionsIn (b.length / 3 + 1) b

/-- A stream that a PMT lists. -/
structure TsStream where
  ty : Nat
  pid : Nat
  desc : List Byte
  deriving DecidableEq, Repr

/-- The content of the first descriptor with a tag that `ok` accepts. -/
def descOf (tag : Nat) (ok : List Byte → Bool) : Nat → List Byte → Option (List Byte)
  | 0, _ => none
  | n + 1, ds =>
    if ds.length < 2 then none
    else
      let len := beAt ds 1 1
      let body := (ds.drop 2).take len
      if beAt ds 0 1 = tag ∧ ok body then some body else descOf tag ok n (ds.drop (2 + len))
def TsStream.has (s : TsStream) (tag : Nat) (ok : List Byte → Bool) : Bool := (descOf tag ok s.desc.length s.desc).isSome

def pmtStreams : Nat → List Byte → List TsStream
  | 0, _ => []
  | n + 1, bs =>
    if bs.length < 5 then []
    else
      let len := beAt bs 3 2 % 4096
      ⟨beAt bs 0 1, beAt bs 1 2 % 8192, (bs.drop 5).take len⟩ :: pmtStreams n (bs.drop (5 + len))

/-- R283: the streams of the selected programme, by the PAT and its PMT. -/
def tsStreams (parts : List TsPart) (program : Nat) : List TsStream :=
  let pat := ((tsSections parts 0).find? fun s => beAt s 0 1 == 0).elim [] fun s =>
    (List.range ((s.length - 12) / 4)).map fun i => (beAt s (8 + 4 * i) 2, beAt s (10 + 4 * i) 2 % 8192)
  match pat.find? fun e => if program = 0xFFFF then e.1 != 0 else e.1 == program && e.1 != 0 with
  | none => []
  | some (prog, pid) =>
    match (tsSections parts pid).find? fun s => beAt s 0 1 == 2 && beAt s 3 2 == prog with
    | none => []
    | some s =>
      let skip := 12 + beAt s 10 2 % 4096
      pmtStreams s.length ((s.drop skip).take (s.length - 4 - skip))

/-- The codec code (Table ING-4, R288) of a stream; 0 for none that is supported. -/
def TsStream.video (s : TsStream) : Nat :=
  if s.ty = 0x02 then 1 else if s.ty = 0x1B then 2 else if s.ty = 0x24 then 3
  else if s.ty = 0x06 ∧ s.has 0x05 (· == [0x41, 0x56, 0x30, 0x31]) then 4 else 0
def TsStream.audio (s : TsStream) : Nat :=
  if s.ty = 0x03 ∨ s.ty = 0x04 then 8 else if s.ty = 0x0F ∨ s.ty = 0x11 then 9
  else if s.ty = 0x81 ∨ (s.ty = 0x06 ∧ s.has 0x6A fun _ => true) then 10 else 0

/-- The PES packets of a PID, reassembled, with their 33-bit PTS (R283). -/
def tsPes (parts : List TsPart) (pid : Nat) : List Chunk :=
  let r := (parts.filter fun t => t.pid == pid).foldl (fun (a : List Chunk × Option Chunk) t =>
    match t.data, t.start with
    | none, _ => (a.1, a.2.map fun c => { c with data := c.data ++ [none] })
    | some d, true =>
      let has := decide (beAt d 0 3 = 1) && bitsAt (beAt d 7 1) 7 1 == 1
      let pts := bitsAt (beAt d 9 1) 1 3 * 2 ^ 30 + beAt d 10 2 / 2 * 2 ^ 15 + beAt d 12 2 / 2
      (a.1 ++ a.2.toList, some ⟨if has then some pts else none, (d.drop (9 + beAt d 8 1)).map some⟩)
    | some d, false => (a.1, a.2.map fun c => { c with data := c.data ++ d.map some })) ([], none)
  r.1 ++ r.2.toList

/-- R284: the PTS of a stream, extended: 2^33 is added whenever one falls by more than 2^32. -/
def extendPts : Nat → Nat → List Chunk → List Chunk
  | _, _, [] => []
  | off, prev, c :: cs =>
    match c.pts with
    | none => c :: extendPts off prev cs
    | some p =>
      let off := if p + 2 ^ 32 < prev then off + 2 ^ 33 else off
      { c with pts := some (p + off) } :: extendPts off p cs

/-- What a source holds: its video and audio streams by codec, and its teletext stream. -/
structure Demuxed where
  video : Option (Nat × List Chunk)
  audio : Option (Nat × List Chunk)
  text : Option (List Chunk)
  deriving DecidableEq, Repr

/-- What a job selects of a source (Table ING-1): PROGRAM, VIDEO_PID, AUDIO_PID, AUDIO_LANG. -/
structure Selection where
  program : Nat
  vPid : Nat
  aPid : Nat
  lang : List Byte
  deriving DecidableEq, Repr

/-- The first of `l` that matches the language, else the first; no preference where the language is all zero (R283). -/
def byLang {α : Type} (lang : List Byte) (speaks : α → Bool) (l : List α) : Option α :=
  (if lang.all (· == 0) then none else l.find? speaks).orElse fun _ => l.head?

/-- R283: the selected streams of a transport stream. -/
def tsDemux (sel : Selection) (pre : Nat) (bs : List Byte) : Demuxed :=
  let parts := (tsRun pre bs).parts
  let ss := tsStreams parts sel.program
  let pes (s : TsStream) := extendPts 0 0 (tsPes parts s.pid)
  let v := ss.find? fun s => if sel.vPid = 0x1FFF then s.video != 0 else s.pid == sel.vPid && s.video != 0
  let a := if sel.aPid = 0x1FFF then
      byLang sel.lang (fun s => s.has 0x0A fun d => (List.range (d.length / 4)).any fun i => (d.drop (4 * i)).take 3 == sel.lang)
        (ss.filter fun s => s.audio != 0)
    else ss.find? fun s => s.pid == sel.aPid && s.audio != 0
  ⟨v.map fun s => (s.video, pes s), a.map fun s => (s.audio, pes s), (ss.find? fun s => s.has 0x56 fun _ => true).map pes⟩

/-- The codec code of a sample entry (R282), video or audio; 0 for none that is supported. -/
def entryVideo (e : String) : Nat :=
  if e = "av01" then 4 else if e = "avc1" ∨ e = "avc3" then 2 else if e = "hvc1" ∨ e = "hev1" then 3 else if e = "vp09" then 5 else 0
def entryAudio (e : String) : Nat := if e = "mp4a" then 9 else if e = "ac-3" then 10 else 0

/-- R282-R284: the tracks of an ISO BMFF file; an encrypted or unsupported sample entry counts as absent. -/
def bmffDemux (sel : Selection) (bs : List Byte) : Demuxed :=
  let ts := (Config.bmffTracks bs).filter fun t => !t.encrypted
  let chunks (t : BmffTrack) : List Chunk := t.samples.map fun s => ⟨some (s.1 * 90000 / max 1 t.scale), s.2.map some⟩
  ⟨(ts.find? fun t => entryVideo t.entry != 0).map fun t => (entryVideo t.entry, chunks t),
    (byLang sel.lang (fun t => t.lang == sel.lang) (ts.filter fun t => entryAudio t.entry != 0)).map fun t => (entryAudio t.entry, chunks t),
    none⟩

/-- R282: an elementary stream of a codec. -/
def esDemux (codec : Nat) (bs : List Byte) : Demuxed :=
  let c : List Chunk := [⟨none, bs.map some⟩]
  if codec < 8 then ⟨some (codec, c), none, none⟩ else ⟨none, some (codec, c), none⟩

/-- The streams of a source by its CONTAINER and ES_CODEC (Table ING-2). -/
def demux (sel : Selection) (container es : Nat) (bs : List Byte) : Demuxed :=
  match container with
  | 0 => tsDemux sel 0 bs
  | 1 => tsDemux sel 4 bs
  | 2 => bmffDemux sel bs
  | _ => esDemux es bs

/-- Transport packets of a source's first bytes that are discarded (R283). -/
def tsErrors (container : Nat) (bs : List Byte) : Nat :=
  if container = 0 then (tsRun 0 bs).errors else if container = 1 then (tsRun 4 bs).errors else 0

end Sys2Proof.Machine
end

