-- ==== Sys2Proof/Machine/Shape.lean ====
section
/-! DEFINITION. Decoded pictures and their shaping: what a video engine decodes (R285, R286), concealment (R287), and the nine stages of R293.
Where that rule leaves the arithmetic open (the order of sums, the rounding of constants), log entry 68 says what is free and what is chosen. -/
namespace Sys2Proof.Machine

/-- A sum of binary32 values in the fixed order of a stage: two of them at a time (`total` is how many there were). -/
def sumIn (stage total : Nat) : Nat → List Nat → Nat
  | _, [] => 0
  | 0, x :: _ => x
  | n + 1, x :: l =>
    let ij := Config.fixedOrder (stage + 256 * total) (l.length + 1)
    let xs := x :: l
    let i := ij.1 % xs.length
    let rest := xs.eraseIdx i
    match rest[ij.2 % max 1 rest.length]? with
    | none => x
    | some b => sumIn stage total n (add32 (xs.getD i 0) b :: rest.eraseIdx (ij.2 % max 1 rest.length))
def sum32 (stage : Nat) (l : List Nat) : Nat := sumIn stage l.length l.length l

/-- The weighted sum of `l`: each product is rounded, then the sum is formed. -/
def dot32 (stage : Nat) (l : List (Nat × Nat)) : Nat := sum32 stage (l.map fun wx => mul32 wx.1 wx.2)

/-- A constant: the binary32 value nearest to it. -/
def fx32 (v : Fx) : Nat := rn (FVal.ofUnits v (-384))
def ratio32 (a b : Int) : Nat := fx32 (a * fx1 / b)
def nat32 (n : Nat) : Nat := rn (.fin false n 0)

/-- A plane of binary32 values by rows; a place outside it reads as the nearest sample. -/
structure Plane where
  w : Nat
  h : Nat
  px : Array Nat
  deriving DecidableEq, Repr

namespace Plane
def build (w h : Nat) (f : Nat → Nat → Nat) : Plane := ⟨w, h, (Array.range (w * h)).map fun i => f (i / w) (i % w)⟩
def clampTo (n : Nat) (i : Int) : Nat := min i.toNat (n - 1)
def pick (p : Plane) (y x : Int) : Nat := p.px.getD (clampTo p.h y * p.w + clampTo p.w x) 0
/-- The lines of one field: 0 the top field, 1 the bottom field. -/
def field (p : Plane) (par : Nat) : Plane := build p.w ((p.h + 1 - par) / 2) fun y x => p.pick ((2 * y + par : Nat) : Int) x
/-- WEAVE: the two fields, top and bottom, line by line. -/
def weave (t b : Plane) : Plane := build t.w (t.h + b.h) fun y x => (if y % 2 = 0 then t else b).pick (y / 2 : Nat) x
/-- BOB: a field's missing lines from the four nearest of its lines. -/
def bob (f : Plane) (par h : Nat) : Plane := build f.w h fun y x =>
  if y % 2 = par then f.pick (y / 2 : Nat) x
  else
    let i : Int := ((y : Int) - par) / 2
    dot32 2 [(0xBD800000, f.pick (i - 1) x), (0x3F100000, f.pick i x), (0x3F100000, f.pick (i + 1) x), (0xBD800000, f.pick (i + 2) x)]
/-- The part from (`y`, `x`) on. -/
def part (p : Plane) (x y w h : Nat) : Plane := build w h fun r c => p.pick (y + r : Nat) (x + c : Nat)
def flip (p : Plane) : Plane := build p.h p.w fun y x => p.pick x y
end Plane

/-- Luma steps of a chroma sample, across and down. -/
def Pic.sx (p : Pic) : Nat := if p.chroma = 1 ∨ p.chroma = 2 then 2 else 1
def Pic.sy (p : Pic) : Nat := if p.chroma = 1 then 2 else 1
def Pic.cw (p : Pic) : Nat := (p.w + p.sx - 1) / p.sx
def Pic.ch (p : Pic) : Nat := (p.h + p.sy - 1) / p.sy
/-- Mid-grey, of luma and of chroma. -/
def Pic.grey (p : Pic) : Nat := 2 ^ (p.depth - 1)

/-- R285, Table ING-4: whether the engines decode the picture. -/
def Pic.supported (codec : Nat) (p : Pic) : Bool :=
  let deep := decide (p.depth = 8 ∨ p.depth = 10)
  decide (p.w ≤ 4096 ∧ p.h ≤ 2304 ∧ 1 ≤ p.prof) &&
    (match codec with
      | 1 => decide (p.prof ≤ 2 ∧ p.level ≤ 4 ∧ (p.chroma = 1 ∨ p.chroma = 2) ∧ p.depth = 8)
      | 2 => decide (p.prof ≤ 4 ∧ p.level ≤ 51 ∧ p.chroma = 1) && deep
      | 3 => decide (p.prof ≤ 3 ∧ p.level ≤ 51 ∧ (p.chroma = 1 ∨ p.chroma = 2)) && deep
      | 4 => decide (p.prof ≤ 1 ∧ p.level ≤ 51 ∧ p.chroma ≤ 1) && deep
      | 5 => decide (p.prof ≤ 2 ∧ p.level ≤ 51 ∧ p.chroma = 1) && deep
      | _ => false)

/-! ## Concealment (R287) -/

/-- The 16 x 16 luma blocks of a picture, those that cannot be decoded, and its concealed fraction. -/
def Pic.blocks (p : Pic) : Nat := ((p.w + 15) / 16) * ((p.h + 15) / 16)
def Pic.lost (p : Pic) : List Nat := (p.bad.filter fun b => decide (b < p.blocks)).eraseDups
def Pic.conc (p : Pic) : Nat := min 65535 (p.lost.length * 65536 / max 1 p.blocks)

/-- A plane of samples in which the lost blocks are those of `old`, or mid-grey. -/
def Pic.heal (p : Pic) (w sx sy : Nat) (own : List Nat) (old : Nat → Nat → Option Nat) : List Nat :=
  let bad := p.lost
  ((List.range own.length).zip own).map fun iv =>
    let y := iv.1 / max 1 w
    let x := iv.1 % max 1 w
    if bad.contains (sy * y / 16 * ((p.w + 15) / 16) + sx * x / 16) then (old y x).getD p.grey else iv.2

/-- R287: a picture after concealment, given the nearest earlier one in output order. -/
def Pic.concealed (p : Pic) (prev : Option Pic) : Pic :=
  if p.lost = [] then p
  else
    let old (w h : Pic → Nat) (px : Pic → List Nat) (y x : Nat) : Option Nat :=
      prev.bind fun q => if y < h q ∧ x < w q then (px q)[y * w q + x]? else none
    { p with y := p.heal p.w 1 1 p.y (old Pic.w Pic.h Pic.y)
             cb := p.heal p.cw p.sx p.sy p.cb (old Pic.cw Pic.ch Pic.cb)
             cr := p.heal p.cw p.sx p.sy p.cr (old Pic.cw Pic.ch Pic.cr) }

/-! ## The stages of R293 -/

/-- A plane of samples as binary32 values. -/
def rawPlane (w h : Nat) (l : List Nat) : Plane := ⟨w, h, l.toArray.map nat32⟩

/-- Stage 2: a chroma plane of subsampling `sx`, `sy`, its first sample at (`ox`, `oy`) quarters of a luma step, at every luma position. -/
def bilinear (c : Plane) (w h sx sy ox oy : Nat) : Plane :=
  if sx = 1 ∧ sy = 1 then c
  else Plane.build w h fun y x =>
    let side (s o i : Nat) : Int × Nat := let u : Int := 4 * (i : Int) - o; (u / (4 * s : Nat), (u % (4 * s : Nat)).toNat)
    let (j, f) := side sx ox x
    let (i, g) := side sy oy y
    let wt (a b : Nat) : Nat := ratio32 (a * b : Nat) (16 * sx * sy : Nat)
    dot32 1 [(wt (4 * sy - g) (4 * sx - f), c.pick i j), (wt (4 * sy - g) f, c.pick i (j + 1)),
      (wt g (4 * sx - f), c.pick (i + 1) j), (wt g f, c.pick (i + 1) (j + 1))]

/-- A deinterlaced frame (stage 3): its time and duration, the place of its picture among the decoded ones, and which of the picture's fields it
shows: 0 the whole picture, 1 the first field in display order, 2 the second. -/
structure Raster where
  time : Nat
  dur : Nat
  pic : Nat
  field : Nat
  deriving DecidableEq, Repr

/-- Stages 1 and 3: the frames of a picture by DEINT (0 FIELD_SPLIT, 1 BOB, 2 WEAVE). -/
def rastersOf (deint i : Nat) (p : Pic) : List Raster :=
  if !p.interlaced || deint == 2 then [⟨p.time, p.dur, i, 0⟩]
  else [⟨p.time, p.dur / 2, i, 1⟩, ⟨p.time + p.dur / 2, p.dur - p.dur / 2, i, 2⟩]

/-- Y, Cb and Cr of a picture or of one of its fields, at every luma position (stages 1 and 2). `which`: 0 the frame, 1 top, 2 bottom. -/
def Pic.full (p : Pic) (which : Nat) : List Plane :=
  let cut (q : Plane) : Plane := if which = 0 then q else q.field (which - 1)
  let (ox, o0, o1, o2) := p.loc.getD (if p.sy = 2 then (0, 2, 1, 3) else (0, 0, 0, 0))
  let oy := if which = 0 then o0 else if which = 1 then o1 else o2
  let luma := cut (rawPlane p.w p.h p.y)
  let chroma (l : List Nat) : Plane :=
    if p.chroma = 0 then Plane.build luma.w luma.h fun _ _ => nat32 p.grey
    else bilinear (cut (rawPlane p.cw p.ch l)) luma.w luma.h p.sx p.sy ox oy
  [luma, chroma p.cb, chroma p.cr]

/-- Stage 3: the planes of a deinterlaced frame. -/
def Pic.frame (p : Pic) (deint field : Nat) : List Plane :=
  if !p.interlaced then p.full 0
  else if field = 0 then ((p.full 1).zip (p.full 2)).map fun tb => tb.1.weave tb.2
  else
    let par := if (field == 1) == p.topFirst then 0 else 1
    let f := p.full (1 + par)
    if deint = 0 then f else f.map fun q => q.bob par p.h

/-- Stage 5: CROP, clamped to the frame. -/
def cropped (raw : List Byte) (p : Plane) : Plane :=
  let side (o n all : Nat) : Nat × Nat :=
    let a := min (fieldAt raw o 2) (all - 1)
    (a, min (if fieldAt raw n 2 = 0 then all else fieldAt raw n 2) (all - a))
  let (x, w) := side 80 84 p.w
  let (y, h) := side 82 86 p.h
  p.part x y w h

/-- sin(pi x) / (pi x), and the window of a = 4 (stage 6). -/
def fxSinc (x : Fx) : Fx :=
  if x = 0 then fx1 else fxDiv (fxCosTau ((x / 2 - fx1 / 4) % fx1)) (fxMul (fxTau / 2) x)
def fxLanczos (x : Fx) : Fx := if 4 * fx1 ≤ (x.natAbs : Int) then 0 else fxMul (fxSinc x) (fxSinc (x / 4))

/-- The eight taps of a phase, of sum 1. -/
def lanczosTaps (phase : Nat) : List Nat :=
  let ws := (List.range 8).map fun (i : Nat) => fxLanczos (((i : Int) - 3) * fx1 - (phase : Int) * fx1 / 64)
  let s := ws.foldl (· + ·) 0
  ws.map fun w => fx32 (fxDiv w s)

/-- Pairs of samples averaged while there are more than twice as many as go out. -/
def halved (out : Nat) : Nat → List Nat → List Nat
  | 0, l => l
  | n + 1, l =>
    if l.length ≤ 2 * out then l
    else halved out n ((List.range ((l.length + 1) / 2)).map fun i =>
      let a := l.getD (2 * i) 0
      mul32 0x3F000000 (add32 a (l.getD (2 * i + 1) a)))

/-- Stage 6 along a line: source positions (j + 0.5) x in / out - 0.5 in 64ths, the nearest. -/
def scaleLine (out : Nat) (l : List Nat) : List Nat :=
  let a := (halved out 16 l).toArray
  (List.range out).map fun j =>
    let n : Int := ((2 * j + 1) * a.size : Nat) - (out : Int)
    let q : Int := (128 * n / (2 * out : Nat) + 1) / 2
    let taps := lanczosTaps (q % 64).toNat
    dot32 3 ((List.range 8).map fun (i : Nat) => (taps.getD i 0, a.getD (Plane.clampTo a.size (q / 64 + (i : Int) - 3)) 0))

def Plane.scaleX (p : Plane) (out : Nat) : Plane :=
  ⟨out, p.h, ((List.range p.h).flatMap fun (y : Nat) => scaleLine out ((List.range p.w).map fun (x : Nat) => p.pick y x)).toArray⟩

/-- Stage 6: horizontally, then vertically. -/
def Plane.scaled (p : Plane) (w h : Nat) : Plane := ((p.scaleX w).flip.scaleX h).flip

/-- MATRIX and RANGE as they apply to a picture, with the defaults of AUTO. -/
def colourMatrix (raw : List Byte) (p : Pic) : Nat :=
  let j := bitsAt (fieldAt raw 95 1) 0 2
  if j ≠ 0 then j else if p.matrix ≠ 0 then p.matrix else if 576 < p.h then 2 else 1
def colourRange (raw : List Byte) (p : Pic) : Nat :=
  let j := bitsAt (fieldAt raw 95 1) 2 2
  if j ≠ 0 then j else if p.range ≠ 0 then p.range else 1

/-- (Kr, Kb) in ten-thousandths. -/
def krKb (matrix : Nat) : Int × Int := if matrix = 1 then (2990, 1140) else if matrix = 2 then (2126, 722) else (2627, 593)

/-- A value limited to 0 to 1. -/
def unit32 (x : Nat) : Nat := max32 0 (min32 0x3F800000 x)

/-- Stage 7: the three channels of a pixel. -/
def colour (raw : List Byte) (p : Pic) (y cb cr : Nat) : List Nat :=
  let s := 2 ^ (p.depth - 8)
  let limited := colourRange raw p == 1
  let lin (x off div : Nat) : Nat := div32 (sub32 x (nat32 off)) (nat32 div)
  let y := if limited then lin y (16 * s) (219 * s) else lin y 0 (2 ^ p.depth - 1)
  let c (x : Nat) : Nat := if limited then lin x (128 * s) (224 * s) else lin x p.grey (2 ^ p.depth - 1)
  let cb := c cb
  let cr := c cr
  if bitsAt (fieldAt raw 95 1) 4 1 = 1 then [y, cb, cr]
  else
    let k := krKb (colourMatrix raw p)
    let r := add32 y (mul32 (ratio32 (2 * (10000 - k.1)) 10000) cr)
    let b := add32 y (mul32 (ratio32 (2 * (10000 - k.2)) 10000) cb)
    let g := div32 (sub32 (sub32 y (mul32 (ratio32 k.1 10000) r)) (mul32 (ratio32 k.2 10000) b)) (ratio32 (10000 - k.1 - k.2) 10000)
    [r, g, b].map unit32

/-- Stages 8 and 9: a channel's value in VFMT. -/
def outValue (raw : List Byte) (c x : Nat) : Nat :=
  let v := mul32 (sub32 x (fieldAt raw (112 + 4 * c) 4)) (fieldAt raw (124 + 4 * c) 4)
  let fmt := fieldAt raw 96 1
  (convRne (if fmt = 0 then bf16 else if fmt = 1 then fp16 else e4m3) (fmt == 2) (val32 v)).enc

/-- Stages 5 to 9 of a deinterlaced frame: its values by row, column and channel. -/
def shaped (raw : List Byte) (p : Pic) (field : Nat) : List Nat :=
  match (p.frame (fieldAt raw 67 1) field).map fun q => (cropped raw q).scaled (jOutW raw) (jOutH raw) with
  | [y, cb, cr] =>
    (List.range (jOutW raw * jOutH raw)).flatMap fun i =>
      ((List.range 3).zip (colour raw p (y.px.getD i 0) (cb.px.getD i 0) (cr.px.getD i 0))).map fun cx => outValue raw cx.1 cx.2
  | _ => []

/-- Stage 4: the frames that are kept: every STRIDE-th from the item's start, or for each entry of the list the last at or before it. -/
def sampleFrames (raw : List Byte) (ts : List Nat) (start : Nat) (fs : List Raster) : List Raster :=
  if fieldAt raw 64 2 = 0 then
    let fs := fs.filter fun f => decide (start ≤ f.time)
    ((List.range fs.length).zip fs).filterMap fun jf => if jf.1 % max 1 (fieldAt raw 66 1) = 0 then some jf.2 else none
  else ts.filterMap fun t => (fs.filter fun f => decide (f.time ≤ start + t)).getLast?

/-- R286: which pictures are decoded, given from the last in decoding order back: those sampled, those of the content that any later one refers to
(`named`), and those that a later decoded one needs (`needed`). -/
def decodedSet (sampled inside : Nat → Bool) : List (Nat × Pic) → (named needed got : List Nat) → List Nat
  | [], _, _, got => got
  | (i, p) :: todo, named, needed, got =>
    if sampled i || (inside i && named.contains i) || needed.contains i then
      decodedSet sampled inside todo (p.refs ++ named) (p.refs ++ needed) (i :: got)
    else decodedSet sampled inside todo (p.refs ++ named) needed got

end Sys2Proof.Machine
end

