-- ==== Sys2Proof/Machine/Sound.lean ====
section
/-! DEFINITION. Audio after decode: downmix and resampling (R288) and audio frames (R289); and the cues of captions (R292). Log entry 68 names what
is free and what is chosen. -/
namespace Sys2Proof.Machine

/-! ## Downmix and resampling (R288) -/

/-- Sample by sample, the sum of channels with their weights. -/
def mixed (n : Nat) (parts : List (Nat × List Nat)) : List Nat :=
  (List.range n).map fun i => dot32 4 (parts.map fun p => (p.1, p.2.getD i 0))

/-- The channels that AUDIO selects: the track's own where it has just those, the standard's downmix where it defines one, and otherwise
L + 0.7071 C + 0.7071 Ls, its right counterpart, and their sum. -/
def downmix (n : Nat) (es : AudioEs) : List (List Nat) :=
  let chan (c : Nat) : List Nat := ((es.chans.find? fun k => k.1 == c).map Prod.snd).getD []
  let len := (es.chans.map fun c => c.2.length).foldl max 0
  let one := 0x3F800000
  let k := ratio32 7071 10000
  let left := mixed len [(one, chan 0), (k, chan 2), (k, chan 3)]
  let right := mixed len [(one, chan 1), (k, chan 2), (k, chan 4)]
  if n = 1 then
    (if es.chans.length = 1 then [(es.chans.map Prod.snd).flatten]
    else match es.mono with
      | some l => [l]
      | none => [mixed len [(one, left), (one, right)]])
  else match es.stereo with
    | some lr => [lr.1, lr.2]
    | none => [left, right]

/-- R288: the selected track as it is framed: each output channel at the output rate. -/
def resampled (raw : List Byte) (es : AudioEs) : List (List Nat) := (downmix (jChans raw) es).map (Config.resample es.rate (jRate raw))

/-! ## Audio frames (R289) -/

/-- mel = 2595 log10(1 + f / 700) is linear in ln(1 + f / 700): point `i` of `n` between FMIN and FMAX, in Hz. -/
def melPoint (raw : List Byte) (n i : Nat) : Fx :=
  let l (o : Nat) : Fx := fxLn (fx1 + fxOf (fieldAt raw o 4) / 700)
  let x := l 104 + (l 108 - l 104) * i / n
  700 * (fxExp x - fx1)

/-- The weight of mel filter `i` at a frequency: a triangle of unit peak. -/
def melWeight (a b c f : Fx) : Fx :=
  if a < f ∧ f ≤ b then fxDiv (f - a) (b - a) else if b < f ∧ f < c then fxDiv (c - f) (c - b) else 0

/-- cos and sin of 2 pi i / n, and the periodic Hann window. -/
def fxTurn (i n : Nat) : Fx := fxCosTau (fx1 * (i % n : Nat) / (n : Nat))
def fxTurnSin (i n : Nat) : Fx := fxCosTau ((fx1 * (i % n : Nat) / (n : Nat) - fx1 / 4) % fx1)
def hann (i n : Nat) : Nat := fx32 ((fx1 - fxTurn i n) / 2)

/-- |X(k)|^2 of windowed samples. -/
def power (xs : List Nat) (k : Nat) : Nat :=
  let n := xs.length
  let part (f : Nat → Fx) : Nat := dot32 5 (((List.range n).zip xs).map fun ix => (fx32 (f (ix.1 * k)), ix.2))
  let re := part fun i => fxTurn i n
  let im := part fun i => fxTurnSin i n
  add32 (mul32 re re) (mul32 im im)

/-- ln(max(E, 10^-10)); the logarithm is within 2 ulp, as R129's. -/
def logEnergy (e : Nat) : Nat :=
  let e := max32 e (ratio32 1 10000000000)
  if isFin32 e then pickFp 38 e 2 (fxLn (fxOf e)) else e

/-- The log-mel values of one channel from a start sample. -/
def logMel (raw : List Byte) (x : Int → Nat) (start : Int) : List Nat :=
  let n := jFft raw
  let xs := (List.range n).map fun (i : Nat) => mul32 (hann i n) (x (start + (i : Int)))
  let ps := (List.range (n / 2 + 1)).map (power xs)
  (List.range (jMel raw)).map fun (i : Nat) =>
    let pt (j : Nat) : Fx := melPoint raw (jMel raw + 1) j
    logEnergy (dot32 6 (((List.range ps.length).zip ps).map fun kp =>
      (fx32 (melWeight (pt i) (pt (i + 1)) (pt (i + 2)) (fx1 * (kp.1 * jRate raw : Nat) / (n : Nat))), kp.2)))

/-- BF16 bytes of a binary32 value. -/
def bf16Bytes (x : Nat) : List Byte := leBytes 2 (convRne bf16 false (val32 x)).enc

/-- R289: `n` audio frames of a segment that begins at extended PTS `p0`, of a track whose first sample stands at `a0`. -/
def audioFrames (raw : List Byte) (pcm : List (List Nat)) (a0 p0 n : Nat) : List (List Byte) :=
  let chans := pcm.map fun l => l.toArray
  let at_ (a : Array Nat) (i : Int) : Nat := if i < 0 then 0 else a.getD i.toNat 0
  (List.range n).map fun (k : Nat) =>
    let start : Int := ((p0 : Int) - a0) * (jRate raw : Nat) / 90000 + ((k * jHop raw : Nat) : Int)
    if jPcm raw then (List.range (jHop raw)).flatMap fun (i : Nat) => chans.flatMap fun a => bf16Bytes (at_ a (start + (i : Int)))
    else chans.flatMap fun a => (logMel raw (at_ a) start).flatMap bf16Bytes

/-! ## Cues (R292) -/

/-- A character in UTF-8. -/
def utf8 (c : Nat) : List Byte :=
  let b (n : Nat) : Byte := BitVec.ofNat 8 n
  if c < 0x80 then [b c]
  else if c < 0x800 then [b (0xC0 + c / 64), b (0x80 + c % 64)]
  else if c < 0x10000 then [b (0xE0 + c / 4096), b (0x80 + c / 64 % 64), b (0x80 + c % 64)]
  else [b (0xF0 + c / 2 ^ 18), b (0x80 + c / 4096 % 64), b (0x80 + c / 64 % 64), b (0x80 + c % 64)]

/-- The text that a display shows: windows in ascending ID, for teletext (KIND 2) only the rows that hold text; joined rows, without trailing spaces. -/
def showText (kind : Nat) (s : Show) : List Byte :=
  let rows := (s.windows.mergeSort fun a b => decide (a.1 ≤ b.1)).flatMap Prod.snd
  let rows := if kind = 2 then rows.filter fun r => r.any (· != some 0x20) else rows
  let chars := (rows.intersperse [some 0x0A]).flatten.map fun c => c.getD 0xFFFD
  (chars.reverse.dropWhile (· == 0x20)).reverse.flatMap utf8

/-- R292: the cues of display changes with their texts: each begins when the text becomes a new non-empty one, and ends at the next change; the last ends
with the content. `cur` is the text that shows, and since when. -/
def cuesOf (stop : Nat) : List (Nat × List Byte) → Nat × List Byte → List CueF
  | [], cur => if cur.2.isEmpty then [] else [⟨cur.1, max cur.1 stop, cur.2⟩]
  | s :: rest, cur =>
    if s.2 = cur.2 then cuesOf stop rest cur
    else if cur.2.isEmpty then cuesOf stop rest s
    else ⟨cur.1, s.1, cur.2⟩ :: cuesOf stop rest s

/-- R291: the cues of the caption source, by KIND: cc_data of pictures in output order, or teletext's PES packets; none where there is none. -/
def captionCues (raw : List Byte) (pics : List Pic) (text : Option (List Chunk)) (stop : Nat) : Option (List CueF) :=
  let kind := bitsAt (fieldAt raw 77 1) 0 2
  let cc := ((pics.mergeSort fun a b => decide (a.time ≤ b.time)).filter fun p => !p.cc.isEmpty).map fun p => ⟨some p.time, p.cc.map some⟩
  let src := if kind = 2 then text else if cc = [] then none else some cc
  src.map fun cs =>
    cuesOf stop ((Config.captionShows kind (if kind = 2 then fieldAt raw 78 2 else bitsAt (fieldAt raw 77 1) 2 3) cs).map fun s =>
      (s.time, showText kind s)) (0, [])

end Sys2Proof.Machine
end

