-- ==== Sys2Proof/Machine/Content.lean ====
section
/-! DEFINITION. What an ingest engine makes of an item's bytes: its content range (R277), the pictures that are decoded (R286), concealed (R287) and
shaped (R293), the audio track (R288), and the cues (R291, R292). It depends on the job, the source entry and the bytes alone (R302). -/
namespace Sys2Proof.Machine

/-- What a job selects of a source. -/
def selectionOf (raw : List Byte) : Selection := ⟨fieldAt raw 68 2, fieldAt raw 70 2, fieldAt raw 72 2, (raw.drop 74).take 3⟩

def IngItem.streams (raw : List Byte) (it : IngItem) : Demuxed := demux (selectionOf raw) it.container it.es it.bytes

/-- R284: the pictures of an elementary stream are timed from 0 at the declared rate, or at 25 frames/s. -/
def timed (it : IngItem) (es : VideoEs) : List Pic :=
  if it.container = 3 then
    let r := es.rate.getD (25, 1)
    let at_ (n : Nat) : Nat := n * 90000 * r.2 / max 1 r.1
    es.pics.map fun p => { p with time := at_ p.time, dur := at_ (p.time + 1) - at_ p.time }
  else es.pics

/-- R286: the pictures from the first random-access picture on, each with its place in decoding order. -/
def fromRap (ps : List Pic) : List (Nat × Pic) := ((List.range ps.length).zip ps).dropWhile fun ip => !ip.2.rap

/-- R277: where the content starts and ends, given the first and last times presented. -/
def IngItem.range (it : IngItem) (first last : Nat) : Nat × Nat :=
  let a := first + 90 * it.inMs
  (a, if it.durMs = 0 then last else a + 90 * it.durMs)

/-- Pictures in output order. -/
def byTime (ps : List (Nat × Pic)) : List (Nat × Pic) := ps.mergeSort fun a b => decide (a.2.time ≤ b.2.time)

/-- R287: pictures in output order, each concealed from the one before. -/
def concealAll : Option Pic → List (Nat × Pic) → List (Nat × Pic)
  | _, [] => []
  | prev, (i, p) :: l =>
    let q := p.concealed prev
    (i, q) :: concealAll (some q) l

/-- The frame that would follow the last sampled one (R295): the next of the stride, or the next frame after a list's last; past the end of the
stream it is timed by the last one's duration. -/
def stopAfter (raw : List Byte) (rs sampled : List Raster) : Nat :=
  let step := if fieldAt raw 64 2 = 0 then max 1 (fieldAt raw 66 1) else 1
  sampled.getLast?.elim 0 fun r => ((rs.filter fun q => decide (r.time < q.time))[step - 1]?).elim (r.time + step * r.dur) (·.time)

/-- No samples. -/
def Decoded.none : Decoded := ⟨false, 0, 0, 0, [], [], 0, false, [], false, 0, 0, 0, 0, 0⟩

/-- The captions of an item, where the job takes any. -/
def captionsOf (raw : List Byte) (d : Demuxed) (pics : List Pic) (start stop : Nat) : Bool × List CueF :=
  if !jCaption raw then (false, [])
  else match captionCues raw pics d.text stop with
    | .none => (false, [])
    | some cs => (true, cs.filter fun c => decide (c.start < stop ∧ start < c.stop))

/-- R285-R287, R290, R293: what a video engine makes of an item. -/
def videoItem (raw : List Byte) (ts : List Nat) (it : IngItem) : Decoded :=
  let d := it.streams raw
  match d.video with
  | .none => Decoded.none
  | some (codec, chunks) =>
    let all := timed it (Config.decodeVideo codec chunks)
    let ps := fromRap all
    match (ps.map (·.2.time)).min? with
    | .none => Decoded.none
    | some first =>
      let (start, stop) := it.range first ((ps.map fun ip => ip.2.time + ip.2.dur).foldl max 0)
      let inside (p : Pic) : Bool := decide (start ≤ p.time ∧ p.time < stop)
      if !(ps.all fun ip => ip.2.supported codec) || !(ps.any fun ip => ip.2.rap && inside ip.2) then Decoded.none
      else
        let rs := (byTime ps).flatMap fun ip => rastersOf (fieldAt raw 67 1) ip.1 ip.2
        let sampled := sampleFrames raw ts start (rs.filter fun r => decide (r.time < stop))
        let kept := decodedSet (fun i => sampled.any (·.pic == i)) (fun i => ps.any fun ip => ip.1 == i && inside ip.2) ps.reverse [] [] []
        let decoded := concealAll .none (byTime (ps.filter fun ip => kept.contains ip.1))
        let frames := sampled.filterMap fun r => (decoded.find? fun ip => ip.1 == r.pic).map fun ip =>
          (⟨r.time, shaped raw ip.2 r.field, ip.2.conc⟩ : FrameF)
        let caps := captionsOf raw d all start stop
        let shown := decoded.filter fun ip => sampled.any (·.pic == ip.1)
        let size := (shown.head?.orElse fun _ => ps.head?).elim (0, 0) fun ip => (ip.2.w, ip.2.h)
        { ok := true, codec := codec, start := start, stop := stopAfter raw rs sampled, frames := frames, pcm := [], a0 := 0,
          captions := caps.1, cues := caps.2, interlaced := shown.any (·.2.interlaced), srcW := size.1, srcH := size.2,
          pictures := decoded.length, concealed := (decoded.map fun ip => ip.2.lost.length).foldl (· + ·) 0,
          luma := (decoded.map fun ip => ip.2.w * ip.2.h).foldl (· + ·) 0 / 1024 }

/-- R288, R290: what an audio engine makes of an item; its content range and captions are those of a job without video (R277). -/
def audioItem (raw : List Byte) (it : IngItem) : Decoded :=
  let d := it.streams raw
  let es := d.audio.elim default fun cc => Config.decodeAudio cc.1 cc.2
  let a0 := ((d.audio.elim [] Prod.snd).findSome? (·.pts)).getD 0
  let pcm := if es.ok then resampled raw es else []
  let len := (pcm.map List.length).foldl max 0
  let (start, stop) := it.range a0 (a0 + len * 90000 / jRate raw)
  let pics := if jVideo raw then [] else d.video.elim [] fun cc => timed it (Config.decodeVideo cc.1 cc.2)
  let caps := if jVideo raw then (false, []) else captionsOf raw d pics start stop
  { Decoded.none with ok := es.ok, codec := if es.ok then d.audio.elim 0 Prod.fst else 0, start := start, stop := stop, pcm := pcm, a0 := a0,
                      captions := caps.1, cues := caps.2 }

end Sys2Proof.Machine
end

