-- ==== Sys2Proof/Machine/IngJob.lean ====
section
/-! DEFINITION. Ingest jobs as data: the job descriptor and its checks (R274-R277, Table ING-1), the shuffle (R296, R297), the
segments of an item (R293-R295), and the layout of a micro-batch (R299-R301). -/
namespace Sys2Proof.Machine

/-- R276, R304: what the descriptor alone breaks. -/
def Mach.jobBad (m : Mach) (raw : List Byte) : Bool :=
  let gs := (jGroups raw).map Prod.snd
  !jEncOk raw
    || decide (jOutW raw % jPw raw ≠ 0 ∨ jOutH raw % jPh raw ≠ 0) || (jVideo raw && decide (jBudget raw < jLayer raw))
    || (jRing raw != 255 && (!m.on .ING_RING_BASE_ENABLE (jRing raw)
      || decide (m.rd .ING_RING_CFG_SLOT_4K (jRing raw) * 4096 < jUsed raw)))
    || decide (gs.eraseDups.length < gs.length)
    || gs.any (fun n => m.detachOn n && (!m.on .ING_MC_RING_EN n || m.rd .ING_MC_RING n != jRing raw))
    || (jRing raw == 255 && gs.isEmpty)

/-- R297: f(r, b). -/
def feistelF (seed epoch mBits r b : Nat) : Nat :=
  (philoxRounds 10 (seed % 2 ^ 32) (seed / 2 ^ 32 % 2 ^ 32) ⟨b, r, epoch, 0x80000000⟩).w0 % 2 ^ mBits

/-- R296: the eight rounds. -/
def feistel (seed epoch mBits x : Nat) : Nat :=
  let ab := (List.range 8).foldl (fun (ab : Nat × Nat) r => (ab.2, ab.1 ^^^ feistelF seed epoch mBits r ab.2))
    (x / 2 ^ mBits, x % 2 ^ mBits)
  ab.1 * 2 ^ mBits + ab.2

/-- R296: the least m with 2^(2m) at least N, from 1. -/
def halfBits (n : Nat) : Nat := ((List.range 64).find? fun i => decide (1 ≤ i ∧ n ≤ 2 ^ (2 * i))).getD 64

/-- R296: cycle walking; at most as many turns as there are values outside N. -/
def walk (seed epoch mBits n : Nat) : Nat → Nat → Nat
  | 0, y => y
  | fuel + 1, y => if y < n then y else walk seed epoch mBits n fuel (feistel seed epoch mBits y)

/-- R296: the position of item `i` of a job. -/
def shufflePos (raw : List Byte) (i : Nat) : Nat :=
  if jShuffle raw then
    let n := jItems raw
    let b := halfBits n
    walk (fieldAt raw 8 8) (fieldAt raw 4 4) b n (2 ^ (2 * b) - n) (feistel (fieldAt raw 8 8) (fieldAt raw 4 4) b i)
  else i

/-- R279: the causes that a read of `n` bytes at a local address has. -/
def Mach.listCauses (m : Mach) (a n : Nat) : List Nat :=
  if a / 2 ^ 44 ≠ 0 then [2] else m.localCauses a n false

/-- A list read by ingest: its bytes, or the cause of the fault that is captured (R279). -/
def Mach.listRead (m : Mach) (a n : Nat) : Except (Nat × Mach) (List Byte × Mach) :=
  match lowest (m.listCauses a n) with
  | some c => .error (c, m.captureFault c a true 1)
  | none =>
    let (bs, m) := m.readAny a n
    .ok (bs.map Prod.fst, m)

/-- A source entry's encodings (Table ING-2). -/
def sourceOk (raw e : List Byte) : Bool :=
  decide (fieldAt e 16 8 < jItems raw) && decide (fieldAt e 44 1 < 64 ∨ fieldAt e 44 1 = 255) && decide (fieldAt e 45 1 ≤ 3)
    && (if fieldAt e 45 1 = 3 then [1, 2, 3, 4, 8, 9, 10].contains (fieldAt e 46 1) else fieldAt e 46 1 == 0)
    && decide (fieldAt e 47 1 = 0) && decide (fieldAt e 44 1 ≠ 255 ∨ fieldAt e 32 4 = 0)

/-- Pieces of `n` bytes, `k` of them. -/
def pieces (n k : Nat) (bs : List Byte) : List (List Byte) := (List.range k).map fun i => (bs.drop (n * i)).take n

/-- The item of a source entry, its position, its local order and its destination (R296). -/
def Mach.itemOf (m : Mach) (raw e : List Byte) : IngItem :=
  let i := fieldAt e 16 8
  let p := shufflePos raw i
  let s := max 1 m.sliceSize
  { addr := fieldAt e 0 8, len := fieldAt e 8 8, item := i, srcId := fieldAt e 24 8, rkey := fieldAt e 32 4, inMs := fieldAt e 36 4,
    durMs := fieldAt e 40 4, target := fieldAt e 44 1, container := fieldAt e 45 1, es := fieldAt e 46 1, p := p,
    k := if jShuffle raw then p / s else p, dest := if jShuffle raw then m.ofRank (p % s) else m.myId, bytes := [], retries := 0, asked := none,
    failed := false, vEng := 0, aEng := 0, vRes := none, aRes := none, sent := false }

/-- Puts an item at its place by position (R298). -/
def insertItem (x : IngItem) : List IngItem → List IngItem
  | [] => [x]
  | y :: l => if x.p < y.p then x :: y :: l else y :: insertItem x l

/-- A list of numbers without equal or falling neighbours. -/
def ascending : List Nat → Bool
  | a :: b :: l => decide (a < b) && ascending (b :: l)
  | _ => true

/-- R294: the tokens of one layer, of the frames `fs`. -/
def layerTokens (raw : List Byte) (fs : List FrameF) : List (List Byte) :=
  let rows := jOutH raw / max 1 (jPh raw)
  let cols := jOutW raw / max 1 (jPw raw)
  let planes := fs.map fun f => f.vals.toArray
  (List.range (rows * cols)).map fun t =>
    let y := t / cols
    let x := t % cols
    planes.flatMap fun a => (List.range (jPh raw)).flatMap fun v => (List.range (jPw raw)).flatMap fun u =>
      (List.range 3).flatMap fun c =>
        leBytes (jValBytes raw) (a.getD (((jPh raw * y + v) * jOutW raw + (jPw raw * x + u)) * 3 + c) 0)

/-- The pieces of a list of `n` each, the last perhaps shorter. -/
def groupsOf {α : Type} (n : Nat) (l : List α) : List (List α) :=
  (List.range ((l.length + n - 1) / n)).map fun i => (l.drop (n * i)).take n

/-- R295: how segment `j` of `n` is tagged. -/
def contOf (n j : Nat) : Nat := if n = 1 then 0 else if j = 0 then 1 else if j + 1 = n then 3 else 2

/-- R295: audio frames of a segment of duration `dur`. -/
def framesOf (raw : List Byte) (dur : Nat) : Nat := dur * jRate raw / (90000 * max 1 (jHop raw))

/-- R295: the cues of a span, in order of start. -/
def cuesIn (cs : List CueF) (a b : Nat) : List CueF :=
  (cs.filter fun c => decide (c.start < b ∧ a < c.stop)).mergeSort fun x y => decide (x.start ≤ y.start)

/-- R295: a segment's audio frames: those of its span, from its first time on. -/
def segAudio (raw : List Byte) (a : Option Decoded) (pts dur : Nat) : List (List Byte) :=
  match a.filter (·.ok) with
  | some d => if jAudio raw then audioFrames raw d.pcm d.a0 pts (framesOf raw dur) else []
  | none => []

/-- The segments of an item as samples (R294, R295, Table ING-7), from what its video and audio engines made of it. -/
def samplesOf (raw : List Byte) (it : IngItem) (v a : Option Decoded) : List Sample :=
  let codecs := v.elim 0 (·.codec) + 16 * (a.elim 0 (·.codec) - 7)
  let base (d : Decoded) : Nat := (if jAudio raw && !(a.elim false (·.ok)) then 8 else 0) + (if jCaption raw && !d.captions then 16 else 0)
    + (if d.interlaced then 32 else 0)
  if jVideo raw then
    match v with
    | none => []
    | some d =>
      let segs := groupsOf (max 1 (jBudget raw / max 1 (jLayer raw))) (groupsOf (max 1 (jPt raw)) d.frames)
      (List.range segs.length).filterMap fun j =>
        (segs[j]?).bind fun seg =>
          let mine := seg.flatten
          let pts := (mine.head?.map (·.time)).getD 0
          let next := ((segs[j + 1]?).bind fun s => s.flatten.head?.map (·.time)).getD d.stop
          let pad := seg.any fun l => decide (l.length < jPt raw)
          let toks := seg.flatMap fun l => layerTokens raw (l ++ (l.getLast?.map (List.replicate (jPt raw - l.length))).getD [])
          let conc := mine.map (·.conc)
          some ⟨it.srcId, it.item, pts, next - pts, j, contOf segs.length j, codecs, toks, segAudio raw a pts (next - pts),
            cuesIn d.cues pts next, conc.foldl max 0, conc.foldl (· + ·) 0 / max 1 conc.length, base d + (if pad then 1 else 0), d.srcW, d.srcH⟩
  else
    match a with
    | none => []
    | some d =>
      let n := if d.ok then framesOf raw (d.stop - d.start) else 0
      let size := max 1 (jBudget raw)
      let at_ (i : Nat) : Nat := d.start + i * jHop raw * 90000 / jRate raw
      let segs := (n + size - 1) / size
      (List.range segs).map fun j =>
        let pts := at_ (j * size)
        let len := min size (n - j * size)
        let next := at_ (j * size + len)
        ⟨it.srcId, it.item, pts, next - pts, j, contOf segs j, codecs, [], audioFrames raw d.pcm d.a0 pts len, cuesIn d.cues pts next, 0, 0,
          base d, d.srcW, d.srcH⟩

/-- What a sample counts against TOKEN_BUDGET: its tokens, or its audio frames where video is disabled (R295, R299). -/
def sampleSize (raw : List Byte) (s : Sample) : Nat := if jVideo raw then s.tokens.length else s.audio.length

/-- Samples taken for a micro-batch: the samples in order, those that came late and still wait, where the packer stands, and whether it skipped
a failed item. -/
structure Picked where
  ss : List Sample
  late : List Sample
  tok : Nat
  k : Nat
  seg : Nat
  start : Option (Nat × Nat)
  failed : Bool
  deriving DecidableEq, Repr

/-- The next local order from `k` on that this module delivers, if any (R296). -/
def IngCur.nextOrder (c : IngCur) (k : Nat) : Option Nat :=
  if jShuffle c.raw then (if k * c.size + c.rank < jItems c.raw then some k else none)
  else c.orders.find? fun o => decide (k ≤ o)

/-- R298: the local orders that a destination holds: `window` beyond the next one it needs. -/
def IngCur.holds (c : IngCur) (window k : Nat) : Bool := decide (k ≤ (c.nextOrder c.k).getD c.k + window)

/-- R299: whether a sample no longer fits. -/
def Picked.full (raw : List Byte) (p : Picked) (s : Sample) : Bool :=
  decide (p.ss.length = 64 ∨ jBudget raw < p.tok + sampleSize raw s)

/-- R299: takes samples while they fit, those that came late first; none where the next item needed has not arrived. -/
def IngCur.pick (c : IngCur) : Nat → Picked → Option Picked
  | 0, _ => none
  | fuel + 1, p =>
    match p.late with
    | s :: rest =>
      if p.full c.raw s then some p
      else c.pick fuel { p with ss := p.ss ++ [s], late := rest, tok := p.tok + sampleSize c.raw s, start := p.start.orElse fun _ => some (p.k, p.seg) }
    | [] =>
      match c.nextOrder p.k with
      | none => some p
      | some k =>
        match c.arrived.get (fun _ => none) k with
        | none => none
        | some it =>
          let seg := if k = p.k then p.seg else 0
          match it.samples[seg]? with
          | none => c.pick fuel { p with k := k + 1, seg := 0, failed := p.failed || it.kind == 2 }
          | some s =>
            if p.full c.raw s then some { p with k := k, seg := seg }
            else c.pick fuel { p with ss := p.ss ++ [s], tok := p.tok + sampleSize c.raw s, k := k, seg := seg + 1,
                                      start := p.start.orElse fun _ => some (k, seg) }

/-- Turns that `pick` can take: one for each sample and each item that has arrived, and one more. -/
def IngCur.turns (c : IngCur) : Nat :=
  (c.arrived.map fun ki => 1 + ki.2.elim 0 (·.samples.length)).foldl (· + ·) (c.late.length + 2)

/-- R298, R277: an item arrives at its destination; a second one of the same order is delivered after the first. -/
def IngCur.take (c : IngCur) (it : ShufItem) : IngCur :=
  if it.k < c.k then { c with late := c.late ++ it.samples }
  else
    let both := match c.arrived.get (fun _ => none) it.k with
      | none => it
      | some old => { old with kind := max old.kind it.kind, samples := old.samples ++ it.samples }
    { c with arrived := NMap.set (fun _ => none) c.arrived it.k (some both) }

/-- The item belongs to the job: its SEED and EPOCH are the job's (log entry 30). -/
def IngCur.owns (c : IngCur) (it : ShufItem) : Bool := it.seed == fieldAt c.raw 8 8 && it.epoch == fieldAt c.raw 4 4

/-- R301: one cue's record, times relative to the sample's PTS. -/
def cueBytes (pts : Nat) (c : CueF) : List Byte :=
  let rel (t : Nat) := leBytes 4 ((t + 2 ^ 64 - pts) % 2 ^ 32)
  let n := c.text.length
  rel c.start ++ rel c.stop ++ leBytes 2 n ++ leBytes 2 0 ++ padTo ((n + 3) / 4 * 4) c.text

/-- R295: the records of cues that fit in `room` bytes, in order, and whether one did not. -/
def placeCues (pts : Nat) : Nat → List CueF → List Byte × Bool
  | _, [] => ([], false)
  | room, c :: cs =>
    let b := cueBytes pts c
    if b.length ≤ room then
      let r := placeCues pts (room - b.length) cs
      (b ++ r.1, r.2)
    else ([], true)

/-- A micro-batch under layout: records, tokens, audio frames and caption bytes so far. -/
structure Layout where
  recs : List Byte
  toks : List (List Byte)
  auds : List (List Byte)
  caps : List Byte
  deriving DecidableEq, Repr

/-- Table ING-7: places one sample. -/
def Layout.add (raw : List Byte) (l : Layout) (s : Sample) : Layout :=
  let room := fieldAt raw 100 2 - l.auds.length
  let cut := decide (room < s.audio.length)
  let auds := s.audio.take room
  let (caps, ctrunc) := placeCues s.pts (jSecSize raw 2 - l.caps.length) s.cues
  let flags := s.flags + (if cut then 2 else 0) + (if ctrunc then 4 else 0)
  let r := leBytes 8 s.srcId ++ leBytes 8 s.item ++ leBytes 8 s.pts ++ leBytes 4 s.dur ++ leBytes 2 s.seg ++ leBytes 1 s.cont
    ++ leBytes 1 s.codecs ++ leBytes 4 l.toks.length ++ leBytes 4 s.tokens.length ++ leBytes 2 l.auds.length ++ leBytes 2 auds.length
    ++ leBytes 2 l.caps.length ++ leBytes 2 caps.length ++ leBytes 2 s.concMax ++ leBytes 2 s.concMean ++ leBytes 2 flags
    ++ leBytes 2 s.srcW ++ leBytes 2 s.srcH
  ⟨l.recs ++ padTo 64 r, l.toks ++ s.tokens, l.auds ++ auds, l.caps ++ caps⟩

/-- R300, Table ING-6: the bytes of a micro-batch. -/
def IngCur.mbBytes (c : IngCur) (p : Picked) : List Byte :=
  let raw := c.raw
  let l := p.ss.foldl (Layout.add raw) ⟨[], [], [], []⟩
  let st := p.start.getD (c.k, c.seg)
  let flags := (if p.ss.isEmpty then 1 else 0) + (if c.seq + 1 = jMbTotal raw then 2 else 0) + (if p.failed then 4 else 0)
  let h := leBytes 4 c.seq ++ leBytes 4 (fieldAt raw 4 4) ++ leBytes 6 st.1 ++ leBytes 2 st.2 ++ leBytes 2 p.ss.length ++ leBytes 2 flags
    ++ leBytes 4 l.toks.length ++ leBytes 2 l.auds.length ++ leBytes 2 l.caps.length ++ leBytes 4 (jUsed raw)
    ++ leBytes 4 (jSecOff raw 0) ++ leBytes 4 (jSecOff raw 1) ++ leBytes 4 (jSecOff raw 2) ++ leBytes 4 (jTokBytes raw)
    ++ leBytes 8 (fieldAt raw 24 8)
  padTo 256 h ++ padTo 4096 l.recs ++ padTo (jSecSize raw 0) l.toks.flatten ++ padTo (jSecSize raw 1) l.auds.flatten
    ++ padTo (jSecSize raw 2) l.caps

/-! ## Items in ingest frames (log entry 30) -/

/-- A sample's bytes: its record fields, the counts and sizes of its parts, and the parts. -/
def Sample.bytes (s : Sample) : List Byte :=
  let caps := s.cues.flatMap (cueBytes s.pts)
  leBytes 8 s.srcId ++ leBytes 8 s.item ++ leBytes 8 s.pts ++ leBytes 4 s.dur ++ leBytes 2 s.seg ++ leBytes 1 s.cont ++ leBytes 1 s.codecs
    ++ leBytes 2 s.concMax ++ leBytes 2 s.concMean ++ leBytes 2 s.flags ++ leBytes 2 s.srcW ++ leBytes 2 s.srcH ++ leBytes 2 0
    ++ leBytes 4 s.tokens.length ++ leBytes 4 (s.tokens.headD []).length ++ leBytes 4 s.audio.length ++ leBytes 4 (s.audio.headD []).length
    ++ leBytes 4 caps.length ++ s.tokens.flatten ++ s.audio.flatten ++ caps

/-- The bytes of an item: their number, SEED, EPOCH, local order, kind, and the samples. -/
def ShufItem.bytes (it : ShufItem) : List Byte :=
  let body := it.samples.flatMap Sample.bytes
  leBytes 8 (32 + body.length) ++ leBytes 8 it.seed ++ leBytes 4 it.epoch ++ leBytes 6 it.k ++ leBytes 1 it.kind ++ leBytes 1 0
    ++ leBytes 4 it.samples.length ++ body

/-- Cue records read back (R301). -/
def cuesFrom (pts : Nat) : Nat → List Byte → List CueF
  | 0, _ => []
  | n + 1, bs =>
    if bs.length < 12 then []
    else
      let len := fieldAt bs 8 2
      let abs (o : Nat) : Nat := ((pts : Int) + Sys2Proof.signed 32 (fieldAt bs o 4)).toNat
      ⟨abs 0, abs 4, (bs.drop 12).take len⟩ :: cuesFrom pts n (bs.drop (12 + (len + 3) / 4 * 4))

/-- Samples read back. -/
def samplesFrom : Nat → List Byte → List Sample
  | 0, _ => []
  | n + 1, b =>
    let pts := fieldAt b 16 8
    let toks := fieldAt b 44 4
    let tlen := fieldAt b 48 4
    let auds := fieldAt b 52 4
    let alen := fieldAt b 56 4
    let caps := fieldAt b 60 4
    let t := b.drop 64
    let a := t.drop (toks * tlen)
    let c := a.drop (auds * alen)
    ⟨fieldAt b 0 8, fieldAt b 8 8, pts, fieldAt b 24 4, fieldAt b 28 2, fieldAt b 30 1, fieldAt b 31 1, pieces tlen toks t, pieces alen auds a,
      cuesFrom pts caps (c.take caps), fieldAt b 32 2, fieldAt b 34 2, fieldAt b 36 2, fieldAt b 38 2, fieldAt b 40 2⟩
      :: samplesFrom n (c.drop caps)

def ShufItem.ofBytes (b : List Byte) : ShufItem :=
  ⟨fieldAt b 8 8, fieldAt b 16 4, fieldAt b 20 6, fieldAt b 26 1, samplesFrom (fieldAt b 28 4) (b.drop 32)⟩

end Sys2Proof.Machine
end

