-- ==== Sys2Proof/Machine/View.lean ====
section
/-! DEFINITION. What a read of a register returns (R13, R374, R442, R513, R515): the fields that follow from the rest of the
state, the debug views of stopped cores (R123, R492), and the shadow read-back window. -/
namespace Sys2Proof.Machine

/-- The first update of the OPE waits: 1 on a queue (R84), 2 on the scoreboard (R88), 0 not. -/
def Mach.opeWait (m : Mach) (g : Nat) : Nat :=
  match Ope.current (m.core g) with
  | none => 0
  | some r =>
    if 2 ≤ (m.core g).tileState r.cmd.tile then 2
    else match opuOf r.cmd.ins with
      | none => 0
      | some f =>
        let qs := Ope.needs f r.issued
        if qs.any fun q => decide (((m.core g).dq q).length < qs.count q) then 1 else 0

/-- A drain or preload waits on an empty queue. -/
def Mach.druWaitPop (m : Mach) (g : Nat) : Bool :=
  let c := m.core g
  (match c.drains.find? fun d => decide (d.pos < d.n) with
    | some d => (Dru.linePops d).any fun q => (c.dq q).isEmpty
    | none => false)
  || c.pre.any fun r => (Dru.prePops r).any fun q => (c.dq q).isEmpty

/-- The VEC's command waits on an empty queue, and its oldest result on a full one (R128). -/
def Mach.vecWaitPop (m : Mach) (g : Nat) : Bool :=
  match (m.core g).vec with
  | none => false
  | some r =>
    let qs := vecPops r.cmd.ins r.param.isNone
    qs.any fun q => decide (((m.core g).dq q).length < qs.count q)
def Mach.vecWaitPush (m : Mach) (g : Nat) : Bool :=
  match (m.core g).vecPipe with
  | [] => false
  | p :: _ => (m.pushEnd g p.dst p.ent).isNone

/-- Core `g` is stopped by a freeze or a cut (R492), or fenced (R123). The cores of a group count as stopped from the issue that reaches its
CUT_KIND 1 cut on, while their commands still run, and not from the freeze only (DEDUCED from R489, which says so for R55 alone; log entry
66). -/
def Mach.cutStopped (m : Mach) (g : Nat) : Bool := m.frozen || m.cutHeld || m.cutStops [g]
def Mach.coreStopped (m : Mach) (g : Nat) : Bool := m.cutStopped g || bitsAt (m.rd .MOD_FENCE 0) g 1 == 1

/-- R123, R86: lane `l` of the line that ACC_DBG_SEL of core `g` selects, with every issued update applied. -/
def Mach.accDbg (m : Mach) (g l : Nat) : Nat :=
  if m.coreStopped g then
    lane32 (Dru.tileLine (Ope.settle (m.core g)) (m.rd .ACC_DBG_SEL_TILE g) (m.on .ACC_DBG_SEL_ORDER g) (m.rd .ACC_DBG_SEL_LINE g)) l
  else 0

/-- The thread of context `x` of core `g`: of its sequencer in broadcast form, else of the core (R165). -/
def Mach.coreThr (m : Mach) (g x : Nat) : Nat :=
  match m.seqOf g with
  | some s => if m.rd .SEQ_MEMBER_FORM (coreDie g * 8 + s) = 0 then thrNum (coreDie g) 0 s x else thrNum (coreDie g) 1 (g % 16) x
  | none => thrNum (coreDie g) 1 (g % 16) x

/-- R492: the 64-bit words of a stream descriptor: its SDEF words without opcode, and the indices of its next address. -/
def peekDesc (d : StreamDesc) : List Nat :=
  let ws := ((zviEncode (.sdef ⟨0, 0, 0, 0⟩ d.d)).getD []).map (·.toNat)
  let ws := (ws.headD 0 % 2 ^ 54) :: ws.drop 1
  let c0 := dimCount d.d.count0
  let c1 := dimCount d.d.count1
  let c2 := dimCount d.d.count2
  let i := fun k => if k = 0 then d.pos % c0 else if k = 1 then d.pos / c0 % c1 else if k = 2 then d.pos / (c0 * c1) % c2
    else d.pos / (c0 * c1 * c2)
  ws ++ [i 0 + 2 ^ 24 * i 1, i 2 + 2 ^ 24 * i 3]

/-- R492: the words of a context; loop levels from the outermost, 0, on. -/
def peekCtx (c : Ctx) : List Nat :=
  [c.pc % 2 ^ 20 + 2 ^ 20 * b2n c.running + 2 ^ 21 * (c.loops.length % 16), c.icount]
    ++ (c.loops.reverse.take 8).map fun l => l.iter % 2 ^ 16 + 2 ^ 16 * l.count

/-- R492: the words that DBG_PEEK_SEL selects; none where there is no such entry. -/
def Mach.peekWords (m : Mach) : Option (List Nat) :=
  let g := m.rd .DBG_PEEK_SEL_CORE 0
  let n := m.rd .DBG_PEEK_SEL_INDEX 0
  let x := m.rd .DBG_PEEK_SEL_CTX 0
  let p := m.rd .DBG_PEEK_SEL_POS 0
  let c := m.core g
  match m.rd .DBG_PEEK_SEL_KIND 0 with
  | 0 => (c.dq n)[p]?.map fun e => (List.range 64).map fun k => bitsAt e.bits.toNat (64 * k) 64
  | 1 => (c.adq n)[p]?.map fun e => [e.addr.toNat, e.tag.toNat]
  | 2 => if n < 16 then some (peekDesc (c.descAt (x * 16 + n))) else none
  | _ => some (peekCtx (m.ctx (m.coreThr g x)))

/-- The selected core is stopped and the selection holds data. -/
def Mach.peek (m : Mach) : Option (List Nat) := if m.cutStopped (m.rd .DBG_PEEK_SEL_CORE 0) then m.peekWords else none

/-- The 32 bytes of a fault log entry (Table FLT-2). -/
def FaultEnt.bytes (e : FaultEnt) : List Byte :=
  leBytes 8 e.time ++ leBytes 6 e.tick ++ leBytes 1 e.code ++ leBytes 1 e.cls ++ leBytes 1 e.sub ++ leBytes 1 e.src
    ++ leBytes 2 0 ++ leBytes 4 e.arg0 ++ leBytes 8 e.arg1

/-- Word `j` of the selected fault log entry. -/
def Mach.fltWord (m : Mach) (j : Nat) : Nat :=
  leNat (((m.faultLog.get (fun _ => FaultEnt.zero) (m.rd .MOD_FLT_SEL_INDEX 0)).bytes.drop (8 * j)).take 8)

/-- Bits of the contexts of a list of threads that satisfy `p`. -/
def ctxMask (k0 : Nat) (p : Nat → Bool) : Nat := ((List.range 8).map fun x => b2n (p (k0 + x)) * 2 ^ x).foldl (· + ·) 0

/-- A field of instance `i` as a read shows it. -/
def Mach.view (m : Mach) (f : Fld) (i : Nat) : Nat :=
  let c := m.core i
  let thr := thrNum (i / 8) 0 (i % 8) 0
  let bcast := m.rd .SEQ_MEMBER_COUNT i != 0 && m.rd .SEQ_MEMBER_FORM i == 0
  match f with
  | .OPE_STATUS_BUSY => b2n (c.ope.isSome || !c.opePipe.isEmpty)
  | .OPE_STATUS_WAIT_Q => b2n (m.opeWait i == 1)
  | .OPE_STATUS_WAIT_SB => b2n (m.opeWait i == 2)
  | .OPE_TILE_SB_STATE => (m.core (i / 128)).tileState (i % 128)
  | .DRU_STATUS_DRAIN_BUSY => b2n !c.drains.isEmpty
  | .DRU_STATUS_PRELOAD_BUSY => b2n c.pre.isSome
  | .DRU_STATUS_WAIT_POP => b2n (m.druWaitPop i)
  | .DRU_STATUS_WAIT_PUSH => b2n (Dru.pushWaits m i)
  | .VEC_STATUS_BUSY => b2n (c.vec.isSome || !c.vecPipe.isEmpty)
  | .VEC_STATUS_WAIT_POP => b2n (m.vecWaitPop i)
  | .VEC_STATUS_WAIT_PUSH => b2n (m.vecWaitPush i)
  | .SEQ_STATUS_GROUP => b2n (m.rd .SEQ_MEMBER_COUNT i != 0)
  | .SEQ_STATUS_FORM => m.rd .SEQ_MEMBER_FORM i
  | .SEQ_STATUS_CTX_RUNNING => if bcast then ctxMask thr m.ctxLive else 0
  | .SEQ_STATUS_CTX_TICKW => if bcast then ctxMask thr fun k => (m.ctx k).wait == .tick else 0
  | .CC_STATUS_CTX_RUNNING => ctxMask (thrNum (coreDie i) 1 (i % 16) 0) m.ctxLive
  | .CC_STATUS_DMAQ_FILL => c.dmaQ.length
  | .CC_STATUS_DMA_ACTIVE => min 15 (slotVals c.dma).length
  | .QCFG_FILL => let c := m.core (i / 32); if i % 32 < 24 then (c.dq (i % 32)).length else (c.adq (i % 32 - 24)).length
  | .MEM_STATUS_SCRUB_RUNNING => b2n (m.mainUp && m.rd .MEM_SCRUB_PERIOD 0 != 0)
  | .ING_STATUS_ACTIVE => b2n m.ing.cur.isSome
  | .ING_STATUS_PENDING => m.ing.jobs.length
  | .RED_STATUS_IN_FLIGHT => m.red.blks.countP fun b => b.released && !b.done
  | .RED_STATUS_BUCKETED => m.red.blks.countP fun b => b.bucketed && !b.done
  | .RED_STATUS_RING_DOWN => b2n m.ringDown
  | .FAB_STATUS_LINKS_UP => (List.range 36).countP m.linkUp
  | .FAB_STATUS_LINKS_QUAR => (List.range 36).countP fun k => m.linkState k == 4 || m.linkState k == 5
  | .FAB_STATUS_NO_LIGHT => m.rd .MOD_STATUS_NO_LIGHT 0
  | .HIF_RING_STATUS_QUIESCED => b2n (!m.on .HIF_RING_CFG_ENABLE i && m.inProgress i == 0)
  | .HIF_RING_STATUS_IN_PROGRESS => m.inProgress i
  | .MOD_FLT_DATA => m.fltWord i
  | .ACC_DBG_SEL_VALID => b2n (m.coreStopped i)
  | .ACC_DBG_DATA_LANE_EVEN => m.accDbg (i / 64) (2 * (i % 64))
  | .ACC_DBG_DATA_LANE_ODD => m.accDbg (i / 64) (2 * (i % 64) + 1)
  | .DBG_PEEK_SEL_VALID => b2n m.peek.isSome
  | .DBG_PEEK_DATA => (m.peek.getD []).getD i 0
  | .PWR_STATUS_TRIP => b2n m.pins.thermTrip
  | .SEC_MBOX_CMD_GO => m.rd .SEC_MBOX_STATUS_BUSY 0
  | _ => m.rd f i

/-- R56: DIE_TIME of a die stands within 4 ns of TIME; where in that range is a free value, and it never counts back. -/
def Mach.readDieTime (m : Mach) (d : Nat) : Nat × Mach :=
  let (n, m) := m.fresh
  let v := max (m.rd .DIE_TIME d) (m.time + (Config.freeBits n).toNat % 9 - 4)
  (v, m.wr .DIE_TIME d v)

/-- A sensor's reading, with its highest since the last write (PWR_TEMP_n). -/
def Mach.setTemp (m : Mach) (n : Nat) (t : BitVec 16) : Mach :=
  let old : BitVec 16 := BitVec.ofNat 16 (m.rd .PWR_TEMP_MAX n)
  m.wrs n [(.PWR_TEMP_TEMP, t.toNat), (.PWR_TEMP_MAX, if old.toInt < t.toInt then t.toNat else old.toNat)]

/-- The fields that a read of their register brings up to date, as the module then measures them (R56, R451, R464; log entry 69). -/
def Fld.measured : Fld → Bool
  | .DIE_TIME | .PWR_VIN_VIN_MV | .PWR_VIN_IIN_10MA | .PWR_VIN_PIN_W | .PWR_VIN_AUX_MV | .PWR_RAIL_VOUT_MV | .PWR_TEMP_TEMP
  | .PWR_TEMP_MAX => true
  | _ => false

/-- Brings the measured fields of the register whose first field is `f` up to date: each a free value, TIME within its bound, AUX12 within its
limits, a temperature while the main domain is on. -/
def Mach.measure (m : Mach) (f : Fld) (i : Nat) : Mach :=
  match f with
  | .DIE_TIME => (m.readDieTime i).2
  | .PWR_VIN_VIN_MV =>
    let (v, m) := m.fresh
    let (c, m) := m.fresh
    let (p, m) := m.fresh
    let (a, m) := m.fresh
    m.wrs 0 [(.PWR_VIN_VIN_MV, (Config.freeBits v).toNat % 2 ^ 16), (.PWR_VIN_IIN_10MA, (Config.freeBits c).toNat % 2 ^ 16),
      (.PWR_VIN_PIN_W, (Config.freeBits p).toNat % 2 ^ 16), (.PWR_VIN_AUX_MV, 10800 + (Config.freeBits a).toNat % 2401)]
  | .PWR_RAIL_PHASES =>
    let (v, m) := m.fresh
    m.wr .PWR_RAIL_VOUT_MV i ((Config.freeBits v).toNat % 2 ^ 16)
  | .PWR_TEMP_TEMP =>
    if m.mainUp then
      let (t, m) := m.fresh
      m.setTemp i ((Config.freeBits t).setWidth 16)
    else m
  | _ => m

/-- The instance of copy `k` of a field of the register's instance `i`. -/
def FieldSpec.inst (f : FieldSpec) (i k : Nat) : Nat := i * f.n + k

/-- The value of a register: each field by its access code; WO fields and reserved bits read 0. `shadow` reads through the
window of R374. -/
def Mach.readSpec (m : Mach) (r : RegSpec) (i : Nat) (shadow : Bool) : Nat :=
  let part (f : FieldSpec) (k : Nat) : Nat :=
    let v := if f.acc = .wo then 0 else if shadow && f.acc == .rws then m.rdS f.fld (f.inst i k) else m.view f.fld (f.inst i k)
    v * 2 ^ (f.lo + k * f.step)
  ((r.fields.flatMap fun f => (List.range f.n).map (part f))).foldl (· + ·) 0

/-- The block of an offset is served before READY: MOD, PWR, SEC and HIF (R442). -/
def earlyBlock (a : Nat) : Bool :=
  decide (a < 0x20000) || (decide (0x30000 ≤ a) && decide (a < 0x80000))

/-- The block of an offset lies in the AUX domain: PWR, SEC, and of MOD what Table REG-1 names. -/
def auxOffset (a : Nat) : Bool :=
  (decide (0x10000 ≤ a) && decide (a < 0x20000)) || (decide (0x40000 ≤ a) && decide (a < 0x80000))
    || (decide (0x30 ≤ a) && decide (a < 0x40)) || (decide (0x80 ≤ a) && decide (a < 0xB8))

/-- The register block answers requester `req` at `a`: its domain is up, and the host (0) waits for READY outside the early blocks (R442). -/
def Mach.served (m : Mach) (req a : Nat) : Bool :=
  m.aux.inLimits && (m.mainUp || auxOffset a) && (m.ready || earlyBlock a || req != 0)

/-- A 64-bit read of BAR0 offset `off` by requester `req`. -/
def Mach.readReg (m : Mach) (req off : Nat) : Nat × Mach :=
  let shadow := decide (0x2000000 ≤ off ∧ off < 0x4000000)
  let a := if shadow then off - 0x2000000 else off
  if !m.served req a then (0, m)
  else match regAt a with
    | none => (0, m)
    | some (r, i) =>
      let m := m.measure ((r.fields.head?.map (·.fld)).getD .MOD_SERIAL) i
      (m.readSpec r i shadow, m)

end Sys2Proof.Machine
end

