-- ==== Sys2Proof/Machine/Debug.lean ====
section
/-! DEFINITION. Cut settling (R489-R491), the host's freeze, its release and the pin and time sources (R473, R476), the
profile counters' clear (R472), and the trace writer (R477-R482). -/
namespace Sys2Proof.Machine

/-- Commands of class `u` that the cores `gs` still hold. -/
def Mach.pendOf (m : Mach) (gs : List Nat) (u : Nat) : Nat := (gs.map fun g => ((m.core g).cmds u).length).foldl (· + ·) 0

/-- The 32 bytes of a trace record (Table DBG-4). -/
def TraceRec.bytes (r : TraceRec) : List Byte :=
  leBytes 8 r.time ++ leBytes 8 (r.tick % 2 ^ 48 + 2 ^ 48 * r.src + 2 ^ 55 * b2n r.s + 2 ^ 56 * b2n r.g + 2 ^ 57 * r.ty)
    ++ padTo 16 r.payload

/-- Records that region 0 holds (R477). -/
def Mach.traceLen (m : Mach) : Nat := m.rsvBytes 0 / 32

/-- R481, R482: what follows the writing of the record at index `w`. -/
def Mach.traceWrote (m : Mach) (w : Nat) (trig : Bool) : Mach :=
  let n := m.traceLen
  let mode := m.rd .MOD_MODE_TRACE 0
  let stop (m : Mach) : Mach := m.wrs 0 [(.DBG_TRACE_STATUS_FULL, 1), (.DBG_TRACE_STATUS_STOPPED, 1)]
  if mode = 1 then
    let m := m.wr .DBG_TRACE_STATUS_WPTR 0 (w + 1)
    if n ≤ w + 1 then stop m else m
  else
    let m := m.wr .DBG_TRACE_STATUS_WPTR 0 ((w + 1) % n)
    let m := if n ≤ w + 1 then m.wr .DBG_TRACE_STATUS_WRAPPED 0 1 else m
    if mode ≠ 3 then m
    else
      let left : Option Nat := if trig then some (n * m.rd .DBG_TRACE_CFG_POST_PCT 0 / 100) else m.dbg.post.map (· - 1)
      let m := if trig then m.wr .DBG_TRACE_TRIG_PTR 0 w else m
      let m := { m with dbg := { m.dbg with post := left } }
      if left = some 0 then stop m else m

/-- R480, R481: one record is written to region 0, or dropped and counted once writing has stopped. -/
def Mach.writeRec (m : Mach) (r : TraceRec) : Mach :=
  if m.on .DBG_TRACE_STATUS_STOPPED 0 || m.traceLen == 0 then m.bump .DBG_TRACE_DROPPED 0 1
  else
    let w := m.rd .DBG_TRACE_STATUS_WPTR 0
    ((m.unitStore (m.rsvBase 0 + 32 * w) r.bytes).bump .DBG_TRACE_WRITTEN 0 1).traceWrote w (r.ty == 11)

/-- R480: COUNTER records of a snapshot enter their regions' buffers as these have room, with TIME and tick of the snapshot (R61). -/
def Mach.offerSnap (m : Mach) : Mach :=
  match m.dbg.snapQ with
  | [] => m
  | r :: rest =>
    if (m.buf r.src).recs.length < 15 then { m with dbg := { m.dbg with snapQ := rest } }.traceRec r else m

namespace Debug

/-- CUT_SETTLE: the commands of the cut group have all retired, or the settling limit comes; the module freezes (R489, R491). -/
def cutSettle (m : Mach) : Mach :=
  match m.cut, m.step with
  | some c, some s =>
    let done := (List.range 7).all fun u => m.pendOf c.cores u == 0
    let m := if done then m else m.advanceTo c.due
    let m := m.wrs 0 [(.DBG_CUT_PEND_LSU, m.pendOf c.cores 0), (.DBG_CUT_PEND_OPE, m.pendOf c.cores 1),
      (.DBG_CUT_PEND_DRU, m.pendOf c.cores 2), (.DBG_CUT_PEND_VEC, m.pendOf c.cores 3), (.DBG_CUT_PEND_NIU, m.pendOf c.cores 4),
      (.DBG_CUT_PEND_DMA, m.pendOf c.cores 5)]
    m.cutReached s (m.ctx c.thr).icount done
  | _, _ => m

/-- FREEZE_HOST. -/
def freezeHost (m : Mach) : Mach :=
  if !m.mainUp || m.heldFrozen then m
  else
    let m := (m.trigger 5).freeze 5
    if m.rd .DBG_FREEZE_CTRL_SOURCE 0 = 5 then m.wr .DBG_FREEZE_CTRL_HOST 0 1 else m

/-- FREEZE_RELEASE: ignored while a step or a cut is held. -/
def freezeRelease (m : Mach) : Mach :=
  if !m.mainUp || !m.frozen || m.stepRunning || m.cut.isSome || m.cutHeld then m else m.unfreeze

/-- FREEZE_IN_ASSERT: the pin acts unless boundary scan has taken it (R541). -/
def freezeIn (m : Mach) : Mach := if m.pins.scan = 0 ∧ m.mainUp then m.fires 0 else m

/-- FREEZE_TIME_REACHED. -/
def freezeTime (m : Mach) : Mach :=
  if (m.freezeOn 2 || bitsAt (m.rd .DBG_TRACE_CFG_TRIG 0) 2 1 == 1) && m.mainUp && decide (m.time ≤ m.rd .DBG_FREEZE_TIME 0) then
    (m.advanceTo (m.rd .DBG_FREEZE_TIME 0)).fires 2
  else m

/-- PROF_CLEAR. -/
def profClear (m : Mach) : Mach :=
  if m.mainUp then { m with regs := m.regs.filter fun kv =>
    let f := (Fld.ofKey kv.1).1
    f != .PROF_CNT && f != .DBG_HPROF_CNT } else m

/-- TRACE_RECORD_WRITE: the next region in turn that has a record gives its oldest one. -/
def traceRecordWrite (m : Mach) : Mach :=
  if !m.mainUp || !m.tracing then m
  else
    let m := m.offerSnap
    match ((List.range 69).map fun i => (m.dbg.nextBuf + i) % 69).find? fun s => !(m.buf s).recs.isEmpty with
    | none => m
    | some s =>
      match (m.buf s).recs with
      | [] => m
      | r :: rest =>
        let m := m.setBuf s { m.buf s with recs := rest }
        { m with dbg := { m.dbg with nextBuf := (s + 1) % 69 } }.writeRec r

end Debug
end Sys2Proof.Machine
end

