-- ==== Sys2Proof/Machine/Repair.lean ====
section
/-! DEFINITION. In-field test and repair (R505-R511): core, engine and link tests, and the release and return of laser units.
A test's results are the command's operands; its end lies at a TIME that `timers` holds. -/
namespace Sys2Proof.Machine

def Mach.timer (m : Mach) (k : Nat) : Option Timer := m.timers.get (fun _ => none) k
def Mach.setTimer (m : Mach) (k : Nat) (t : Option Timer) : Mach := { m with timers := NMap.set (fun _ => none) m.timers k t }

/-- `n` core cycles of PMODE 0, given in ns there, at the clock in effect (Table PWR-3). -/
def Mach.scaled (m : Mach) (ns : Nat) : Nat := ns * 5 / quartersPerNs (m.rd .MOD_STATUS_PMODE_EFF 0)

/-- How long the selected core tests take (Table FLT-6); the retention pauses of MARCH do not scale. -/
def Mach.testNs (m : Mach) (array march : Bool) : Nat :=
  (if array then m.scaled 30000000 else 0) + (if march then m.scaled 10000000 + 40000000 else 0)

/-- R506: a core after its tests: queues and tiles hold zeros. -/
def Core.tested (c : Core) : Core :=
  { Core.reset with icache := c.icache, desc := c.desc, halted := c.halted, stopped := c.stopped, vecUsed := c.vecUsed, druUsed := c.druUsed }

/-- R506: the core store of core `g` holds zeros. -/
def Mach.clearStore (m : Mach) (g : Nat) : Mach :=
  let inside (k : Nat) : Bool := decide (g * 2 ^ 24 ≤ k) && decide (k < (g + 1) * 2 ^ 24)
  { m with mem := m.mem.filter fun (kb : Host.Cell) => !inside kb.1, poison := m.poison.filter fun (kb : Nat × Bool) => !inside kb.1,
           hurt := { m.hurt with cells := m.hurt.cells.filter fun (kb : Nat × Nat) => !inside kb.1 } }

/-- An engine holds an item of the current job: video engines 0-63, audio engines 64-95. -/
def Mach.engineHolds (m : Mach) (e : Nat) : Bool :=
  match m.ing.cur with
  | none => false
  | some c => c.items.any fun i => if e < 64 then i.vEng == e + 1 else i.aEng == e + 1

/-- ING_VDEC_FENCE or ING_ADEC_FENCE fences the engine. -/
def Mach.engineFenced (m : Mach) (e : Nat) : Bool :=
  if e < 64 then bitsAt (m.rd .ING_VDEC_FENCE 0) e 1 == 1 else bitsAt (m.rd .ING_ADEC_FENCE 0) (e - 64) 1 == 1

/-- FAB_LASER's LIGHT bit of port `n`. -/
def lightFld (n : Nat) : Fld := if n = 0 then .FAB_LASER_LSP0_LIGHT else .FAB_LASER_LSP1_LIGHT
def powerFld (n : Nat) : Fld := if n = 0 then .FAB_LASER_LSP0_POWER else .FAB_LASER_LSP1_POWER
def releaseFld (n : Nat) : Fld := if n = 0 then .FAB_LASER_CTRL_RELEASE_0 else .FAB_LASER_CTRL_RELEASE_1
def safeFld (n : Nat) : Fld := if n = 0 then .FAB_LASER_CTRL_SAFE_0 else .FAB_LASER_CTRL_SAFE_1
def refusedFld (n : Nat) : Fld := if n = 0 then .FAB_LASER_CTRL_REFUSED_0 else .FAB_LASER_CTRL_REFUSED_1

/-- R90: the physical rows (`kind` 0) or columns (1) of core `g` that manufacture left in use, in the order of the logical ones that they
serve; those after the first 128 are spares not in use. -/
def Mach.physLines (m : Mach) (g kind : Nat) : List Nat :=
  let gone := m.skipped.get (fun _ => []) (2 * g + kind)
  (List.range 130).filter fun p => !gone.contains p

/-- R91, R92: the logical rows or columns that the field slots in effect name, in the slots' order. -/
def Mach.fieldLines (m : Mach) (g kind : Nat) : List Nat :=
  let slot (i : Nat) (v k x : Fld) : List Nat :=
    if m.on v g && m.rd k g == kind && !m.newSlots.contains (2 * g + i) then [m.rd x g] else []
  slot 0 .OPE_REPAIR_FIELD0_VALID .OPE_REPAIR_FIELD0_KIND .OPE_REPAIR_FIELD0_INDEX
    ++ slot 1 .OPE_REPAIR_FIELD1_VALID .OPE_REPAIR_FIELD1_KIND .OPE_REPAIR_FIELD1_INDEX

/-- R90, R91: the logical row or column that a physical one serves. A field slot takes the lowest spare not in use that is not recorded as bad
(DESIGN CHOICE, log entry 67); of two slots that name one line, the later serves it. -/
def Mach.servedBy (m : Mach) (g kind p : Nat) : Option Nat :=
  let lines := m.physLines g kind
  let bad := m.flash.badSpares.get nat0 (2 * g + kind)
  let spares := (lines.drop 128).filter fun q => bitsAt bad q 1 == 0
  let field := m.fieldLines g kind
  let own := (spares.zip field).findSome? fun x => if x.1 = p && !((field.drop (spares.idxOf p + 1)).contains x.2) then some x.2 else none
  match own with
  | some l => some l
  | none => (lines.take 128).idxOf? p |>.filter fun l => !field.contains l

namespace Repair

/-- CORE_TEST_START: a write of CORE_TEST_CTRL with START = 1 and the bits ARRAY and MARCH, which the test's timer keeps. -/
def coreTestStart (g6 : BitVec 6) (array march : Bool) (m : Mach) : Mach :=
  let g := g6.toNat
  if !m.mainUp then m
  else
    let m := m.wrs g [(.CORE_TEST_CTRL_ARRAY, b2n array), (.CORE_TEST_CTRL_MARCH, b2n march)]
    if bitsAt (m.rd .MOD_FENCE 0) g 1 = 0 ∨ m.on .CORE_TEST_CTRL_BUSY g then m.wr .CORE_TEST_CTRL_RESULT g 3
    else (m.wrs g [(.CORE_TEST_CTRL_BUSY, 1), (.CORE_TEST_CTRL_RESULT, 0)]).setTimer g (some ⟨m.time + m.testNs array march, b2n array + 2 * b2n march⟩)

/-- A spare row or column that serves no logical one failed (R506): it is recorded. -/
def spareBad (g kind p : Nat) (m : Mach) : Mach :=
  let k := 2 * g + kind
  let bad := NMap.set nat0 m.flash.badSpares k (m.flash.badSpares.get nat0 k ||| 2 ^ p)
  { m with flash := { m.flash with badSpares := bad } }.wr .CORE_TEST_CTRL_SPARE_BAD g 1

/-- CORE_TEST_DONE: the tests end at their time with what they found; a failure that ARRAY finds ends them before MARCH. A failure within one
row or column that serves no logical one is that of a spare. -/
def coreTestDone (g6 : BitVec 6) (o : TestOut) (m : Mach) : Mach :=
  let g := g6.toNat
  match m.timer g with
  | none => m
  | some t =>
    if m.frozen || !m.mainUp then m
    else
      let inLine := decide (o.unit.toNat < 2) && !o.spread
      let idx := o.index.toNat % 130
      let serves := m.servedBy g o.kind.toNat idx
      let fail := o.fail && !(inLine && serves.isNone)
      let early := fail && o.unit != 2 && t.obj == 3
      let m := (m.advanceTo (if early then t.due - m.testNs false true else t.due)).setTimer g none
      let m := (m.clearStore g).onCore g Core.tested
      let m := m.wrs g [(.CORE_TEST_CTRL_BUSY, 0), (.CORE_TEST_CTRL_RESULT, if fail then 2 else 1), (.CORE_TEST_CTRL_SPARE_BAD, 0)]
      let sp := o.spareIndex.toNat % 130
      let m := if o.spareBad && (m.servedBy g o.spareKind.toNat sp).isNone then spareBad g o.spareKind.toNat sp m else m
      let m := if o.fail && !fail then spareBad g o.kind.toNat idx m else m
      if fail then
        (m.wrs g [(.CORE_TEST_CTRL_UNIT, o.unit.toNat), (.CORE_TEST_CTRL_KIND, o.kind.toNat), (.CORE_TEST_CTRL_LOCAL, b2n o.spread),
          (.CORE_TEST_CTRL_INDEX, idx), (.CORE_TEST_CTRL_LINDEX, if inLine then serves.getD 0 else o.lindex.toNat), (.CORE_TEST_ADDR_WORD, o.word.toNat),
          (.CORE_TEST_ADDR_BIT, o.bit.toNat)]).raise 0x60 o.unit.toNat g 0 g
      else m

/-- ENGINE_TEST_START: a write of ING_ENG_TEST with START = 1; a reserved ENGINE leaves that field (R15). -/
def engineTestStart (e7 : BitVec 7) (m : Mach) : Mach :=
  if !m.mainUp then m
  else
    let m := if e7.toNat < 96 then m.wr .ING_ENG_TEST_ENGINE 0 e7.toNat else m
    let e := m.rd .ING_ENG_TEST_ENGINE 0
    if !m.engineFenced e || m.engineHolds e || m.on .ING_ENG_TEST_BUSY 0 then m.wr .ING_ENG_TEST_RESULT 0 3
    else (m.wrs 0 [(.ING_ENG_TEST_BUSY, 1), (.ING_ENG_TEST_RESULT, 0)]).setTimer 64
      (some ⟨m.time + (if e < 64 then 40000000 else 15000000), e⟩)

/-- ENGINE_TEST_DONE (R507): the self-test ends after its time with PASS or FAIL. -/
def engineTestDone (fail : Bool) (m : Mach) : Mach :=
  match m.timer 64 with
  | none => m
  | some t =>
    if !m.mainUp then m
    else
      let m := (m.advanceTo t.due).setTimer 64 none
      let m := m.wrs 0 [(.ING_ENG_TEST_BUSY, 0), (.ING_ENG_TEST_RESULT, if fail then 2 else 1)]
      if fail then m.raise 0x61 0 srcHub 0 t.obj else m

/-- LINK_TEST_START: a write of FAB_LINK_TEST with START = 1; reserved values leave their fields (R15). NEAR sends IDLE frames on
the transmit fibre, FAR sends PROBE frames (R508). -/
def linkTestStart (k6 : BitVec 6) (far : Bool) (ms : BitVec 16) (m : Mach) : Mach :=
  if !m.mainUp then m
  else
    let m := if k6.toNat < 36 then m.wr .FAB_LINK_TEST_LINK 0 k6.toNat else m
    let m := if ms = 0 then m else m.wr .FAB_LINK_TEST_DURATION_MS 0 ms.toNat
    let m := m.wr .FAB_LINK_TEST_MODE 0 (b2n far)
    let k := m.rd .FAB_LINK_TEST_LINK 0
    if m.rd .FAB_PORT_CFG_LINK_PORT k ≠ 7 ∨ m.on .FAB_LINK_TEST_BUSY 0 ∨ (far ∧ !(m.linkUp k && m.rd .FAB_LINK_LEVEL k == 4)) then
      m.wr .FAB_LINK_TEST_RESULT 0 3
    else
      let m := m.wrs 0 [(.FAB_LINK_TEST_BUSY, 1), (.FAB_LINK_TEST_RESULT, 0)]
      (m.setTimer 65 (some ⟨m.time + m.rd .FAB_LINK_TEST_DURATION_MS 0 * 1000000, k⟩)).sendCtl k (if far then 0x40 else 0x32) []

/-- LINK_TEST_DONE: symbols corrected, codewords found uncorrectable, and the carriers above 1 in 2^12. -/
def linkTestDone (symbols : BitVec 48) (uncorr : BitVec 16) (carr : BitVec 17) (m : Mach) : Mach :=
  match m.timer 65 with
  | none => m
  | some t =>
    if !m.mainUp then m
    else
      let m := (m.advanceTo t.due).setTimer 65 none
      let fail := uncorr != 0 || carr != 0
      let m := m.wrs 0 [(.FAB_LINK_TEST_BUSY, 0), (.FAB_LINK_TEST_RESULT, if fail then 2 else 1),
        (.FAB_LINK_TEST_ERR_SYMBOLS, symbols.toNat), (.FAB_LINK_TEST_ERR_UNCORR, uncorr.toNat), (.FAB_LINK_TEST_CARR_FAILED, carr.toNat)]
      if fail then m.raise 0x62 0 srcHub 0 t.obj else m

/-- LASER_RELEASE of port `n` (R510); the carriers move within 10 ms. -/
def laserRelease (n1 : BitVec 1) (m : Mach) : Mach :=
  let n := n1.toNat
  if !m.mainUp then m
  else if m.on (lightFld (1 - n)) 0 then
    m.wrs 0 [(releaseFld n, 1), (safeFld n, 1), (.FAB_LASER_SINGLE, 1)]
  else m.wr (refusedFld n) 0 1

/-- LASER_UNIT_PLUGGED: a unit delivers `power` (10 mW), on every line at least 30 mW or not, on a released or dark port (R511). -/
def laserPlugged (n1 : BitVec 1) (power : BitVec 8) (lines : Bool) (m : Mach) : Mach :=
  let n := n1.toNat
  if !m.ready then m
  else if !hasLight power.toNat lines then m.wr (powerFld n) 0 power.toNat
  else if m.on (releaseFld n) 0 || !m.on (lightFld n) 0 then
    m.wrs 0 [(lightFld n, 1), (powerFld n, power.toNat), (releaseFld n, 0), (safeFld n, 0), (.FAB_LASER_SINGLE, b2n !m.on (lightFld (1 - n)) 0)]
  else m

end Repair
end Sys2Proof.Machine
end

