-- ==== Sys2Proof/Machine/Red.lean ====
section
/-! DEFINITION. Gradient reduction (chapter 11): the ring algorithm of R327 over segments, its hop additions with their check
(R333, R334), acceptance, the bucket (R320, R322) and the writing of results (R325). -/
namespace Sys2Proof.Machine

/-- The axes of an ORDER code (R330). -/
def redAxes (order : Nat) : List Nat :=
  match order with
  | 0 => [0, 1, 2] | 1 => [0, 2, 1] | 2 => [1, 0, 2] | 3 => [1, 2, 0] | 4 => [2, 0, 1] | _ => [2, 1, 0]

/-- The axes along which stream `n` reduces, those of extent 1 left out. -/
def Mach.streamAxes (m : Mach) (n : Nat) : List Nat :=
  let o := m.rd .RED_STREAM_CFG_ORDER n
  (redAxes (if o = 7 then m.rd .RED_CFG_AXIS_ORDER 0 else o)).filter fun a => decide (1 < m.extent a)

/-- A range of a block's elements. -/
structure Span where
  lo : Nat
  len : Nat
  deriving DecidableEq, Repr

/-- Segment `s` of a span split into `p` (R327). -/
def Span.seg (sp : Span) (p s : Nat) : Span := ⟨sp.lo + s * sp.len / p, (s + 1) * sp.len / p - s * sp.len / p⟩

/-- The span that this module works on at a level: its segment on every axis before. -/
def Mach.spanAt (m : Mach) (b : RedBlk) (level : Nat) : Span :=
  (b.axes.take level).foldl (fun sp a => sp.seg (m.extent a) (m.ringPos m.myId a)) ⟨0, b.vals.length⟩

/-- add(x, c) of R317. -/
def redAdd (op x c : Nat) : Nat :=
  match op with
  | 0 => (convRne bf16 false (val32 (add32 (x * 65536) (c * 65536)))).enc
  | 1 => canon (add32 x c)
  | _ => canon (max32 x c)

/-- The elements of an entry: 16-bit lanes for SUM16, else 32-bit lanes; RGATH moves whole entries. -/
def redWide (b : RedBlk) : Bool := b.op != 0 || b.kind == 2
def redLanes (b : RedBlk) (s : Slot) : List Nat := (List.range 128).map (if redWide b then lane32 s else lane16 s)
def redBytes (b : RedBlk) (vs : List Nat) : List Byte := vs.flatMap (leBytes (if redWide b then 4 else 2))

/-- The entries that a range of elements touches hold a poisoned one. -/
def RedBlk.poisonIn (b : RedBlk) (sp : Span) : Bool :=
  sp.len != 0 && b.poison.any fun kv => decide (sp.lo / 128 ≤ kv.1) && decide (kv.1 ≤ (sp.lo + sp.len - 1) / 128)

def RedBlk.slice (b : RedBlk) (sp : Span) : List Nat := (b.vals.drop sp.lo).take sp.len

/-- Writes the elements of a range. -/
def RedBlk.store (b : RedBlk) (sp : Span) (vs : List Nat) : RedBlk :=
  { b with vals := b.vals.take sp.lo ++ vs ++ b.vals.drop (sp.lo + sp.len) }

def Mach.putBlk (m : Mach) (b : RedBlk) : Mach :=
  { m with red := { m.red with blks := m.red.blks.map fun e => if e.n = b.n ∧ e.g = b.g ∧ e.k = b.k then b else e } }

/-- The payload of a reduction frame: stream, core, block, level and phase, step, elements of the segment, place of these, and
their data; the level's byte and the step's carry the segment's CHECK_RATE (log entry 30). -/
def redPayload (b : RedBlk) (h total off : Nat) (vs : List Nat) : List Byte :=
  let d := redBytes b vs
  leBytes 1 b.n ++ leBytes 1 b.g ++ leBytes 4 b.k ++ leBytes 1 (b.level + 4 * (b.checked % 16) + 64 * b2n (redWide b) + 128 * b2n b.gather) ++ leBytes 1 (h + 128 * (b.checked / 16))
    ++ leBytes 4 total ++ leBytes 4 off ++ padTo ((d.length + 15) / 16 * 16) d

/-- Sends a segment to the next ring position of the block's level, for that module's step `h`: frames of at most 496 bytes of data,
one frame for an empty segment. -/
def Mach.sendSeg (m : Mach) (b : RedBlk) (h : Nat) (vs : List Nat) (poison : Bool) : Mach :=
  let a := b.axes.getD b.level 0
  let dest := m.ringAt a ((m.ringPos m.myId a + 1) % m.extent a)
  let per := if redWide b then 124 else 248
  (List.range (max 1 ((vs.length + per - 1) / per))).foldl (fun m i =>
    let (f, m) := m.dataFrame b.g dest b.g (b.n % 16) 2 (redPayload b h vs.length (i * per) ((vs.drop (i * per)).take per)) poison
    m.sendLater f) m

/-- The ranks whose entries RGATH's segment `s` of a level holds (R296, R327): like this module on the axes before. -/
def Mach.gathRanks (m : Mach) (b : RedBlk) (s : Nat) : List Nat :=
  (List.range m.sliceSize).filter fun q =>
    let id := m.ofRank q
    (b.axes.take b.level).all (fun a => m.ringPos id a == m.ringPos m.myId a) && m.ringPos id (b.axes.getD b.level 0) == s

/-- Sends the module's own segment of the block's level in the all-gather. -/
def Mach.sendGather (m : Mach) (b : RedBlk) : Mach :=
  let a := b.axes.getD b.level 0
  let p := m.ringPos m.myId a
  if b.kind = 2 then
    let rs := m.gathRanks b p
    let bad := rs.any fun q => (List.range b.need).any fun i => b.poison.get (fun _ => false) (q * b.need + i)
    m.sendSeg b 1 (rs.flatMap fun q => b.members.get (fun _ => []) q) bad
  else
    let sp := (m.spanAt b b.level).seg (m.extent a) p
    m.sendSeg b 1 (b.slice sp) (b.poisonIn sp)

/-- A write of the hub to local memory whose source has no code of its own in CC_CODE_STATUS: a free source. -/
def Mach.hubWrite (m : Mach) (a : Nat) (bs : List PByte) : Written :=
  m.freeSource.2.writeSide m.freeSource.1 a false bs

/-- The cause for which a result entry cannot be written at `a` (R325). -/
def Mach.redCause (m : Mach) (a w : Nat) : Option Nat :=
  if !m.mapped a || !m.mapped (a + w - 1) then some 1
  else match rangeOf a with
    | .linear | .alias_ => none
    | .packed => if m.peatOk (a / 4096 * 4096) then none else some 8
    | _ => some 12

/-- R325: the address of entry `i` of the block's result. -/
def Mach.redDest (m : Mach) (b : RedBlk) (i : Nat) : Nat :=
  m.rd .RED_STREAM_DEST b.n * 256 + b.g * (m.rd .RED_STREAM_CFG_CORE_STRIDE b.n * 2 ^ 20)
    + (b.k * m.rd .RED_STREAM_CFG_BLOCK b.n + i) * redWidth b.op

/-- R325: writes the results of a block of RED_TX ends; a fault of any entry writes none. -/
def Mach.redResults (m : Mach) (b : RedBlk) : Bool × Mach :=
  let w := redWidth b.op
  match (List.range b.need).findSome? fun i => (m.redCause (m.redDest b i) w).map fun c => (c, m.redDest b i) with
  | some (c, a) => (false, (m.captureFault c a true 4).raise 0x07 c srcHub b.g a)
  | none =>
    let r := (List.range b.need).foldl (fun (r : Written) i =>
      match r with
      | .error e => .error e
      | .ok m => m.hubWrite (m.redDest b i) ((redBytes b (b.slice ⟨128 * i, 128⟩)).map (·, b.poison.get (fun _ => false) i))) (.ok m)
    match r with
    | .ok m => (true, m)
    | .error (_, p, _) => (false, (m.captureFault 11 p true 4).raise 0x08 (peatUnit p) srcHub b.g p)

/-- The block has its whole result: it is written, or left for RRED or RGATH to push. -/
def Mach.redComplete (m : Mach) (b : RedBlk) : Mach :=
  if b.kind = 0 then
    let (ok, m) := m.redResults b
    let m := { m with red := { m.red with blks := m.red.blks.filter fun e => !(e.n == b.n && e.g == b.g && e.k == b.k) } }
    if ok then m.bump .RED_BLOCKS 0 1 else m
  else (m.putBlk { b with done := true }).bump .RED_BLOCKS 0 1

/-- The first steps of the block's level: the reduce-scatter's raw contribution, or the all-gather's own segment. -/
def Mach.startLevel (m : Mach) (b : RedBlk) : Mach :=
  let m := m.putBlk b
  if b.gather then m.sendGather b
  else
    let a := b.axes.getD b.level 0
    let n := m.extent a
    let sp := (m.spanAt b b.level).seg n ((m.ringPos m.myId a + n - 1) % n)
    m.sendSeg b 1 (b.slice sp) (b.poisonIn sp)

/-- `n` free values. -/
def Mach.freshMany (m : Mach) (n : Nat) : List Nat × Mach :=
  ((List.range n).map fun i => (Config.freeBits (m.free + i)).toNat, { m with free := m.free + n })

/-- The elements that arrived, or free ones where their number is not the expected one (R319). -/
def Mach.segVals (m : Mach) (x : RedSeg) (len : Nat) : List Nat × Mach :=
  if x.vals.length = len then (x.vals, m) else m.freshMany len

/-- R334: the capture and fault of a mismatch that the repeated hop did not resolve. -/
def Mach.redMismatch (m : Mach) (b : RedBlk) (s : Nat) : Mach :=
  let m := if m.on .RED_MISMATCH_0_VALID 0 then m
    else m.wrs 0 [(.RED_MISMATCH_0_STREAM, b.n), (.RED_MISMATCH_0_CORE, b.g), (.RED_MISMATCH_0_LEVEL, b.level), (.RED_MISMATCH_0_STEP, b.h),
      (.RED_MISMATCH_0_SEGMENT, s), (.RED_MISMATCH_0_VALID, 1), (.RED_MISMATCH_1_BLOCK, b.k)]
  m.raise 0x06 b.level srcHub (b.n * 64 + b.g) b.k

/-- R335: the checker takes a segment of `len` elements, 512 in a hub cycle, once it has taken those before it. -/
def Mach.checkerTakes (m : Mach) (len : Nat) : Mach :=
  let now := m.time
  let m := m.bump .RED_CHECK_WAIT 0 (m.red.checker - now)
  { m with red := { m.red with checker := max now m.red.checker + (len + 511) / 512 } }

/-- One hop addition (R327, R333, R334, R336); `mism` counts the checker's mismatches, where the segment is checked. A segment is checked by the
CHECK_RATE in force at its first hop, which its frames carry on (R31, R333). -/
def Mach.hopReduce (m : Mach) (b : RedBlk) (x : RedSeg) (mism : Nat) : Mach :=
  let a := b.axes.getD b.level 0
  let n := m.extent a
  let s := (m.ringPos m.myId a + 2 * n - 1 - b.h) % n
  let sp := (m.spanAt b b.level).seg n s
  if x.poison || b.poisonIn sp then
    let (i, m) := m.fresh
    m.poisonConsumed b.g .vec ((Config.freeBits i).toNat % 64) 0
  else
    let (xs, m) := m.segVals x sp.len
    let b := { b with checked := if b.h = 1 then m.rd .MOD_MODE_CHECK_RATE 0 else x.rate }
    let y := List.zipWith (redAdd b.op) xs (b.slice sp)
    let checked := (b.k + 7 * s + 13 * b.g + 31 * b.n) % 2 ^ b.checked == 0
    let mism := if checked then mism else 0
    let m := (m.bump .RED_VEC_CYCLES b.g ((sp.len + 127) / 128 * (if mism = 0 then 1 else 2))).hev 2 0x28 1
    let m := if checked then (m.checkerTakes sp.len).bump .RED_CHECKED 0 1 else m
    if 2 ≤ mism then m.redMismatch b s
    else
      let m := if mism = 1 then (m.bump .RED_RETRIES 0 1).raise 0x47 b.level srcHub 0 b.k else m
      if b.h + 1 < n then (m.putBlk { b with h := b.h + 1 }).sendSeg b (b.h + 1) y false
      else
        let b : RedBlk := { b.store sp y with h := 1 }
        if b.level + 1 < b.axes.length then m.startLevel { b with level := b.level + 1 } else m.startLevel { b with gather := true }

/-- One step of the all-gather: stores the segment and sends it on. -/
def Mach.hopGather (m : Mach) (b : RedBlk) (x : RedSeg) : Mach :=
  let a := b.axes.getD b.level 0
  let n := m.extent a
  let s := (m.ringPos m.myId a + n - b.h) % n
  let (b', xs, m) :=
    if b.kind = 2 then
      let rs := m.gathRanks b s
      let (xs, m) := m.segVals x (rs.length * b.need * 128)
      let b := ((List.range rs.length).zip rs).foldl (fun (b : RedBlk) iq =>
        { b with
          members := NMap.set (fun _ => []) b.members iq.2 ((xs.drop (iq.1 * b.need * 128)).take (b.need * 128))
          poison := (List.range b.need).foldl (fun t j => NMap.set (fun _ => false) t (iq.2 * b.need + j) x.poison) b.poison }) b
      (b, xs, m)
    else
      let sp := (m.spanAt b b.level).seg n s
      let (xs, m) := m.segVals x sp.len
      let b := b.store sp xs
      let hit := (List.range b.need).filter fun j => x.poison && decide (sp.lo < 128 * (j + 1)) && decide (128 * j < sp.lo + sp.len)
      ({ b with poison := hit.foldl (fun t j => NMap.set (fun _ => false) t j true) b.poison }, xs, m)
  if b.h + 1 < n then (m.putBlk { b' with h := b.h + 1 }).sendSeg b (b.h + 1) xs x.poison
  else if b.level = 0 then m.redComplete b'
  else m.startLevel { b' with level := b.level - 1, h := 1 }

/-- The segment that the block's next hop takes, once it has arrived whole. -/
def RedSeg.fits (x : RedSeg) (b : RedBlk) : Bool :=
  x.n == b.n && x.g == b.g && x.k == b.k && x.level == b.level && x.gather == b.gather && x.h == b.h && decide (x.total ≤ x.vals.length)

/-- A RED frame's payload enters its segment (R384: delivered as addressed). -/
def Mach.redArrive (m : Mach) (link : Nat) (payload : List Byte) (poison : Bool) : Mach :=
  let at_ (o n : Nat) : Nat := leNat ((payload.drop o).take n)
  let lv := at_ 6 1
  let wide := bitsAt lv 6 1 == 1
  let key (x : RedSeg) : Bool := x.n == at_ 0 1 && x.g == at_ 1 1 && x.k == at_ 2 4 && x.level == lv % 4
    && x.gather == (bitsAt lv 7 1 == 1) && x.h == at_ 7 1 % 128
  let w := if wide then 4 else 2
  let cnt := min (at_ 8 4 - at_ 12 4) (496 / w)
  let vs := (List.range cnt).map fun i => at_ (16 + w * i) w
  let old := m.red.arrived
  let arrived := if old.any key then
      old.map fun x => if key x then { x with vals := x.vals ++ vs, poison := x.poison || poison, links := x.links ++ [link] } else x
    else old ++ [⟨at_ 0 1, at_ 1 1, at_ 2 4, lv % 4, bitsAt lv 7 1 == 1, at_ 7 1 % 128, bitsAt lv 2 4 + 16 * (at_ 7 1 / 128), at_ 8 4, vs, poison, [link]⟩]
  { m with red := { m.red with arrived := arrived } }

/-- Bytes of the blocks in the bucket that satisfy `p`. -/
def Mach.bucketBytes (m : Mach) (p : RedBlk → Bool) : Nat :=
  ((m.red.blks.filter fun b => b.bucketed && p b).map fun b => b.need * redWidth b.op).foldl (· + ·) 0

namespace Reduce

/-- The reduction works: the main domain runs and no freeze holds (R338). -/
def works (m : Mach) : Bool := m.mainUp && !m.frozen && !m.pathStopped

/-- RED_TX_ACCEPT: the result or output entry that is due to RED_TX end `c` of core `g` is pushed, if the end accepts it. -/
def txAccept (g : BitVec 6) (c : BitVec 4) (m : Mach) : Mach :=
  if m.chKind g.toNat c.toNat ≠ 4 then m
  else match (m.core g.toNat).vecPipe with
    | p :: _ => if p.dst = 32 + c.toNat then Vec.resultPush g m else Dru.entryPush g m
    | [] => Dru.entryPush g m

/-- A block's bytes go from the buffer to the units of the bucket that `b'` holds (R272, R322); an address that no result may have either
(R325) is a fault of reduction (log entry 29). -/
def copyUnits (b b' : RedBlk) (m : Mach) : Bool × Mach :=
  let at_ := m.redUnit b'
  let fault (m : Mach) (c a : Nat) := (m.captureFault c a true 4).raise 0x07 c srcHub b.g a
  match (List.range b.units).findSome? fun i => (m.redCause (at_ i) 256).map fun c => (c, at_ i) with
  | some (c, a) => (false, fault m c a)
  | none =>
    let r := (List.range b.units).foldl (fun (r : Written) i =>
      match r with
      | .error e => .error e
      | .ok m =>
        let x := m.readAny (m.redUnit b i) 256
        x.2.hubWrite (at_ i) x.1) (.ok m)
    match r with
    | .ok m => (true, m)
    | .error (_, p, _) => (false, (m.captureFault 11 p true 4).raise 0x08 (peatUnit p) srcHub b.g p)

/-- BUCKET_COPY: the channel's oldest full block goes to the bucket where it fits; at half its size all of it is released (R322). -/
def bucketCopy (n g : BitVec 6) (m : Mach) : Mach :=
  let size := m.rd .RED_BUCKET_SIZE 0 * 2 ^ 20
  match m.red.blks.find? fun b => b.n == n.toNat && b.g == g.toNat && b.kind == 0 && decide (b.need ≤ b.cnt) && !b.released && !b.bucketed with
  | none => m
  | some b =>
    if !works m || m.redTile || decide (size < m.bucketBytes (fun _ => true) + b.need * redWidth b.op) then m
    else
      let b' := { b with bucketed := true, place := freeRuns 0 b.units (runsOf (m.red.blks.filter (·.bucketed))) }
      match copyUnits b b' m with
      | (false, m) => m
      | (true, m) =>
        let m := m.putBlk b'
        if size / 2 ≤ m.bucketBytes (fun b => !b.released) then m.releaseBucket else m

/-- The entries of a block, with their poison: of a RED_TX end's block as its buffer or the bucket holds them (R323). -/
def entries (b : RedBlk) (m : Mach) : List Ent × Mach :=
  let w := redWidth b.op / 256
  if b.kind = 0 then
    (List.range b.need).foldl (fun (a : List Ent × Mach) i =>
      let r := (List.range w).foldl (fun (r : List PByte × Mach) j =>
        let x := r.2.readAny (r.2.redUnit b (i * w + j)) 256
        (r.1 ++ x.1, x.2)) ([], a.2)
      (a.1 ++ [⟨slotOfBytes (r.1.map Prod.fst), r.1.any Prod.snd⟩], r.2)) ([], m)
  else (((List.range b.ents.length).zip b.ents).map fun e => ⟨e.2, b.poison.get (fun _ => false) e.1⟩, m)

/-- BLOCK_REDUCE_START: every partner has released the channel's lowest released block (R323). -/
def blockStart (n g : BitVec 6) (m : Mach) : Mach :=
  let mine := m.red.blks.filter fun b => b.n == n.toNat && b.g == g.toNat
  if !works m || mine.any fun b => b.started && !b.done then m
  else match mine.find? fun b => b.released && !b.started with
    | none => m
    | some b =>
      let (es, m) := entries b m
      let vals := es.flatMap fun e => redLanes b e.bits
      let bad := ((List.range es.length).zip es).foldl (fun t e => NMap.set (fun _ => false) t e.1 e.2.poison) []
      let axes := m.streamAxes b.n
      let r := m.rank m.myId
      let b : RedBlk := { b with started := true, axes := axes, vals := vals, poison := bad, level := 0, h := 1 }
      let b := if b.kind = 2 then { b with members := [(r, vals)], gather := true, level := axes.length - 1,
                                           poison := b.poison.map fun (kv : Nat × Bool) => (r * b.need + kv.1, kv.2) } else b
      if axes.isEmpty then (m.putBlk b).redComplete b else m.startLevel b

/-- HOP_ADDITION of channel (n, g): the segment that its started block waits for has arrived; `mism` is how often the checker
finds a mismatch, where the hop is checked. -/
def hopAddition (n g : BitVec 6) (mism : BitVec 2) (m : Mach) : Mach :=
  match m.red.blks.find? fun b => b.n == n.toNat && b.g == g.toNat && b.started && !b.done with
  | none => m
  | some b =>
    match m.red.arrived.find? (·.fits b) with
    | none => m
    | some x =>
      if !works m || (!b.gather && !m.unitRuns b.g .vec) then m
      else
        let m := { m with red := { m.red with arrived := m.red.arrived.erase x } }
        let m := (x.links.filter (· != 0)).foldl (fun m l => m.returnCredit (l - 1) 2) m
        if b.gather then m.hopGather b x else m.hopReduce b x mism.toNat

end Reduce
end Sys2Proof.Machine
end

