-- ==== Sys2Proof/Machine/Fabric.lean ====
section
/-! DEFINITION. Links (R343-R350, R363-R371): losing one, retry, credits and training; and DATA frames: the acceptance in order, the
router (R359, R360, R365), the test of GEN with redirection (R384, R388), and delivery by class. -/
namespace Sys2Proof.Machine

/-- A link that carries control frames: in IDENT, UP, PEER_DP_RESET or SLICE_EDGE. -/
def Mach.linkLit (m : Mach) (k : Nat) : Bool := let s := m.linkState k; s == 2 || s == 3 || s == 8 || s == 9

/-- R363, R365: port `p` of direction `d` has lost its last link: it switches to its detour, if it has one. -/
def Mach.portLost (m : Mach) (d p : Nat) : Mach :=
  if (dirLinks d).any (fun k => m.linkUp k && m.on .FAB_LINK_IN_PORT k && m.rd .FAB_LINK_PORT k == p) then m
  else if (m.detour d p).isSome then (m.bump .FAB_DETOURS 0 1).raise 0x44 d srcHub 0 p else m

/-- What link `k` holds under each class passes to link `heir` of its port, where that has another, and `more` of it with that. -/
def Mach.bequeath (k : Nat) (heir : Option Nat) (more : Nat → Nat) (t : NMap Nat) : NMap Nat :=
  let rest : NMap Nat := t.filter fun (kv : Nat × Nat) => kv.1 / 8 != k
  match heir with
  | none => rest
  | some j => NMap.setMany nat0 rest (([1, 2, 3, 4] : List Nat).map fun c =>
      (credKey j c, rest.get nat0 (credKey j c) + t.get nat0 (credKey k c) + more c))

/-- R364: the frames of a link that is lost, oldest first, wait for a new path. Its credits, with those of the frames that are sent again,
pass to another link of its port; where there is none, acknowledged entries that its peer still holds count as settled. -/
def Mach.reclaim (m : Mach) (k : Nat) (heir : Option Nat) : Mach :=
  let us := m.fab.unacked.get (fun _ => []) k
  let ends := m.fab.netOut.get (fun _ => []) k
  let held := us.countP fun u => u.frame.cls == 1
  let (_, ws) := us.foldl (fun (a : List Nat × List Waiting) u =>
    if u.frame.cls = 1 then (a.1.drop 1, a.2 ++ [⟨u.frame, none, 0, a.1.headD 0⟩]) else (a.1, a.2 ++ [⟨u.frame, none, 0, 0⟩]))
    (ends.drop (ends.length - held), [])
  let kept := ends.take (ends.length - held)
  let m := match heir with
    | some j => m.onFab fun b => { b with netOut := NMap.set (fun _ => []) b.netOut j (kept ++ b.netOut.get (fun _ => []) j) }
    | none => (kept.filter (· != 0)).foldl (fun m e => m.settle (e - 1)) m
  m.onFab fun b => { b with
    unacked := NMap.set (fun _ => []) b.unacked k []
    netOut := NMap.set (fun _ => []) b.netOut k []
    credits := Mach.bequeath k heir (fun c => us.countP fun u => u.frame.cls == c) b.credits
    owed := Mach.bequeath k heir nat0 b.owed
    wait := ws ++ b.wait }

/-- A link leaves its port for state `st`: its frames take another path, and the port its detour where this was its last link. -/
def Mach.linkDown (m : Mach) (k st reason : Nat) : Mach :=
  let p := m.rd .FAB_LINK_PORT k
  let was := m.on .FAB_LINK_IN_PORT k
  let heir := (m.creditLinks k)[1]?
  let m := (m.setLink k st reason).wrs k [(.FAB_LINK_LEVEL, 0), (.FAB_LINK_IN_PORT, 0), (.FAB_LINK_PORT, 7), (.FAB_LINK_READY, 0),
    (.FAB_LINK_COLL_MISMATCH, 0)]
  let m := m.reclaim k heir
  (if was && p != 7 then m.portLost (k / 6) p else m).flush

/-- R363: a link fails. -/
def Mach.linkFailed (m : Mach) (k : Nat) : Mach :=
  if m.linkState k = 0 ∨ m.linkState k = 10 then m
  else (((m.bump .FAB_LINK_FAILS 0 1).raise 0x43 0 srcHub 0 k).linkDown k 10 0)

/-- R353: a link is quarantined or held down, and the event is logged. -/
def Mach.quarantine (m : Mach) (k reason : Nat) : Mach :=
  if m.linkState k = 4 ∧ m.rd .FAB_LINK_REASON k = reason then m
  else (m.linkDown k 4 reason).raise 0x51 reason srcHub 0 k

/-- The number of credits that a CREDIT field returns for class `c` (R346: one byte a class). -/
def creditOf (v c : Nat) : Nat := bitsAt v (8 * (c - 1)) 8

/-- Settles the oldest `n` NET entries that went over link `k` (R346, R390). -/
def Mach.settleNet (m : Mach) (k n : Nat) : Mach :=
  let es := m.fab.netOut.get (fun _ => []) k
  let m := m.onFab fun b => { b with netOut := NMap.set (fun _ => []) b.netOut k (es.drop n) }
  ((es.take n).filter (· != 0)).foldl (fun m e => m.settle (e - 1)) m

/-- `n` credits of class `c` come back over link `k`. -/
def Mach.addCredit (m : Mach) (k c n : Nat) : Mach :=
  let m := m.onFab fun b => { b with credits := NMap.set nat0 b.credits (credKey k c) (b.credits.get nat0 (credKey k c) + n) }
  if c = 1 then m.settleNet k n else m

/-- R346: at level 4, the credits that a header's CREDIT field returns over link `k`. -/
def Mach.takeCredits (m : Mach) (k cr : Nat) : Mach :=
  if m.rd .FAB_LINK_LEVEL k = 4 then ([1, 2, 3, 4] : List Nat).foldl (fun m c => m.addCredit k c (creditOf cr c)) m else m

/-- R346: a control frame's header returns credits, by which more may leave. -/
def Mach.headerCredit (m : Mach) (k cr : Nat) : Mach :=
  if cr = 0 ∨ m.rd .FAB_LINK_LEVEL k ≠ 4 then m else (m.takeCredits k cr).flush

/-- A 32-bit sequence number minus another, modulo 2^32. -/
def seqDiff (a b : Nat) : Nat := (a + 2 ^ 32 - b % 2 ^ 32) % 2 ^ 32

/-- R345: ACK and NAK frames of a link, for SEQ `n`. -/
def Mach.sendSeqCtl (m : Mach) (k ty n : Nat) : Mach := m.sendRaw k { m.ctlFrame ty [] with seq := n % 2 ^ 32 }

/-- The modules that a frame from `src` to `dest` passes, by R359. -/
def Mach.pathFrom (m : Mach) (dest : Nat) : Nat → Nat → List Nat
  | 0, _ => []
  | n + 1, id => id :: match m.dirFrom id dest with
    | none => []
    | some d => Mach.pathFrom m dest n (m.neighbour id d)

/-- R365: the direction in which a frame that arrived from direction `r` goes on, and whether it is still on its detour: a frame on a
detour crosses at A′ in the direction that A's path takes, comes back at B′ to the path, and is off the detour there. -/
def Mach.onward (m : Mach) (f : Frame) (r : Nat) : Option (Nat × Bool) :=
  let next := (m.nextDir f.dMod).map fun d => (d, false)
  if !f.detour then next
  else
    let path := m.pathFrom f.dMod 200 f.sMod
    let prev := m.neighbour m.myId r
    if path.contains m.myId && m.nextDir f.dMod != some r then next
    else if path.contains prev then (m.dirFrom prev f.dMod).map fun d => (d, true)
    else match (List.range 6).find? fun x => dirAxis x != dirAxis r && path.contains (m.neighbour m.myId x) with
      | none => next
      | some x =>
        let b := m.neighbour m.myId x
        let dark := (dirLinks x).all fun k => m.linkState k == 6 || m.linkState k == 7
        if dark && b != f.dMod then next else some (x, true)

/-- R359, R360, R370: the router passes a frame on. -/
def Mach.forwardFrame (m : Mach) (link : Nat) (f : Frame) : Mach :=
  let back (m : Mach) : Mach := m.returnCredit (link - 1) f.cls
  match m.onward f ((link - 1) / 6) with
  | none => back m
  | some (d, det) =>
    if !m.inSlice f.dMod || !m.inSlice (m.neighbour m.myId d) then back (m.bump .FAB_SLICE_DROPS 0 1)
    else
      let w : Waiting := ⟨{ f with detour := det }, if det then some d else none, link, 0⟩
      (m.onFab fun b => { b with wait := b.wait ++ [w] }).flush

/-- R383: a frame's GEN is current (0), live (1) or stale (2). -/
def Mach.genClass (m : Mach) (g : Nat) : Nat :=
  if g = m.rd .MOD_STATUS_GEN 0 then 0 else if m.liveGens.any (·.1 == g) then 1 else 2

/-- R384: a stale frame is dropped. -/
def Mach.dropStale (m : Mach) (f : Frame) : Mach :=
  let g := m.rd .MOD_STATUS_GEN 0
  let ahead := b2n (decide (1 ≤ (f.gen + 16 - g) % 16 ∧ (f.gen + 16 - g) % 16 ≤ 7))
  let m := m.bump .CFG_STALE_DROPS 0 1
  let m := if m.on .CFG_STALE_CAPTURE_VALID 0 then m
    else m.wrs 0 [(.CFG_STALE_CAPTURE_SRC_MODULE, f.sMod), (.CFG_STALE_CAPTURE_SRC_CORE, f.sCore), (.CFG_STALE_CAPTURE_FRAME_GEN, f.gen),
      (.CFG_STALE_CAPTURE_GEN, g), (.CFG_STALE_CAPTURE_CLASS, f.cls), (.CFG_STALE_CAPTURE_CAUSE, ahead), (.CFG_STALE_CAPTURE_VALID, 1)]
  if m.stepRunning then m.raise 0x05 ahead srcHub f.sMod f.gen else m

/-- The answer to a memory request of module `src`'s core `core`. -/
def Mach.memReply (m : Mach) (src core : Nat) (payload : List Byte) (poison : Bool) : Mach :=
  let (f, m) := m.dataFrame 0 src core 0 3 payload poison
  m.sendLater f

/-- The causes that a remote module's access to a side of this module has (R241, R269). -/
def Mach.remoteCauses (m : Mach) (a n : Nat) (wr : Bool) : List Nat :=
  m.localCauses a n wr ++ (if isT2 a then [4] else []) ++ (if spansRanges a n then [6] else [])

/-- R271: this module reports a fault of a remote module's access, which it captures and does not raise. -/
def Mach.memFault (m : Mach) (src core base total c a : Nat) : Mach :=
  (m.captureFault c a true 2).memReply src core (memPayload 3 a total c 0 base total []) false

/-- R269, R271: a remote module's write has come whole: its checks, its effect, and the answer. -/
def Mach.memWritten (m : Mach) (w : MemIn) : Mach :=
  match lowest (m.remoteCauses w.base w.total true) with
  | some c => m.memFault w.sMod w.sCore w.base w.total c w.base
  | none => match m.writeSide 2 w.base w.raw w.bytes with
    | .error (c, p, m) => m.memFault w.sMod w.sCore w.base w.total c p
    | .ok m => m.memReply w.sMod w.sCore (memPayload 4 w.base w.total 0 0 w.base w.total []) false

/-- A frame of a remote module's write: the flow brings a write's frames in order, each after the one before. -/
def Mach.memPart (m : Mach) (f : Frame) (addr base total : Nat) (raw : Bool) (bs : List PByte) : Mach :=
  let mine (w : MemIn) : Bool := w.sMod == f.sMod && w.sCore == f.sCore
  let old := (m.fab.memIn.find? mine).filter fun w => w.base == base && w.total == total && addr == base + w.bytes.length
  let w : MemIn := ⟨f.sMod, f.sCore, base, total, raw, (old.elim [] (·.bytes)) ++ bs⟩
  let rest := m.fab.memIn.filter fun w => !mine w
  if old.isNone && addr != base then m.onFab fun b => { b with memIn := rest }
  else if w.bytes.length < total then m.onFab fun b => { b with memIn := rest ++ [w] }
  else (m.onFab fun b => { b with memIn := rest }).memWritten w

/-- R238: a load whose every write has been made completes. -/
def Mach.loadDone (m : Mach) (x : Deferred) : Mach :=
  { m with image := some x.image }.complete x.desc 0 0 x.image.id (leBytes 8 x.image.id ++ leBytes 4 0 ++ leBytes 4 0 ++ leBytes 1 (b2n x.hit))

/-- R269, R271: remote module `src` answers a load's write at `base`: it has written it, or reports the fault `cause` that it found. -/
def Mach.loadAcked (m : Mach) (src base cause : Nat) : Mach :=
  match m.fab.memOut.find? fun w => w.2 == (src, base) with
  | none => m
  | some w =>
    let m := m.onFab fun b => { b with memOut := b.memOut.erase w }
    match m.acking.find? fun x => x.desc.seq == w.1 with
    | none => m
    | some x =>
      let ended := { m with acking := m.acking.filter fun y => y.desc.seq != w.1 }
      if cause ≠ 0 then ((ended.onFab fun b => { b with memOut := b.memOut.filter fun v => v.1 != w.1 }).captureFault cause base true 3).complete
        x.desc 0x02 cause 0 []
      else if m.fab.memOut.any fun v => v.1 == w.1 then m
      else ended.loadDone x

/-- R269, R271: a frame for this module's memory: part of a write, a read, or the answer to a write of this module. -/
def Mach.serveMem (m : Mach) (f : Frame) : Mach :=
  let at_ (o n : Nat) : Nat := leNat ((f.payload.drop o).take n)
  let addr := at_ 0 8
  let n := at_ 8 4
  let op := at_ 12 1
  let base := at_ 16 8
  let total := at_ 24 4
  if total = 0 then m
  else if op = 0 then m.memPart f addr base total (at_ 14 1 == 1) (((f.payload.drop 32).take n).map fun b => (b, f.poison))
  else if op = 1 then
    match lowest (m.remoteCauses base total false) with
    | some c => m.memFault f.sMod f.sCore base total c base
    | none =>
      let (bs, m) := m.readSide addr n
      (List.range ((n + 255) / 256)).foldl (fun m i =>
        let c := (bs.drop (256 * i)).take 256
        m.memReply f.sMod f.sCore (memPayload 2 (addr + 256 * i) c.length 0 0 base total (c.map Prod.fst)) (c.any Prod.snd)) m
  else if op = 3 ∨ op = 4 then m.loadAcked f.sMod base (if op = 3 then at_ 13 1 else 0)
  else m

/-- R298: an item of the shuffle arrives. One of the current job is held where the window takes it; one of a later job waits for that. -/
def Mach.itemArrive (m : Mach) (it : ShufItem) : Mach :=
  match m.ing.cur.filter fun c => c.owns it with
  | none => { m with ing := { m.ing with early := m.ing.early ++ [it] } }
  | some c =>
    if c.holds (m.rd .ING_CFG_SHUF_WINDOW 0) it.k then { m with ing := { m.ing with cur := some (c.take it) } } else m

/-- Bytes of an item arrive from a module (log entry 30); the last of them complete it. -/
def Mach.ingArrive (m : Mach) (src : Nat) (payload : List Byte) : Mach :=
  let old := m.ing.coming.get (fun _ => []) src
  if fieldAt payload 0 8 = 0 ∧ old = [] then m
  else
    let bs := (if fieldAt payload 0 8 = 0 then old else []) ++ payload.drop 8
    let keep (l : List Byte) : Mach := { m with ing := { m.ing with coming := NMap.set (fun _ => []) m.ing.coming src l } }
    if fieldAt bs 0 8 ≤ bs.length then (keep []).itemArrive (ShufItem.ofBytes bs) else keep bs

/-- R384, R369: a frame addressed to this module, in the order of its flow. -/
def Mach.deliverFrame (m : Mach) (link : Nat) (f : Frame) : Mach :=
  let back (m : Mach) : Mach := m.returnCredit (link - 1) f.cls
  if m.aux.dpEnd.isSome && f.cls != 3 then back m
  else if f.cls = 4 then back (m.ingArrive f.sMod f.payload)
  else if m.genClass f.gen = 2 then back (m.dropStale f)
  else match f.cls with
    | 1 =>
      let e := entOf f.payload f.poison
      match (if m.genClass f.gen = 1 then m.rdrFor f.dCore f.dEnd else none) with
      | some n => back (m.forwardTo n f.dCore e)
      | none => m.deliver f.dCore f.dEnd ⟨e, 0, link, false, false⟩
    | 2 => m.redArrive link f.payload f.poison
    | _ => back (m.serveMem f)

/-- The flow of an arriving frame, under which `flowRx` holds the number it expects. -/
def rxFlow (f : Frame) : Nat := flowKey f.sCore f.sMod f.cls

/-- Delivers what arrived early of a flow and is due now. -/
def Mach.drainEarly (m : Mach) (key : Nat) : Nat → Mach
  | 0 => m
  | n + 1 =>
    match m.fab.early.find? fun lf => rxFlow lf.2 == key && lf.2.flow == m.fab.flowRx.get nat0 key with
    | none => m
    | some lf =>
      let m := m.onFab fun b => { b with early := b.early.erase lf, flowRx := NMap.set nat0 b.flowRx key ((lf.2.flow + 1) % 2 ^ 32) }
      (m.deliverFrame lf.1 lf.2).drainEarly key n

/-- R348, R364: frames for this module are delivered in the order of their flow; a copy is discarded. -/
def Mach.inFlow (m : Mach) (link : Nat) (f : Frame) : Mach :=
  let key := rxFlow f
  let d := seqDiff f.flow (m.fab.flowRx.get nat0 key)
  if d = 0 then
    let m := m.onFab fun b => { b with flowRx := NMap.set nat0 b.flowRx key ((f.flow + 1) % 2 ^ 32) }
    let m := m.deliverFrame link f
    m.drainEarly key m.fab.early.length
  else if d < 2 ^ 31 then m.onFab fun b => { b with early := b.early ++ [(link, f)] }
  else m.returnCredit (link - 1) f.cls

namespace Fabric

/-- The frame's fields as the module holds them. -/
def frameOf (f : HFrame) : Frame :=
  ⟨1, f.cls.toNat, f.detour, f.gen.toNat, f.seq.toNat, f.dMod.toNat, f.dCore.toNat, f.dEnd.toNat, f.sMod.toNat, f.sCore.toNat, f.flow.toNat,
    f.credit.toNat, f.payload, f.poison⟩

/-- R343: symbols that the receiver corrected, and a codeword that it could not. -/
def fec (k fixed : Nat) (uncorr : Bool) (m : Mach) : Mach :=
  let m := if fixed = 0 then m else (m.bump .FAB_FEC_CORR k fixed).raise 0x41 0 srcHub 0 k
  if uncorr then m.bump .FAB_FEC_UNCORR k 1 else m

/-- An accepted frame: acknowledged, its returned credits taken, and delivered, forwarded or dropped. -/
def accepted (k : Nat) (f : Frame) (m : Mach) : Mach :=
  let m := (m.onFab fun b => { b with rxSeq := NMap.set nat0 b.rxSeq k ((f.seq + 1) % 2 ^ 32) }).sendSeqCtl k 2 f.seq
  let m := m.takeCredits k f.credit
  let m := m.hev 0 (0x10 + f.cls) 1
  if f.dMod ≠ m.myId then m.forwardFrame (k + 1) f
  else m.inFlow (k + 1) f

/-- DATA: a frame arrives on link `k`; `fixed` symbols were corrected, a codeword of it may be uncorrectable, and its CRC holds or not. -/
def data (k6 : BitVec 6) (h : HFrame) (fixed : BitVec 16) (uncorr crcOk : Bool) (m : Mach) : Mach :=
  let k := k6.toNat
  let f := frameOf h
  if k ≥ 36 ∨ !m.mainUp ∨ !m.linkLit k then m
  else
    let m := fec k fixed.toNat uncorr m
    if uncorr || !crcOk || f.cls == 0 || decide (4 < f.cls) then m.sendSeqCtl k 3 (m.fab.rxSeq.get nat0 k)
    else if m.linkState k = 9 then m.bump .FAB_SLICE_DROPS 0 1
    else if m.linkState k = 2 ∨ !m.on .FAB_LINK_IN_PORT k then m
    else
      let d := seqDiff f.seq (m.fab.rxSeq.get nat0 k)
      if d = 0 then (accepted k f m).flush
      else if d < 2 ^ 31 then m.sendSeqCtl k 3 (m.fab.rxSeq.get nat0 k)
      else m.sendSeqCtl k 2 (m.fab.rxSeq.get nat0 k + 2 ^ 32 - 1)

/-- A control frame arrives on link `k6` with `cr` in its header's CREDIT field, and acts as `act` says. -/
def control (k6 : BitVec 6) (cr : BitVec 32) (act : Nat → Mach → Mach) (m : Mach) : Mach :=
  if k6.toNat ≥ 36 ∨ !m.mainUp ∨ !m.linkLit k6.toNat then m else act k6.toNat (m.headerCredit k6.toNat cr.toNat)

/-- ACK: frames up to SEQ leave the retry buffer. -/
def ack (k6 : BitVec 6) (seq cr : BitVec 32) (m : Mach) : Mach :=
  control k6 cr (fun k m =>
    let us := m.fab.unacked.get (fun _ => []) k
    if us.any fun u => u.frame.seq == seq.toNat then
      let rest := us.filter fun u => decide (u.frame.seq ≠ seq.toNat ∧ seqDiff u.frame.seq seq.toNat < 2 ^ 31)
      (m.onFab fun b => { b with unacked := NMap.set (fun _ => []) b.unacked k rest }).flush
    else m) m

/-- NAK: frames before SEQ are acknowledged, the others are sent again; a frame's eighth resend fails the link. -/
def nak (k6 : BitVec 6) (seq cr : BitVec 32) (m : Mach) : Mach :=
  control k6 cr (fun k m =>
    let us := ((m.fab.unacked.get (fun _ => []) k).filter fun u => decide (seqDiff u.frame.seq seq.toNat < 2 ^ 31)).map fun u =>
      { u with resent := u.resent + 1 }
    let m := m.onFab fun b => { b with unacked := NMap.set (fun _ => []) b.unacked k us, out := b.out ++ us.map fun u => (k, u.frame) }
    let m := m.bump .FAB_RETRY k us.length
    if us.any fun u => decide (8 ≤ u.resent) then m.linkFailed k else m) m

/-- CREDIT: credits of a class come back at level 3. -/
def credit (k6 : BitVec 6) (cls : BitVec 3) (n : BitVec 16) (m : Mach) : Mach :=
  let k := k6.toNat
  if k ≥ 36 ∨ !m.mainUp ∨ !m.linkLit k ∨ m.rd .FAB_LINK_LEVEL k ≠ 3 ∨ cls.toNat = 0 ∨ 4 < cls.toNat then m
  else (m.addCredit k cls.toNat n.toNat).flush

/-- CARRIER_DEGRADED: the spare takes the carrier's place; a second bad carrier fails the link. Carrier 16 is the spare. -/
def carrierDegraded (k6 : BitVec 6) (c : BitVec 5) (m : Mach) : Mach :=
  let k := k6.toNat
  if k ≥ 36 ∨ !m.mainUp ∨ 16 < c.toNat ∨ !m.linkLit k then m
  else if m.rd .FAB_LINK_SPARED k ≠ 31 then (if m.rd .FAB_LINK_SPARED k = c.toNat then m else m.linkFailed k)
  else if c.toNat = 16 then m
  else ((m.wr .FAB_LINK_SPARED k c.toNat).bump .FAB_CARRIER_SPARES 0 1).raise 0x42 c.toNat srcHub 0 k

def linkFail (k6 : BitVec 6) (m : Mach) : Mach := if k6.toNat ≥ 36 ∨ !m.mainUp then m else m.linkFailed k6.toNat

/-- LOSS_OF_LIGHT: the peer of direction `d` is dark: its links are ABSENT (R367); one that is GONE by its notice stays so (R368). -/
def lossOfLight (d3 : BitVec 3) (m : Mach) : Mach :=
  if d3.toNat ≥ 6 ∨ !m.mainUp then m
  else ((dirLinks d3.toNat).filter fun k => m.linkState k != 0 && m.linkState k != 4 && m.linkState k != 5 && m.linkState k != 7).foldl
    (fun m k => m.linkDown k 6 0) m

/-- PEER_LIGHT_RETURN: the links of direction `d` that were ABSENT or GONE train again (R371). -/
def peerLightReturn (d3 : BitVec 3) (m : Mach) : Mach :=
  if d3.toNat ≥ 6 ∨ !m.mainUp then m
  else ((dirLinks d3.toNat).filter fun k => m.linkState k == 6 || m.linkState k == 7).foldl (fun m k => m.setLink k 1 0) m

/-- GOODBYE: the link is GONE; no failure is counted (R368). -/
def goodbye (k6 : BitVec 6) (cr : BitVec 32) (m : Mach) : Mach := control k6 cr (fun k m => m.linkDown k 7 0) m

/-- DPRESET: the link is marked PEER_DP_RESET (R369). -/
def dpreset (k6 : BitVec 6) (cr : BitVec 32) (m : Mach) : Mach :=
  control k6 cr (fun k m => if m.linkState k ≠ 3 then m else ((m.setLink k 8 0).raise 0x56 0 srcHub 0 k).flush) m

/-- PEER_DP_RESET_END: the link carries traffic again. -/
def peerDpResetEnd (k6 : BitVec 6) (m : Mach) : Mach :=
  let k := k6.toNat
  if k ≥ 36 ∨ !m.mainUp ∨ m.linkState k ≠ 8 then m else (m.setLink k 3 0).flush

/-- DPRESET_TIMER: DPRESET on every UP link, each 10 µs from its begin while the data-path reset lasts. -/
def dpresetTimer (m : Mach) : Mach :=
  match m.aux.dpEnd with
  | none => m
  | some e =>
    let t := e - 10000 * ((e - m.time - 1) / 10000)
    if m.time < t ∧ t < e then (m.advanceTo t).sendCtlAll 0x31 [] else m

/-- IDLE: a keep-alive frame brings credits and has no other effect. -/
def idle (k6 : BitVec 6) (cr : BitVec 32) (m : Mach) : Mach := control k6 cr (fun _ m => m) m

/-- PROBE: under a FAR test of this link it is the own pattern, which LINK_TEST_DONE judges; else it is echoed at level 4 (R508). -/
def probe (k6 : BitVec 6) (payload : List Byte) (cr : BitVec 32) (m : Mach) : Mach :=
  control k6 cr (fun k m =>
    let own := m.on .FAB_LINK_TEST_BUSY 0 && (m.timer 65).elim false (·.obj == k)
    if own ∨ m.linkState k ≠ 3 ∨ m.rd .FAB_LINK_LEVEL k ≠ 4 then m else m.sendCtl k 0x40 payload) m

/-- LASER_UNIT_LOSS: the partner feeds all carriers; where it is dark too, every link fails and NO_LIGHT is set (R342, R363). A unit whose
carriers were moved off before is no failover (R510). It still delivers `power`, too little (R545). -/
def laserUnitLoss (n1 : BitVec 1) (power : BitVec 8) (m : Mach) : Mach :=
  let n := n1.toNat
  if !m.mainUp ∨ !m.on (lightFld n) 0 then m
  else
    let m := m.wrs 0 [(lightFld n, 0), (powerFld n, power.toNat)]
    if m.on (lightFld (1 - n)) 0 then
      let m := m.wr .FAB_LASER_SINGLE 0 1
      if m.on (safeFld n) 0 then m else (m.bump .FAB_LASER_FAILOVERS 0 1).raise 0x45 n srcHub 0 0
    else
      let m := (m.wrs 0 [(.FAB_LASER_SINGLE, 0), (.MOD_STATUS_NO_LIGHT, 1)]).raise 0x55 0 srcHub 0 0
      (List.range 36).foldl (fun m k => m.linkFailed k) m

/-- LIGHT_APPEARS: light (power in units of 10 mW; whether every line has 30 mW) on a module that had none: it tunes and trains its links
(R342). -/
def lightAppears (p0 p1 : BitVec 8) (l0 l1 : Bool) (m : Mach) : Mach :=
  let lit0 := hasLight p0.toNat l0
  let lit1 := hasLight p1.toNat l1
  if !m.mainUp ∨ !m.on .MOD_STATUS_NO_LIGHT 0 then m
  else if !lit0 && !lit1 then m.wrs 0 [(powerFld 0, p0.toNat), (powerFld 1, p1.toNat)]
  else
    let m := m.wrs 0 [(.MOD_STATUS_NO_LIGHT, 0), (lightFld 0, b2n lit0), (lightFld 1, b2n lit1), (powerFld 0, p0.toNat),
      (powerFld 1, p1.toNat), (.FAB_LASER_SINGLE, b2n (lit0 != lit1))]
    ((List.range 36).filter fun k => m.linkState k == 0 || m.linkState k == 10).foldl (fun m k => m.setLink k 1 0) m

end Fabric
end Sys2Proof.Machine
end

