-- ==== Sys2Proof/Machine/Disc.lean ====
section
/-! DEFINITION. Identity, discovery and time over the links (R352-R356, R371, R433, R57, R361): training, IDENT and LCERT with the
outcomes of Table FAB-4, the wave and its checks, and the frames SYNC, STRETCH and FREEZE. -/
namespace Sys2Proof.Machine

/-- R352: an IDENT frame on link `k`: its fields, a nonce that is chosen once for each training, and a signature that the spec gives no
value. -/
def Mach.sendIdent (m : Mach) (k : Nat) : Mach :=
  let m := if m.fab.nonce.any (·.1 == k) then m
    else
      let (i, m) := m.fresh
      m.onFab fun b => { b with nonce := NMap.insert b.nonce k (Config.freeBits i).toNat }
  let m := m.onFab fun b => { b with identAt := NMap.set nat0 b.identAt k m.time }
  let (sig, m) := m.freshMany 12
  let claim := m.myId + 2 ^ 31 * m.rd .FAB_STATUS_COORD_VALID 0
  m.sendCtl k 0x10 (leBytes 8 (m.rd .MOD_SERIAL 0) ++ leBytes 4 claim ++ leBytes 1 (k / 6) ++ leBytes 1 (k % 6) ++ leBytes 1 3
    ++ leBytes 1 4 ++ leBytes 4 (m.rd .SEC_STATUS_CORDWOOD_VER 0) ++ leBytes 2 Config.collRev.toNat ++ leBytes 2 0
    ++ leBytes 4 (m.rd .FAB_SLICE_ID 0) ++ leBytes 4 0 ++ leBytes 8 (m.fab.nonce.get nat0 k) ++ leBytes 8 (m.fab.echo.get nat0 k)
    ++ sig.flatMap (leBytes 8))

/-- IDENT on every link that carries control frames. -/
def Mach.sendIdents (m : Mach) : Mach := ((List.range 36).filter m.linkLit).foldl (fun m k => m.sendIdent k) m

/-- A link is held down (Table FAB-4). -/
def Mach.hold (m : Mach) (k reason code : Nat) : Mach :=
  if m.linkState k = 5 then m else (m.linkDown k 5 reason).raise code 0 srcHub 0 k

/-- A link that has trained passes its identity check: UP at a level. The first training since this module's reset takes the port of
LINK_PORT at once; a later one is READY and waits for a swap (R350). A link whose peer is in data-path reset stays marked (R369). -/
def Mach.linkPasses (m : Mach) (k level : Nat) : Mach :=
  if m.linkState k = 3 ∨ m.linkState k = 8 then m.wr .FAB_LINK_LEVEL k level
  else
    let p := m.rd .FAB_PORT_CFG_LINK_PORT k
    let m := (m.setLink k 3 0).wr .FAB_LINK_LEVEL k level
    let m := if m.on .FAB_LINK_READY k || p == 7 then m else m.wrs k [(.FAB_LINK_PORT, p), (.FAB_LINK_IN_PORT, 1)]
    m.flush

/-- Another link of the same port leads to a different module. -/
def Mach.portPeer (m : Mach) (k serial : Nat) : Bool :=
  let p := m.rd .FAB_PORT_CFG_LINK_PORT k
  p != 7 && (dirLinks (k / 6)).any fun j => j != k && m.rd .FAB_PORT_CFG_LINK_PORT j == p && m.linkUp j
    && m.fab.certOk.get nat0 j != 1 + serial

/-- The claimed coordinate is not the expected neighbour's (R354, R371). -/
def Mach.wrongClaim (m : Mach) (k : Nat) : Bool :=
  !(m.on .FAB_PEER_ID_VALID k && m.rd .FAB_PEER_PEER_ID k == m.neighbour m.myId (k / 6))

/-- R354: what a module accepts: its coordinate, the extents, IDENT on every link and an offer to each neighbour; its check comes 1 ms
later. -/
def Mach.acceptCoord (m : Mach) (o : Offer) : Mach :=
  let m := m.wrs 0 [(.FAB_COORD_X, o.x), (.FAB_COORD_Y, o.y), (.FAB_COORD_Z, o.z), (.FAB_COORD_MODULE_ID, o.x + 64 * o.y + 4096 * o.z),
    (.FAB_COORD_NX, o.nx), (.FAB_COORD_NY, o.ny), (.FAB_COORD_NZ, o.nz), (.FAB_STATUS_COORD_VALID, 1), (.FAB_STATUS_DISC, 2)]
  let m := (m.onFab fun b => { b with hops := o.hops, hold := none, check := some (m.time + 1000000) }).sendIdents
  (List.range 6).foldl (fun m d =>
    match m.lowestUp d with
    | none => m
    | some k =>
      let c := m.neighbour m.myId d
      m.sendCtl k 0x12 (padTo 16 (leBytes 1 (axisOf c 0) ++ leBytes 1 (axisOf c 1) ++ leBytes 1 (axisOf c 2) ++ leBytes 1 0
        ++ leBytes 2 (o.hops + 1) ++ leBytes 1 o.nx ++ leBytes 1 o.ny ++ leBytes 1 o.nz))) m

/-- The serials of this module's neighbours, 0 where no link is UP. -/
def Mach.nbrSerials (m : Mach) : List Nat := (List.range 6).map fun d => (m.lowestUp d).elim 0 fun k => m.fab.certOk.get nat0 k - 1

/-- R354, R356: squares whose corners disagree: the links toward both directions are quarantined. -/
def Mach.closeSquares (m : Mach) : Mach :=
  let ps := (List.range 6).flatMap fun d1 => ((List.range d1).filter fun d2 => dirAxis d2 != dirAxis d1).map fun d2 => (d1, d2)
  ps.foldl (fun m p =>
    let t1 := m.fab.topo.get (fun _ => []) p.1
    let t2 := m.fab.topo.get (fun _ => []) p.2
    if t1.isEmpty || t2.isEmpty || t1.getD p.2 0 == t2.getD p.1 0 then m
    else ((dirLinks p.1 ++ dirLinks p.2).filter m.linkUp).foldl (fun m k => m.quarantine k 2) m) m

namespace Disc

/-- The fields that FAB_PEER_k shows of a verified IDENT. -/
def notePeer (k : Nat) (f : IdentF) (m : Mach) : Mach :=
  (m.wrs k [(.FAB_PEER_PEER_ID, f.claim.toNat), (.FAB_PEER_ID_VALID, b2n f.valid), (.FAB_PEER_PEER_DIR, f.dir.toNat),
    (.FAB_PEER_PEER_LINK, f.link.toNat), (.FAB_PEER_PEER_SERIAL, f.serial.toNat)]).onFab fun b =>
      { b with echo := NMap.set nat0 b.echo k f.nonce.toNat }

/-- The rows of Table FAB-4 that let the link come up. -/
def identUp (k : Nat) (f : IdentF) (m : Mach) : Mach :=
  let m := if f.link.toNat ≠ k % 6 ∧ !m.on .FAB_LINK_PERMUTED k then (m.wr .FAB_LINK_PERMUTED k 1).raise 0x50 f.link.toNat srcHub 0 k
    else if f.link.toNat = k % 6 then m.wr .FAB_LINK_PERMUTED k 0 else m
  let m := if f.collRev ≠ Config.collRev ∧ !m.on .FAB_LINK_COLL_MISMATCH k then (m.wr .FAB_LINK_COLL_MISMATCH k 1).raise 0x53 0 srcHub 0 k
    else if f.collRev = Config.collRev then m.wr .FAB_LINK_COLL_MISMATCH k 0 else m
  m.linkPasses k (min 4 f.levelMax.toNat)

/-- IDENT: the first row of Table FAB-4 that applies decides. A link whose certificate or whose own nonce has not yet come round waits in
IDENT. -/
def ident (k6 : BitVec 6) (f : IdentF) (sigOk : Bool) (cr : BitVec 32) (m : Mach) : Mach := Fabric.control k6 cr (fun k m =>
  let cert := m.fab.certOk.get nat0 k
  if cert = 0 then m
  else if !sigOk || cert != 1 + f.serial.toNat then m.hold k 5 0x54
  else
    let m := notePeer k f m
    if f.levelMax.toNat < 3 ∨ 4 < f.levelMin.toNat ∨ f.levelMax.toNat < f.levelMin.toNat then m.hold k 4 0x52
    else if f.serial.toNat = m.rd .MOD_SERIAL 0 then m.quarantine k 3
    else if f.dir.toNat ≠ dirOpp (k / 6) then m.quarantine k 1
    else if f.echo = 0 then m
    else if f.echo.toNat ≠ m.fab.nonce.get nat0 k then m.quarantine k 1
    else if m.rd .FAB_STATUS_DISC 0 = 3 ∧ f.valid ∧ m.wrongClaim k then m.quarantine k 2
    else if m.portPeer k f.serial.toNat then m.quarantine k 6
    else if f.sliceId.toNat ≠ m.rd .FAB_SLICE_ID 0 then (if m.linkState k = 9 then m else m.linkDown k 9 0)
    else identUp k f m) m

/-- LCERT: the certificates of a link, with the SERIAL that they name and whether R433 accepts them. -/
def lcert (k6 : BitVec 6) (serial : BitVec 64) (ok : Bool) (cr : BitVec 32) (m : Mach) : Mach := Fabric.control k6 cr (fun k m =>
  if ok then m.onFab fun b => { b with certOk := NMap.set nat0 b.certOk k (1 + serial.toNat) }
  else m.hold k 5 0x54) m

/-- ASSIGN: an offer is recorded, once START has begun discovery here; the first one starts the hold timer (R354, R355, R437). -/
def assign (k6 : BitVec 6) (f : AssignF) (cr : BitVec 32) (m : Mach) : Mach := Fabric.control k6 cr (fun k m =>
  if !(m.linkUp k || m.linkState k == 9) ∨ m.rd .FAB_STATUS_DISC 0 ≠ 1 then m
  else
    let o : Offer := ⟨f.x.toNat, f.y.toNat, f.z.toNat, f.hops.toNat, k, f.nx.toNat, f.ny.toNat, f.nz.toNat⟩
    m.onFab fun b => { b with offers := b.offers ++ [o], hold := some (b.hold.getD (m.time + 50000)) }) m

/-- DISC_HOLD_TIMER: the offer of least hops, among them the one on the lowest link, is accepted. -/
def holdTimer (m : Mach) : Mach :=
  match m.fab.hold with
  | none => m
  | some t =>
    let m := m.advanceTo t
    let best := m.fab.offers.foldl (fun (b : Option Offer) o =>
      match b with
      | none => some o
      | some b => some (if o.hops < b.hops ∨ (o.hops = b.hops ∧ o.link < b.link) then o else b)) none
    match best with
    | none => m
    | some o => m.acceptCoord o

/-- A field of a register write takes a legal value, or keeps its own (R15). -/
def putIf (ok : Nat → Bool) (f : Fld) (v : Nat) (m : Mach) : Mach := if ok v then m.wr f 0 v else m

/-- DISC_START: a write of FAB_DISC_CTRL with START = 1 (R354): quarantines and holds are cleared and the run begins.
IDENT goes out where the claim changes (R352). -/
def start (v64 : BitVec 64) (m : Mach) : Mach :=
  if !m.mainUp then m
  else
    let v := v64.toNat
    let claimed := m.on .FAB_STATUS_COORD_VALID 0
    let ext (x : Nat) : Bool := decide (1 ≤ x ∧ x ≤ 64)
    let m := m.wrs 0 [(.FAB_DISC_CTRL_ROOT, bitsAt v 1 1), (.FAB_DISC_CTRL_ROOT_X, bitsAt v 8 6), (.FAB_DISC_CTRL_ROOT_Y, bitsAt v 16 6),
      (.FAB_DISC_CTRL_ROOT_Z, bitsAt v 24 6)]
    let m := putIf ext .FAB_DISC_CTRL_NZ (bitsAt v 48 7) (putIf ext .FAB_DISC_CTRL_NY (bitsAt v 40 7) (putIf ext .FAB_DISC_CTRL_NX (bitsAt v 32 7) m))
    let m := ((List.range 36).filter fun k => m.linkState k == 4 || m.linkState k == 5).foldl (fun m k => m.setLink k 2 0) m
    let root := m.rd .FAB_DISC_CTRL_ROOT 0
    let m := m.wrs 0 [(.FAB_STATUS_DISC, 1), (.FAB_STATUS_ROOT, root), (.FAB_STATUS_COORD_VALID, 0)]
    let m := m.onFab fun b => { b with offers := [], hold := none, check := none, topo := [] }
    if root = 1 then
      m.acceptCoord ⟨m.rd .FAB_DISC_CTRL_ROOT_X 0, m.rd .FAB_DISC_CTRL_ROOT_Y 0, m.rd .FAB_DISC_CTRL_ROOT_Z 0, 0, 0, m.rd .FAB_DISC_CTRL_NX 0,
        m.rd .FAB_DISC_CTRL_NY 0, m.rd .FAB_DISC_CTRL_NZ 0⟩
    else if claimed then m.sendIdents else m

/-- DISC_CHECK: neighbours' claims, this module's table to them, and the squares known so far. -/
def check (m : Mach) : Mach :=
  match m.fab.check with
  | none => m
  | some t =>
    let m := (m.advanceTo t).onFab fun b => { b with check := none }
    let m := ((List.range 36).filter fun k => m.linkUp k && m.wrongClaim k).foldl (fun m k => m.quarantine k 2) m
    let m := m.sendCtlAll 0x13 (m.nbrSerials.flatMap (leBytes 8))
    m.closeSquares.wr .FAB_STATUS_DISC 0 3

/-- TOPO: the neighbour table of the module toward a direction; a square that it completes after the check is judged now. -/
def topo (k6 : BitVec 6) (serials : List (BitVec 64)) (cr : BitVec 32) (m : Mach) : Mach := Fabric.control k6 cr (fun k m =>
  if !m.linkUp k then m
  else
    let ss := (List.range 6).map fun d => (serials.getD d 0).toNat
    let m := m.onFab fun b => { b with topo := NMap.set (fun _ => []) b.topo (k / 6) ss }
    if m.rd .FAB_STATUS_DISC 0 = 3 then m.closeSquares else m) m

/-- IDENT_TIMER: TIME passes until the first of the links has sent no IDENT for 100 ms; those that are due then send one. -/
def identTimer (m : Mach) : Mach :=
  let due (k : Nat) : Nat := m.fab.identAt.get nat0 k + 100000000
  match (((List.range 36).filter m.linkLit).map due).min? with
  | none => m
  | some t =>
    if !m.mainUp then m
    else
      let m := m.advanceTo t
      ((List.range 36).filter fun k => m.linkLit k && decide (due k ≤ m.time)).foldl (fun m k => m.sendIdent k) m

/-- LINK_TRAINED: a link passes training with the peer's receive buffers of each class as credits, and begins its identity exchange. -/
def linkTrained (k6 : BitVec 6) (net red mem ing : BitVec 16) (m : Mach) : Mach :=
  let k := k6.toNat
  if k ≥ 36 ∨ !m.mainUp ∨ !(m.linkState k == 1 || m.linkState k == 10) then m
  else
    let first := m.fab.firstTrain.get nat0 k == 0
    let m := (m.setLink k 2 0).wr .FAB_LINK_READY k (b2n !first)
    let m := m.onFab fun b => { b with
      firstTrain := NMap.set nat0 b.firstTrain k 1, txSeq := NMap.set nat0 b.txSeq k 0, rxSeq := NMap.set nat0 b.rxSeq k 0
      nonce := NMap.erase b.nonce k, echo := NMap.set nat0 b.echo k 0, certOk := NMap.set nat0 b.certOk k 0
      credits := NMap.setMany nat0 b.credits [(credKey k 1, net.toNat), (credKey k 2, red.toNat), (credKey k 3, mem.toNat),
        (credKey k 4, ing.toNat)] }
    let (c, m) := m.freshMany 64
    (m.sendCtl k 0x11 (c.flatMap (leBytes 8))).sendIdent k

/-- R361, R362: a frame for module `via` that is only on its way over this one goes on; any other acts as `act` says. -/
def orPass (k : Nat) (via : Option (BitVec 18)) (f : Frame) (act : Mach → Mach) (m : Mach) : Mach :=
  match via with
  | none => act m
  | some b => if b.toNat = m.myId then act m else m.passDetour k b.toNat f

/-- SYNC: a child's request is answered with this module's TIME, the way it came; a response gives this module's measured offset from the
master. -/
def sync (k6 : BitVec 6) (f : SyncF) (cr : BitVec 32) (m : Mach) : Mach := Fabric.control k6 cr (fun k m =>
  let times (a b : Nat) : Frame := m.ctlFrame 0x20 (leBytes 8 a ++ leBytes 8 b)
  if !m.linkUp k then m
  else orPass k f.via { times f.sent.toNat f.answered.toNat with sMod := f.src.toNat } (fun m =>
    if f.response then m.exchange f.offset.toInt
    else m.sendRaw k (if f.via.isSome then { times m.time m.time with dMod := f.src.toNat, detour := true } else times m.time m.time)) m) m

/-- R361: a broadcast that has arrived goes on; one that comes back to its origin does not. -/
def castOn (f : Frame) (m : Mach) : Mach := if f.sMod = m.myId then m else m.castForward f

/-- STRETCH: the notice is forwarded through the slice, and taken by this module's tick (R47, R361). -/
def stretch (k6 : BitVec 6) (tick : BitVec 64) (s : BitVec 3) (src : BitVec 18) (via : Option (BitVec 18)) (cr : BitVec 32) (m : Mach) : Mach :=
  Fabric.control k6 cr (fun k m =>
    let f := { m.ctlFrame 0x21 (padTo 16 (leBytes 8 tick.toNat ++ leBytes 1 s.toNat)) with sMod := src.toNat }
    if !m.linkUp k ∨ !m.inSlice src.toNat then m
    else orPass k via f (fun m => (castOn f m).stretchNotice tick.toNat s.toNat src.toNat) m) m

/-- FREEZE: the frame is forwarded, and freezes the module where FABRIC is enabled (R475); it may trigger a trace (R481). -/
def freeze (k6 : BitVec 6) (src : BitVec 18) (via : Option (BitVec 18)) (cr : BitVec 32) (m : Mach) : Mach :=
  Fabric.control k6 cr (fun k m =>
    let f := { m.ctlFrame 0x22 [] with sMod := src.toNat }
    if !m.linkUp k ∨ !m.inSlice src.toNat then m else orPass k via f (fun m => (castOn f m).fires 4) m) m

end Disc
end Sys2Proof.Machine
end

