-- ==== Sys2Proof/Machine/ExecFabric.lean ====
section
/-! DEFINITION. The meanings of repair, reduction and the fabric (chapters 11, 12, 18): one definition for each command. -/
namespace Sys2Proof.Machine

/-- LASER_UNIT_PLUGGED (R511). A unit delivering light on a released or dark port is taken into use. -/
def execLaserUnitPlugged (n : BitVec 1) (power : BitVec 8) (lines : Bool) (s : State) : Host.Outcome State Fault Refusal :=
  .next (s.lift (Repair.laserPlugged n power lines))

/-- LASER_RELEASE (R510). A write of FAB_LASER_CTRL.RELEASE_n moves carriers to the partner unit and sets SAFE_n. -/
def execLaserRelease (n : BitVec 1) (s : State) : Host.Outcome State Fault Refusal :=
  .next (s.lift (Mach.hostRow (Repair.laserRelease n)))

/-- LINK_TEST_START (R508). A write of FAB_LINK_TEST.START runs a NEAR or FAR test on a link in no port. -/
def execLinkTestStart (k : BitVec 6) (far : Bool) (ms : BitVec 16) (s : State) : Host.Outcome State Fault Refusal :=
  .next (s.lift (Mach.hostRow (Repair.linkTestStart k far ms)))

/-- LINK_TEST_DONE (R508). DURATION_MS expires and the link test passes or fails. -/
def execLinkTestDone (symbols : BitVec 48) (uncorr : BitVec 16) (carr : BitVec 17) (s : State) :
    Host.Outcome State Fault Refusal :=
  .next (s.lift (Repair.linkTestDone symbols uncorr carr))

/-- CORE_TEST_START (R505). A write of CORE_TEST_CTRL.START runs ARRAY and MARCH on a fenced core. -/
def execCoreTestStart (g : BitVec 6) (array march : Bool) (s : State) : Host.Outcome State Fault Refusal :=
  .next (s.lift (Mach.hostRow (Repair.coreTestStart g array march)))

/-- CORE_TEST_DONE (R506). A core test ends with PASS or FAIL and leaves memories zeroed. -/
def execCoreTestDone (g : BitVec 6) (o : TestOut) (s : State) : Host.Outcome State Fault Refusal :=
  .next (s.lift (Repair.coreTestDone g o))

/-- ENGINE_TEST_START (R507). A write of ING_ENG_TEST.START self-tests a fenced idle decoder engine. -/
def execEngineTestStart (e : BitVec 7) (s : State) : Host.Outcome State Fault Refusal :=
  .next (s.lift (Mach.hostRow (Repair.engineTestStart e)))

/-- ENGINE_TEST_DONE (R507). An engine self-test ends with PASS or FAIL. -/
def execEngineTestDone (fail : Bool) (s : State) : Host.Outcome State Fault Refusal :=
  .next (s.lift (Repair.engineTestDone fail))

/-- RED_TX_ACCEPT (R320). A RED_TX end accepts an entry into the reduction buffer when there is space. -/
def execRedTxAccept (g : BitVec 6) (c : BitVec 4) (s : State) : Host.Outcome State Fault Refusal :=
  .next (s.lift (Reduce.txAccept g c))

/-- BUCKET_COPY (R322). In BUCKET mode a full block is copied to the bucket once the bucket can take it. -/
def execBucketCopy (n g : BitVec 6) (s : State) : Host.Outcome State Fault Refusal :=
  .next (s.lift (Reduce.bucketCopy n g))

/-- BLOCK_REDUCE_START (R323). Reduction of a block starts once every partner has released it. -/
def execBlockReduceStart (n g : BitVec 6) (s : State) : Host.Outcome State Fault Refusal :=
  .next (s.lift (Reduce.blockStart n g))

/-- HOP_ADDITION (R327). An arriving segment is added (reduce-scatter) or stored (all-gather), and then sent on or written as a result. -/
def execHopAddition (n g : BitVec 6) (mism : BitVec 2) (s : State) : Host.Outcome State Fault Refusal :=
  .next (s.lift (Reduce.hopAddition n g mism))

/-- DATA (R384). A DATA frame arrives and is delivered, forwarded, redirected or dropped by route and GEN. -/
def execData (k : BitVec 6) (f : HFrame) (fixed : BitVec 16) (uncorr crcOk : Bool) (s : State) :
    Host.Outcome State Fault Refusal :=
  .next (s.lift (Fabric.data k f fixed uncorr crcOk))

/-- ACK (R345). An acknowledge frees retry-buffer frames up to SEQ. -/
def execAck (k : BitVec 6) (seq cr : BitVec 32) (s : State) : Host.Outcome State Fault Refusal :=
  .next (s.lift (Fabric.ack k seq cr))

/-- NAK (R345). A NAK makes the sender resend from SEQ, and the eighth resend fails the link. -/
def execNak (k : BitVec 6) (seq cr : BitVec 32) (s : State) : Host.Outcome State Fault Refusal :=
  .next (s.lift (Fabric.nak k seq cr))

/-- CREDIT (R346). A level-3 credit return frame restores send credits. -/
def execCredit (k : BitVec 6) (cls : BitVec 3) (n : BitVec 16) (s : State) : Host.Outcome State Fault Refusal :=
  .next (s.lift (Fabric.credit k cls n))

/-- IDENT (R353). An identity frame is verified and the link gets its outcome from Table FAB-4. -/
def execIdent (k : BitVec 6) (f : IdentF) (sigOk : Bool) (cr : BitVec 32) (s : State) : Host.Outcome State Fault Refusal :=
  .next (s.lift (Disc.ident k f sigOk cr))

/-- LCERT (R433). A link certificate part arrives and is verified against the root. -/
def execLcert (k : BitVec 6) (serial : BitVec 64) (ok : Bool) (cr : BitVec 32) (s : State) : Host.Outcome State Fault Refusal :=
  .next (s.lift (Disc.lcert k serial ok cr))

/-- ASSIGN (R354). A coordinate offer during discovery is recorded and starts the hold timer. -/
def execAssign (k : BitVec 6) (f : AssignF) (cr : BitVec 32) (s : State) : Host.Outcome State Fault Refusal :=
  .next (s.lift (Disc.assign k f cr))

/-- TOPO (R354). A neighbour table arrives for the closure check. -/
def execTopo (k : BitVec 6) (serials : List (BitVec 64)) (cr : BitVec 32) (s : State) : Host.Outcome State Fault Refusal :=
  .next (s.lift (Disc.topo k serials cr))

/-- SYNC (R57). A time exchange frame updates the offset, lock state and TIME. -/
def execSync (k : BitVec 6) (f : SyncF) (cr : BitVec 32) (s : State) : Host.Outcome State Fault Refusal :=
  .next (s.lift (Disc.sync k f cr))

/-- STRETCH (R47). A stretch notice raises s and moves the boundary, is held for a later tick, or raises LATE_NOTICE. -/
def execStretch (k : BitVec 6) (tick : BitVec 64) (sv : BitVec 3) (src : BitVec 18) (via : Option (BitVec 18))
    (cr : BitVec 32) (s : State) : Host.Outcome State Fault Refusal :=
  .next (s.lift (Disc.stretch k tick sv src via cr))

/-- FREEZE (R475). A slice FREEZE frame is forwarded, and freezes the module when FABRIC is enabled. -/
def execFreeze (k : BitVec 6) (src : BitVec 18) (via : Option (BitVec 18)) (cr : BitVec 32) (s : State) : Host.Outcome State Fault Refusal :=
  .next (s.lift (Disc.freeze k src via cr))

/-- GOODBYE (R368). A planned-reset notice marks the link GONE and moves traffic to detours. -/
def execGoodbye (k : BitVec 6) (cr : BitVec 32) (s : State) : Host.Outcome State Fault Refusal :=
  .next (s.lift (Fabric.goodbye k cr))

/-- DPRESET (R369). A data-path-reset notice marks the link PEER_DP_RESET. -/
def execDpreset (k : BitVec 6) (cr : BitVec 32) (s : State) : Host.Outcome State Fault Refusal :=
  .next (s.lift (Fabric.dpreset k cr))

/-- IDLE (R351). A keep-alive frame arrives. -/
def execIdle (k : BitVec 6) (cr : BitVec 32) (s : State) : Host.Outcome State Fault Refusal :=
  .next (s.lift (Fabric.idle k cr))

/-- PROBE (R508). A link test pattern frame is checked or echoed. -/
def execProbe (k : BitVec 6) (payload : List Byte) (cr : BitVec 32) (s : State) : Host.Outcome State Fault Refusal :=
  .next (s.lift (Fabric.probe k payload cr))

/-- IDENT_TIMER (R352). Every 100 ms each link sends an IDENT. -/
def execIdentTimer (s : State) : Host.Outcome State Fault Refusal :=
  .next (s.lift Disc.identTimer)

/-- DPRESET_TIMER (R369). Every 10 µs during a data-path reset DPRESET is sent on every UP link. -/
def execDpresetTimer (s : State) : Host.Outcome State Fault Refusal :=
  .next (s.lift Fabric.dpresetTimer)

/-- DISC_START (R354). A write of FAB_DISC_CTRL.START clears quarantines and runs discovery. -/
def execDiscStart (v : BitVec 64) (s : State) : Host.Outcome State Fault Refusal :=
  .next (s.lift (Mach.hostRow (Disc.start v)))

/-- DISC_HOLD_TIMER (R355). The 50 µs hold expires and the best offer's coordinate is accepted and propagated. -/
def execDiscHoldTimer (s : State) : Host.Outcome State Fault Refusal :=
  .next (s.lift Disc.holdTimer)

/-- DISC_CHECK (R354). 1 ms after acceptance, neighbour claims and squares are checked and links quarantined. -/
def execDiscCheck (s : State) : Host.Outcome State Fault Refusal :=
  .next (s.lift Disc.check)

/-- CARRIER_DEGRADED (R363). A carrier's error rate or lock loss makes the spare carrier take its place. -/
def execCarrierDegraded (k : BitVec 6) (carrier : BitVec 5) (s : State) : Host.Outcome State Fault Refusal :=
  .next (s.lift (Fabric.carrierDegraded k carrier))

/-- LINK_FAIL (R363). A link fails and leaves its port, or switches the port to its detour. -/
def execLinkFail (k : BitVec 6) (s : State) : Host.Outcome State Fault Refusal :=
  .next (s.lift (Fabric.linkFail k))

/-- LOSS_OF_LIGHT (R367). Loss of light from a peer is detected within 2 µs, and the links are marked ABSENT. -/
def execLossOfLight (d : BitVec 3) (s : State) : Host.Outcome State Fault Refusal :=
  .next (s.lift (Fabric.lossOfLight d))

/-- LINK_TRAINED (R350). A link passes training, becomes READY, and rejoins its port at the next swap. -/
def execLinkTrained (k : BitVec 6) (net red mem ing : BitVec 16) (s : State) : Host.Outcome State Fault Refusal :=
  .next (s.lift (Disc.linkTrained k net red mem ing))

/-- PEER_LIGHT_RETURN (R371). A peer's light returns, and the link retrains and rechecks its identity. -/
def execPeerLightReturn (d : BitVec 3) (s : State) : Host.Outcome State Fault Refusal :=
  .next (s.lift (Fabric.peerLightReturn d))

/-- LASER_UNIT_LOSS (R363). A laser unit's light falls below threshold, and the partner feeds all carriers. -/
def execLaserUnitLoss (n : BitVec 1) (power : BitVec 8) (s : State) : Host.Outcome State Fault Refusal :=
  .next (s.lift (Fabric.laserUnitLoss n power))

/-- LIGHT_APPEARS (R342). Light appears on a module that had none, and it tunes and brings up links without a reset. -/
def execLightAppears (power0 power1 : BitVec 8) (lines0 lines1 : Bool) (s : State) :
    Host.Outcome State Fault Refusal :=
  .next (s.lift (Fabric.lightAppears power0 power1 lines0 lines1))

/-- PEER_DP_RESET_END (R369). A peer leaves data-path reset and stops sending DPRESET, so the neighbour's links leave PEER_DP_RESET and carry traffic again. -/
def execPeerDpResetEnd (k : BitVec 6) (s : State) : Host.Outcome State Fault Refusal :=
  .next (s.lift (Fabric.peerDpResetEnd k))

end Sys2Proof.Machine
end

