-- ==== Sys2Proof/Machine/Hif.lean ====
section
/-! DEFINITION. The host link and its rings (chapter 14): doorbells, ring enables, the fetch of descriptors, the start of each, and
the descriptors of steps, swaps, ingest, queries, fences, resets and the hub's DMA; BAR4 and CXL.mem accesses. -/
namespace Sys2Proof.Machine

def Mach.onHif (m : Mach) (f : Hif → Hif) : Mach := { m with hif := f m.hif }

/-- A field of a descriptor's body, and whether bytes `a` to `b - 1` of it are 0. -/
def Desc.at_ (d : Desc) (o n : Nat) : Nat := leNat ((d.body.drop o).take n)
def Desc.zero (d : Desc) (a b : Nat) : Bool := ((d.body.drop a).take (b - a)).all (· == 0)

/-- Types that format 1 carries (Table HIF-6), and format 2 (Table HIF-3). -/
def typeOk (fmt1 : Bool) (ty : Nat) : Bool :=
  if fmt1 then [1, 2, 3, 4, 10, 11].contains ty else decide (1 ≤ ty ∧ ty ≤ 12)

/-- Bytes of a ring's descriptors. -/
def Mach.descBytes (m : Mach) (r : Nat) : Nat := if m.on .HIF_RING_CFG_FMT r then 32 else 64

/-- The descriptor at submission index `h` of ring `r`, as read from host memory (R407, R420, Table HIF-2). -/
def Mach.readDesc (m : Mach) (r h : Nat) : Desc :=
  let fmt1 := m.on .HIF_RING_CFG_FMT r
  let n := m.descBytes r
  let bs := m.hostRead (m.rd .HIF_RING_SQ_BASE r * 4096 + n * h) n
  let f (o k : Nat) := leNat ((bs.drop o).take k)
  let ty := f 0 1
  let result := if fmt1 then 0 else f 8 8
  { ring := r, idx := h, sqHead := (h + 1) % m.ringLen r, ty := ty, fmt1 := fmt1, noint := bitsAt (f 1 1) 0 1 == 1,
    barrier := bitsAt (f 1 1) 1 1 == 1, tag := f 2 2, result := result, body := bs.drop (if fmt1 then 4 else 16),
    bad := !typeOk fmt1 ty || decide (bitsAt (f 1 1) 2 6 ≠ 0) || (!fmt1 && decide (f 4 4 ≠ 0)) || decide (result % 64 ≠ 0),
    busy := false, seq := m.hif.fetches, sent := false, poisoned := false }

/-- R403: rings are served round robin, those with PRIO = 1 first: the one whose turn it is. -/
def Mach.ringTurn (m : Mach) : Option Nat :=
  let rs := ((List.range 256).map fun i => (m.hif.last + i) % 256).filter fun r => m.ringWants r && m.cqRoom r
  match rs.find? fun r => m.on .HIF_RING_CFG_PRIO r with
  | some r => some r
  | none => rs.head?

/-- The descriptor in progress of a ring's index and type. -/
def Mach.findDesc (m : Mach) (r idx ty : Nat) : Option Desc := m.hif.descs.find? fun d => d.ring == r && d.idx == idx && d.ty == ty

/-- R403: every earlier descriptor of its ring has started, and with BARRIER has completed. -/
def Mach.mayStart (m : Mach) (d : Desc) : Bool :=
  m.hif.descs.all fun e => e.ring != d.ring || decide (d.seq ≤ e.seq) || (e.busy && !d.barrier)

def Mach.setBusy (m : Mach) (d : Desc) : Mach :=
  m.onHif fun h => { h with descs := h.descs.map fun e => if e.seq == d.seq then { e with busy := true } else e }

/-- What a descriptor's row does: it starts the descriptor of that type at that index, which ends at once where the module is not
ready (R442) or it is malformed (R16), else does `start`; where it has started, `go` is what goes on. -/
def Mach.descRow (m : Mach) (ring idx ty : Nat) (bad : Mach → Desc → Bool) (start go : Desc → Mach → Mach) : Mach :=
  match m.findDesc ring idx ty with
  | none => m
  | some d =>
    if !m.hifUp then m
    else if d.busy then go d m
    else if !m.mayStart d then m
    else
      let m := m.setBusy d
      if !m.ready && ty != 10 then m.complete d 0x05 0 0 []
      else if d.bad || bad m d then m.complete d 0x01 0 0 []
      else start d m

def noGo : Desc → Mach → Mach := fun _ m => m

/-- R412, R238, R498: no further step can be armed, at `at_`. -/
def Mach.stepBusy (m : Mach) (at_ : Nat) : Bool :=
  m.armed.isSome || !m.deferred.isEmpty || !m.acking.isEmpty || m.aborted || m.cut.isSome || m.cutHeld
    || m.step.elim false fun s => decide (at_ + 1 ≤ s.stepAt + s.f + s.b + s.u)

/-- R41: the tick has passed, or the generator does not run. -/
def Mach.tickMissed (m : Mach) (at_ : Nat) : Bool := !m.on .TICK_STATE_GEN_RUNNING 0 || decide (at_ ≤ m.rd .TICK_NUMBER 0)

/-- R553, R412: arms a step of the descriptor, or completes it with the first status that holds. -/
def Mach.arm (m : Mach) (s : StepReq) : Mach :=
  if m.stepBusy s.stepAt then m.complete s.desc 0x06 0 0 []
  else if m.tickMissed s.stepAt then m.complete s.desc 0x18 0 0 []
  else { m with armed := some s }.wr .TICK_STEP_AT 0 s.stepAt

/-- R242, R271: a host access to T1 of `n` bytes at a local address, its data kept for the host where it reads. -/
def Mach.hostAccess (m : Mach) (a n : Nat) (write : Bool) (data : List Byte) : Mach :=
  match lowest (m.localCauses a n write) with
  | some c =>
    let m := m.captureFault c a true 0
    if write then m else m.onHif fun h => { h with resp := List.replicate n 0xFF, respBad := false }
  | none =>
    if write then
      match m.writeAny 1 a ((padTo n data).map (·, false)) with
      | .ok m => m
      | .error (c, p, m) => m.captureFault c p true 0
    else
      let (bs, m) := m.readAny a n
      m.onHif fun h => { h with resp := bs.map Prod.fst, respBad := bs.any Prod.snd }

/-- A DMA command (Table MEM-3) of a descriptor's body. -/
structure DmaCmd where
  src : Nat
  dst : Nat
  len : Nat
  layout : Nat
  share : Nat
  flags : Nat
  tag : Nat
  deriving DecidableEq, Repr

def Desc.dmaCmd (d : Desc) : DmaCmd :=
  if d.fmt1 then ⟨d.at_ 0 8, d.at_ 8 8, d.at_ 16 4, d.at_ 20 1, 0, 0, d.at_ 21 1⟩
  else ⟨d.at_ 0 8, d.at_ 8 8, d.at_ 16 4, d.at_ 20 1, d.at_ 21 1, d.at_ 23 1, d.at_ 22 1⟩

def DmaCmd.bad (c : DmaCmd) : Bool :=
  decide (c.len = 0 ∨ c.len % 64 ≠ 0 ∨ 3 ≤ c.layout ∨ 8 ≤ c.share ∨ 16 ≤ c.tag ∨ 2 ≤ c.flags ∨ (c.layout ≠ 0 ∧ c.len % 32768 ≠ 0))

/-- R39, R490: the ticks that a step at `at_` will have: by the shadow TICK_SCHED where a swap pends that its beginning meets. -/
def Mach.stepTicks (m : Mach) (at_ : Nat) : Nat :=
  let due := m.tick.swap.elim false fun w => decide (w.at_ ≤ at_)
  let rd (f : Fld) : Nat := if due then m.rdS f 0 else m.rd f 0
  rd .TICK_SCHED_F_TICKS + rd .TICK_SCHED_B_TICKS + rd .TICK_SCHED_U_TICKS

/-- R490: a tick cut outside the step of a REPLAY. -/
def Mach.cutOutside (m : Mach) (d : Desc) : Bool :=
  let at_ := d.at_ 0 8
  d.at_ 8 1 == 2 && !decide (at_ ≤ d.at_ 16 8 ∧ d.at_ 16 8 < at_ + m.stepTicks at_)

namespace Hif

/-- SQ_TAIL_DOORBELL (R399, R400). -/
def tailDoorbell (r8 : BitVec 8) (v32 : BitVec 32) (m : Mach) : Mach :=
  let r := r8.toNat
  if !m.mainUp || !m.on .HIF_RING_CFG_ENABLE r then m
  else if v32.toNat < m.ringLen r then m.onHif fun h => { h with sqTail := NMap.set nat0 h.sqTail r v32.toNat }
  else (m.wr .HIF_RING_STATUS_DB_ERR r 1).bump .HIF_DB_ERRORS 0 1

/-- CQ_HEAD_DOORBELL (R399, R402). -/
def headDoorbell (r8 : BitVec 8) (v32 : BitVec 32) (m : Mach) : Mach :=
  let r := r8.toNat
  if !m.mainUp || !m.on .HIF_RING_CFG_ENABLE r then m
  else if v32.toNat < m.ringLen r then m.onHif fun h => { h with cqHead := NMap.set nat0 h.cqHead r v32.toNat }
  else (m.wr .HIF_RING_STATUS_DB_ERR r 1).bump .HIF_DB_ERRORS 0 1

/-- R399: what a 32-bit read of offset 0 of a doorbell page returns: the submission head of a ring, the completion tail on its head page, 0
where the ring is disabled or the page is none. -/
def doorbellRead (page : Nat) (m : Mach) : Nat :=
  if 512 ≤ page ∨ !m.mainUp ∨ !m.on .HIF_RING_CFG_ENABLE (page % 256) then 0
  else m.rd (if page < 256 then .HIF_RING_STATUS_SQ_HEAD else .HIF_RING_STATUS_CQ_TAIL) (page % 256)

/-- RING_ENABLE (R398, R423): of a ring that was disabled. -/
def ringEnable (r8 : BitVec 8) (m : Mach) : Mach :=
  let r := r8.toNat
  if !m.mainUp || m.on .HIF_RING_CFG_ENABLE r then m
  else
    let m := m.wrs r [(.HIF_RING_CFG_ENABLE, 1), (.HIF_RING_STATUS_SQ_HEAD, 0), (.HIF_RING_STATUS_CQ_TAIL, 0),
      (.HIF_RING_STATUS_PHASE, 1), (.HIF_RING_STATUS_ERROR, 0)]
    (m.setCoal r ⟨0, 0⟩).onHif fun h => { h with sqTail := NMap.set nat0 h.sqTail r 0, cqHead := NMap.set nat0 h.cqHead r 0 }

/-- RING_DISABLE (R398). -/
def ringDisable (r8 : BitVec 8) (m : Mach) : Mach := if m.mainUp then m.wr .HIF_RING_CFG_ENABLE r8.toNat 0 else m

/-- DESCRIPTOR_FETCH (R400-R403, R423): the next descriptor of the ring whose turn it is; `readFails` says that its read failed. -/
def fetch (r8 : BitVec 8) (readFails : Bool) (m : Mach) : Mach :=
  let r := r8.toNat
  if !m.hifUp || !m.ringWants r then m
  else if m.ringTurn != some r then m
  else
    let h := m.rd .HIF_RING_STATUS_SQ_HEAD r
    let a := m.rd .HIF_RING_SQ_BASE r * 4096 + m.descBytes r * h
    if readFails || m.hostPoisoned a || m.hostPoisoned (a + m.descBytes r - 1) then
      (m.wr .HIF_RING_STATUS_ERROR r 1).event .HIF_EVT_RING_ERROR
    else
      let d := m.readDesc r h
      let m := (m.wr .HIF_RING_STATUS_SQ_HEAD r d.sqHead).onHif fun x =>
        { x with descs := x.descs ++ [d], fetches := x.fetches + 1, last := r + 1 }
      let m := m.hev 3 0x30 1
      if typeOk d.fmt1 d.ty then m else m.complete d (if m.ready then 0x01 else 0x05) 0 0 []

/-- MSIX_COALESCE_TIMER (R406). -/
def coalesceTimer (r8 : BitVec 8) (m : Mach) : Mach :=
  let r := r8.toNat
  let us := m.rd .HIF_RING_CFG_COAL_US r
  if !m.mainUp || us == 0 || (m.coal r).count == 0 then m
  else
    let m := m.advanceTo ((m.coal r).since + 1000 * us)
    (m.setCoal r ⟨0, 0⟩).signal (m.rd .HIF_RING_CFG_VECTOR r)

/-- R397: the whole aperture at `base` (in 2 MiB) lies in T1 linear, the interleaved alias or T1 packed. -/
def apertureOk (base : Nat) : Bool :=
  let a := base * 2 ^ 21
  let r := rangeOf a
  (r == .linear || r == .alias_ || r == .packed) && rangeOf (a + 2 ^ 36 - 1) == r

/-- BAR4_WIN_WRITE (R397). -/
def bar4Win (v : BitVec 64) (m : Mach) : Mach :=
  let b := bitsAt v.toNat 21 23
  if m.mainUp && apertureOk b then m.wr .HIF_BAR4_WIN_BASE 0 b else m

/-- BAR4_ACCESS (R396, R397): of 1 to 64 bytes. -/
def bar4 (off : BitVec 44) (write : Bool) (len : BitVec 7) (data : List Byte) (m : Mach) : Mach :=
  let n := max 1 (min 64 len.toNat)
  if m.ready && m.on .HIF_STATUS_BAR4_EN 0 then m.hostAccess (m.rd .HIF_BAR4_WIN_BASE 0 * 2 ^ 21 + off.toNat % 2 ^ 36) n write data
  else m

/-- CXL_MEM_ACCESS (R395): to the range of HIF_HDM, once the host has committed its decoder. -/
def cxlMem (off : BitVec 44) (write : Bool) (len : BitVec 7) (data : List Byte) (m : Mach) : Mach :=
  let n := max 1 (min 64 len.toNat)
  if m.ready && m.on .HIF_STATUS_MODE 0 && m.on .HIF_STATUS_HDM_EN 0
      && decide (off.toNat + n ≤ m.rd .HIF_HDM_SIZE 0 * 2 ^ 28) then
    m.hostAccess (m.rd .HIF_HDM_BASE 0 * 2 ^ 28 + off.toNat) n write data
  else m

/-- HOST_LINK_TRAINED (R393, R394): the host link is up, after stage 2 of bring-up and with PERST_N high. -/
def linkTrained (gen : BitVec 3) (width : BitVec 5) (m : Mach) : Mach :=
  if m.mainUp && !m.pins.perstLow && decide (2 < m.rd .MOD_BOOT_STAGE 0) && decide (4 ≤ gen.toNat ∧ gen.toNat ≤ 6)
      && [1, 4, 8, 16].contains width.toNat then
    m.wrs 0 [(.HIF_STATUS_LINK_UP, 1), (.HIF_STATUS_GEN, gen.toNat), (.HIF_STATUS_WIDTH, width.toNat)]
  else m

/-- HOST_LINK_DOWN (R394). -/
def linkDown (m : Mach) : Mach := m.wr .HIF_STATUS_LINK_UP 0 0

/-- HDM_DECODER_COMMIT (R395). -/
def hdmCommit (m : Mach) : Mach := if m.mainUp && m.on .HIF_STATUS_MODE 0 then m.wr .HIF_STATUS_HDM_EN 0 1 else m

/-- RUN_STEP (R412, R553). -/
def runStep (r : BitVec 8) (i : BitVec 16) (m : Mach) : Mach :=
  m.descRow r.toNat i.toNat 2 (fun _ d => !d.zero 8 48)
    (fun d m => m.arm ⟨d, d.at_ 0 8, false, 0, 0, 0, 0, 0, 0, 0, 0, 0⟩) noGo

/-- REPLAY (R412, R488, R489, R553). -/
def replay (r : BitVec 8) (i : BitVec 16) (m : Mach) : Mach :=
  m.descRow r.toNat i.toNat 9
    (fun m d => !d.zero 12 16 || !d.zero 24 48 || decide (2 < d.at_ 8 1 ∨ 3 < d.at_ 9 1 ∨ d.at_ 10 1 / 8 % 2 = 1 ∨ 7 < d.at_ 11 1)
      || m.cutOutside d)
    (fun d m =>
      if !m.exact then m.complete d 0x1D 0 0 []
      else m.arm ⟨d, d.at_ 0 8, true, d.at_ 8 1, d.at_ 9 1, d.at_ 10 1, d.at_ 11 1, d.at_ 16 8, 0, 0, 0, 0⟩) noGo

/-- SWAP (R376, R415). -/
def swap (r : BitVec 8) (i : BitVec 16) (m : Mach) : Mach :=
  m.descRow r.toNat i.toNat 5 (fun _ d => !d.zero 8 48) (fun d m => m.requestSwap (d.at_ 0 8) (some d)) noGo

/-- INGEST_SUBMIT (R273, R416). -/
def ingestSubmit (r : BitVec 8) (i : BitVec 16) (m : Mach) : Mach :=
  m.descRow r.toNat i.toNat 6 (fun _ d => !d.zero 8 48 || decide (d.at_ 0 8 % 64 ≠ 0))
    (fun d m =>
      if 8 ≤ m.ing.jobs.length then m.complete d 0x36 0 0 []
      else { m with ing := { m.ing with jobs := m.ing.jobs ++ [⟨d, d.at_ 0 8⟩] } }) noGo

/-- QUERY (R418): consecutive registers to host memory. -/
def query (r : BitVec 8) (i : BitVec 16) (m : Mach) : Mach :=
  m.descRow r.toNat i.toNat 10
    (fun _ d => !d.zero 16 48 || decide (d.at_ 0 4 % 8 ≠ 0 ∨ d.at_ 4 4 = 0 ∨ 8192 < d.at_ 4 4 ∨ 0x4000000 < d.at_ 0 4 + 8 * d.at_ 4 4))
    (fun d m =>
      let n := d.at_ 4 4
      let m := (List.range n).foldl (fun m k =>
        let (v, m) := m.readReg 0 (d.at_ 0 4 + 8 * k)
        m.hostWrite (d.at_ 8 8 + 8 * k) (leBytes 8 v)) m
      m.complete d 0 0 n []) noGo

/-- R419: a descriptor that FENCE `d` waits for is still in progress. -/
def fenceWaits (m : Mach) (d : Desc) : Bool :=
  let mask := if d.fmt1 then 0 else d.at_ 16 32
  m.hif.descs.any fun e => decide (e.seq < d.seq) && (e.ring == d.ring || bitsAt mask e.ring 1 == 1)

/-- R236: invalidates the instruction caches of the cores of a mask and clears STALE; a stopped core may run again. -/
def cacheInv (mask : Nat) (m : Mach) : Mach :=
  ((List.range 64).filter fun g => bitsAt mask g 1 == 1).foldl (fun m g =>
    (m.wr .CC_CODE_STATUS_STALE g 0).onCore g fun c => { c with icache := [], stopped := false }) m

/-- FENCE (R419). -/
def fence (r : BitVec 8) (i : BitVec 16) (m : Mach) : Mach :=
  let go (d : Desc) (m : Mach) : Mach :=
    if fenceWaits m d then m
    else (if d.at_ 8 1 = 1 then cacheInv (d.at_ 0 8) m else m).complete d 0 0 0 []
  m.descRow r.toNat i.toNat 11 (fun _ d => decide (1 < d.at_ 8 1) || !d.zero 9 (if d.fmt1 then 28 else 16)) go go

/-- DP_RESET (R419, R447): it completes when the reset has finished. -/
def dpReset (r : BitVec 8) (i : BitVec 16) (m : Mach) : Mach :=
  m.descRow r.toNat i.toNat 12 (fun _ d => !d.zero 0 48) (fun d m => m.dpReset (some d)) noGo

/-- R26: a descriptor taken earlier moves bytes between the same two units, and has not done so. -/
def dmaBehind (d : Desc) (m : Mach) : Bool :=
  m.hif.descs.any fun e => e.ty == 3 && e.busy && !e.sent && decide (e.seq < d.seq)
    && m.sameUnit e.dmaCmd.src d.dmaCmd.src && m.sameUnit e.dmaCmd.dst d.dmaCmd.dst

/-- R267, R271: a write of a descriptor that failed: the capture, for hub agent `src`, and PEAT_POOL_EMPTY or ADDR_FAULT with its cause. -/
def writeFailed (d : Desc) (w : Nat × Nat × Mach) (src : Nat) : Mach :=
  (w.2.2.captureFault w.1 w.2.1 true src).complete d (if w.1 = 11 then 0x07 else 0x02) (if w.1 = 11 then 0 else w.1) 0 []

/-- R249, R410: the DMA descriptor has moved its bytes. -/
def dmaEnd (d : Desc) (c : DmaCmd) (bad : Bool) (m : Mach) : Mach := m.complete d (if bad then 0x03 else 0) 0 c.len []

/-- R413: the hub's engine moves the bytes; a remote destination is complete once that module has written it. -/
def dmaMove (d : Desc) (c : DmaCmd) (ack : Bool) (data : List Byte) (ps : List Bool) (m : Mach) : Mach :=
  if dmaBehind d m then m else
  match m.sourceSide c.src c.len ack data ps with
  | none => m
  | some (bs, m) =>
    let out := relayout c.layout bs
    let bad := bs.any Prod.snd
    match (m.side c.dst).remote with
    | some g => (m.memWrite 0 g (m.side c.dst).addr (c.flags == 1) out).onHif fun h =>
        { h with descs := h.descs.map fun e => if e.seq == d.seq then { e with sent := true, poisoned := bad } else e }
    | none =>
      match m.writeSide 0 (m.side c.dst).addr (c.flags == 1) out with
      | .ok m => dmaEnd d c bad m
      | .error w => writeFailed d w 0

/-- DMA (R268, R269, R413): the first time its sides are checked and a remote source is asked for; then the bytes move. `cause` is a
remote module's fault report, which comes from the remote source before this module sends anything. -/
def dma (r : BitVec 8) (i : BitVec 16) (ack : Bool) (cause : BitVec 4) (data : List Byte) (ps : List Bool) (m : Mach) : Mach :=
  m.descRow r.toNat i.toNat 3 (fun _ d => d.dmaCmd.bad || !d.zero (if d.fmt1 then 22 else 24) 48)
    (fun d m =>
      let c := d.dmaCmd
      let s := m.sideCauses c.src c.len false (c.layout == 2) none
      match lowest (s ++ m.sideCauses c.dst c.len true (c.layout == 1) none) with
      | some x =>
        (m.captureFault x (if s.contains x then c.src else c.dst) true 0).complete d 0x02 x 0 []
      | none =>
        match (m.side c.src).remote with
        | some g => m.memRead 0 g (m.side c.src).addr c.len
        | none => dmaMove d c false [] ps m)
    (fun d m =>
      let c := d.dmaCmd
      if cause ≠ 0 then writeFailed d (cause.toNat, if d.sent then c.dst else c.src, m) 0
      else if d.sent then (if ack then dmaEnd d c d.poisoned m else m)
      else dmaMove d c ack data ps m)

end Hif
end Sys2Proof.Machine
end

