-- ==== Sys2Proof/Machine/Firm.lean ====
section
/-! DEFINITION. Firmware and trust (chapter 15): requests to Kindling, the Cordwood watchdog and restarts, SPDM, PLDM, MCTP, the
console, and boundary scan. -/
namespace Sys2Proof.Machine

/-- The module's firmware answers: Kindling has finished its AUX boot (R439). -/
def Mach.kindling (m : Mach) : Bool := m.aux.inLimits && m.on .SEC_STATUS_KINDLING_UP 0

def Mach.onAux (m : Mach) (f : Aux → Aux) : Mach := { m with aux := f m.aux }
def Mach.onFlash (m : Mach) (f : Flash → Flash) : Mach := { m with flash := f m.flash }

/-- `n` bytes of free value. -/
def Mach.freshBytes (m : Mach) (n : Nat) : List Byte × Mach :=
  (List.range n).foldl (fun bm _ => let r := bm.2.fresh; (bm.1 ++ [(Config.freeBits r.1).setWidth 8], r.2)) ([], m)

/-- The 48 bytes of a SHA-384 digest. -/
def digestBytes (d : BitVec 384) : List Byte := leBytes 48 d.toNat

/-- A field of a request's record, and its body's bytes (R427, Table BOOT-2). -/
def MboxReq.at_ (q : MboxReq) (o n : Nat) : Nat := leNat ((q.bytes.drop o).take n)
def bodyBytes (ty : Nat) : Nat := if ty = 1 then 12 else if ty = 3 then 104 else 8
def MboxReq.body (q : MboxReq) (o n : Nat) : Nat := q.at_ (24 + o) n

/-- R427: the record has the form of its type, with a trailer where it is signed. -/
def MboxReq.formed (q : MboxReq) (signed : Bool) : Bool :=
  q.at_ 0 1 == q.ty && q.at_ 1 1 == 1 && q.at_ 4 4 == 24 + bodyBytes q.ty + (if signed then 104 else 0)

/-- RESULT codes (SEC_MBOX_STATUS). -/
def resOk : Nat := 0
def resBad : Nat := 1
def resSig : Nat := 2
def resStale : Nat := 3
def resRefused : Nat := 4

/-- R427: what the signature and its conditions of a request come to, given the USAGE bit that it needs; the lowest code decides. -/
def Mach.sigResult (m : Mach) (q : MboxReq) (usage : Nat) (sigOk : Bool) : Nat :=
  let slot := q.body (bodyBytes q.ty) 2
  if q.at_ 8 8 ≠ m.rd .MOD_SERIAL 0 then resBad
  else if !sigOk || decide (8 ≤ slot) || !m.on .SEC_KEY_VALID slot || bitsAt (m.rd .SEC_KEY_USAGE slot) usage 1 == 0 then resSig
  else if q.at_ 16 8 ≤ m.flash.rseq.get (fun _ => 0) q.ty then resStale
  else resOk

/-- R427: an accepted RSEQ is kept in flash. -/
def Mach.acceptSeq (m : Mach) (q : MboxReq) : Mach := m.onFlash fun x => { x with rseq := NMap.set (fun _ => 0) x.rseq q.ty (q.at_ 16 8) }

/-- R426: the request completes. -/
def Mach.answer (m : Mach) (result : Nat) : Mach :=
  (m.onAux fun a => { a with mbox := none }).wrs 0 [(.SEC_MBOX_STATUS_BUSY, 0), (.SEC_MBOX_STATUS_RESULT, result),
    (.SEC_MBOX_STATUS_SEQ, m.rd .SEC_MBOX_STATUS_SEQ 0 + 1)]

/-- R426: a write of SEC_MBOX_CMD with GO = 1: Kindling takes the request and copies its record; a TYPE that Table BOOT-2 does not
have, and a record that does not lie aligned in staging SRAM, complete with BAD_REQUEST. -/
def Mach.mboxGo (m : Mach) : Mach :=
  if !m.kindling || m.on .SEC_MBOX_STATUS_BUSY 0 then m
  else
    let ty := m.rd .SEC_MBOX_CMD_TYPE 0
    let a := m.rd .SEC_MBOX_CMD_ADDR 0
    let n := min 4096 (leNat ((m.plainRead (a + 4) 4).map Prod.fst))
    if !decide (1 ≤ ty ∧ ty ≤ 6) || decide (a % 64 ≠ 0) || rangeOf a != .staging || rangeOf (a + max n 1 - 1) != .staging then m.answer resBad
    else
      let bs := (m.plainRead a (max n 24)).map Prod.fst
      (m.onAux fun x => { x with mbox := some ⟨ty, bs⟩ }).wr .SEC_MBOX_STATUS_BUSY 0 1

/-- The request that Kindling works on, if it is of a type. -/
def Mach.request (m : Mach) (ty : Nat) : Option MboxReq := if m.kindling then m.aux.mbox.filter fun q => q.ty == ty else none

/-- A signed request: `f` answers it once its conditions hold. -/
def Mach.signedReq (m : Mach) (ty usage : Nat) (sigOk : Bool) (f : MboxReq → Mach → Nat × Mach) : Mach :=
  match m.request ty with
  | none => m
  | some q =>
    if !q.formed true then m.answer resBad
    else if m.sigResult q usage sigOk ≠ resOk then m.answer (m.sigResult q usage sigOk)
    else
      let r := f q (m.acceptSeq q)
      r.2.answer r.1

/-- R358: an axis of a slice fits its installed extent. -/
def axisFits (o e n : Nat) : Bool := decide (1 ≤ e) && (decide (e = n ∧ o = 0) || decide (o + e ≤ n))

/-- Cordwood's flash copy `i` (0 A, 1 B), and whether an image passes R429's conditions. -/
def Mach.cordImg (m : Mach) (i : Nat) : Option FlashImg := if i = 0 then m.flash.cordA else m.flash.cordB
def Mach.imgPasses (m : Mach) (i : Nat) : Bool :=
  (m.cordImg i).elim false fun x => x.signed && decide (m.rd .SEC_SVN_CORDWOOD_FUSED 0 ≤ x.svn)

/-- R430: image `i` is loaded; `fallback` says that it is not the one selected first. -/
def Mach.putCordwood (m : Mach) (i : Nat) (fallback : Bool) : Mach :=
  match m.cordImg i with
  | none => m
  | some x =>
    (m.onAux fun a => { a with resident := some ⟨x, (Config.digest x.bytes).toNat⟩ }).wrs 0 [(.SEC_STATUS_IMAGE, i),
      (.SEC_STATUS_FALLBACK, b2n fallback), (.SEC_STATUS_CORDWOOD_VER, x.version), (.SEC_SVN_CORDWOOD_BOOTED, x.svn)]

/-- R430: Kindling loads the image it selected, or else the other; `loadA` and `loadB` say that a copy's bytes had the digest verified. -/
def Mach.loadCordwood (m : Mach) (loadA loadB : Bool) : Option Mach :=
  match m.aux.selected with
  | none => none
  | some i =>
    let ok (j : Nat) : Bool := m.imgPasses j && (if j = 0 then loadA else loadB)
    if ok i then some (m.putCordwood i false) else if ok (1 - i) then some (m.putCordwood (1 - i) true) else none

/-- R421, R437: what a restart of Cordwood does: its descriptors complete with ABORTED, a load and a discovery in progress end. -/
def Mach.cordwoodStops (m : Mach) : Mach :=
  let m := { m with deferred := [], loads := [], acking := [] }
  let m := m.abortDescs (m.hif.descs.filter fun d => !([2, 5, 6, 9].contains d.ty))
  let m := (List.range 32).foldl (fun m i => m.wr .SEQ_BANK_LOAD_BUSY i 0) m
  let busy := m.rd .FAB_STATUS_DISC 0 == 1 || m.rd .FAB_STATUS_DISC 0 == 2
  (if busy then m.wr .FAB_STATUS_DISC 0 0 else m).onFab fun b => { b with offers := [], hold := none, check := none }

/-- Cordwood is taken down to restart (R421, R436). -/
def Mach.restartCordwood (m : Mach) : Mach :=
  (((m.cordwoodStops.wr .MOD_STATUS_CORDWOOD_UP 0 0).onAux fun a => { a with restarting := true, wdog := none }).event
    .HIF_EVT_CORDWOOD_RESTART)

/-- The watchdog's period starts (R436). -/
def Mach.kick (m : Mach) : Mach := m.onAux fun a => { a with wdog := some (m.time + m.rd .SEC_WDOG_TIMEOUT_MS 0 * 1000000) }

/-- R443, R429: bring-up fails with a cause. -/
def Mach.bootFail (m : Mach) (cause : Nat) : Mach :=
  (m.wrs 0 [(.MOD_BOOT_STAGE, 15), (.MOD_BOOT_FAIL_CAUSE, cause)]).raise 0x24 cause srcHub 0 0

/-- A FATAL_MODULE entry that is logged without R501's completions, where its own rule says what ends (R438, R455, R466). -/
def Mach.logFatal (m : Mach) (code arg0 : Nat) : Mach :=
  m.logFault ⟨m.time, m.rd .TICK_NUMBER 0 % 2 ^ 48, code, 4, 0, srcHub, arg0 % 2 ^ 32, 0⟩

/-- What a policy record in flash, or a POLICY request, sets at once (Table BOOT-2). -/
def Mach.applyPolicy (m : Mach) (p : List Nat) : Mach :=
  (m.wrs 0 [(.SEC_POLICY_REQUIRE_SIG, p.getD 0 0), (.SEC_POLICY_BAR4, p.getD 1 0), (.SEC_POLICY_DEBUG_LOCK, p.getD 2 0),
    (.SEC_POLICY_PMODE_FLOOR, p.getD 3 0), (.SEC_WDOG_TIMEOUT_MS, p.getD 4 0)]).repmode

/-- Slot `n` holds a key of a usage, or nothing where the key is all zeros (Table BOOT-2). -/
def Mach.setKey (m : Mach) (n usage : Nat) (key : List Byte) : Mach :=
  let empty := key.all (· == 0)
  let m := m.wrs n [(.SEC_KEY_VALID, b2n !empty), (.SEC_KEY_USAGE, if empty then 0 else usage),
    (.SEC_KEY_FPR, if empty then 0 else (Config.digest key).toNat % 2 ^ 48)]
  m.wr .SEC_STATUS_OWNED 0 (b2n ((List.range 8).any fun i => bitsAt (m.rd .SEC_KEY_USAGE i) 3 1 == 1))

/-- The unused spares of a kind of core `g` (R91, R506): two, less those of manufacture, of field slots, and bad ones. -/
def spareBase (m : Mach) (g kind : Nat) : Nat := if kind = 0 then m.rd .OPE_REPAIR_MFG_ROWS g else m.rd .OPE_REPAIR_MFG_COLS g
def slotKind (v : Nat) : Option Nat := if v = 0 then none else some (bitsAt v 7 1)
def onesOf (v : Nat) : Nat := ((List.range 130).map fun i => bitsAt v i 1).foldl (· + ·) 0
def State.sparesLeft (s : State) (g kind : Nat) : Nat :=
  2 - spareBase s.m g kind - ((List.range 2).countP fun i => slotKind (s.fuses.slots.get (fun _ => 0) (2 * g + i)) == some kind)
    - onesOf (s.m.flash.badSpares.get (fun _ => 0) (2 * g + kind))

/-- OPE_REPAIR of core `g` shows field slot `i` (`v` as the fuses hold it). -/
def Mach.showSlot (m : Mach) (g i v : Nat) : Mach :=
  let m := m.wr .OPE_REPAIR_FIELD_USED g (m.rd .OPE_REPAIR_FIELD_USED g + 1)
  if i = 0 then m.wrs g [(.OPE_REPAIR_FIELD0_VALID, 1), (.OPE_REPAIR_FIELD0_KIND, bitsAt v 7 1), (.OPE_REPAIR_FIELD0_INDEX, v % 128)]
  else m.wrs g [(.OPE_REPAIR_FIELD1_VALID, 1), (.OPE_REPAIR_FIELD1_KIND, bitsAt v 7 1), (.OPE_REPAIR_FIELD1_INDEX, v % 128)]

/-- A message leaves over SPDM or MCTP. -/
def Mach.reply (m : Mach) (kind : Nat) (bs : List Byte) : Mach :=
  { m with mgmt := { m.mgmt with sent := m.mgmt.sent ++ [⟨kind, bs⟩] } }

/-- SPDM's refusal of a request that its state or its operands do not allow (DSP0274). -/
def Mach.spdmError (m : Mach) : Mach := m.reply 0x7F [1]

/-- The measurement of an index of Table BOOT-3. -/
def Mach.measurement (m : Mach) (i : Nat) : List Byte :=
  let regs (fs : List Fld) : List Byte := fs.flatMap fun f => leBytes 8 (m.rd f 0)
  if i = 1 then digestBytes Config.romDigest
  else if i = 2 then
    match (if m.on .SEC_STATUS_PATCH_VALID 0 then m.flash.patch else none) with
    | some x => digestBytes (Config.digest x.bytes)
    | none => List.replicate 48 0
  else if i = 3 then leBytes 48 (m.aux.resident.elim 0 (·.digest))
  else if i = 4 then digestBytes (Config.digest (regs [.SEC_POLICY_REQUIRE_SIG, .SEC_POLICY_BAR4, .SEC_POLICY_DEBUG_LOCK,
    .SEC_POLICY_PMODE_FLOOR, .SEC_SVN_KINDLING_FUSED, .SEC_SVN_CORDWOOD_FUSED]))
  else if i = 5 then digestBytes (Config.digest ((List.range 8).flatMap fun n =>
    leBytes 1 (m.rd .SEC_KEY_USAGE n) ++ leBytes 6 (m.rd .SEC_KEY_FPR n) ++ m.flash.keys.get (fun _ => []) n))
  else digestBytes (Config.digest m.flash.record)

namespace Firm

/-- SLICE_GRANT (R426, R427, R358). -/
def sliceGrant (sigOk : Bool) (m : Mach) : Mach :=
  m.signedReq 1 1 sigOk fun q m =>
    let o (i : Nat) := q.body (4 + i) 1
    let fits := axisFits (o 0) (o 3) (m.rd .FAB_COORD_NX 0) && axisFits (o 1) (o 4) (m.rd .FAB_COORD_NY 0)
      && axisFits (o 2) (o 5) (m.rd .FAB_COORD_NZ 0)
    if !m.on .FAB_STATUS_COORD_VALID 0 || !fits then (resRefused, m)
    else (resOk, [(Fld.FAB_SLICE_OX, o 0), (.FAB_SLICE_OY, o 1), (.FAB_SLICE_OZ, o 2), (.FAB_SLICE_EX, o 3), (.FAB_SLICE_EY, o 4),
      (.FAB_SLICE_EZ, o 5), (.FAB_SLICE_ID, q.body 0 4)].foldl (fun m (fv : Fld × Nat) => m.wrS fv.1 0 fv.2) m)

/-- POLICY (R427): kept in flash; BAR4 takes effect at the next module reset. -/
def policy (sigOk : Bool) (m : Mach) : Mach :=
  m.signedReq 2 2 sigOk fun q m =>
    let p := [q.body 0 1, q.body 1 1, q.body 2 1, q.body 3 1, q.body 4 2]
    if (p.take 3).any (fun x => decide (1 < x)) || decide (2 < p.getD 3 0) || decide (p.getD 4 0 < 10 ∨ 1000 < p.getD 4 0) then (resBad, m)
    else
      let old := m.rd .SEC_WDOG_TIMEOUT_MS 0 * 1000000
      let m := (m.applyPolicy p).onFlash fun x => { x with policy := some p }
      (resOk, m.onAux fun a => { a with wdog := a.wdog.map fun t => max m.time (t - old + p.getD 4 0 * 1000000) })

/-- KEY (R427): signed by an OWNER slot, unsigned while there is none. -/
def key (sigOk : Bool) (m : Mach) : Mach :=
  let act (q : MboxReq) (m : Mach) : Nat × Mach :=
    let n := q.body 0 1
    let u := q.body 1 1
    let k := (q.bytes.drop 32).take 96
    if n = 0 ∨ 7 < n ∨ 15 < u then (resBad, m)
    else
      let empty := k.all (· == 0)
      (resOk, (m.setKey n u k).onFlash fun x => { x with
        usages := NMap.set (fun _ => 0) x.usages n (if empty then 0 else u), keys := NMap.set (fun _ => []) x.keys n (if empty then [] else k) })
  if m.on .SEC_STATUS_OWNED 0 then m.signedReq 3 3 sigOk act
  else match m.request 3 with
    | none => m
    | some q => if q.formed false then (act q m).2.answer (act q m).1 else m.answer resBad

/-- FIELD_FUSE (R91, R92, R506). A core that is not fenced is served too, and stays unfenced with FIELD_PENDING 1 (DESIGN CHOICE: the spec
names no such refusal and leaves the fence to Cordwood; log entry 66). -/
def fieldFuse (s : State) : State :=
  match s.m.request 4 with
  | none => s
  | some q =>
    let g := q.body 0 1
    let kind := q.body 1 1
    let idx := q.body 2 1
    let used := s.m.rd .OPE_REPAIR_FIELD_USED g
    if !q.formed false || decide (63 < g ∨ 1 < kind ∨ 127 < idx) then s.lift fun m => m.answer resBad
    else if 2 ≤ used ∨ s.sparesLeft g kind = 0 then s.lift fun m => m.answer resRefused
    else
      let v := 256 + 128 * kind + idx
      { s with fuses := { s.fuses with slots := NMap.set (fun _ => 0) s.fuses.slots (2 * g + used) v }
               m := { ((s.m.showSlot g used v).wr .OPE_REPAIR_FIELD_PENDING g 1).answer resOk with newSlots := (2 * g + used) :: s.m.newSlots } }

/-- SVN_COMMIT (R435): each fused counter rises to the SVN of what booted; a counter has 64 steps. -/
def svnCommit (s : State) : State :=
  match s.m.request 5 with
  | none => s
  | some q =>
    if !q.formed false then s.lift fun m => m.answer resBad
    else
      let k := max s.fuses.kindling (min 64 (s.m.rd .SEC_SVN_KINDLING_BOOTED 0))
      let c := max s.fuses.cordwood (min 64 (s.m.rd .SEC_SVN_CORDWOOD_BOOTED 0))
      { s with fuses := { s.fuses with kindling := k, cordwood := c }
               m := (s.m.wrs 0 [(.SEC_SVN_KINDLING_FUSED, k), (.SEC_SVN_CORDWOOD_FUSED, c)]).answer resOk }

/-- ACTIVATE (R434): Cordwood restarts from a named image; the translation cache empties (R231). -/
def activate (m : Mach) : Mach :=
  match m.request 6 with
  | none => m
  | some q =>
    let i := q.body 0 1
    if !q.formed false || decide (1 < i) then m.answer resBad
    else if !m.imgPasses i || !(m.on .MOD_STATUS_CORDWOOD_UP 0 || m.aux.restarting) || !m.mainUp || m.on .SEC_STATUS_CORDWOOD_FAILED 0 then m.answer resRefused
    else
      let m := (m.putCordwood i false).onAux fun a => { a with selected := some i }
      { m.restartCordwood with cache := [] }.answer resOk

/-- SEC_WDOG_KICK: a write of 1 (R436). -/
def wdogKick (m : Mach) : Mach := if m.on .MOD_STATUS_CORDWOOD_UP 0 then m.kick else m

/-- R438: Cordwood is left stopped; a running step goes on. -/
def cordwoodFails (m : Mach) : Mach :=
  let m := (m.cordwoodStops.wrs 0 [(.SEC_STATUS_CORDWOOD_FAILED, 1), (.MOD_FLT_STATUS_FATAL_MODULE, 1)]).logFatal 0x21 0
  let m := m.faultTrace srcHub 0x21 4
  m.event .HIF_EVT_ALERT

/-- WATCHDOG_EXPIRY (R436-R438): `hashOk` is the outcome of the re-hash of the resident image, `loadA` and `loadB` of a reload. -/
def watchdogExpiry (hashOk loadA loadB : Bool) (m : Mach) : Mach :=
  match m.aux.wdog with
  | none => m
  | some t =>
    if !m.on .MOD_STATUS_CORDWOOD_UP 0 then m
    else
      let m := m.advanceTo t
      let es := (m.aux.expiries.filter fun e => decide (t < e + 60000000000)) ++ [t]
      let m := (m.wr .MOD_STATUS_CORDWOOD_UP 0 0).onAux fun a => { a with wdog := none, expiries := es }
      if 4 ≤ es.length then cordwoodFails m
      else
        let m := (m.bump .SEC_WDOG_RESTARTS 0 1).restartCordwood.raise 0x48 0 srcHub 0 0
        if hashOk then m else match m.loadCordwood loadA loadB with
          | some m => m
          | none => (m.onAux fun a => { a with restarting := false, resident := none }).bootFail 5

/-- CORDWOOD_RESTART_COMPLETE (R436). -/
def restartComplete (m : Mach) : Mach :=
  if m.aux.restarting && m.mainUp then ((m.onAux fun a => { a with restarting := false }).wr .MOD_STATUS_CORDWOOD_UP 0 1).kick else m

/-- The SPDM responder has reached a stage, and answers with `f`; the negotiation's order is DSP0274's. -/
def spdm (stage : Nat) (f : Mach → Mach) (m : Mach) : Mach :=
  if !m.kindling then m else if m.mgmt.stage < stage then m.spdmError else f m

def setStage (n : Nat) (m : Mach) : Mach := { m with mgmt := { m.mgmt with stage := n } }

/-- GET_VERSION: version 1.2 (R432). -/
def getVersion : Mach → Mach := spdm 0 fun m => setStage 1 (m.reply 1 [0x12])

/-- GET_CAPABILITIES: certificates, challenge and signed measurements; no key exchange, sessions or mutual authentication (R432). -/
def getCapabilities : Mach → Mach := spdm 1 fun m => setStage 2 (m.reply 2 [1, 1, 1, 0, 0, 0])

/-- NEGOTIATE_ALGORITHMS: ECDSA P-384 and SHA-384, where the requester offers both (R432). -/
def negotiate (offered : Bool) : Mach → Mach := spdm 2 fun m => if offered then setStage 3 (m.reply 3 [1, 1]) else m.spdmError

/-- GET_DIGESTS: the digest of slot 0's chain. -/
def getDigests : Mach → Mach := spdm 3 fun m => let r := m.freshBytes 48; r.2.reply 4 r.1

/-- GET_CERTIFICATE: slot 0 holds the chain (R432). -/
def getCertificate (slot : BitVec 4) : Mach → Mach :=
  spdm 3 fun m => if slot = 0 then (let r := m.freshBytes 48; r.2.reply 5 r.1) else m.spdmError

/-- CHALLENGE: 96 bytes of signature by slot 0's key. -/
def challenge (slot : BitVec 4) : Mach → Mach :=
  spdm 3 fun m => if slot = 0 then (let r := m.freshBytes 96; r.2.reply 6 r.1) else m.spdmError

/-- GET_MEASUREMENTS: the number of indices (0), one of them, or all (255). -/
def getMeasurements (index : BitVec 8) : Mach → Mach :=
  spdm 3 fun m =>
    let i := index.toNat
    if i = 0 then m.reply 7 [6]
    else if i = 255 then m.reply 7 ((List.range 6).flatMap fun k => m.measurement (k + 1))
    else if i ≤ 6 then m.reply 7 (m.measurement i) else m.spdmError

/-- PLDM_FIRMWARE_UPDATE: a component's inactive copy is written; one that is not whole fails verification (R434). -/
def pldmUpdate (cordwood : Bool) (img : FlashImg) (whole : Bool) (m : Mach) : Mach :=
  if !m.kindling || !m.on .MOD_STATUS_CORDWOOD_UP 0 then m
  else
    let x : FlashImg := { img with signed := img.signed && whole }
    m.onFlash fun f =>
      if !cordwood then { f with patchCopy := some x }
      else if m.rd .SEC_STATUS_IMAGE 0 = 0 then { f with cordB := some x } else { f with cordA := some x }

/-- ACTIVATE_FIRMWARE: it succeeds only if the new copy passes R428 or R429; a patch becomes active at the next cold reset. -/
def activateFirmware (cordwood : Bool) (m : Mach) : Mach :=
  if !m.kindling || !m.on .MOD_STATUS_CORDWOOD_UP 0 then m
  else if cordwood then m.reply 8 [if m.imgPasses (1 - m.rd .SEC_STATUS_IMAGE 0) then 1 else 0]
  else match m.flash.patchCopy with
    | some x =>
      if x.signed && decide (m.rd .SEC_SVN_KINDLING_FUSED 0 ≤ x.svn) then (m.onFlash fun f => { f with patchNext := some x }).reply 8 [1]
      else m.reply 8 [0]
    | none => m.reply 8 [0]

/-- MCTP_SMBUS_MESSAGE of a message type: 0 control, 1 PLDM, 5 SPDM (R538). -/
def mctp (ty : BitVec 7) (payload : List Byte) (m : Mach) : Mach :=
  if !m.kindling || m.pins.scan != 0 then m
  else if ty = 0 then (let r := m.freshBytes 4; r.2.reply 9 r.1)
  else if m.on .MOD_STATUS_CORDWOOD_UP 0 && (ty == 1 || ty == 5) then
    { m with mgmt := { m.mgmt with relayed := m.mgmt.relayed ++ [⟨ty.toNat, payload⟩] } }
  else m

/-- CONSOLE_INPUT: the console answers, and can rewrite a Cordwood copy (true: B) (R429, R539). -/
def console (bytes : List Byte) (rewrite : Option (Bool × FlashImg)) (m : Mach) : Mach :=
  if !m.kindling || m.pins.scan != 0 then m
  else
    let r := m.freshBytes bytes.length
    let m : Mach := { r.2 with pins := { r.2.pins with uartOut := r.2.pins.uartOut ++ r.1 } }
    match rewrite with
    | none => m
    | some (b, x) => m.onFlash fun f => if b then { f with cordB := some x } else { f with cordA := some x }

/-- JTAG_BOUNDARY_SCAN: 1 EXTEST, 2 CLAMP or 3 HIGHZ takes the sideband pins out of their function (R541); `cells` is what the TAP has shifted
into the boundary-scan register (R540). -/
def boundaryScan (ins : BitVec 2) (cells : BitVec 25) (m : Mach) : Mach :=
  if !m.aux.inLimits || ins == 0 then m else { m with pins := { m.pins with scan := ins.toNat, cells := cells.toNat } }

end Firm
end Sys2Proof.Machine
end

