-- ==== Sys2Proof/Machine/Power.lean ====
section
/-! DEFINITION. Supplies, clocks, temperatures, pins and bring-up (chapters 15, 16 and 20): AUX power and Kindling's boot, the
regulators, the stages of bring-up, the 48 V monitor, phases, droop, REFCLK, throttle and trip, PERST_N and boundary scan. -/
namespace Sys2Proof.Machine

/-- The sideband pins are in their function: no boundary-scan instruction has taken them (R541). -/
def Mach.pinsLive (m : Mach) : Bool := m.pins.scan == 0

def Mach.onPins (m : Mach) (f : Pins → Pins) : Mach := { m with pins := f m.pins }

/-- R440, R456, R466, R429: the conditions on which the main-domain regulators come up. -/
def Mach.mayPower (m : Mach) : Bool :=
  m.kindling && m.pins.pwrEn && m.aux.selected.isSome && !m.aux.failWait && !m.aux.tripped && m.rd .MOD_BOOT_STAGE 0 != 15
    && decide (m.aux.tripAt = 0 ∨ m.aux.tripAt + 1000000000 ≤ m.time) && !m.on .MOD_STATUS_PWR_GOOD 0

/-- R537, Table PHY-6: ALERT_N is asserted. -/
def Mach.alert (m : Mach) : Bool :=
  m.on .PWR_STATUS_REF_LOST 0 || m.on .PWR_STATUS_PHASE_DEGRADED 0 || m.on .SEC_STATUS_CORDWOOD_FAILED 0
    || m.on .MOD_FLT_STATUS_FATAL_MODULE 0 || m.rd .MOD_BOOT_STAGE 0 == 15 || m.aux.powerTaken

/-- Maximum end of a bring-up stage in ns (Table BOOT-4). -/
def stageMaxNs (s : Nat) : Nat :=
  1000000 * (match s with
    | 2 => 2
    | 3 => 602
    | 4 => 1802
    | 5 => 1882
    | 6 => 1897
    | 7 => 2297
    | 8 => 3000
    | _ => 0)

/-- A stage of bring-up is in progress. -/
def Mach.inStage (m : Mach) : Bool := m.mainUp && decide (1 ≤ m.rd .MOD_BOOT_STAGE 0 ∧ m.rd .MOD_BOOT_STAGE 0 ≤ 8)

/-- Stage 3 (R251): the sparing record is applied; `bad` are the stacks that failed. -/
def Mach.stacksUp (m : Mach) (bad : Nat) : Mach :=
  (List.range 32).foldl (fun m n => m.wrs n [(.MEM_STK_STATUS_SPARED_PC, m.flash.sparing.get (fun _ => 0x3F) n),
    (.MEM_STK_STATUS_SPARE_NEXT, m.flash.sparing.get (fun _ => 0x3F) n), (.MEM_STK_STATUS_FAILED, bitsAt bad n 1)]) m

/-- Stage 4 (R341, R342): light at the laser ports, and the links that it tuned, which then train. -/
def Mach.tuneUp (m : Mach) (o : BootOut) : Mach :=
  let lit0 := hasLight o.power0.toNat o.lines0
  let lit1 := hasLight o.power1.toNat o.lines1
  let m := m.wrs 0 [(.FAB_LASER_LSP0_LIGHT, b2n lit0), (.FAB_LASER_LSP1_LIGHT, b2n lit1),
    (.FAB_LASER_LSP0_POWER, o.power0.toNat), (.FAB_LASER_LSP1_POWER, o.power1.toNat), (.FAB_LASER_SINGLE, b2n (lit0 != lit1))]
  if !lit0 && !lit1 then (m.wr .MOD_STATUS_NO_LIGHT 0 1).raise 0x55 0 srcHub 0 0
  else ((List.range 36).filter fun k => bitsAt o.tuned.toNat k 1 == 1).foldl (fun m k => m.setLink k 1 0) m

/-- R444: READY. -/
def Mach.becomeReady (m : Mach) : Mach :=
  let m := m.wrs 0 [(.MOD_STATUS_READY, 1), (.MOD_BOOT_STAGE, 9), (.MOD_BOOT_READY_MS, (m.time - m.aux.base) / 1000000)]
  let m := m.reAvail.repmode
  if m.aux.powerTaken then m.event .HIF_EVT_ALERT else m

/-- R441, R443, Table BOOT-4: the work of a stage is done, with what it found. -/
def Mach.stageDone (m : Mach) (o : BootOut) : Mach :=
  let next (m : Mach) : Mach := m.wr .MOD_BOOT_STAGE 0 (m.rd .MOD_BOOT_STAGE 0 + 1)
  match m.rd .MOD_BOOT_STAGE 0 with
  | 2 => if o.pll then next (m.wr .HIF_STATUS_MODE 0 (b2n m.pins.cxlSel)) else m.bootFail 2
  | 3 => if o.stackBad = 0 then next (m.stacksUp 0) else (m.stacksUp o.stackBad.toNat).bootFail 3
  | 4 => next (m.tuneUp o)
  | 5 => if o.hubOk then next (m.onAux fun a => { a with bistOk := o.cores.toNat }) else m.bootFail 4
  | 7 => match m.loadCordwood o.loadA o.loadB with
    | some m => next (m.wr .MOD_STATUS_CORDWOOD_UP 0 1).kick
    | none => m.bootFail 5
  | 8 => m.becomeReady
  | _ => next m

/-- R455, R458, R466: a reset that switches the main domain off, its entry logged once its cause is recorded; ALERT_N then holds
until the host clears it (R537). -/
def Mach.powerLost (m : Mach) (cause code arg0 : Nat) : Mach :=
  ((m.trigReset cause m.time m.pins.perstLow).logFatal code arg0).onAux fun a => { a with powerTaken := true }

/-- Marks that the clock of a die's regions was stretched, for their next records (R61, R461). -/
def Mach.markStretched (m : Mach) (d : Nat) : Mach :=
  ((List.range 16).map (16 * d + ·) ++ [srcDie d]).foldl (fun m r => m.setBuf r { m.buf r with stretched := true }) m

/-- The throttle-on, throttle-off and trip levels of sensor `n`, in units of 0.25 °C (Table PWR-4). -/
def tempOn (n : Nat) : Int := if n < 5 then 400 else 380
def tempOff (n : Nat) : Int := if n < 5 then 380 else 360
def tempTrip (n : Nat) : Int := if n < 5 then 460 else 420

/-- The register holds what was fused into the unit at manufacture (R2, R14, R91, R435): what no reset changes. -/
def Fld.manufactured (f : Fld) (i : Nat) : Bool :=
  match f with
  | .MOD_ID_STACK_GIB | .MOD_SERIAL | .OPE_REPAIR_MFG_ROWS | .OPE_REPAIR_MFG_COLS => true
  | .SEC_KEY_FPR => i == 0
  | _ => false

namespace Power

/-- AUX12_OUT_OF_LIMITS (R451, R446): a cold reset. Manufactured values, flash, fuses, pin levels, the host's memory and what has been sent stay. -/
def auxOut (s : State) : State :=
  if !s.m.aux.inLimits then s
  else s.lift fun m =>
    { Mach.reset with
      regs := m.regs.filter fun kv => (Fld.ofKey kv.1).1.manufactured (Fld.ofKey kv.1).2
      flash := m.flash
      host := m.host
      hostPoison := m.hostPoison
      skipped := m.skipped
      free := m.free
      hif := { Hif.reset with sent := m.hif.sent }
      fab := { Fab.reset with out := m.fab.out }
      mgmt := { Mgmt.reset with sent := m.mgmt.sent, relayed := m.mgmt.relayed }
      pins := { Pins.idle with perstLow := m.pins.perstLow, pwrEn := m.pins.pwrEn, uartOut := m.pins.uartOut } }

/-- The fused values as the registers show them (R91, R435). -/
def showFuses (f : Fuses) (m : Mach) : Mach :=
  f.slots.foldl (fun m (kv : Nat × Nat) => m.showSlot (kv.1 / 2) (kv.1 % 2) kv.2)
    (m.wrs 0 [(.SEC_SVN_KINDLING_FUSED, f.kindling), (.SEC_SVN_CORDWOOD_FUSED, f.cordwood)])

/-- AUX12_IN_LIMITS (R439, R533): MOD_ADDR is sampled and Kindling boots; `mv` is the input in mV. -/
def auxIn (addr : BitVec 3) (mv : BitVec 16) (s : State) : State :=
  if s.m.aux.inLimits || decide (mv.toNat < 10800 ∨ 13200 < mv.toNat) then s
  else s.lift fun m => showFuses s.fuses (((m.onAux fun a => { a with inLimits := true }).onPins fun p =>
    { p with sampledAddr := addr.toNat }).wr .PWR_VIN_AUX_MV 0 mv.toNat)

/-- R428: the patch that the ROM runs, if one passes. -/
def bootPatch (m : Mach) : Mach :=
  let m := m.onFlash fun f => { f with patch := f.patchNext.orElse fun _ => f.patch, patchNext := none }
  match m.flash.patch.filter fun x => x.signed && decide (m.rd .SEC_SVN_KINDLING_FUSED 0 ≤ x.svn) with
  | some x => m.wrs 0 [(.SEC_STATUS_PATCH_VALID, 1), (.SEC_STATUS_KINDLING_VER, x.version), (.SEC_SVN_KINDLING_BOOTED, x.svn)]
  | none =>
    let r := m.fresh
    r.2.wr .SEC_STATUS_KINDLING_VER 0 (Config.freeBits r.1).toNat

/-- R429: the Cordwood image that Kindling selects. -/
def selectImage (m : Mach) : Option Nat :=
  let ver (i : Nat) : Nat := (m.cordImg i).elim 0 (·.version)
  match m.imgPasses 0, m.imgPasses 1 with
  | true, true => some (if ver 0 < ver 1 then 1 else 0)
  | true, false => some 0
  | false, true => some 1
  | false, false => none

/-- KINDLING_BOOT_DONE (R428, R429, R439, R531): patch, policy and keys from flash, image selection, KINDLING_UP and CLKREQ_N. -/
def kindlingDone (m : Mach) : Mach :=
  if !m.aux.inLimits || m.on .SEC_STATUS_KINDLING_UP 0 then m
  else
    let m := bootPatch m
    let m := m.flash.policy.elim m m.applyPolicy
    let m := m.flash.keys.foldl (fun m (nk : Nat × List Byte) => m.setKey nk.1 (m.flash.usages.get (fun _ => 0) nk.1) nk.2) m
    let m := ((m.onAux fun a => { a with selected := selectImage m }).wr .SEC_STATUS_KINDLING_UP 0 1).onPins fun p => { p with clkreq := true }
    if (selectImage m).isNone then m.wrs 0 [(.MOD_BOOT_STAGE, 15), (.MOD_BOOT_FAIL_CAUSE, 5)] else m

/-- PWR_EN_RISE (R440, R466): the regulators may come up again after a trip. -/
def pwrEnRise (m : Mach) : Mach :=
  let m := m.onPins fun p => { p with pwrEn := true }
  if m.pinsLive then m.onAux fun a => { a with tripped := false } else m

/-- PWR_EN is low: the main domain goes down as in a power-fail reset; a trip's pin and a failed boot end (R440, R466, R537). -/
def powerOff (m : Mach) : Mach :=
  let m := if m.on .MOD_STATUS_PWR_GOOD 0 || m.aux.reset.isSome then m.trigReset 4 m.time m.pins.perstLow else m
  ((m.onPins fun p => { p with thermTrip := false }).onAux fun a => { a with failWait := false }).wrs 0
    [(.MOD_BOOT_STAGE, 0), (.MOD_BOOT_FAIL_CAUSE, 0)]

/-- PWR_EN_FALL. -/
def pwrEnFall (m : Mach) : Mach :=
  if !m.pins.pwrEn then m
  else
    let m := m.onPins fun p => { p with pwrEn := false }
    if m.pinsLive then powerOff m else m

/-- PWR_GOOD_RISE (R440, R441, R534): bring-up starts at stage 1; a PERST_N that is low holds it there. -/
def pwrGood (m : Mach) : Mach :=
  if !m.mayPower then m
  else
    let m := ((m.setRails 1).onAux fun a => { a with reset := none }).bringUp.wr .HIF_STATUS_BAR4_EN 0 (m.rd .SEC_POLICY_BAR4 0)
    if m.pins.perstLow then m.onAux fun a => { a with reset := some ⟨m.time, m.time, true⟩ } else m

/-- BRINGUP_STAGE_END: `us` after the times began, or at the stage's maximum if that is sooner (R441). -/
def stageEnd (us : BitVec 22) (o : BootOut) (m : Mach) : Mach :=
  if !m.inStage then m
  else (m.advanceTo (m.aux.base + min (us.toNat * 1000) (stageMaxNs (m.rd .MOD_BOOT_STAGE 0)))).stageDone o

/-- BRINGUP_STAGE_TIMEOUT (R443): a stage passes its maximum; or PWR_GOOD does not come (R440). -/
def stageTimeout (m : Mach) : Mach :=
  if m.inStage then (m.advanceTo (m.aux.base + stageMaxNs (m.rd .MOD_BOOT_STAGE 0))).bootFail 6
  else if m.mayPower then m.bootFail 1
  else m

/-- PERST_ASSERT (R445, R534, R535). -/
def perstAssert (m : Mach) : Mach :=
  if m.pins.perstLow then m
  else
    let m := m.onPins fun p => { p with perstLow := true }
    if m.pinsLive && m.mayReset && (m.on .MOD_STATUS_PWR_GOOD 0 || m.aux.reset.isSome) then m.trigReset 1 m.time true else m

/-- The level of PERST_N is high: CXL_SEL is sampled and the reset that PERST_N holds ends (R393, R534). -/
def perstHigh (cxl : Bool) (m : Mach) : Mach :=
  ((m.onPins fun p => { p with cxlSel := cxl }).onAux fun a =>
    { a with reset := a.reset.map fun r => { r with perst := false } }).endReset

/-- PERST_DEASSERT. -/
def perstDeassert (cxl : Bool) (m : Mach) : Mach :=
  if !m.pins.perstLow then m
  else
    let m := m.onPins fun p => { p with perstLow := false }
    if m.pinsLive && m.aux.inLimits then perstHigh cxl m else m

/-- The 48 V monitor acts: AUX12 in limits and PWR_EN high (R451). -/
def monitor (m : Mach) : Bool := m.aux.inLimits && m.pins.pwrEn

/-- WARN_TRIP (R452-R454). -/
def warnTrip (mv : BitVec 16) (m : Mach) : Mach :=
  let v := mv.toNat
  if !monitor m || decide (41000 ≤ v) || m.on .PWR_STATUS_WARN 0 then m
  else
    let m := m.wrs 0 [(.PWR_STATUS_WARN, 1), (.PWR_VIN_VIN_MV, v)]
    if m.on .MOD_STATUS_DIP_ACTIVE 0 then
      (m.onAux fun a => { a with dipEnd := none }).wr .PWR_DIP_MIN_MV 0 (min v (m.rd .PWR_DIP_MIN_MV 0))
    else
      let m := (m.wrs 0 [(.MOD_STATUS_DIP_ACTIVE, 1), (.PWR_DIP_TIME, m.time), (.PWR_DIP_MIN_MV, v), (.PWR_DIP_VALID, 1)]).repmode
      (m.bump .PWR_DIP_EVENTS 0 1).trace srcHub 8 (leBytes 1 1 ++ leBytes 2 v)

/-- WARN_CLEAR: the input has stayed at or above 42.0 V for 1 ms; `low` is the lowest since the trip. -/
def warnClear (low : BitVec 16) (m : Mach) : Mach :=
  if !monitor m || !m.on .PWR_STATUS_WARN 0 then m
  else
    let m := m.wrs 0 [(.PWR_STATUS_WARN, 0), (.PWR_DIP_MIN_MV, min low.toNat (m.rd .PWR_DIP_MIN_MV 0))]
    if m.on .MOD_STATUS_DIP_ACTIVE 0 then m.onAux fun a => { a with dipEnd := some (m.time + 1000000) } else m

/-- DIP_END (R453); the notice carries MIN_MV. -/
def dipEnd (m : Mach) : Mach :=
  match m.aux.dipEnd with
  | none => m
  | some t =>
    let m := (m.advanceTo t).onAux fun a => { a with dipEnd := none }
    let v := m.rd .PWR_DIP_MIN_MV 0
    (((m.wr .MOD_STATUS_DIP_ACTIVE 0 0).repmode).trace srcHub 8 (leBytes 1 0 ++ leBytes 2 v)).raise 0x59 0 srcHub 0 v

/-- RESET_TRIP (R455): the entry carries the lowest voltage of the dip. -/
def resetTrip (mv : BitVec 16) (m : Mach) : Mach :=
  let v := mv.toNat
  if !monitor m || decide (38000 ≤ v) then m
  else
    let low := if m.on .MOD_STATUS_DIP_ACTIVE 0 then min v (m.rd .PWR_DIP_MIN_MV 0) else v
    ((m.powerLost 3 0x22 low).onAux fun a => { a with failWait := true }).wrs 0 [(.PWR_STATUS_RESET_LVL, 1), (.PWR_VIN_VIN_MV, v)]

/-- POWER_FAIL_RESTART: 48V_IN has stayed at or above 42.0 V for 10 ms (R456). -/
def failRestart (m : Mach) : Mach :=
  if !m.aux.inLimits then m
  else (if m.pins.pwrEn then m.onAux fun a => { a with failWait := false } else m).wr .PWR_STATUS_RESET_LVL 0 0

/-- PHASE_FAIL (R457, R458). -/
def phaseFail (rail phase : BitVec 4) (m : Mach) : Mach :=
  let n := rail.toNat
  let old := m.rd .PWR_RAIL_FAILED n
  if !m.mainUp || decide (10 ≤ n ∨ m.rd .PWR_RAIL_PHASES n ≤ phase.toNat) || bitsAt old phase.toNat 1 == 1 then m
  else
    let m := ((m.wr .PWR_RAIL_FAILED n (old ||| 2 ^ phase.toNat)).bump .PWR_PHASE_FAILS 0 1).raise 0x46 n srcHub 0 phase.toNat
    if onesOf old = 1 then ((m.wr .PWR_STATUS_PHASE_DEGRADED 0 1).event .HIF_EVT_ALERT).raise 0x5C n srcHub 0 0 else m

/-- RAIL_OUT_OF_REGULATION (R458, R455). -/
def railOut (rail : BitVec 4) (m : Mach) : Mach :=
  if !m.on .MOD_STATUS_PWR_GOOD 0 || decide (10 ≤ rail.toNat) || !m.pins.pwrEn then m
  else (m.powerLost 3 0x22 (m.rd .PWR_DIP_MIN_MV 0)).onAux fun a => { a with failWait := true }

/-- DROOP of die `d` (R461). -/
def droop (d2 : BitVec 2) (m : Mach) : Mach :=
  let d := d2.toNat
  if !m.mainUp || bitsAt m.aux.droop d 1 == 1 then m
  else (m.onAux fun a => { a with droop := a.droop ||| 2 ^ d }).markStretched d |>.bump .PWR_DROOP d 1

/-- DROOP_END. -/
def droopEnd (d2 : BitVec 2) (m : Mach) : Mach :=
  if bitsAt m.aux.droop d2.toNat 1 == 1 then m.onAux fun a => { a with droop := a.droop - 2 ^ d2.toNat } else m

/-- REFCLK_LOST (R463): the PLLs run free, and TIME_LOCK clears. -/
def refLost (m : Mach) : Mach :=
  if !m.mainUp || m.on .PWR_STATUS_REF_LOST 0 then m
  else ((m.wr .PWR_STATUS_REF_LOST 0 1).event .HIF_EVT_ALERT).unlock

/-- REFCLK_RETURN: the PLLs have locked again. -/
def refReturn (m : Mach) : Mach := if m.aux.inLimits then m.wr .PWR_STATUS_REF_LOST 0 0 else m

/-- THROTTLE_ON: sensor `n` reads `temp`, at or above its throttle-on level (R465). -/
def throttleOn (n6 : BitVec 6) (temp : BitVec 16) (m : Mach) : Mach :=
  let n := n6.toNat
  if !m.mainUp || decide (37 ≤ n) || decide (temp.toInt < tempOn n) then m
  else
    let m := m.setTemp n temp
    if m.on .MOD_STATUS_THROTTLE 0 then m
    else (((m.wr .MOD_STATUS_THROTTLE 0 1).repmode).bump .PWR_THROTTLE_EVENTS 0 1).raise 0x5A 0 srcHub 0 n

/-- THROTTLE_OFF: every sensor has stayed below its throttle-off level for 10 ms; `temps` are their readings. -/
def throttleOff (temps : List (BitVec 16)) (m : Mach) : Mach :=
  let ts := (List.range 37).zip temps
  if !m.mainUp || ts.length != 37 || (ts.any fun (nt : Nat × BitVec 16) => decide (tempOff nt.1 ≤ nt.2.toInt)) then m
  else ((ts.foldl (fun m (nt : Nat × BitVec 16) => m.setTemp nt.1 nt.2) m).wr .MOD_STATUS_THROTTLE 0 0).repmode

/-- THERMAL_TRIP: sensor `n` reads `temp`, at or above its trip level (R466). -/
def thermalTrip (n6 : BitVec 6) (temp : BitVec 16) (m : Mach) : Mach :=
  let n := n6.toNat
  if !m.on .MOD_STATUS_PWR_GOOD 0 || decide (37 ≤ n) || decide (temp.toInt < tempTrip n) || !m.pins.pwrEn then m
  else ((m.powerLost 5 0x23 n).onPins fun p => { p with thermTrip := true }).onAux fun a => { a with tripped := true, tripAt := m.time }

/-- JTAG_LEAVE_SCAN (R541): a module reset with the cause of MOD_CTRL.RESET; the levels that the pins now have act. -/
def leaveScan (m : Mach) : Mach :=
  if m.pins.scan = 0 then m
  else
    let m := m.onPins fun p => { p with scan := 0 }
    let up := m.on .MOD_STATUS_PWR_GOOD 0 || m.aux.reset.isSome
    if up && m.pins.pwrEn then m.trigReset 2 (m.time + 100000) m.pins.perstLow
    else if up then powerOff m
    else m

end Power
end Sys2Proof.Machine
end

