-- ==== Sys2Proof/Machine/ExecFirm.lean ====
section
/-! DEFINITION. The meanings of firmware and trust (chapters 15, 20): one definition for each command. -/
namespace Sys2Proof.Machine

/-- SLICE_GRANT (R427). Kindling request that writes the shadow slice fields. -/
def execSliceGrant (sigOk : Bool) (s : State) : Host.Outcome State Fault Refusal :=
  .next (s.lift (Firm.sliceGrant sigOk))

/-- POLICY (R427). Kindling request that writes SEC_POLICY and the watchdog timeout. -/
def execPolicy (sigOk : Bool) (s : State) : Host.Outcome State Fault Refusal :=
  .next (s.lift (Firm.policy sigOk))

/-- KEY (R427). Kindling request that writes or clears a key slot. -/
def execKey (sigOk : Bool) (s : State) : Host.Outcome State Fault Refusal :=
  .next (s.lift (Firm.key sigOk))

/-- FIELD_FUSE (R91). Kindling request that blows a field e-fuse slot for an OPE row or column. -/
def execFieldFuse (s : State) : Host.Outcome State Fault Refusal :=
  .next (Firm.fieldFuse s)

/-- SVN_COMMIT (R435). Kindling request that raises the fused rollback counters. -/
def execSvnCommit (s : State) : Host.Outcome State Fault Refusal :=
  .next (Firm.svnCommit s)

/-- ACTIVATE (R434). Kindling request that restarts Cordwood from a named flash image. -/
def execActivate (s : State) : Host.Outcome State Fault Refusal :=
  .next (s.lift Firm.activate)

/-- SEC_WDOG_KICK (R436). A write of 1 restarts the Cordwood watchdog period. -/
def execSecWdogKick (s : State) : Host.Outcome State Fault Refusal :=
  .next (s.lift fun m => Firm.wdogKick (m.otherAccess 1))

/-- WATCHDOG_EXPIRY (R436). The watchdog expires, and Kindling restarts Cordwood or stops it after four expiries. -/
def execWatchdogExpiry (hashOk loadA loadB : Bool) (s : State) : Host.Outcome State Fault Refusal :=
  .next (s.lift (Firm.watchdogExpiry hashOk loadA loadB))

/-- CORDWOOD_RESTART_COMPLETE (R436). A restarted Cordwood comes up, CORDWOOD_UP returns to 1 and ring service resumes for descriptors not yet fetched. -/
def execCordwoodRestartComplete (s : State) : Host.Outcome State Fault Refusal :=
  .next (s.lift Firm.restartComplete)

/-- GET_VERSION (R432). SPDM request answered by Kindling. -/
def execGetVersion (s : State) : Host.Outcome State Fault Refusal :=
  .next (s.lift Firm.getVersion)

/-- GET_CAPABILITIES (R432). SPDM request answered by Kindling. -/
def execGetCapabilities (s : State) : Host.Outcome State Fault Refusal :=
  .next (s.lift Firm.getCapabilities)

/-- NEGOTIATE_ALGORITHMS (R432). SPDM request answered by Kindling. -/
def execNegotiateAlgorithms (offered : Bool) (s : State) : Host.Outcome State Fault Refusal :=
  .next (s.lift (Firm.negotiate offered))

/-- GET_DIGESTS (R432). SPDM request answered by Kindling. -/
def execGetDigests (s : State) : Host.Outcome State Fault Refusal :=
  .next (s.lift Firm.getDigests)

/-- GET_CERTIFICATE (R432). SPDM request answered by Kindling with the certificate chain. -/
def execGetCertificate (slot : BitVec 4) (s : State) : Host.Outcome State Fault Refusal :=
  .next (s.lift (Firm.getCertificate slot))

/-- CHALLENGE (R432). SPDM challenge signed by Kindling. -/
def execChallenge (slot : BitVec 4) (s : State) : Host.Outcome State Fault Refusal :=
  .next (s.lift (Firm.challenge slot))

/-- GET_MEASUREMENTS (R432). SPDM request that returns the measurements. -/
def execGetMeasurements (index : BitVec 8) (s : State) : Host.Outcome State Fault Refusal :=
  .next (s.lift (Firm.getMeasurements index))

/-- PLDM_FIRMWARE_UPDATE (R434). PLDM update transfer that writes the inactive flash copy of a component. -/
def execPldmFirmwareUpdate (cordwood : Bool) (img : FlashImg) (whole : Bool) (s : State) : Host.Outcome State Fault Refusal :=
  .next (s.lift (Firm.pldmUpdate cordwood img whole))

/-- ACTIVATE_FIRMWARE (R434). PLDM ActivateFirmware, which succeeds only if Kindling verifies the new copy. -/
def execActivateFirmware (cordwood : Bool) (s : State) : Host.Outcome State Fault Refusal :=
  .next (s.lift (Firm.activateFirmware cordwood))

/-- MCTP_SMBUS_MESSAGE (R538). An MCTP message arrives on SMBus and is answered, relayed or dropped. -/
def execMctpSmbusMessage (ty : BitVec 7) (payload : List Byte) (s : State) : Host.Outcome State Fault Refusal :=
  .next (s.lift (Firm.mctp ty payload))

/-- CONSOLE_INPUT (R539). Input on the Kindling UART console. -/
def execConsoleInput (bytes : List Byte) (rewrite : Option (Bool × FlashImg)) (s : State) :
    Host.Outcome State Fault Refusal :=
  .next (s.lift (Firm.console bytes rewrite))

/-- JTAG_BOUNDARY_SCAN (R541). A boundary-scan instruction takes the sideband pins out of function at once. -/
def execJtagBoundaryScan (ins : BitVec 2) (cells : BitVec 25) (s : State) : Host.Outcome State Fault Refusal :=
  .next (s.lift (Firm.boundaryScan ins cells))

/-- JTAG_LEAVE_SCAN (R541). The TAP leaves a pin-taking instruction, and the module takes a module reset. -/
def execJtagLeaveScan (s : State) : Host.Outcome State Fault Refusal :=
  .next (s.lift Power.leaveScan)

end Sys2Proof.Machine
end

