-- ==== Sys2Proof/Machine/Ingest.lean ====
section
/-! DEFINITION. Broadcast ingest (chapter 10): jobs, fetch, the decoder engines, the shuffle, micro-batches, sample rings and
multicast groups. -/
namespace Sys2Proof.Machine

def Mach.onCur (m : Mach) (f : IngCur → IngCur) : Mach := { m with ing := { m.ing with cur := m.ing.cur.map f } }

/-- Ingest works: the module is ready, not frozen (R314), in no data-path reset, and no FATAL_MODULE has ended its jobs (R501). -/
def Mach.ingRuns (m : Mach) : Bool := m.ready && !m.frozen && m.aux.dpEnd.isNone && !m.pathStopped

/-- The job ends when it was aborted, or has delivered MB_TOTAL micro-batches and owes no other module an item. -/
def Mach.tryEnd (m : Mach) : Mach :=
  match m.ing.cur with
  | none => m
  | some c =>
    if c.mb.isSome then m
    else if c.abort then m.endJob c 4 0
    else if jMbTotal c.raw ≤ c.done && c.items.all (fun it => it.sent || it.dest == m.myId) then
      m.endJob c (if c.fetchErr then 2 else if c.srcErr then 1 else 0) 0
    else m

/-- The micro-batch in delivery has reached its ring and all its groups. -/
def MbOut.delivered (b : MbOut) : Bool := (b.ring == 255 || b.written.isSome) && b.parts.all fun p => decide (17 + p.size ≤ p.sent)

def Mach.settleMb (m : Mach) : Mach :=
  match m.ing.cur with
  | none => m
  | some c =>
    match c.mb with
    | none => m
    | some b =>
      if b.delivered then
        ((m.onCur fun c => { c with mb := none, done := c.done + 1 }).wr .ING_STATUS_MB_DONE 0 (c.done + 1)).tryEnd
      else m

def IngCur.onItem (c : IngCur) (j : Nat) (f : IngItem → IngItem) : IngCur := { c with items := c.items.modify j f }

/-- R281: an item whose fetch failed: its engines are free. -/
def Mach.failItem (m : Mach) (j : Nat) : Mach :=
  m.onCur fun c => { c.onItem j fun it => { it with failed := true, vEng := 0, aEng := 0 } with
    failedItems := c.failedItems + 1, fetchErr := true }

/-- The bytes of an item that have been fetched, and the size of its next read (R281). -/
def IngItem.fetched (it : IngItem) : Nat := it.bytes.length
def IngItem.nextRead (it : IngItem) : Nat := min (2 ^ 20) (it.len - it.fetched)

/-- The item still has bytes to fetch. -/
def IngItem.fetching (it : IngItem) : Bool := !it.failed && !it.sent && decide (it.fetched < it.len)

/-- A queue pair's rate as it stands (R280). -/
def Mach.qpRate (m : Mach) (q : Nat) : Nat := m.ing.rate.get (fun _ => 65536) q

/-- R280, R281: the RDMA READ request of item `j`'s next read goes out on the queue pair that takes it, unless its port is paused. -/
def Mach.askRead (m : Mach) (j : Nat) : Mach :=
  match m.ing.cur.bind (·.items[j]?) with
  | none => m
  | some it =>
    let q := Config.targetQp it.target (it.fetched / 2 ^ 20)
    if !it.fetching || it.target == 255 || it.asked.isSome || m.ing.paused.get (fun _ => false) (Config.qpPort q).toNat then m
    else
      let msg : RoceMsg := ⟨false, q.toNat, it.addr + it.fetched, it.rkey, it.nextRead, m.qpRate q.toNat⟩
      { m with ing := { m.ing with roce := m.ing.roce ++ [msg] } }.onCur fun c => c.onItem j fun it => { it with asked := some m.time }

/-- Every request that may go out goes out (R281); a freeze holds them (R314). -/
def Mach.askReads (m : Mach) : Mach :=
  if !m.ingRuns then m else (List.range (m.ing.cur.elim 0 (·.items.length))).foldl Mach.askRead m

/-- R281: an outstanding read of item `j` must be tried again; after seven retries the item fails. -/
def Mach.retryRead (m : Mach) (j : Nat) : Mach :=
  match m.ing.cur.bind (·.items[j]?) with
  | none => m
  | some it =>
    if !m.ingRuns || !it.fetching || it.asked.isNone then m
    else if 7 ≤ it.retries then m.failItem j
    else ((m.onCur fun c => c.onItem j fun it => { it with retries := it.retries + 1, asked := none }).bump .ING_FETCH_RETRIES 0 1).askReads

/-- The engines that an item needs have delivered it. -/
def IngCur.ready (c : IngCur) (it : IngItem) : Bool :=
  it.failed || ((!jVideo c.raw || it.vRes.isSome) && (!jAudio c.raw || it.aRes.isSome) && decide (it.len ≤ it.fetched))

/-- An item as its sender sends it (R298). -/
def IngCur.shipment (c : IngCur) (it : IngItem) : ShufItem :=
  let as (kind : Nat) (ss : List Sample) : ShufItem := ⟨fieldAt c.raw 8 8, fieldAt c.raw 4 4, it.k, kind, ss⟩
  if it.failed then as 2 []
  else if jVideo c.raw && !(it.vRes.elim false (·.ok)) then as 1 []
  else as 0 (samplesOf c.raw it it.vRes it.aRes)

/-- Sends bytes to a module as ingest traffic: frames of 504 of them, the first one marked (log entry 30). -/
def Mach.shipTo (m : Mach) (dest : Nat) (bs : List Byte) : Mach :=
  (List.range ((bs.length + 503) / 504)).foldl (fun m i =>
    let (f, m) := m.dataFrame 0 dest 0 0 4 (leBytes 8 (if i = 0 then 1 else 0) ++ (bs.drop (504 * i)).take 504) false
    m.sendLater f) m

/-- R308: entry `i` of a group's part of a micro-batch: 17 entries of header and directory, then its section. -/
def mcEntry (bs : List Byte) (off i : Nat) : Ent :=
  let o := if i < 17 then 256 * i else off + 256 * (i - 17)
  ⟨slotOfBytes (padTo 512 ((bs.drop o).take 256)), false⟩

/-- The key of the section that group `n` is sent of micro-batch `w` of a ring. -/
def sectKey (ring w n : Nat) : Nat := (ring * 2 ^ 48 + w) * 64 + n

/-- R310: the sections of the job's groups in micro-batch `w` of ring `n`; those of slots that are no more are forgotten. -/
def Mach.sectWritten (m : Mach) (raw : List Byte) (n w : Nat) : Mach :=
  let slots := m.rd .ING_RING_CFG_SLOTS n
  let gone (k : Nat) : Bool := k / 64 / 2 ^ 48 == n && decide (k / 64 % 2 ^ 48 + slots ≤ w)
  { m with ing := { m.ing with
    sect := (jGroups raw).foldl (fun t ig => NMap.set nat0 t (sectKey n w ig.2) (1 + ig.1)) (m.ing.sect.filter fun (kv : Nat × Nat) => !gone kv.1) } }

/-- What is remembered of a group as it sends entry `p.sent` of a micro-batch: its last micro-batches (R303), and that it has sent all of one (R312). -/
def Mach.mcSent (m : Mach) (n : Nat) (p : McPart) (b : MbOut) : Mach :=
  let hs := m.ing.heads.get (fun _ => []) n
  let hs := match hs with
    | h :: rest => if p.sent = 0 then hs else { h with sent := p.sent + 1 } :: rest
    | [] => hs
  let hs := if p.sent = 0 then (⟨b.ring, 1, fieldAt b.bytes 8 6, fieldAt b.bytes 14 2, fieldAt b.bytes 0 4⟩ :: hs).take 6 else hs
  { m with ing := { m.ing with heads := NMap.set (fun _ => []) m.ing.heads n hs,
                               mid := if p.sent + 1 = 17 + p.size then m.ing.mid.filter (· != n) else m.ing.mid } }

/-- The members of group `n` that are attached (R310). -/
def Mach.attached (m : Mach) (n : Nat) : List Nat :=
  (m.mcMembers n).filter fun k => bitsAt (m.rd .ING_MC_DET n) (k / 16) 1 == 0

def Mach.endFull (m : Mach) (n k : Nat) : Bool :=
  decide (m.rd .ING_MC_SKEW_MAX n ≤ ((m.core (k / 16)).chan (k % 16)).length)

/-- R309: the group is held: its cycle counts, and each full member's time begins where it has not. -/
def Mach.mcHold (m : Mach) (n : Nat) : Mach :=
  (m.attached n).foldl (fun m k =>
    if m.endFull n k && (m.ing.full.get (fun _ => none) k).isNone then
      { m with ing := { m.ing with full := NMap.set (fun _ => none) m.ing.full k (some m.time) } }
    else m) (m.bump .MC_HOLD_CYCLES n 1)

namespace Ingest

/-- ING_ABORT (R314). -/
def abort (m : Mach) : Mach :=
  if m.mainUp && m.ing.cur.isSome then (m.onCur fun c => { c with abort := true }).tryEnd else m

/-- Cursor entry `q` of a cursor table: K, SEG, SEQ (R303). -/
def cursorOf (tab : List Byte) (q : Nat) : Nat × Nat × Nat :=
  (fieldAt tab (16 * q) 6, fieldAt tab (16 * q + 6) 2, fieldAt tab (16 * q + 8) 4)

/-- The lists of a job: source list, cursor table (empty where CURSOR_ADDR is 0), timestamp list (R275, R277, R303). -/
def lists (raw : List Byte) (m : Mach) : Except (Nat × Mach) (List Byte × List Byte × List Byte × Mach) := do
  let (src, m) ← m.listRead (fieldAt raw 32 8) (48 * fieldAt raw 40 4)
  let (cur, m) ← if fieldAt raw 48 8 = 0 then .ok ([], m) else m.listRead (fieldAt raw 48 8) (16 * m.sliceSize)
  let (ts, m) ← if fieldAt raw 64 2 = 0 then .ok ([], m) else m.listRead (fieldAt raw 56 8) (4 * fieldAt raw 64 2)
  .ok (src, cur, ts, m)

/-- A job with nothing done. -/
def bare (j : IngJob) (raw : List Byte) : IngCur :=
  ⟨j, raw, [], 0, 1, [], [], [], [], 0, 0, 0, 0, none, false, 0, false, false, false⟩

/-- The current job of checked lists: items in increasing position without those that their destinations skip (R298, R303). -/
def started (j : IngJob) (raw src cur : List Byte) (ts : List Nat) (m : Mach) : IngCur :=
  let s := max 1 m.sliceSize
  let me := m.rank m.myId
  let all := (pieces 48 (fieldAt raw 40 4) src).map (m.itemOf raw)
  let items := all.filter fun it =>
    decide ((cursorOf cur (if jShuffle raw then it.p % s else me)).1 ≤ it.k)
  let (k, seg, seq) := cursorOf cur me
  let sorted := items.foldr insertItem []
  { bare j raw with ts := ts, rank := me, size := s, items := sorted, k := k, seg := seg, seq := seq,
                    orders := if jShuffle raw then [] else sorted.map (·.k) }

/-- JOB_START (R274-R277, R279, R303). -/
def jobStart (m : Mach) : Mach :=
  match m.ing.cur, m.ing.jobs with
  | none, j :: rest =>
    if !m.ingRuns then m
    else
      let m := { m with ing := { m.ing with jobs := rest } }
      match m.listRead j.addr 256 with
      | .error (c, m) => m.endJob (bare j []) 3 c
      | .ok (raw, m) =>
        if m.jobBad raw then m.endJob (bare j raw) 5 0
        else match lists raw m with
          | .error (c, m) => m.endJob (bare j raw) 3 c
          | .ok (src, cur, tsl, m) =>
            let ts := (pieces 4 (fieldAt raw 64 2) tsl).map leNat
            if (pieces 48 (fieldAt raw 40 4) src).all (sourceOk raw) && ascending ts then
              let c := started j raw src cur ts m
              let c := (m.ing.early.filter c.owns).foldl IngCur.take c
              ({ m with ing := { m.ing with cur := some c, early := m.ing.early.filter fun it => !c.owns it,
                                            seed := fieldAt raw 8 8, epoch := fieldAt raw 4 4 } }.wrs 0
                [(.ING_STATUS_MB_DONE, 0), (.ING_POS_K, c.k), (.ING_POS_SEG, c.seg)]).askReads
            else m.endJob (bare j raw) 5 0
  | _, _ => m

/-- A packet for an ingest port to send (R280). -/
def post (m : Mach) (msg : RoceMsg) : Mach := { m with ing := { m.ing with roce := m.ing.roce ++ [msg] } }

/-- FETCH_READ_DONE (R281): the next read of item `j` has come, with the `data` of a storage target, ECN-marked or not; a local source is read
through the hub, where it can fault. Transport packets that are discarded are counted (R283). -/
def fetchReadDone (j20 : BitVec 20) (data : List Byte) (ecn : Bool) (m : Mach) : Mach :=
  let j := j20.toNat
  let m := m.askReads
  match m.ing.cur.bind (·.items[j]?) with
  | none => m
  | some it =>
    if !m.ingRuns || !it.fetching then m
    else
      let got (bs : List Byte) (m : Mach) : Mach :=
        let all := it.bytes ++ bs
        ((m.onCur fun c => c.onItem j fun it => { it with bytes := all, retries := 0, asked := none }).bump .ING_TS_ERRORS 0
          (tsErrors it.container all - tsErrors it.container it.bytes)).askReads
      if it.target = 255 then
        match m.listRead (it.addr + it.fetched) it.nextRead with
        | .error (_, m) => m.failItem j
        | .ok (bs, m) => got bs m
      else if it.asked.isNone || data.length != it.nextRead then m
      else
        let q := (Config.targetQp it.target (it.fetched / 2 ^ 20)).toNat
        got data (if ecn then post m ⟨true, q, 0, 0, 0, m.qpRate q⟩ else m)

/-- RDMA_ACK_TIMEOUT (R281): 4 ms after its request, nothing has come. -/
def rdmaAckTimeout (j20 : BitVec 20) (m : Mach) : Mach :=
  let m := m.askReads
  match (m.ing.cur.bind (·.items[j20.toNat]?)).bind (·.asked) with
  | none => m
  | some t => if m.ingRuns then (m.advanceTo (t + 4000000)).retryRead j20.toNat else m

/-- ROCE_NAK_RECEIVED (R280, R281). -/
def roceNak (j : BitVec 20) (m : Mach) : Mach := m.askReads.retryRead j.toNat

/-- ROCE_CNP_RECEIVED (R280): the rate is reduced; by how much is open. -/
def roceCnp (q8 : BitVec 8) (m : Mach) : Mach :=
  if !m.mainUp then m
  else
    let q := q8.toNat
    let (n, m) := m.fresh
    { m with ing := { m.ing with
      rate := NMap.set (fun _ => 65536) m.ing.rate q ((Config.freeBits n).toNat % max 1 (m.qpRate q)) } }

/-- PFC_PAUSE_RECEIVED (R280): the port's priority pauses or resumes; requests that waited go out. -/
def pfcPause (p1 : BitVec 1) (pause : Bool) (m : Mach) : Mach :=
  if !m.mainUp then m
  else { m with ing := { m.ing with paused := NMap.set (fun _ => false) m.ing.paused p1.toNat pause } }.askReads

/-- ITEM_DECODE_START (R285, R296, R298): engine `e` (0-63 video, 64-95 audio) takes the next item in shuffle order. -/
def decodeStart (e7 : BitVec 7) (m : Mach) : Mach :=
  let e := e7.toNat
  match m.ing.cur with
  | none => m
  | some c =>
    if !m.ingRuns || decide (96 ≤ e) || m.engineFenced e || m.engineHolds e then m
    else
      let wants (it : IngItem) : Bool := !it.failed && !it.sent &&
        (if e < 64 then jVideo c.raw && it.vEng == 0 && it.vRes.isNone else jAudio c.raw && it.aEng == 0 && it.aRes.isNone)
      match c.items.findIdx? wants with
      | none => m
      | some j => m.onCur fun c => c.onItem j fun it => if e < 64 then { it with vEng := e + 1 } else { it with aEng := e + 1 }

/-- ITEM_DECODE_DONE (R284-R293): the engine finishes its item, once all its bytes have come. -/
def decodeDone (e7 : BitVec 7) (m : Mach) : Mach :=
  let e := e7.toNat
  match m.ing.cur with
  | none => m
  | some c =>
    match c.items.findIdx? (fun it => (if e < 64 then it.vEng == e + 1 else it.aEng == e + 1) && decide (it.len ≤ it.fetched)) with
    | none => m
    | some j =>
      match c.items[j]? with
      | none => m
      | some it =>
        if !m.ingRuns then m
        else
          let d := if e < 64 then videoItem c.raw c.ts it else audioItem c.raw it
          let bad := decide (e < 64) && !d.ok
          let m := m.onCur fun c => { c.onItem j fun it =>
            if e < 64 then { it with vEng := 0, vRes := some d } else { it with aEng := 0, aRes := some d } with srcErr := c.srcErr || bad }
          let m := (m.bump .ING_FRAMES 0 d.pictures).bump .ING_CONCEAL_BLOCKS 0 d.concealed
          ((if bad then m.bump .ING_SOURCE_ERRORS 0 1 else m).hev 1 0x20 d.pictures).hev 1 0x21 d.luma

/-- SHUFFLE_ITEM_SEND (R298): the next item in position order goes once its destination's window takes it; `granted` is what
another module's window says. -/
def itemSend (granted : Bool) (m : Mach) : Mach :=
  match m.ing.cur with
  | none => m
  | some c =>
    match c.items.findIdx? (!·.sent) with
    | none => m
    | some j =>
      match c.items[j]? with
      | none => m
      | some it =>
        if !m.ingRuns || !c.ready it then m
        else
          let s := c.shipment it
          let sent (m : Mach) : Mach := m.onCur fun c => c.onItem j fun it => { it with sent := true, vRes := none, aRes := none }
          if it.dest = m.myId then
            if c.holds (m.rd .ING_CFG_SHUF_WINDOW 0) it.k then (sent (m.itemArrive s)).tryEnd
            else m.bump .ING_SHUF_HOLD_CYCLES 0 1
          else if granted then (sent (m.shipTo it.dest s.bytes)).tryEnd
          else m.bump .ING_SHUF_HOLD_CYCLES 0 1

/-- MICROBATCH_PACK (R299, R300): the next micro-batch, once every item it needs has arrived. -/
def pack (m : Mach) : Mach :=
  match m.ing.cur with
  | none => m
  | some c =>
    if !m.ingRuns || c.mb.isSome || c.abort || decide (jMbTotal c.raw ≤ c.done) then m
    else match c.pick c.turns ⟨[], c.late, 0, c.k, c.seg, none, false⟩ with
      | none => m
      | some p =>
        let b : MbOut := ⟨c.mbBytes p, jRing c.raw, none,
          (jGroups c.raw).map fun ig => ⟨ig.2, jSecOff c.raw ig.1, jSecSize c.raw ig.1 / 256, 0⟩⟩
        let m := m.onCur fun c => { c with mb := some b, late := p.late, k := p.k, seg := p.seg, seq := c.seq + 1,
                                           arrived := c.arrived.filter fun (ki : Nat × Option ShufItem) => decide (p.k ≤ ki.1) }
        ((m.wrs 0 [(.ING_POS_K, p.k), (.ING_POS_SEG, p.seg)]).hev 1 0x22 1).settleMb

/-- RING_WRITE (R304, R305): the micro-batch goes to its slot once every reader has left that slot. -/
def ringWrite (m : Mach) : Mach :=
  match m.ing.cur with
  | none => m
  | some c =>
    match c.mb with
    | none => m
    | some b =>
      if !m.ingRuns || b.ring == 255 || b.written.isSome then m
      else
        let n := b.ring
        let w := m.rd .ING_RING_WR_W n
        if (m.readers n).all fun g => decide (w < m.rd .ING_RING_CUR (n * 64 + g) + m.rd .ING_RING_CFG_SLOTS n) then
          let a := m.ringSlot n w
          match lowest (m.listCauses a b.bytes.length) with
          | some cause => (m.captureFault cause a true 1).endJob c 3 cause
          | none =>
            match m.writeAny 3 a (b.bytes.map (·, false)) with
            | .error (x, p, m) => (m.captureFault x p true 1).endJob c 3 x
            | .ok m =>
              (((m.sectWritten c.raw n w).wr .ING_RING_WR_W n (w + 1)).onCur fun c => { c with mb := some { b with written := some w } }).settleMb
        else m.bump .ING_RING_WAIT_CYCLES 0 1

/-- MCAST_ENTRY_SEND (R308, R309): group `n` sends its next entry to all attached members at once. -/
def mcastSend (n6 : BitVec 6) (m : Mach) : Mach :=
  let n := n6.toNat
  match m.ing.cur.bind (·.mb) with
  | none => m
  | some b =>
    match b.parts.find? (·.group == n) with
    | none => m
    | some p =>
      if !m.ingRuns || decide (17 + p.size ≤ p.sent) || (m.detachOn n && b.written.isNone) then m
      else if (m.attached n).any (m.endFull n) then m.mcHold n
      else
        let e : ChEnt := ⟨mcEntry b.bytes p.off p.sent, 0, 0, m.detachOn n && decide (p.sent + 1 = 17 + p.size), false⟩
        let m := (m.attached n).foldl (fun m k => m.deliver (k / 16) (k % 16) e) m
        let parts := b.parts.map fun q => if q.group == n then { q with sent := q.sent + 1 } else q
        ((m.mcSent n p b).onCur fun c => { c with mb := some { b with parts := parts } }).settleMb

/-- MCAST_DETACH (R310): the member has been full for LAG_TIMEOUT while its group is held. -/
def mcastDetach (g6 : BitVec 6) (c4 : BitVec 4) (m : Mach) : Mach :=
  let g := g6.toNat
  let k := endKey g c4.toNat
  let n := m.chGroup g c4.toNat
  match m.ing.full.get (fun _ => none) k, m.ing.cur.bind (·.mb) with
  | some t, some b =>
    match b.parts.find? (·.group == n) with
    | none => m
    | some p =>
      if !m.ingRuns || m.chKind g c4.toNat != 3 || !m.detachOn n then m
      else
        let m := m.advanceTo (t + 1000 * m.rd .ING_MC_LAG_TIMEOUT n)
        let m := { m with ing := { m.ing with full := NMap.set (fun _ => none) m.ing.full k none, feed := NMap.set nat0 m.ing.feed k p.sent } }
        ((m.wr .ING_MC_DET n (m.rd .ING_MC_DET n + (1 - bitsAt (m.rd .ING_MC_DET n) g 1) * 2 ^ g)).bump .MC_DETACH_EVENTS n 1).raise
          0x5D n srcHub 0 g
  | _, _ => m

/-- DETACHED_FEED (R310): the next entry of the ring's slot at the core's cursor goes to a detached member that has delivered what
it held; the last one of a micro-batch moves the cursor, which passes a micro-batch that the group was not sent. -/
def detachedFeed (g6 : BitVec 6) (c4 : BitVec 4) (m : Mach) : Mach :=
  let g := g6.toNat
  let c := c4.toNat
  let k := endKey g c
  let n := m.chGroup g c
  let ring := m.rd .ING_MC_RING n
  let cur := m.rd .ING_RING_CUR (ring * 64 + g)
  let cs := (m.core g).chan c
  if !m.ingRuns || m.chKind g c != 3 || bitsAt (m.rd .ING_MC_DET n) g 1 == 0 || cs.any (fun e => !e.fed)
      || decide (m.rd .ING_MC_SKEW_MAX n ≤ cs.length) || decide (m.rd .ING_RING_WR_W ring ≤ cur) then m
  else if m.ing.sect.get nat0 (sectKey ring cur n) = 0 then m.wr .ING_RING_CUR (ring * 64 + g) (cur + 1)
  else
    let slot := m.ringSlot ring cur
    let sec := m.ing.sect.get nat0 (sectKey ring cur n) - 1
    let offOf (i : Nat) : Nat := if i < 3 then m.word (slot + 32 + 4 * i) 4 else m.word (slot + 28) 4
    let i := m.ing.feed.get nat0 k
    let (bs, m) := m.readSide (slot + (if i < 17 then 256 * i else offOf sec + 256 * (i - 17))) 256
    let m := m.deliver g c ⟨⟨slotOfBytes (padTo 512 (bs.map Prod.fst)), bs.any Prod.snd⟩, 0, 0, false, true⟩
    if 17 + (offOf (sec + 1) - offOf sec) / 256 ≤ i + 1 then
      { m with ing := { m.ing with feed := NMap.set nat0 m.ing.feed k 0 } }.wr .ING_RING_CUR (ring * 64 + g) (cur + 1)
    else { m with ing := { m.ing with feed := NMap.set nat0 m.ing.feed k (i + 1) } }

end Ingest
end Sys2Proof.Machine
end

