-- ==== Sys2Proof/WellFormed.lean ====
section
/-! DEFINITION. Which ZVI instructions hold no reserved encoding in a field and no operand of the wrong kind (R16, R175, and the
checks of chapters 03 to 07 on one instruction alone). Zheber runs no image that holds another one. -/
namespace Sys2Proof

/-- The operand is a data queue, an address queue, a channel end, none (Table ZPM-1). -/
def okQ (e : BitVec 6) : Bool := decide (e.toNat < 24)
def okA (e : BitVec 6) : Bool := decide (24 ≤ e.toNat) && decide (e.toNat < 32)
def okC (e : BitVec 6) : Bool := decide (32 ≤ e.toNat) && decide (e.toNat < 48)
def none6 (e : BitVec 6) : Bool := e == 63
/-- Where an output may go: a data queue or a channel end. -/
def okOut (e : BitVec 6) : Bool := okQ e || okC e

/-- The packing factor of an FMT code (Table OPE-2). A reserved code 0x6-0xF counts as 2 (DESIGN CHOICE: no table gives it one, and it is a
load error of its own; log entry 66). -/
def fmtP (f : BitVec 4) : Nat := if f = 5 then 4 else if f.toNat < 2 then 1 else 2
def fmtMx (f : BitVec 4) : Bool := f == 4 || f == 5

/-- R180: a module flag is 0-63. -/
def wfFlag (g : BitVec 1) (f : BitVec 8) : Bool := g == 0 || decide (f.toNat < 64)

/-- R189, R190. -/
def wfLdv (a q ca : BitVec 6) (fmt : BitVec 4) (pack : BitVec 2) (part : BitVec 3) : Bool :=
  okA a && okQ q && decide (fmt.toNat < 6) && pack != 3 && (pack == 0 || decide (2 ≤ fmt.toNat))
    && decide (part.toNat ≤ fmtP fmt) && (okA ca || none6 ca) && (pack == 0 || !fmtMx fmt || okA ca)

/-- R190, R191. -/
def wfLds (aa ab q : BitVec 6) (fmt : BitVec 4) : Bool :=
  fmtMx fmt && (okA aa || none6 aa) && (okA ab || none6 ab) && !(none6 aa && none6 ab) && okQ q

/-- R69, R70: the formats of an update. -/
def wfFmts (scaled : Bool) (fa fb : BitVec 4) : Bool :=
  decide (fa.toNat < 6) && decide (fb.toNat < 6) && fmtP fa == fmtP fb && (scaled == (fmtMx fa || fmtMx fb))

/-- R197. -/
def wfTload (q : BitVec 6) (mode : BitVec 2) (ax : BitVec 1) (sfmt : BitVec 2) (c : BitVec 32) : Bool :=
  if mode = 0 then none6 q && ax == 0 && sfmt == 0 && c == 0
  else if mode = 3 then none6 q && ax == 0 && sfmt == 0
  else okQ q && sfmt != 3 && c == 0

/-- R103, R198. -/
def wfDrain (grad : Bool) (f : DrainF) : Bool :=
  decide (1 ≤ f.nlines.toNat) && decide (f.first.toNat + f.nlines.toNat ≤ 128)
    && (okQ f.res || none6 f.res) && (okOut f.out || none6 f.out) && (okOut f.amax || none6 f.amax)
    && (okOut f.scl || none6 f.scl)
    && (if grad then (okQ f.zq || none6 f.zq) && none6 f.res && none6 f.scl else okOut f.zq || none6 f.zq)

/-- R201, R203: which inputs and formats a common VEC instruction uses; the others hold 63 and 0. -/
def wfVec (f : VecF) (useY useZ : Bool) (maxExt : Nat) : Bool :=
  okQ f.x && (if useY then okQ f.y && decide (f.fy.toNat < 3) else none6 f.y && f.fy == 0)
    && (if useZ then okQ f.z && decide (f.fz.toNat < 3) else none6 f.z && f.fz == 0)
    && okOut f.d && decide (f.fx.toNat < 3) && decide (f.fd.toNat < 3) && decide (f.ext.toNat ≤ maxExt)

/-- R204: codes of VCVT, and the even count of a conversion to FP8 (R202). -/
def cvtCode (c : BitVec 4) : Bool := decide (c.toNat < 4) || c == 14 || c == 15
def isFp8 (c : BitVec 4) : Bool := c == 2 || c == 3
def wfCvt (x d : BitVec 6) (i o : BitVec 4) (n : BitVec 16) : Bool :=
  okQ x && okOut d && cvtCode i && cvtCode o && (!isFp8 o || isFp8 i || n.toNat % 2 == 0)

/-- R206. -/
def wfOpt (f : OptF) (adam : Bool) : Bool :=
  okQ f.p && okQ f.w && okQ f.m && okQ f.g && (f.fg == 1 || f.fg == 2) && okOut f.wo && okOut f.mo
    && (if adam then okQ f.v && okOut f.vo else none6 f.v && none6 f.vo)
    && (if f.wcopy = 1 then okOut f.wb else none6 f.wb)

/-- R163, R210-R212: BYTES in units of 256 bytes. -/
def dmaUnits (f : DmaF) : Nat := if f.bytes = 0 then 65536 else f.bytes.toNat
def wfDma (f : DmaF) : Bool :=
  (okA f.src || okQ f.src) && (okA f.dst || okQ f.dst) && !(okQ f.src && okQ f.dst) && f.layout != 3
    && (f.layout == 0 || dmaUnits f % 128 == 0)
    && (okA f.src && okA f.dst || f.esz == 1 || dmaUnits f % 2 == 0)

/-- The instruction holds no reserved encoding; a command of the block that is no ZVI instruction holds none. -/
def Instr.wf : Instr → Bool
  | .fset _ g f _ _ => wfFlag g f
  | .fadd _ g f _ _ => wfFlag g f
  | .fclr _ g f _ => wfFlag g f
  | .fwait _ g f _ => wfFlag g f
  | .phase _ p s _ => p != 0 && s != 3
  | .sdef _ d => d.mode != 3
  | .srun _ _ a n => okA a && decide (n.toNat ≤ 2 ^ 24)
  | .ldv _ a q ca fmt pack part _ _ => wfLdv a q ca fmt pack part
  | .lds _ aa ab q fmt _ _ _ => wfLds aa ab q fmt
  | .stv _ q a _ _ => okQ q && okA a
  | .qmov _ qs qd _ => okQ qs && okQ qd
  | .qdup _ qs d1 d2 _ => okQ qs && okQ d1 && okQ d2
  | .opu _ qa qb _ _ fa fb _ => okQ qa && okQ qb && wfFmts false fa fb
  | .opus _ qa qb qs _ _ fa fb n => okQ qa && okQ qb && okQ qs && wfFmts true fa fb && n.toNat % (32 / fmtP fa) == 0
  | .tload _ q _ _ mode ax sfmt c => wfTload q mode ax sfmt c
  | .tdrain _ f => wfDrain false f
  | .tdraing _ f => wfDrain true f
  | .epi _ q _ => okQ q
  | .vadd _ f => wfVec f true false 0
  | .vsub _ f => wfVec f true false 0
  | .vmul _ f => wfVec f true false 0
  | .vfma _ f => wfVec f true true 0
  | .vmax _ f => wfVec f true false 0
  | .vmin _ f => wfVec f true false 0
  | .vcmp _ f => wfVec f true false 5 && f.fd == 0
  | .vsel _ f => wfVec f true true 0
  | .vcvt _ x d i o _ _ n => wfCvt x d i o n
  | .vexp _ f => wfVec f false false 0
  | .vlog _ f => wfVec f false false 0
  | .vrsq _ f => wfVec f false false 0
  | .vrcp _ f => wfVec f false false 0
  | .vred _ f => wfVec f false false 3
  | .vshuf _ f => wfVec f true false 0 && f.fy == 0
  | .vbcast _ x _ d fx fd _ => okQ x && okOut d && decide (fx.toNat < 3) && decide (fd.toNat < 3)
  | .vamax _ f => wfVec f false false 0 && f.fd == 0
  | .vrng _ p d mode _ => okOut d && decide (mode.toNat < 5) && (mode == 4 || p == 0)
  | .vadamw _ f => wfOpt f true
  | .vlion _ f => wfOpt f false
  | .vsgdm _ f => wfOpt f false
  | .nsend _ q c _ => okQ q && okC c
  | .nrecv _ c q _ => okC c && okQ q
  | .nmcast _ q mask _ => okQ q && mask != 0
  | .rred _ q d c op _ => okQ q && okQ d && okC c && op != 3
  | .rgath _ q d c _ => okQ q && okQ d && okC c
  | .dcopy _ f => wfDma f && f.share == 0
  | .dpref _ f => wfDma f && okA f.dst
  | .dwait _ mask => mask != 0
  | .ipull _ a ring _ _ => okA a && decide (ring.toNat < 16)
  | .nop .. | .loop .. | .endl .. | .ctxstart .. | .ctxjoin .. | .yield .. | .halt .. | .tickw .. | .mark ..
  | .icacheMissFill .. | .streamGenStart .. | .streamAddressPush .. | .lsuReadStart .. | .lsuEntryPush ..
  | .opeUpdateIssue .. | .opeUpdateComplete .. | .drainStart .. | .drainLineRead .. | .drainEntryPush ..
  | .preloadStart .. | .preloadLineWrite .. | .vecEntryPop .. | .vecResultPush .. | .niuEntryMove ..
  | .deferredFlagApply .. | .dmaCommandStart .. | .dmaTransferComplete .. | .addrFaultReport .. | .iPullSlotCopy ..
  | .peatRmw .. | .scrubRead .. | .tickBoundary | .tickDeadline | .waitCheckSecondSample | .tickRun .. | .tickStop
  | .syncTimer .. | .timeLockTimeout | .timeHoldEnd | .swapRequest | .swapIdleApply | .modReset | .modCtrlDpReset
  | .moduleResetEnd | .modFenceWrite .. | .rngSeedWrite .. | .rngPosWrite .. | .nfCaptureClear .. | .tempMaxWrite ..
  | .spareNextWrite .. | .regWrite .. | .regLowerHalfWrite .. | .halfWriteTimeout .. | .regLowerHalfRead ..
  | .sqTailDoorbell .. | .cqHeadDoorbell .. | .ringEnable .. | .ringDisable .. | .descriptorFetch ..
  | .msixCoalesceTimer .. | .bar4WinWrite .. | .bar4Access .. | .cxlMemAccess .. | .loadImage ..
  | .loadImageDeferredApply | .runStep .. | .dma .. | .configWrite .. | .swap .. | .ingestSubmit .. | .checkpoint ..
  | .restore .. | .replay .. | .query .. | .fence .. | .dpReset .. | .cutSettle | .freezeHost | .freezeRelease
  | .freezeInAssert | .freezeTimeReached | .profClear | .traceRecordWrite | .laserUnitPlugged .. | .laserRelease ..
  | .linkTestStart .. | .linkTestDone .. | .coreTestStart .. | .coreTestDone .. | .engineTestStart ..
  | .engineTestDone .. | .redTxAccept .. | .bucketCopy .. | .blockReduceStart .. | .hopAddition .. | .data .. | .ack ..
  | .nak .. | .credit .. | .ident .. | .lcert .. | .assign .. | .topo .. | .sync .. | .stretch .. | .freeze ..
  | .goodbye .. | .dpreset .. | .idle .. | .probe .. | .identTimer | .dpresetTimer | .discStart .. | .discHoldTimer
  | .discCheck | .carrierDegraded .. | .linkFail .. | .lossOfLight .. | .linkTrained .. | .peerLightReturn ..
  | .laserUnitLoss .. | .lightAppears .. | .peerDpResetEnd .. | .ingAbort | .jobStart | .fetchReadDone ..
  | .rdmaAckTimeout .. | .roceNakReceived .. | .roceCnpReceived .. | .pfcPauseReceived .. | .itemDecodeStart ..
  | .itemDecodeDone .. | .shuffleItemSend .. | .microbatchPack | .ringWrite | .mcastEntrySend .. | .mcastDetach ..
  | .detachedFeed .. | .sliceGrant .. | .policy .. | .key .. | .fieldFuse | .svnCommit | .activate | .secWdogKick
  | .watchdogExpiry .. | .cordwoodRestartComplete | .getVersion | .getCapabilities | .negotiateAlgorithms ..
  | .getDigests | .getCertificate .. | .challenge .. | .getMeasurements .. | .pldmFirmwareUpdate ..
  | .activateFirmware .. | .mctpSmbusMessage .. | .consoleInput .. | .jtagBoundaryScan .. | .jtagLeaveScan
  | .aux12OutOfLimits | .aux12InLimits .. | .kindlingBootDone | .pwrEnRise | .pwrEnFall | .pwrGoodRise
  | .bringupStageEnd .. | .bringupStageTimeout | .perstAssert | .perstDeassert .. | .warnTrip .. | .warnClear ..
  | .dipEnd | .resetTrip .. | .powerFailRestart | .phaseFail .. | .railOutOfRegulation .. | .droop .. | .droopEnd ..
  | .refclkLost | .refclkReturn | .throttleOn .. | .throttleOff .. | .thermalTrip .. | .hostLinkTrained ..
  | .hostLinkDown | .hdmDecoderCommit => true

end Sys2Proof
end

