-- ==== Sys2Proof/Machine/Zim.lean ====
section
/-! DEFINITION. The ZIM image (R216-R228): its header, section table and sections, and the checks of stages 1 and 3 on them, with the
load errors of Table IMG-4. -/
namespace Sys2Proof.Machine

/-- A little-endian field of an image or a section. -/
def fieldOf (d : List Byte) (o n : Nat) : Nat := leNat ((d.drop o).take n)

/-- CRC-32 of the IEEE 802.3 polynomial (R216). -/
def crcBit (c : Nat) : Nat := if c % 2 = 1 then (c / 2) ^^^ 0xEDB88320 else c / 2
def crcByte (c : Nat) (b : Byte) : Nat := (List.range 8).foldl (fun c _ => crcBit c) (c ^^^ b.toNat)
def crc32 (bs : List Byte) : Nat := (bs.foldl crcByte 0xFFFFFFFF) ^^^ 0xFFFFFFFF

/-- A load error's record (R228). -/
structure LoadErr where
  code : Nat
  sec : Nat
  stream : Nat
  word : Nat
  deriving DecidableEq, Repr

/-- The 16 bytes of a record in the report buffer. -/
def LoadErr.bytes (e : LoadErr) : List Byte :=
  leBytes 2 e.code ++ leBytes 2 e.sec ++ leBytes 2 e.stream ++ leBytes 2 0 ++ leBytes 8 e.word

/-- An error of no stream, at byte `w` of section `s`; a header's error names no section (0xFFFF). -/
def secErr (code s w : Nat) : LoadErr := ⟨code, s, 0xFFFF, w⟩
def imgErr (code : Nat) : LoadErr := secErr code 0xFFFF 0

/-- A section (Table IMG-2) and its place in the table. -/
structure ZSec where
  ty : Nat
  idx : Nat
  off : Nat
  size : Nat
  no : Nat
  deriving DecidableEq, Repr

/-- R216: a wrong format, a reserved bit, or a field out of its range in the header. -/
def headerBad (d : List Byte) : Bool :=
  let f := fieldOf d
  decide (f 4 2 ≠ 2) || !(f 6 1 == 1 || f 6 1 == 2) || decide (1 < f 7 1) || decide (f 8 2 < 3 ∨ 4096 < f 8 2) || decide (f 10 2 ≠ 0)
    || ((d.drop 32).take 3).any (fun b => decide (b.toNat < 1 ∨ 64 < b.toNat)) || decide (f 35 1 ≠ 0)
    || decide (f 36 2 < 1 ∨ 512 < f 36 2) || ((d.drop 38).take 26).any (· != 0)

/-- R216, R228: the header's CRC differs from HDR_CRC. -/
def headerCrcBad (d : List Byte) : Bool := decide (fieldOf d 12 4 ≠ crc32 (d.take 12 ++ (d.drop 16).take 48))

/-- Entry `k` of the section table, and whether it breaks R217 alone. -/
def secEntry (d : List Byte) (k : Nat) : ZSec :=
  let e := 64 + 32 * k
  ⟨fieldOf d e 1, fieldOf d (e + 2) 2, fieldOf d (e + 8) 8, fieldOf d (e + 16) 8, k⟩
def ZSec.bytes (s : ZSec) (d : List Byte) : List Byte := (d.drop s.off).take s.size
def secBad (d : List Byte) (n k : Nat) : Bool :=
  let s := secEntry d k
  let e := 64 + 32 * k
  decide (s.ty < 1 ∨ 7 < s.ty) || decide (fieldOf d (e + 1) 1 ≠ 0 ∨ fieldOf d (e + 24) 8 ≠ 0) || (s.ty != 1 && s.idx != 0)
    || decide (s.off % 64 ≠ 0 ∨ s.off < 64 + 32 * n ∨ d.length < s.off + s.size)
    || decide (fieldOf d (e + 4) 4 ≠ if s.ty = 7 then 0 else crc32 (s.bytes d))

/-- R217: the sections together: how many of each type, no overlap, one TEXT for each stream, SIG last. -/
def secsBad (d : List Byte) (ss : List ZSec) : Bool :=
  let n (t : Nat) := ss.countP fun s => s.ty == t
  let texts := (ss.filter fun s => s.ty == 1).map (·.idx)
  let sig := ss.filter fun s => s.ty == 7
  decide (n 4 ≠ 1 ∨ n 6 ≠ 1 ∨ 1 < n 3 ∨ 1 < n 5 ∨ 1 < n 7 ∨ n 1 = 0) || decide (texts.eraseDups.length ≠ texts.length)
    || ss.any (fun a => ss.any fun b => a.no != b.no && decide (a.off < b.off + b.size ∧ b.off < a.off + a.size))
    || sig.any (fun g => ss.any fun b => b.no != g.no && decide (g.no < b.no ∨ g.off < b.off + b.size))
    || decide (n 7 ≠ fieldOf d 7 1)

/-- Stage 1 of R227, the streams aside. -/
def zimTable (d : List Byte) : Except LoadErr (List ZSec) :=
  if d.length < 64 ∨ fieldOf d 0 4 ≠ 0x5242485A then .error (imgErr 1)
  else if headerBad d then .error (imgErr 2)
  else if headerCrcBad d then .error (imgErr 3)
  else
    let n := fieldOf d 8 2
    if d.length < 64 + 32 * n then .error (secErr 3 0 0)
    else match (List.range n).find? (secBad d n) with
      | some k => .error (secErr 3 k 0)
      | none =>
        let ss := (List.range n).map (secEntry d)
        if secsBad d ss then .error (secErr 3 0 0) else .ok ss

/-- A MAP record (R220): its place, type and body; `ok` says that its header has the form of its type. -/
structure MapRec where
  off : Nat
  ty : Nat
  body : List Byte
  ok : Bool
  deriving DecidableEq, Repr

def MapRec.at_ (r : MapRec) (o n : Nat) : Nat := fieldOf r.body o n

/-- Sizes of the MAP records of Table IMG-3, header included. -/
def mapLen (ty : Nat) : Nat := if ty = 1 ∨ ty = 2 ∨ ty = 4 then 16 else if ty = 3 then 24 else if ty = 5 then 32 else 0

/-- The records of a MAP section, as far as their sizes lead. -/
def mapRecs : Nat → Nat → List Byte → List MapRec
  | 0, _, _ => []
  | n + 1, off, bs =>
    if bs.isEmpty then []
    else
      let len := fieldOf bs 2 2
      let ty := fieldOf bs 0 1
      let fits := decide (8 ≤ bs.length ∧ 8 ≤ len ∧ len % 8 = 0 ∧ len ≤ bs.length)
      let ok := fits && mapLen ty == len && fieldOf bs 1 1 == 0 && fieldOf bs 4 4 == 0
      let r : MapRec := ⟨off, ty, (bs.drop 8).take (len - 8), ok⟩
      if fits then r :: mapRecs n (off + len) (bs.drop len) else [r]

def mapOf (bs : List Byte) : List MapRec := mapRecs (bs.length / 8 + 1) 0 bs

/-- A DATA record (R224): its place, KIND, DEST, LENGTH and bytes; `ok` says that it lies whole in the section, reserved bytes 0. -/
structure ZData where
  off : Nat
  kind : Nat
  dest : Nat
  len : Nat
  bytes : List Byte
  ok : Bool
  deriving DecidableEq, Repr

def dataRecs : Nat → Nat → List Byte → List ZData
  | 0, _, _ => []
  | n + 1, off, bs =>
    if bs.isEmpty then []
    else
      let len := fieldOf bs 8 4
      let kind := fieldOf bs 12 1
      let body := if kind = 1 then 0 else (len + 7) / 8 * 8
      let fits := decide (16 + body ≤ bs.length)
      let r : ZData := ⟨off, kind, fieldOf bs 0 8, len, (bs.drop 16).take (if kind = 1 then 0 else len),
        fits && fieldOf bs 13 3 == 0 && decide (kind ≤ 2)⟩
      if fits then r :: dataRecs n (off + 16 + body) (bs.drop (16 + body)) else [r]

def dataOf (bs : List Byte) : List ZData := dataRecs (bs.length / 16 + 1) 0 bs

/-- The allocation that a LOAD_IMAGE grants: the T1 range, and the bases that RELOC adds (R225, R411). -/
structure Alloc where
  t1 : Nat
  t1Size : Nat
  t2 : Nat
  origin : List Nat
  deriving DecidableEq, Repr

/-- R225: a slice-relative id made absolute. -/
def Alloc.absId (a : Alloc) (id : Nat) : Nat :=
  (List.range 3).foldl (fun s i => s + 64 ^ i * ((id / 64 ^ i % 64 + a.origin.getD i 0) % 64)) 0

/-- R225: what RELOC KIND 1 to 4 makes of a 64-bit field. -/
def Alloc.reloc (a : Alloc) (kind v : Nat) : Nat :=
  if kind = 1 then (v + a.t1) % 2 ^ 64
  else if kind = 2 then (v + a.t2) % 2 ^ 64
  else
    let lo := if kind = 3 then 44 else 4
    v - bitsAt v lo 18 * 2 ^ lo + a.absId (bitsAt v lo 18) * 2 ^ lo

/-- The bytes with a 64-bit field written. -/
def putField (d : List Byte) (o v : Nat) : List Byte := d.take o ++ leBytes 8 v ++ d.drop (o + 8)

/-- Word `k` of a stream is the BASE of an SDEF, the one field of 64 bits that an instruction has (Table ZVI-3). -/
def baseWord : Nat → Nat → List Word64 → Bool
  | 0, _, _ => false
  | _ + 1, _, [] => false
  | n + 1, k, w :: ws =>
    let op := (rdf w 54 10).toNat
    let len := zviWords op
    if !opcodes.contains op || decide (ws.length + 1 < len) then false
    else if k < len then op == 0x040 && k == 1
    else baseWord n (k - len) (ws.drop (len - 1))

/-- The words of a TEXT section's stream. -/
def textWords (bs : List Byte) : List Word64 :=
  (List.range ((bs.length - 16) / 8)).map fun i => BitVec.ofNat 64 (fieldOf bs (16 + 8 * i) 8)

/-- R225: POS names a whole 64-bit field of a TEXT, DATA or MAP section. -/
def relocField (s : ZSec) (bs : List Byte) (pos : Nat) : Bool :=
  match s.ty with
  | 1 =>
    let ws := textWords bs
    decide (16 ≤ pos ∧ pos % 8 = 0) && baseWord (ws.length + 1) ((pos - 16) / 8) ws
  | 2 => (dataOf bs).any fun r => r.off == pos && decide (pos + 8 ≤ s.size)
  | 4 => (mapOf bs).any fun r => r.ok && ((r.ty == 3 && pos == r.off + 16) || (r.ty == 5 && (pos == r.off + 8 || pos == r.off + 16)))
  | _ => false

/-- R225: the image with one relocation applied, or its error. -/
def applyReloc (a : Alloc) (ss : List ZSec) (rs : ZSec) (acc : List Byte × List LoadErr) (i : Nat) : List Byte × List LoadErr :=
  let d := acc.1
  let e := (rs.bytes d).drop (16 * i)
  let kind := fieldOf e 2 1
  let pos := fieldOf e 8 8
  match ss[fieldOf e 0 2]? with
  | some s =>
    if 1 ≤ kind ∧ kind ≤ 4 ∧ fieldOf e 3 5 = 0 ∧ relocField s (s.bytes d) pos then
      (putField d (s.off + pos) (a.reloc kind (fieldOf d (s.off + pos) 8)), acc.2)
    else (d, acc.2 ++ [secErr 6 rs.no (16 * i)])
  | none => (d, acc.2 ++ [secErr 6 rs.no (16 * i)])

def relocate (a : Alloc) (ss : List ZSec) (d : List Byte) : List Byte × List LoadErr :=
  match ss.find? fun s => s.ty == 5 with
  | none => (d, [])
  | some rs =>
    let r := (List.range (rs.size / 16)).foldl (applyReloc a ss rs) (d, [])
    if rs.size % 16 = 0 then r else (r.1, r.2 ++ [secErr 6 rs.no (rs.size / 16 * 16)])

/-- A stage group that the MAP declares. -/
structure ZGroup where
  id : Nat
  die : Nat
  seq : Nat
  first : Nat
  count : Nat
  form : Nat
  deriving DecidableEq, Repr

def MapRec.group (r : MapRec) : ZGroup := ⟨r.at_ 0 2, r.at_ 2 1, r.at_ 3 1, r.at_ 4 1, r.at_ 5 1, r.at_ 6 1⟩

/-- The global numbers of a group's member cores. -/
def ZGroup.cores (g : ZGroup) : List Nat := (List.range g.count).map (16 * g.die + g.first + ·)

/-- R221: a group's own fields, and a group against an earlier one. -/
def ZGroup.bad (g : ZGroup) : Bool :=
  decide (3 < g.die ∨ 7 < g.seq ∨ g.count < 1 ∨ 16 < g.count ∨ 16 < g.first + g.count ∨ 1 < g.form)
def ZGroup.clash (a b : ZGroup) : Bool :=
  a.id == b.id || (a.die == b.die && (a.seq == b.seq || decide (a.first < b.first + b.count ∧ b.first < a.first + a.count)))

/-- A module-reserved region: the same offsets of some stacks in turn, or a range of T2 plain (the hub's pool). -/
structure StkRange where
  first : Nat
  count : Nat
  off : Nat
  size : Nat
  deriving DecidableEq, Repr

/-- The linear range `b` to `e` touches the region. -/
def StkRange.linearHit (r : StkRange) (b e : Nat) : Bool :=
  (List.range r.count).any fun i =>
    let lo := 0x10000000000 + (r.first + i) * 0x800000000 + r.off
    decide (b < lo + r.size ∧ lo ≤ e)

/-- The same for offsets `o1` to `o2` of the alias (R242): whole rows of 32 pages at once, the first and last row page by page. -/
def StkRange.aliasHit (r : StkRange) (o1 o2 : Nat) : Bool :=
  let k1 := o1 / 4096
  let k2 := o2 / 4096
  let meets (lo hi : Nat) : Bool := decide (lo < r.off + r.size ∧ r.off ≤ hi)
  let row (w : Nat) : Bool := (List.range r.count).any fun i =>
    let k := w * 32 + r.first + i
    decide (k1 ≤ k ∧ k ≤ k2) && meets (w * 4096 + if k = k1 then o1 % 4096 else 0) (w * 4096 + if k = k2 then o2 % 4096 else 4095)
  row (k1 / 32) || row (k2 / 32) || (decide (k1 / 32 + 1 < k2 / 32) && meets ((k1 / 32 + 1) * 4096) (k2 / 32 * 4096 - 1))

/-- What the MAP's checks need of the module: the allocation, the module-reserved regions (R244), the hub's pool in T2 (offset, bytes), and
the module's id. -/
structure MapCtx where
  alloc : Alloc
  regions : List StkRange
  t2Pool : Nat × Nat
  self : Nat
  deriving DecidableEq, Repr

/-- R241: a remote address that names the module itself is its local address. -/
def MapCtx.local_ (c : MapCtx) (a : Nat) : Nat := if bitsAt a 63 1 = 1 ∧ bitsAt a 44 18 = c.self then bitsAt a 0 44 else a

/-- R242: the stacks' parts of a linear range. -/
def stkParts (b n : Nat) : List StkRange :=
  (List.range 32).filterMap fun s =>
    let o := 0x10000000000 + s * 0x800000000
    let lo := max b o
    let hi := min (b + n) (o + 0x800000000)
    if lo < hi then some ⟨s, 1, lo - o, hi - lo⟩ else none

/-- R221, R242: two ranges of local addresses share a place, the alias taken as the linear range that it maps to. -/
def rangesMeet (b n b' n' : Nat) : Bool :=
  let meets (a k l j : Nat) : Bool := rangeOf a == .alias_ && rangeOf l == .linear && decide (0 < k)
    && (stkParts l j).any fun r => r.aliasHit (a - 0x20000000000) (a + k - 1 - 0x20000000000)
  decide (b < b' + n' ∧ b' < b + n) || meets b n b' n' || meets b' n' b n

/-- R244, R258, R259: the range overlaps a module-reserved region. -/
def MapCtx.reserved (c : MapCtx) (b n : Nat) : Bool :=
  let e := b + n - 1
  match rangeOf b with
  | .linear => c.regions.any fun r => decide (0 < r.size) && r.linearHit b e
  | .alias_ => c.regions.any fun r => decide (0 < r.size) && r.aliasHit (b - 0x20000000000) (e - 0x20000000000)
  | .t2 => decide (b - 0x80000000000 < c.t2Pool.1 + c.t2Pool.2 ∧ c.t2Pool.1 ≤ e - 0x80000000000)
  | _ => false

/-- The class of Table IMG-3 that a local address has; 6 for none. -/
def classAt (a : Nat) : Nat :=
  match rangeOf a with
  | .t0 => 0
  | .staging => 1
  | .linear | .alias_ => 2
  | .packed => 3
  | .t2 => 4
  | .t2packed => 5
  | .unmapped => 6

/-- R221: a TIER record's region. -/
def tierBad (c : MapCtx) (before : List MapRec) (r : MapRec) : Bool :=
  let b := r.at_ 0 8
  let n := r.at_ 8 8
  let cls := r.at_ 16 1
  let use := r.at_ 17 1
  decide (5 < cls ∨ 1 < use ∨ (use = 1 ∧ rangeOf b ≠ .linear) ∨ (if use = 1 then 16 else 1) ≤ r.at_ 20 4) || decide (n = 0) || classAt b != cls || classAt (b + n - 1) != cls
    || c.reserved b n || before.any (fun p => rangesMeet b n (p.at_ 0 8) (p.at_ 8 8))
    || (cls == 2 && !decide (c.alloc.t1 ≤ b ∧ b + n ≤ c.alloc.t1 + c.alloc.t1Size))

/-- R150: roles that a queue can have: an address queue's producer is a context and its consumer the LSU or the DMA engine, a data
queue's are units, and the OPE produces nothing. -/
def roleOk (q p c : Nat) : Bool :=
  if q < 24 then decide (p < 6 ∧ p ≠ 1 ∧ c < 6) else decide (8 ≤ p ∧ p < 16) && (c == 0 || c == 5)

/-- R220, R221, R148, R150: the errors of one MAP record, after the earlier ones of its section. -/
def mapErrs (c : MapCtx) (before : List MapRec) (r : MapRec) : List Nat :=
  let same := before.filter fun p => p.ok && p.ty == r.ty
  if !r.ok then [7]
  else match r.ty with
    | 1 => if r.group.bad || decide (r.at_ 7 1 ≠ 0) || same.any (fun p => p.group.clash r.group) then [7] else []
    | 2 =>
      if decide (31 < r.at_ 2 1 ∨ r.at_ 5 1 ≠ 0) || same.any (fun p => p.at_ 0 3 == r.at_ 0 3) then [7]
      else (if r.at_ 6 2 < 4 ∨ 256 < r.at_ 6 2 then [0x17] else []) ++ (if roleOk (r.at_ 2 1) (r.at_ 3 1) (r.at_ 4 1) then [] else [0x18])
    | 3 =>
      let v := r.at_ 8 8
      if decide (15 < r.at_ 2 1 ∨ r.at_ 3 5 ≠ 0 ∨ 4 < v % 8 ∨ bitsAt v 3 1 = 1 ∨ 2 ^ 38 ≤ v) || same.any (fun p => p.at_ 0 3 == r.at_ 0 3) then [7]
      else []
    | 4 =>
      if r.at_ 3 1 ≠ 0 ∨ r.at_ 6 2 ≠ 0 ∨ 1 < r.at_ 0 1 ∨ (r.at_ 0 1 = 0 ∧ 3 < r.at_ 1 1) ∨ (r.at_ 0 1 = 1 ∧ 63 < r.at_ 2 1) then [7] else []
    | _ => if tierBad c same r then [7] else []

/-- What an image declares, once its sections are parsed. -/
structure Zim where
  id : Nat
  ver : Nat
  recs : List MapRec
  groups : List ZGroup
  deriving DecidableEq, Repr

def Zim.group? (z : Zim) (id : Nat) : Option ZGroup := z.groups.find? fun g => g.id == id
def Zim.recsOf (z : Zim) (ty id : Nat) : List MapRec := z.recs.filter fun r => r.ok && r.ty == ty && r.at_ 0 2 == id

/-- The QUEUE record of a group's queue, and the CHAN_BIND value of its channel end. -/
def Zim.queue? (z : Zim) (g q : Nat) : Option MapRec := (z.recsOf 2 g).find? fun r => r.at_ 2 1 == q
def Zim.chan (z : Zim) (g e : Nat) : Nat := ((z.recsOf 3 g).find? fun r => r.at_ 2 1 == e).elim 0 fun r => r.at_ 8 8

/-- The code region of a core of a per-core group: its base (R220, R221). -/
def Zim.region? (z : Zim) (g core : Nat) : Option MapRec :=
  z.recs.find? fun r => r.ok && r.ty == 5 && r.at_ 17 1 == 1 && r.at_ 18 2 == g && r.at_ 20 4 == core

/-- R221, R148: the errors of the MAP section. -/
def Zim.mapErrors (z : Zim) (c : MapCtx) (d : List Byte) (s : ZSec) : List LoadErr :=
  let own := (List.range z.recs.length).flatMap fun i =>
    match z.recs[i]? with
    | none => []
    | some r =>
      let named := !(r.ok && (r.ty == 2 || r.ty == 3)) || (z.group? (r.at_ 0 2)).isSome
      ((if named then [] else [7]) ++ mapErrs c (z.recs.take i) r).map fun e => secErr e s.no r.off
  let sums := z.groups.flatMap fun g =>
    if 4064 < (((z.recsOf 2 g.id).filter fun r => decide (r.at_ 2 1 < 24)).map fun r => r.at_ 6 2).foldl (· + ·) 0 then [secErr 0x17 s.no 0] else []
  own ++ sums ++ (if z.groups.length = fieldOf d 36 2 then [] else [secErr 7 s.no 0])

/-- A group's record of the PHASES section (R222): the group, F_OFF, F_LEN, B_OFF, B_LEN, U_OFF, U_LEN. -/
def phaseRec (bs : List Byte) (i : Nat) : List Nat :=
  let o := 8 + 16 * i
  [fieldOf bs o 2, fieldOf bs (o + 2) 2, fieldOf bs (o + 4) 2, fieldOf bs (o + 6) 2, fieldOf bs (o + 8) 2, fieldOf bs (o + 10) 1,
    fieldOf bs (o + 11) 1]
def phaseRecs (bs : List Byte) : List (List Nat) := (List.range ((bs.length - 8) / 16)).map (phaseRec bs)

/-- R222: the errors of the PHASES section. -/
def Zim.phaseErrors (z : Zim) (s : ZSec) (bs : List Byte) : List LoadErr :=
  if decide (bs.length < 8 ∨ (bs.length - 8) % 16 ≠ 0 ∨ fieldOf bs 5 3 ≠ 0) then [secErr 0x1D s.no 0]
  else
    let ps := phaseRecs bs
    let ends := [fieldOf bs 0 2, fieldOf bs 2 2, fieldOf bs 4 1]
    let bad (i : Nat) : Bool :=
      let p := ps.getD i []
      let p0 := p.getD 0 0
      decide (fieldOf bs (8 + 16 * i + 12) 4 ≠ 0) || (z.group? p0).isNone || (ps.take i).any (fun q => q.getD 0 0 == p0)
        || (List.range 3).any fun k => decide (ends.getD k 0 < p.getD (2 * k + 1) 0 + p.getD (2 * k + 2) 0)
    (if fieldOf bs 0 2 = 0 then [secErr 0x1D s.no 0] else [])
      ++ ((List.range ps.length).filter bad).map (fun i => secErr 0x1D s.no (8 + 16 * i))
      ++ (z.groups.filter fun g => !ps.any fun p => p.getD 0 0 == g.id).map fun _ => secErr 0x1D s.no 0

/-- A group's record of the EPI section (R223): its place, group and MASK. -/
structure ZEpi where
  off : Nat
  group : Nat
  mask : Nat
  deriving DecidableEq, Repr

def epiRecs (bs : List Byte) : List ZEpi :=
  (List.range (bs.length / 520)).map fun i => ⟨520 * i, fieldOf bs (520 * i) 2, fieldOf bs (520 * i + 4) 4⟩

/-- The 16 bytes of entry `e` of a record, and whether they hold a reserved encoding (Table ACC-3). -/
def epiEntry (bs : List Byte) (r : ZEpi) (e : Nat) : List Byte := (bs.drop (r.off + 8 + 16 * e)).take 16
def epiEntryBad (bs : List Byte) : Bool :=
  let lo := fieldOf bs 0 8
  let o := bitsAt lo 4 4
  decide (7 < bitsAt lo 0 4) || decide (5 < o ∧ o ≠ 15) || decide (bitsAt lo 10 2 = 3 ∨ bitsAt lo 13 2 = 3) || decide (2 ^ 18 ≤ lo)
    || decide (fieldOf bs 12 4 ≠ 0)

/-- R223: the errors of the EPI section. -/
def Zim.epiErrors (z : Zim) (s : ZSec) (bs : List Byte) : List LoadErr :=
  (if bs.length % 520 = 0 then [] else [secErr 0x1C s.no (bs.length / 520 * 520)])
    ++ (epiRecs bs).flatMap fun r =>
      if (z.group? r.group).isNone || decide (fieldOf bs (r.off + 2) 2 ≠ 0) then [secErr 7 s.no r.off]
      else ((List.range 32).filter fun e => bitsAt r.mask e 1 == 1 && epiEntryBad (epiEntry bs r e)).map fun e =>
        secErr 0x1C s.no (r.off + 8 + 16 * e)

/-- R224: DEST lies in a core store, of this module or of another. -/
def coreDest (a : Nat) : Bool := rangeOf (if bitsAt a 62 2 = 2 then bitsAt a 0 44 else a) == .t0

/-- R221, R224: the errors of a DATA section. -/
def Zim.dataErrors (z : Zim) (c : MapCtx) (s : ZSec) (bs : List Byte) : List LoadErr :=
  let code := z.recs.filter fun r => r.ok && r.ty == 5 && r.at_ 17 1 == 1
  ((dataOf bs).filter fun r =>
    !r.ok || (r.kind == 2 && (decide (r.len % 32768 ≠ 0) || !coreDest r.dest))
      || code.any fun t => rangesMeet (c.local_ r.dest) r.len (t.at_ 0 8) (t.at_ 8 8)).map fun r => secErr 7 s.no r.off

/-- A stream (R218): its section, index, group, form, core, entry word and words; `ok` says that its header has the form. -/
structure ZText where
  sec : Nat
  idx : Nat
  group : Nat
  form : Nat
  core : Nat
  entry : Nat
  words : List Word64
  ok : Bool
  deriving DecidableEq, Repr

def textOfSec (d : List Byte) (s : ZSec) : ZText :=
  let bs := s.bytes d
  ⟨s.no, s.idx, fieldOf bs 0 2, fieldOf bs 2 1, fieldOf bs 3 1, fieldOf bs 4 4, textWords bs,
    decide (16 ≤ bs.length) && fieldOf bs 12 4 == 0 && decide (bs.length = 16 + 8 * fieldOf bs 8 4)⟩

/-- R218: a stream's header agrees with the MAP. -/
def Zim.textOk (z : Zim) (t : ZText) : Bool :=
  t.ok && (match z.group? t.group with
    | none => false
    | some g => g.form == t.form && (if g.form = 0 then t.core == 0 else decide (g.first ≤ t.core ∧ t.core < g.first + g.count)
        && (z.region? g.id t.core).isSome))
    && (z.ver != 1 || t.form == 1)

/-- R218: the streams that a group needs: one, or one for each core. -/
def ZGroup.missing (ts : List ZText) (g : ZGroup) : Bool :=
  if g.form = 0 then !ts.any fun t => t.group == g.id
  else (List.range g.count).any fun i => !ts.any fun t => t.group == g.id && t.core == g.first + i

/-- The errors of the TEXT headers (log entry 43). -/
def Zim.textErrors (z : Zim) (ts : List ZText) : List LoadErr :=
  (ts.filter fun t => !z.textOk t).map fun t => ⟨7, t.sec, t.idx, 0⟩

/-- The image's declarations; R166 gives every group of a version 1 image the per-core form. -/
def zimOf (d : List Byte) (ss : List ZSec) : Zim :=
  let recs := (ss.find? fun s => s.ty == 4).elim [] fun s => mapOf (s.bytes d)
  let gs := (List.range recs.length).filterMap fun i =>
    recs[i]?.bind fun r =>
      if r.ok && r.ty == 1 && !r.group.bad && !(recs.take i).any (fun p => p.ok && p.ty == 1 && p.group.clash r.group) then
        some (if fieldOf d 6 1 = 1 then { r.group with form := 1 } else r.group)
      else none
  ⟨fieldOf d 24 8, fieldOf d 6 1, recs, gs⟩

/-- R217, R218, R228: a stream that repeats an earlier one of its group (and core), and a stream that a group lacks, are SECTION errors. -/
def textsBad (d : List Byte) (ss : List ZSec) : Option LoadErr :=
  let z := zimOf d ss
  let ts := (ss.filter fun s => s.ty == 1).map (textOfSec d)
  let twice := (List.range ts.length).find? fun i => ts[i]?.any fun t => (ts.take i).any fun u => u.group == t.group && u.core == t.core
  match twice.bind (ts[·]?) with
  | some t => some ⟨3, t.sec, t.idx, 0⟩
  | none => if z.groups.any (ZGroup.missing ts) then some (secErr 3 0xFFFF 0) else none

/-- Stage 1 of R227. -/
def zimStage1 (d : List Byte) : Except LoadErr (List ZSec) :=
  match zimTable d with
  | .error e => .error e
  | .ok ss => match textsBad d ss with
    | some e => .error e
    | none => .ok ss

end Sys2Proof.Machine
end

