-- ==== Sys2Proof/Machine/Check.lean ====
section
/-! DEFINITION. Stages 4 and 5 of an image's check (R227): every instruction of every stream (chapter 07, R215) and the checks across
streams, with CROSSWAIT (R229). -/
namespace Sys2Proof.Machine

/-- What a field may name: an address queue, a data queue, a data queue or a channel end, a channel end, a DMA side, CA of LDV. -/
inductive UseKind where
  | addr | data | out | chan | side | ca
  deriving DecidableEq, Repr

/-- An operand field (Table ZPM-1): its code, what it may name, whether none is allowed, and whether the unit pushes to it. -/
structure Use where
  code : Nat
  kind : UseKind
  opt : Bool
  push : Bool
  deriving DecidableEq, Repr

def pop (k : UseKind) (c : BitVec 6) : Use := ⟨c.toNat, k, false, false⟩
def push (k : UseKind) (c : BitVec 6) : Use := ⟨c.toNat, k, false, true⟩
def Use.may (u : Use) : Use := { u with opt := true }

def vecUses (f : VecF) (y z : Bool) : List Use :=
  [pop .data f.x] ++ (if y then [pop .data f.y] else []) ++ (if z then [pop .data f.z] else []) ++ [push .out f.d]
def optUses (f : OptF) (v : Bool) : List Use :=
  [pop .data f.p, pop .data f.w, pop .data f.m, pop .data f.g, push .out f.wo, push .out f.mo]
    ++ (if v then [pop .data f.v, push .out f.vo] else []) ++ (if f.wcopy = 1 then [push .out f.wb] else [])
def dmaUses (f : DmaF) : List Use := [pop .side f.src, ⟨f.dst.toNat, .side, false, decide (f.dst.toNat < 24)⟩]

/-- The operands of an instruction, as its unit pops and pushes them (chapters 05 to 07). -/
def uses : Instr → List Use
  | .srun _ _ a _ => [push .addr a]
  | .ldv _ a q ca _ _ _ _ _ => [pop .addr a, push .data q, (pop .ca ca).may]
  | .lds _ aa ab q _ _ _ _ => [(pop .addr aa).may, (pop .addr ab).may, push .data q]
  | .stv _ q a _ _ => [pop .data q, pop .addr a]
  | .qmov _ qs qd _ => [pop .data qs, push .data qd]
  | .qdup _ qs d1 d2 _ => [pop .data qs, push .data d1, push .data d2]
  | .opu _ qa qb _ _ _ _ _ => [pop .data qa, pop .data qb]
  | .opus _ qa qb qs _ _ _ _ _ => [pop .data qa, pop .data qb, pop .data qs]
  | .tload _ q _ _ mode _ _ _ => if mode = 1 ∨ mode = 2 then [pop .data q] else []
  | .tdrain _ f =>
    [(pop .data f.res).may, (push .out f.zq).may, (push .out f.out).may, (push .out f.amax).may, (push .out f.scl).may]
  | .tdraing _ f => [(pop .data f.zq).may, (push .out f.out).may, (push .out f.amax).may]
  | .epi _ q _ => [pop .data q]
  | .vadd _ f => vecUses f true false
  | .vsub _ f => vecUses f true false
  | .vmul _ f => vecUses f true false
  | .vfma _ f => vecUses f true true
  | .vmax _ f => vecUses f true false
  | .vmin _ f => vecUses f true false
  | .vcmp _ f => vecUses f true false
  | .vsel _ f => vecUses f true true
  | .vcvt _ x d _ _ _ _ _ => [pop .data x, push .out d]
  | .vexp _ f => vecUses f false false
  | .vlog _ f => vecUses f false false
  | .vrsq _ f => vecUses f false false
  | .vrcp _ f => vecUses f false false
  | .vred _ f => vecUses f false false
  | .vshuf _ f => vecUses f true false
  | .vbcast _ x _ d _ _ _ => [pop .data x, push .out d]
  | .vamax _ f => vecUses f false false
  | .vrng _ _ d _ _ => [push .out d]
  | .vadamw _ f => optUses f true
  | .vlion _ f => optUses f false
  | .vsgdm _ f => optUses f false
  | .nsend _ q c _ => [pop .data q, push .chan c]
  | .nrecv _ c q _ => [pop .chan c, push .data q]
  | .nmcast _ q mask _ =>
    pop .data q :: ((List.range 16).filter fun k => mask.getLsbD k).map fun k => ⟨32 + k, .chan, false, true⟩
  | .rred _ q d c _ _ => [pop .data q, push .data d, push .chan c]
  | .rgath _ q d c _ => [pop .data q, push .data d, push .chan c]
  | .dcopy _ f => dmaUses f
  | .dpref _ f => dmaUses f
  | .ipull _ a _ _ _ => [pop .addr a]
  | _ => []

/-- The operand names something of the right kind. -/
def Use.fits (u : Use) : Bool :=
  match u.kind with
  | .addr | .ca => decide (24 ≤ u.code ∧ u.code < 32)
  | .data => decide (u.code < 24)
  | .out => decide (u.code < 24 ∨ (32 ≤ u.code ∧ u.code < 48))
  | .chan => decide (32 ≤ u.code ∧ u.code < 48)
  | .side => decide (u.code < 32)

/-- The load error of one operand: RESERVED, QROLE for a channel end in an LSU field (R188), LSU_FORM for another CA (R190), OPERAND
(R215); DMA operands of another kind are R210's. -/
def Use.err (unit : Nat) (u : Use) : List Nat :=
  if u.fits then []
  else if u.code = 63 ∧ u.opt then []
  else if 48 ≤ u.code ∧ u.code < 63 then [0x1C]
  else if unit = 0 ∧ 32 ≤ u.code ∧ u.code < 48 then [0x18]
  else if u.kind = .ca then [0x0F]
  else if unit = 5 then []
  else [0x0E]

def vecReserved (f : VecF) (y z : Bool) (maxExt : Nat) : Bool :=
  f.fx == 3 || f.fd == 3 || decide (maxExt < f.ext.toNat) || (if y then f.fy == 3 else f.y != 63 || f.fy != 0)
    || (if z then f.fz == 3 else f.z != 63 || f.fz != 0)
def optReserved (f : OptF) (v : Bool) : Bool :=
  !(f.fg == 1 || f.fg == 2) || (!v && (f.v != 63 || f.vo != 63)) || (f.wcopy == 0 && f.wb != 63)

/-- R16: a field other than an operand holds a reserved encoding, or one that its rule fixes does not hold its value. -/
def reservedField : Instr → Bool
  | .phase _ p s _ => p == 0 || s == 3
  | .sdef _ d => d.mode == 3
  | .srun _ _ _ n => decide (2 ^ 24 < n.toNat)
  | .ldv _ _ _ _ fmt pack _ _ _ => decide (6 ≤ fmt.toNat) || pack == 3
  | .lds _ _ _ _ fmt _ _ _ => decide (6 ≤ fmt.toNat)
  | .opu _ _ _ _ _ fa fb _ => decide (6 ≤ fa.toNat ∨ 6 ≤ fb.toNat)
  | .opus _ _ _ _ _ _ fa fb _ => decide (6 ≤ fa.toNat ∨ 6 ≤ fb.toNat)
  | .tload _ q _ _ mode ax sfmt c =>
    if mode = 0 ∨ mode = 3 then q != 63 || ax != 0 || sfmt != 0 || (mode == 0 && c != 0) else sfmt == 3 || c != 0
  | .tdraing _ f => f.res != 63 || f.scl != 63
  | .vadd _ f => vecReserved f true false 0
  | .vsub _ f => vecReserved f true false 0
  | .vmul _ f => vecReserved f true false 0
  | .vfma _ f => vecReserved f true true 0
  | .vmax _ f => vecReserved f true false 0
  | .vmin _ f => vecReserved f true false 0
  | .vcmp _ f => vecReserved f true false 5 || f.fd != 0
  | .vsel _ f => vecReserved f true true 0
  | .vcvt _ _ _ i o _ _ _ => !(cvtCode i && cvtCode o)
  | .vexp _ f => vecReserved f false false 0
  | .vlog _ f => vecReserved f false false 0
  | .vrsq _ f => vecReserved f false false 0
  | .vrcp _ f => vecReserved f false false 0
  | .vred _ f => vecReserved f false false 3
  | .vshuf _ f => vecReserved f true false 0 || f.fy != 0
  | .vbcast _ _ _ _ fx fd _ => fx == 3 || fd == 3
  | .vamax _ f => vecReserved f false false 0 || f.fd != 0
  | .vrng _ p _ mode _ => decide (5 ≤ mode.toNat) || (mode != 4 && p != 0)
  | .vadamw _ f => optReserved f true
  | .vlion _ f => optReserved f false
  | .vsgdm _ f => optReserved f false
  | .nmcast _ _ mask _ => mask == 0
  | .rred _ _ _ _ op _ => op == 3
  | .dcopy _ f => f.layout == 3 || f.share != 0
  | .dpref _ f => f.layout == 3
  | .dwait _ mask => mask == 0
  | .ipull _ _ ring _ _ => decide (16 ≤ ring.toNat)
  | _ => false

/-- R69, R70, R72: the errors of an update's formats and count. -/
def opErrs (scaled : Bool) (fa fb : BitVec 4) (n : Nat) : List Nat :=
  (if fmtP fa ≠ fmtP fb ∨ (scaled != (fmtMx fa || fmtMx fb)) then [0x14] else [])
    ++ if scaled ∧ n % (32 / fmtP fa) ≠ 0 then [0x15] else []

/-- R210-R212, R163: the errors of a DCOPY or DPREF. -/
def dmaErrs (f : DmaF) (pref : Bool) : List Nat :=
  (if !((okA f.src || okQ f.src) && (okA f.dst || okQ f.dst)) || (okQ f.src && okQ f.dst) || (pref && !okA f.dst) then [0x11]
    else if okA f.src && okA f.dst || f.esz == 1 || dmaUnits f % 2 == 0 then [] else [0x1B])
    ++ if (f.layout == 1 || f.layout == 2) && dmaUnits f % 128 != 0 then [0x12] else []

/-- R215: the errors of one instruction's form, its operands, TARGET and loops aside. -/
def formErrs : Instr → List Nat
  | .fset _ g f _ _ => if wfFlag g f then [] else [0x0D]
  | .fadd _ g f _ _ => if wfFlag g f then [] else [0x0D]
  | .fclr _ g f _ => if wfFlag g f then [] else [0x0D]
  | .fwait _ g f _ => if wfFlag g f then [] else [0x0D]
  | .ldv _ _ _ ca fmt pack part _ _ =>
    if decide (pack ≠ 0 ∧ (fmt.toNat < 2 ∨ 6 ≤ fmt.toNat)) || decide (fmtP fmt < part.toNat) || (fmtMx fmt && pack != 0 && none6 ca) then [0x0F]
    else []
  | .lds _ aa ab _ fmt _ _ _ => if !fmtMx fmt || (none6 aa && none6 ab) then [0x0F] else []
  | .opu _ _ _ _ _ fa fb n => opErrs false fa fb n.toNat
  | .opus _ _ _ _ _ _ fa fb n => opErrs true fa fb n.toNat
  | .tdrain _ f => if decide (1 ≤ f.nlines.toNat ∧ f.first.toNat + f.nlines.toNat ≤ 128) then [] else [0x16]
  | .tdraing _ f => if decide (1 ≤ f.nlines.toNat ∧ f.first.toNat + f.nlines.toNat ≤ 128) then [] else [0x16]
  | .vcvt _ _ _ i o _ _ n => if isFp8 o && !isFp8 i && n.toNat % 2 != 0 then [0x10] else []
  | .dcopy _ f => dmaErrs f false
  | .dpref _ f => dmaErrs f true
  | .ipull _ a _ _ _ => if okA a then [] else [0x11]
  | _ => []

/-- R215, R16: the errors of one instruction alone. -/
def insErrs (i : Instr) : List Nat :=
  (uses i).flatMap (Use.err (unitOf i)) ++ formErrs i ++ if reservedField i then [0x1C] else []

/-- R179: what a version 1 image may not use. -/
def v2only : Instr → Bool
  | .lds .. | .opus .. | .tdraing .. | .vlion .. | .rred .. | .rgath .. | .ipull .. => true
  | .fset _ g _ _ _ => g == 1
  | .fadd _ g _ _ _ => g == 1
  | .fclr _ g _ _ => g == 1
  | .fwait _ g _ _ => g == 1
  | .ldv _ _ _ _ fmt _ _ _ _ => decide (2 ≤ fmt.toNat ∧ fmt.toNat < 6)
  | .opu _ _ _ _ _ fa fb _ => decide ((2 ≤ fa.toNat ∧ fa.toNat < 6) ∨ (2 ≤ fb.toNat ∧ fb.toNat < 6))
  | _ => false

/-- An instruction of a stream: its word and its length. -/
structure ZIns where
  at_ : Nat
  len : Nat
  ins : Instr
  deriving DecidableEq, Repr

/-- What stage 4 finds in a stream: its instructions as far as their boundaries are known, the errors of its words alone (code, word),
and the word where it stopped; none if it reached the end (R227). -/
structure Scan where
  ins : List ZIns
  errs : List (Nat × Nat)
  stop : Option Nat
  deriving DecidableEq, Repr

/-- R174, R227: the instructions of a stream from word `at_` on. -/
def scan (t : ThreadId) : Nat → Nat → List Word64 → Scan
  | 0, _, _ => ⟨[], [], none⟩
  | _ + 1, _, [] => ⟨[], [], none⟩
  | n + 1, at_, w :: ws =>
    let op := (rdf w 54 10).toNat
    let len := zviWords op
    if !opcodes.contains op then ⟨[], [(0x1C, at_)], some at_⟩
    else if ws.length + 1 < len then ⟨[], [(0x08, at_)], some at_⟩
    else
      let own := (w :: ws).take len
      let r := scan t n (at_ + len) (ws.drop (len - 1))
      match zviRead t own with
      | some i =>
        let bits := if zviEncode i = some own then [] else [(0x1C, at_)]
        ⟨⟨at_, len, i⟩ :: r.ins, bits ++ (insErrs i).map (fun c => (c, at_)) ++ r.errs, r.stop⟩
      | none => { r with errs := (0x1C, at_) :: r.errs }

/-- The loop body that an instruction lies in, named by the word of its LOOP (0 outside every loop, else the word + 1), in program
order, with the errors of R181 and the loops left open. -/
structure Loops where
  body : List (Nat × Nat)
  errs : List (Nat × Nat)
  open_ : List Nat
  deriving DecidableEq, Repr

def loopStep (l : Loops) (z : ZIns) : Loops :=
  let here := l.open_.headD 0
  match z.ins with
  | .loop .. =>
    ⟨l.body ++ [(z.at_, here)], l.errs ++ (if 8 ≤ l.open_.length then [(0x0C, z.at_)] else []), (z.at_ + 1) :: l.open_⟩
  | .endl .. =>
    ⟨l.body ++ [(z.at_, here)], l.errs ++ (if l.open_.isEmpty then [(0x0C, z.at_)] else []), l.open_.drop 1⟩
  | _ => { l with body := l.body ++ [(z.at_, here)] }

def Scan.loops (s : Scan) : Loops := s.ins.foldl loopStep ⟨[], [], []⟩

/-- R176, R182: the target of an instruction, and whether the body that it lies in is right. -/
def targetErr (s : Scan) (l : Loops) (z : ZIns) : List (Nat × Nat) :=
  let judge (t : Nat) (ok : Nat → Bool) :=
    match l.body.find? fun b => b.1 == t with
    | some b => if ok b.2 then [] else [(0x0B, z.at_)]
    | none => if s.stop.all fun w => decide (t < w) then [(0x0B, z.at_)] else []
  match z.ins with
  | .ctxstart _ _ t => judge t.toNat (· == 0)
  | .phase _ _ _ t => judge t.toNat fun b => ((l.body.find? fun p => p.1 == z.at_).map (·.2)) == some b
  | _ => []

/-- The packing that R103 asks of an OFMT. -/
def ofmtPack (o : Nat) : Nat := if o = 2 ∨ o = 3 then 2 else if o = 4 ∨ o = 5 then 32 else 1

/-- R103: FIRST and NLINES of a drain against the OFMT that the EPI section gives its entry (`fmts`: entry, OFMT). A TDRAING is not checked, as
its output is FP16 or BF16 whatever OFMT names (DEDUCED from R117; log entry 66). -/
def drainErr (fmts : List (Nat × Nat)) (z : ZIns) : List (Nat × Nat) :=
  match z.ins with
  | .tdrain _ f =>
    match fmts.find? fun e => e.1 == f.epi.toNat with
    | some e => if f.first.toNat % ofmtPack e.2 = 0 ∧ f.nlines.toNat % ofmtPack e.2 = 0 then [] else [(0x16, z.at_)]
    | none => []
  | _ => []

/-- A stream with what stage 4 found in it. -/
structure ZStream where
  text : ZText
  scan : Scan
  deriving DecidableEq, Repr

/-- The thread of the stream's context 0: its sequencer's, or its core's. -/
def ZGroup.thread (g : ZGroup) (t : ZText) : ThreadId :=
  ⟨BitVec.ofNat 2 g.die, BitVec.ofNat 1 g.form, BitVec.ofNat 4 (if g.form = 0 then g.seq else t.core), 0⟩

def Zim.streamOf (z : Zim) (t : ZText) : ZStream :=
  let thr := (z.group? t.group).elim ⟨0, 0, 0, 0⟩ fun g => g.thread t
  ⟨t, scan thr (t.words.length + 1) 0 t.words⟩

/-- The formats that the EPI section gives the entries of a group, those left out that an EPI instruction of the group writes. -/
def epiFmts (d : List Byte) (ss : List ZSec) (streams : List ZStream) (group : Nat) : List (Nat × Nat) :=
  let written := (streams.filter fun s => s.text.group == group).flatMap fun s => s.scan.ins.filterMap fun z =>
    match z.ins with
    | .epi _ _ e => some e.toNat
    | _ => none
  match ss.find? fun s => s.ty == 3 with
  | none => []
  | some s =>
    let bs := s.bytes d
    ((epiRecs bs).filter fun r => r.group == group).flatMap fun r =>
      ((List.range 32).filter fun e => bitsAt r.mask e 1 == 1 && !written.contains e).map fun e =>
        (e, bitsAt (fieldOf (epiEntry bs r e) 0 8) 4 4)

/-- R227: the errors of stage 4 in one stream. -/
def Zim.streamErrs (z : Zim) (fmts : List (Nat × Nat)) (s : ZStream) : List LoadErr :=
  let l := s.scan.loops
  let size := if (if s.text.form = 0 then 131072 else 2 ^ 20) < s.text.words.length then [(0x08, 0)] else []
  let ver := if z.ver = 1 then (s.scan.ins.filter fun i => v2only i.ins).map fun i => (0x0A, i.at_) else []
  let left := if s.scan.stop.isNone then l.open_.map fun b => (0x0C, b - 1) else []
  let entry := if (s.scan.ins.any fun i => i.at_ == s.text.entry) || (s.scan.stop.any fun w => decide (w ≤ s.text.entry)) then []
    else [(0x0B, s.text.entry)]
  (size ++ s.scan.errs ++ ver ++ l.errs ++ left ++ entry ++ s.scan.ins.flatMap (targetErr s.scan l) ++ s.scan.ins.flatMap (drainErr fmts)).map
    fun e => ⟨e.1, s.text.sec, s.text.idx, e.2⟩

/-! Stage 5. -/

/-- The instruction at a word of a stream. -/
def ZStream.at? (s : ZStream) (pc : Nat) : Option ZIns := s.scan.ins.find? fun z => z.at_ == pc

/-- The instructions that each context can reach from the places in `todo` (context, word). -/
def ZStream.walk (s : ZStream) : Nat → List (Nat × Nat) → List (Nat × Nat) → List (Nat × Nat)
  | 0, _, seen => seen
  | _ + 1, [], seen => seen
  | n + 1, p :: todo, seen =>
    if seen.contains p then s.walk n todo seen
    else match s.at? p.2 with
      | none => s.walk n todo seen
      | some z =>
        let next := (p.1, p.2 + z.len)
        let more := match z.ins with
          | .halt .. => []
          | .ctxstart _ c t => [next, (c.toNat, t.toNat)]
          | .phase _ _ _ t => [next, (p.1, t.toNat)]
          | _ => [next]
        s.walk n (more ++ todo) (p :: seen)

/-- R158: context 0 starts at ENTRY, every other one by CTXSTART. -/
def ZStream.reach (s : ZStream) : List (Nat × ZIns) :=
  ((s.walk (24 * s.scan.ins.length + 24) [(0, s.text.entry)] []).reverse).filterMap fun p => (s.at? p.2).map (p.1, ·)

/-- R221: a queue that an instruction of the stream uses has no QUEUE record. -/
def Zim.queueErrs (z : Zim) (s : ZStream) : List LoadErr :=
  s.scan.ins.flatMap fun i =>
    ((uses i.ins).filter fun u => u.fits && decide (u.code < 32) && (z.queue? s.text.group u.code).isNone).map fun _ =>
      ⟨0x07, s.text.sec, s.text.idx, i.at_⟩

/-- R150, R152: the errors of one operand of an instruction that a context issues; none for an instruction that no context reaches, whose
producing context is then not known. -/
def Zim.useErr (z : Zim) (group : Nat) (ctx : Option Nat) (i : Instr) (u : Use) : List Nat :=
  let unit := unitOf i
  if !u.fits then []
  else if u.code < 32 then
    match z.queue? group u.code with
    | none => []
    | some r =>
      if u.push then (if (if unit = 6 then ctx.all fun c => r.at_ 3 1 == 8 + c else r.at_ 3 1 == unit) then [] else [0x18])
      else if r.at_ 4 1 = unit then [] else [0x18]
  else
    let kind := z.chan group (u.code - 32) % 8
    let ok := match i with
      | .rred .. | .rgath .. => kind == 4
      | .nsend .. | .nmcast .. => kind == 1
      | _ => if u.push then kind == 1 || kind == 4 else kind == 2 || kind == 3
    if ok then [] else [0x19]

/-- The stream group that a channel end of a group belongs to. -/
def Zim.redGroup (z : Zim) (group e : Nat) : Nat := bitsAt (z.chan group e) 32 6

/-- R209: the reduction streams that an instruction feeds by RRED or RGATH (true) or through a RED_TX end (false). -/
def Zim.feeds (z : Zim) (group : Nat) (i : Instr) : List (Nat × Bool) :=
  ((uses i).filter fun u => u.fits && decide (32 ≤ u.code) && u.push && z.chan group (u.code - 32) % 8 == 4).map fun u =>
    (z.redGroup group (u.code - 32), match i with
      | .rred .. | .rgath .. => true
      | _ => false)

/-- R162: an instruction goes to an engine class that another context has used. -/
def shared (before : List (Nat × ZIns)) (p : Nat × ZIns) : Bool :=
  decide (unitOf p.2.ins < 5) && match before.find? fun q => unitOf q.2.ins == unitOf p.2.ins with
    | some q => q.1 != p.1
    | none => false

/-- R150, R152, R162: the errors of a stream's roles, of every instruction, by each context that can reach it. -/
def Zim.roleErrs (z : Zim) (s : ZStream) : List LoadErr :=
  let r := s.reach
  let err (i : ZIns) (c : Nat) : LoadErr := ⟨c, s.text.sec, s.text.idx, i.at_⟩
  let use (ctx : Option Nat) (i : ZIns) := ((uses i.ins).flatMap (z.useErr s.text.group ctx i.ins)).map (err i)
  ((List.range r.length).flatMap fun k => match r[k]? with
    | none => []
    | some p => (if shared (r.take k) p then [err p.2 0x1A] else []) ++ use (some p.1) p.2)
    ++ (s.scan.ins.filter fun i => !r.any fun p => p.2.at_ == i.at_).flatMap (use none)

/-- R209: an error for each RRED or RGATH whose stream is also fed through a RED_TX end. -/
def Zim.mixedErrs (z : Zim) (ss : List ZStream) : List LoadErr :=
  let all := ss.flatMap fun s => s.scan.ins.flatMap fun i => (z.feeds s.text.group i.ins).map fun f => (f, s, i.at_)
  let tx := (all.filter fun a => !a.1.2).map (·.1.1)
  (all.filter fun a => a.1.2 && tx.contains a.1.1).map fun a => ⟨0x13, a.2.1.text.sec, a.2.1.text.idx, a.2.2⟩

/-! CROSSWAIT (R229). -/

/-- Where a context stands between two bodies: its next word and its loop levels (word of the LOOP's first instruction, n, L). -/
structure Pos where
  pc : Nat
  loops : List (Nat × Nat × Nat)
  deriving DecidableEq, Repr

/-- How a body ends: before a tick boundary, with the context's end, or at a point after which its place in the tick is unknown. -/
inductive BodyEnd where
  | ticks (p : Pos)
  | halts
  | unknown
  deriving DecidableEq, Repr

/-- A body: its instructions in order. -/
structure Body where
  ins : List ZIns
  stop : BodyEnd
  deriving DecidableEq, Repr

/-- Phase and phase tick index, and the group's window in each phase (OFF, LEN). -/
structure When where
  phase : Nat
  i : Nat
  win : List (Nat × Nat)
  deriving DecidableEq, Repr

/-- R171, R185: PHASE passes. -/
def When.passes (w : When) (pset : BitVec 3) (sel : BitVec 2) : Bool :=
  let v := w.win.getD w.phase (0, 0)
  pset.getLsbD w.phase && decide (v.1 ≤ w.i ∧ w.i < v.1 + v.2) &&
    (if sel = 1 then w.i == v.1 else if sel = 2 then w.i + 1 == v.1 + v.2 else true)

/-- R229: the body of a context from a position on, a bounded number of instructions long. -/
def ZStream.body (s : ZStream) (w : When) : Nat → Pos → Body
  | 0, _ => ⟨[], .unknown⟩
  | n + 1, p =>
    match s.at? p.pc with
    | none => ⟨[], .halts⟩
    | some z =>
      let go (q : Pos) : Body :=
        let b := s.body w n q
        { b with ins := z :: b.ins }
      let next := p.pc + z.len
      match z.ins with
      | .halt .. => ⟨[z], .halts⟩
      | .tickw .. => ⟨[z], .ticks ⟨next, p.loops⟩⟩
      | .phase _ ps sel t => go ⟨if w.passes ps sel then next else t.toNat, p.loops⟩
      | .loop _ c => if c = 0 then ⟨[z], .unknown⟩ else go ⟨next, (next, c.toNat, 0) :: p.loops⟩
      | .endl .. =>
        match p.loops with
        | (start, c, l) :: rest => if l + 1 < c then go ⟨start, (start, c, l + 1) :: rest⟩ else go ⟨next, rest⟩
        | [] => ⟨[z], .unknown⟩
      | _ => go ⟨next, p.loops⟩

/-- A context of a stream in the analysis: not running, at a position, or unknown. -/
inductive Where_ where
  | off
  | on (p : Pos)
  | lost
  deriving DecidableEq, Repr

/-- The bodies that the contexts of a stream run in one tick (context, body), and where they stand after it. A context that is started
while it may still run, or twice in a tick, is unknown from then on. -/
structure TickRun where
  ctx : List Where_
  bodies : List (Nat × Body)
  deriving DecidableEq, Repr

def starts (b : Body) : List (Nat × Nat) :=
  b.ins.filterMap fun z => match z.ins with
    | .ctxstart _ c t => some (c.toNat, t.toNat)
    | _ => none

def ZStream.runOne (s : ZStream) (w : When) (before : List Where_) : Nat → List (Nat × Pos) → TickRun → TickRun
  | 0, _, r => r
  | _ + 1, [], r => r
  | n + 1, p :: todo, r =>
    let b := s.body w (2 ^ 20) p.2
    let r : TickRun := ⟨r.ctx.set p.1 (match b.stop with
      | .ticks q => .on q
      | .halts => .off
      | .unknown => .lost), r.bodies ++ [(p.1, b)]⟩
    let fresh (c : Nat) : Bool := before.getD c .off == .off && !(r.bodies.any fun q => q.1 == c) && !todo.any fun q => q.1 == c
    let r := (starts b).foldl (fun (a : TickRun × List (Nat × Pos)) c =>
        if fresh c.1 && !a.2.any (fun q => q.1 == c.1) then (a.1, a.2 ++ [(c.1, ⟨c.2, []⟩)])
        else if before.getD c.1 .off == .off then ({ a.1 with ctx := a.1.ctx.set c.1 .lost }, a.2)
        else (a.1, a.2)) (r, todo)
    s.runOne w before n r.2 r.1

/-- The contexts that unknown contexts may have started, or that were started while their end came in the same tick, are unknown. -/
def ZStream.spread (s : ZStream) (before : List Where_) (r : TickRun) : List Where_ :=
  let hit := r.bodies.flatMap fun b => (starts b.2).map (·.1)
  let ctx := (List.range 8).map fun c =>
    if r.ctx.getD c .off == .off && before.getD c .off != .off && hit.contains c then Where_.lost else r.ctx.getD c .off
  (List.range 8).foldl (fun cs _ =>
    let may := s.reach.filterMap fun p => match p.2.ins with
      | .ctxstart _ c _ => if cs.getD p.1 .off == .lost then some c.toNat else none
      | _ => none
    (List.range 8).map fun c => if cs.getD c .off == .off && may.contains c then .lost else cs.getD c .off) ctx

def ZStream.runTick (s : ZStream) (w : When) (ctx : List Where_) : TickRun :=
  let todo := (List.range 8).filterMap fun c => match ctx.getD c .off with
    | .on p => some (c, p)
    | _ => none
  let r := s.runOne w ctx 8 todo ⟨ctx, []⟩
  ⟨s.spread ctx r, r.bodies⟩

/-- A flag that an FWAIT, FSET or FADD names: the die and flag, or the module flag. -/
def ZGroup.flag (g : ZGroup) (m : BitVec 1) (f : BitVec 8) : Nat := flagKey g.die (m == 1) f.toNat

/-- The flag whose count an instruction increases (R229). -/
def ZGroup.raises (g : ZGroup) : Instr → Option Nat
  | .fset _ m f _ _ => some (g.flag m f)
  | .fadd _ m f _ v => if 0 < v.toInt then some (g.flag m f) else none
  | _ => none

/-- A thread of the image (its stream by section, its context) and the place of an instruction in its body. -/
structure CWait where
  thr : Nat × Nat
  pos : Nat
  z : ZIns
  flag : Nat
  thresh : Nat
  deriving DecidableEq, Repr

/-- A body of a tick, of a thread. -/
structure Run where
  thr : Nat × Nat
  group : ZGroup
  body : List ZIns
  deriving DecidableEq, Repr

def Run.waits (r : Run) : List CWait :=
  (List.range r.body.length).filterMap fun k => r.body[k]?.bind fun z =>
    match z.ins with
    | .fwait _ m f v => some ⟨r.thr, k, z, r.group.flag m f, v.toNat⟩
    | _ => none

/-- An increase that a thread can reach: its thread, flag and word. -/
structure Raiser where
  thr : Nat × Nat
  flag : Nat
  at_ : Nat
  deriving DecidableEq, Repr

/-- The analysis' facts of the whole image: every increase that a thread can reach, and the counts from which the flags start. -/
structure Facts where
  raisers : List Raiser
  init : List (Nat × Nat)
  deriving DecidableEq, Repr

/-- R229: `w` waits on the thread of `v`: its flag can reach its threshold only through increases of that thread, each of them after `v` in
its body of this tick, and none of them in a body before (`past`: the increases of earlier ticks). -/
def waitsOn (f : Facts) (past : List ((Nat × Nat) × Nat)) (runs : List Run) (w v : CWait) : Bool :=
  let ups := f.raisers.filter fun r => r.flag == w.flag
  let body := (runs.find? fun r => r.thr == v.thr).elim [] (·.body)
  w.thr != v.thr && decide (((f.init.find? fun p => p.1 == w.flag).elim 0 (·.2)) < w.thresh) && !past.contains (v.thr, w.flag) && !ups.isEmpty
    && ups.all fun u => u.thr == v.thr && !((body.take (v.pos + 1)).any fun z => z.at_ == u.at_)
      && (body.drop (v.pos + 1)).any fun z => z.at_ == u.at_

/-- The waits from which one can come back to itself: reachability by `n` rounds. -/
def closure (edge : CWait → CWait → Bool) (ws : List CWait) : Nat → List CWait → List CWait
  | 0, seen => seen
  | n + 1, seen => closure edge ws n (seen ++ ws.filter fun v => !seen.contains v && seen.any fun u => edge u v)

def onCycle (edge : CWait → CWait → Bool) (ws : List CWait) (w : CWait) : Bool :=
  (closure edge ws ws.length (ws.filter (edge w))).contains w

/-- A stream with its group in the analysis, and where its contexts stand. -/
structure Track where
  s : ZStream
  g : ZGroup
  win : List (Nat × Nat)
  ctx : List Where_
  deriving DecidableEq, Repr

/-- The crossed waits found so far, the increases of earlier ticks, and the streams. -/
structure Cross where
  tracks : List Track
  past : List ((Nat × Nat) × Nat)
  found : List ((Nat × Nat) × Nat)
  deriving DecidableEq, Repr

/-- R229: one tick of the analysis. -/
def crossTick (f : Facts) (c : Cross) (p : Nat × Nat) : Cross :=
  let rs := c.tracks.map fun t => (t, t.s.runTick ⟨p.1, p.2, t.win⟩ t.ctx)
  let runs : List Run := rs.flatMap fun r => r.2.bodies.map fun b => ⟨(r.1.s.text.sec, b.1), r.1.g, b.2.ins⟩
  let ws := runs.flatMap Run.waits
  let bad : List CWait := ws.filter (onCycle (waitsOn f c.past runs) ws)
  ⟨rs.map fun r => { r.1 with ctx := r.2.ctx },
    (c.past ++ runs.flatMap fun r => r.body.filterMap fun z => (r.group.raises z.ins).map (r.thr, ·)).eraseDups,
    (c.found ++ bad.map fun w => (w.thr, w.z.at_)).eraseDups⟩

/-- The ticks of a step: phase and phase tick index. -/
def stepTicks (f b u : Nat) : List (Nat × Nat) :=
  (List.range f).map (0, ·) ++ (List.range b).map (1, ·) ++ (List.range u).map (2, ·)

/-- R229: the CROSSWAIT errors of the streams. `phases`: F, B and U ticks and the records of the PHASES section. -/
def Zim.crossErrs (z : Zim) (ticks : Nat × Nat × Nat) (phases : List (List Nat)) (ss : List ZStream) : List LoadErr :=
  let tracks : List Track := ss.filterMap fun s => (z.group? s.text.group).map fun g =>
    let p := (phases.find? fun p => p.headD 0 == g.id).getD []
    ⟨s, g, (List.range 3).map fun k => (p.getD (2 * k + 1) 0, p.getD (2 * k + 2) 0),
      .on ⟨s.text.entry, []⟩ :: List.replicate 7 .off⟩
  let raisers := tracks.flatMap fun t => t.s.reach.filterMap fun p => (t.g.raises p.2.ins).map fun f => Raiser.mk (t.s.text.sec, p.1) f p.2.at_
  let init := (z.recs.filter fun r => r.ok && r.ty == 4).map fun r => (flagKey (r.at_ 1 1) (r.at_ 0 1 == 1) (r.at_ 2 1), r.at_ 4 2)
  let c := (stepTicks ticks.1 ticks.2.1 ticks.2.2).foldl (crossTick ⟨raisers, init⟩) ⟨tracks, [], []⟩
  c.found.map fun e => ⟨0x09, e.1.1, (ss.find? fun s => s.text.sec == e.1.1).elim 0xFFFF (·.text.idx), e.2⟩

/-- R227: the errors of stages 4 and 5. -/
def Zim.codeErrors (z : Zim) (d : List Byte) (ss : List ZSec) (ticks : Nat × Nat × Nat) (phases : List (List Nat)) (ts : List ZText) :
    List LoadErr :=
  let streams := ts.map z.streamOf
  let full := streams.filter fun s => s.scan.stop.isNone
  streams.flatMap z.queueErrs ++ streams.flatMap (fun s => z.streamErrs (epiFmts d ss streams s.text.group) s)
    ++ full.flatMap z.roleErrs ++ z.mixedErrs full ++ z.crossErrs ticks phases full

end Sys2Proof.Machine
end

