-- ==== Sys2Proof/Machine/Load.lean ====
section
/-! DEFINITION. LOAD_IMAGE (R227-R238, R411): the checks of an image, the translation cache, the load of banks and code regions, and the
writes that a running step defers. -/
namespace Sys2Proof.Machine

/-- R244: the first LOAD_IMAGE fixes the layout: the regions stacked downward from the top of the mapped alias, in index order. -/
def Mach.fixLayout (m : Mach) : Mach :=
  if m.on .MEM_STATUS_LAYOUT_FIXED 0 then m
  else ((List.range 4).foldl (fun (a : Mach × Nat) n =>
    let b := a.2 - a.1.rd .MEM_RSV_SIZE n
    (a.1.wr .MEM_RSV_BASE n b, b)) (m.wr .MEM_STATUS_LAYOUT_FIXED 0 1, 32 * m.stackBytes / 2 ^ 28)).1

/-- R244, R258, R259: the module-reserved regions: the four of T1, the dies' sector pools, and the rings of free runs. -/
def Mach.reservedRegions (m : Mach) : List StkRange :=
  let top := ((List.range 4).map m.rsvBytes).foldl (· + ·) 0 / 32
  let pools := (List.range 4).map fun d => ⟨8 * d, 8, m.rd .MEM_PEAT_POOL_OFF d * 256, 32 * m.rd .MEM_PEAT_CFG_SECTORS d⟩
  let rings := (List.range 5).flatMap fun d =>
    if m.rd .MEM_PEAT_CFG_SECTORS d = 0 then []
    else (List.range 4).filterMap fun k =>
      let a := m.word (m.classRec d k) 8
      if rangeOf a = .linear then
        some ⟨(a - 0x10000000000) / 0x800000000, 1, (a - 0x10000000000) % 0x800000000, 4 * m.word (m.classRec d k + 8) 4⟩
      else none
  ⟨0, 32, m.stackBytes - top, top⟩ :: pools ++ rings

def Mach.mapCtx (m : Mach) (a : Alloc) : MapCtx :=
  ⟨a, m.reservedRegions, (m.rd .MEM_PEAT_POOL_OFF 4 * 256, 256 * m.rd .MEM_PEAT_CFG_SECTORS 4), m.myId⟩

/-- The fields of a LOAD_IMAGE in either format (Tables HIF-3, HIF-6). -/
structure LoadReq where
  addr : Nat
  size : Nat
  host : Bool
  report : Nat
  max : Nat
  alloc : Alloc
  deriving DecidableEq, Repr

def Mach.loadReq (m : Mach) (d : Desc) : LoadReq :=
  let o := (List.range 3).map m.origin
  if d.fmt1 then ⟨d.at_ 0 8, d.at_ 8 4, d.at_ 22 1 == 1, d.at_ 12 8, d.at_ 20 2, ⟨0x10000000000, 2 ^ 40, 0, o⟩⟩
  else ⟨d.at_ 0 8, d.at_ 8 4, d.at_ 12 1 == 1, d.at_ 16 8, d.at_ 14 2, ⟨d.at_ 24 8, d.at_ 32 8, d.at_ 40 8, o⟩⟩

/-- R411: the fields are in range; format 1 grants all of T1 linear. -/
def loadBad (d : Desc) : Bool :=
  if d.fmt1 then decide (1 < d.at_ 22 1) || !d.zero 23 28 else decide (1 < d.at_ 12 1) || !d.zero 13 14

/-- R411: the allocation is aligned, lies in T1 linear or the alias and touches no module-reserved region. -/
def Mach.allocBad (m : Mach) (d : Desc) (a : Alloc) : Bool :=
  !d.fmt1 && (decide (a.t1 % 2 ^ 21 ≠ 0 ∨ a.t1Size % 2 ^ 21 ≠ 0) || !(rangeOf a.t1 == .linear || rangeOf a.t1 == .alias_)
    || (decide (0 < a.t1Size) && (rangeOf (a.t1 + a.t1Size - 1) != rangeOf a.t1 || (m.mapCtx a).reserved a.t1 a.t1Size)))

/-- What an image that passed its checks loads, besides its DATA: code, shadow settings, epilogue entries and flag counts. -/
structure ZLoad where
  image : Loaded
  bytes : Nat
  data : List DataRec
  texts : List LoadText
  shadow : List (Nat × Nat)
  epi : List (Nat × List Byte)
  flags : List (Nat × Nat)
  deriving DecidableEq, Repr

/-- R226, R227: the errors of stage 2. The SIG section's form and key are checked with the signature itself (`sigOk`). -/
def Mach.sigErrs (m : Mach) (d : List Byte) (ss : List ZSec) (sigOk : Bool) : List LoadErr :=
  match ss.find? fun s => s.ty == 7 with
  | none => if m.on .SEC_POLICY_REQUIRE_SIG 0 then [imgErr 4] else []
  | some s =>
    let bs := s.bytes d
    let k := fieldOf bs 2 2
    if sigOk && bs.length == 104 && fieldOf bs 0 2 == 1 && fieldOf bs 4 4 == 0 && decide (k < 8) && m.on .SEC_KEY_VALID k
        && bitsAt (m.rd .SEC_KEY_USAGE k) 0 1 == 1 then []
    else [secErr 5 s.no 0]

/-- R231: the key of a translation. -/
def Mach.cacheKey (m : Mach) (d : List Byte) (ss : List ZSec) (a : Alloc) : Nat :=
  let body := (ss.find? fun s => s.ty == 7).elim d fun s => d.take s.off
  leNat (leBytes 3 (a.absId 0) ++ leBytes 8 a.t1 ++ leBytes 8 a.t2 ++ leBytes 1 (m.rd .MOD_ID_STEPPING 0)
    ++ leBytes 8 (m.rd .SEC_STATUS_CORDWOOD_VER 0) ++ leBytes 48 (Config.digest body).toNat)

/-- The PHASES section's bytes. -/
def phasesOf (d : List Byte) (ss : List ZSec) : List Byte := (ss.find? fun s => s.ty == 6).elim [] (ZSec.bytes · d)

/-- The shadowed settings that a CHAN_BIND value holds for an end of a core. -/
def chanShadow (g e v : Nat) : List (Nat × Nat) :=
  let i := g * 16 + e
  [(Fld.CHAN_BIND_KIND.key i, bitsAt v 0 3), (Fld.CHAN_BIND_PEER_MODULE.key i, bitsAt v 4 18), (Fld.CHAN_BIND_PEER_CORE.key i, bitsAt v 22 6),
    (Fld.CHAN_BIND_PEER_END.key i, bitsAt v 28 4), (Fld.CHAN_BIND_GROUP.key i, bitsAt v 32 6)]

/-- R220-R222: the settings of the MAP and PHASES sections, by register. -/
def Zim.shadow (z : Zim) (ph : List Byte) : List (Nat × Nat) :=
  [(Fld.TICK_SCHED_F_TICKS.key 0, fieldOf ph 0 2), (Fld.TICK_SCHED_B_TICKS.key 0, fieldOf ph 2 2), (Fld.TICK_SCHED_U_TICKS.key 0, fieldOf ph 4 1)]
  ++ z.groups.flatMap fun g =>
    let i := g.die * 8 + g.seq
    let p := ((phaseRecs ph).find? fun p => p.headD 0 == g.id).getD []
    [(Fld.SEQ_MEMBER_FIRST.key i, g.first), (Fld.SEQ_MEMBER_COUNT.key i, g.count), (Fld.SEQ_MEMBER_FORM.key i, g.form),
      (Fld.SEQ_WIN_FB_F_OFF.key i, p.getD 1 0), (Fld.SEQ_WIN_FB_F_LEN.key i, p.getD 2 0), (Fld.SEQ_WIN_FB_B_OFF.key i, p.getD 3 0),
      (Fld.SEQ_WIN_FB_B_LEN.key i, p.getD 4 0), (Fld.SEQ_WIN_U_U_OFF.key i, p.getD 5 0), (Fld.SEQ_WIN_U_U_LEN.key i, p.getD 6 0)]
    ++ g.cores.flatMap fun c =>
      ((z.recsOf 2 g.id).map fun r => (Fld.QCFG_DEPTH.key (c * 32 + r.at_ 2 1), r.at_ 6 2))
        ++ (z.recsOf 3 g.id).flatMap fun r => chanShadow c (r.at_ 2 1) (r.at_ 8 8)

/-- The code of a stream: in its sequencer's inactive bank (R232), or in its core's code region. -/
def Mach.placeText (m : Mach) (z : Zim) (t : ZText) : Option LoadText :=
  (z.group? t.group).bind fun g =>
    let roles := (List.range 32).map fun q => (z.queue? g.id q).elim 0 fun r => 1 + r.at_ 3 1
    let reach := (z.streamOf t).reach
    let by_ (u : Nat) := ((List.range 8).filter fun c => reach.any fun p => p.1 == c && unitOf p.2.ins == u).map (2 ^ ·)
    let text : Text := ⟨t.entry, t.words, roles, (List.range 6).map fun u => (by_ u).foldl (· + ·) 0⟩
    if g.form = 0 then
      let i := g.die * 8 + g.seq
      some ⟨true, i * 2 + (1 - m.rd .SEQ_BANK_SEL i), 0, text⟩
    else (z.region? g.id t.core).map fun r => ⟨false, r.at_ 0 8 / 256, g.die * 16 + t.core, text⟩

/-- R220, R223: the initial counts of the flags, and the epilogue entries for every member core. -/
def Zim.flagCounts (z : Zim) : List (Nat × Nat) :=
  (z.recs.filter fun r => r.ok && r.ty == 4).map fun r =>
    (if r.at_ 0 1 = 1 then Fld.MFLAG.key (r.at_ 2 1) else Fld.FLAG.key (r.at_ 1 1 * 256 + r.at_ 2 1), r.at_ 4 2)
def Zim.epiEntries (z : Zim) (d : List Byte) (ss : List ZSec) : List (Nat × List Byte) :=
  match ss.find? fun s => s.ty == 3 with
  | none => []
  | some s =>
    let bs := s.bytes d
    (epiRecs bs).flatMap fun r => ((z.group? r.group).elim [] (·.cores)).flatMap fun c =>
      ((List.range 32).filter fun e => bitsAt r.mask e 1 == 1).map fun e => (c * 32 + e, epiEntry bs r e)

/-- Table DBG-7: the regions of use 0 in T0, staging SRAM, T1 linear or T1 packed. -/
def Zim.copied (z : Zim) : List (Nat × Nat) :=
  (z.recs.filter fun r => r.ok && r.ty == 5 && r.at_ 17 1 == 0 && decide (r.at_ 16 1 < 4)).map fun r => (r.at_ 0 8, r.at_ 8 8)

/-- R224: the bytes that the DATA records write, KIND 2 as scree blocks (R73). -/
def ZData.toRec (r : ZData) : DataRec :=
  ⟨r.dest, if r.kind = 1 then List.replicate r.len 0
    else if r.kind = 2 then (relayout 1 (r.bytes.map (·, false))).map Prod.fst else r.bytes⟩

/-- Stages 3 to 5 of R227, the last two where the translation is not in the cache (R231); the errors, or what is loaded. -/
def Mach.checkImage (m : Mach) (d : List Byte) (ss : List ZSec) (a : Alloc) (hit : Bool) : Except (List LoadErr) ZLoad :=
  let rl := relocate a ss d
  let d := rl.1
  let z := zimOf d ss
  let of (ty : Nat) := ss.filter fun s => s.ty == ty
  let ph := phasesOf d ss
  let ts := (of 1).map (textOfSec d)
  let e3 := rl.2 ++ (of 4).flatMap (z.mapErrors (m.mapCtx a) d) ++ (of 6).flatMap (fun s => z.phaseErrors s ph)
    ++ (of 3).flatMap (fun s => z.epiErrors s (s.bytes d)) ++ (of 2).flatMap (fun s => z.dataErrors (m.mapCtx a) s (s.bytes d)) ++ z.textErrors ts
  let errs := e3 ++ if hit then [] else z.codeErrors d ss (fieldOf ph 0 2, fieldOf ph 2 2, fieldOf ph 4 1) (phaseRecs ph) ts
  if errs.isEmpty then
    .ok ⟨⟨z.id, z.copied⟩, (ts.map fun t => 8 * t.words.length).foldl (· + ·) 0, (of 2).flatMap fun s => (dataOf (s.bytes d)).map ZData.toRec,
      ts.filterMap (m.placeText z), z.shadow ph, z.epiEntries d ss, z.flagCounts⟩
  else .error (errs.take 1024)

/-- R228: a rejected LOAD_IMAGE. -/
def Mach.loadFails (m : Mach) (d : Desc) (q : LoadReq) (id : Nat) (errs : List LoadErr) : Mach :=
  let w := min q.max errs.length
  let m := m.hostWrite q.report ((errs.take w).flatMap LoadErr.bytes)
  m.complete d 0x10 0 errs.length (leBytes 8 id ++ leBytes 4 errs.length ++ leBytes 4 w)

/-- R232: the first write to a bank. -/
def Mach.bankBegin (m : Mach) (t : LoadText) : Mach :=
  if t.bank then (m.wr (if t.at_ % 2 = 0 then .SEQ_BANK_VALID_A else .SEQ_BANK_VALID_B) (t.at_ / 2) 0).wr .SEQ_BANK_LOAD_BUSY (t.at_ / 2) 1 else m

/-- R411: the image has been read: its checks, and the start of its load. -/
def Mach.loadBegin (m : Mach) (d : Desc) (q : LoadReq) (img : List Byte) (sigOk : Bool) : Mach :=
  let id := fieldOf img 24 8
  match zimStage1 img with
  | .error e => m.loadFails d q id [e]
  | .ok ss =>
    let e2 := m.sigErrs img ss sigOk
    if !e2.isEmpty then m.loadFails d q id e2
    else
      let key := m.cacheKey img ss q.alloc
      let hit := m.cache.any fun e => e.1 == key
      match m.checkImage img ss q.alloc hit with
      | .error es => m.loadFails d q id es
      | .ok z =>
        let m := z.texts.foldl Mach.bankBegin m
        { m with loads := m.loads ++ [⟨z.texts, z.shadow, key, z.bytes, ⟨d, z.image, hit, z.data, z.epi, z.flags⟩⟩] }

/-- The bytes of the image, or the status of a read that fails (ADDR_FAULT with its cause, POISONED); `fails` says that the host memory read
failed. -/
def Mach.readImage (m : Mach) (q : LoadReq) (fails : Bool) : Except (Nat × Nat) (List Byte) × Mach :=
  if q.host then
    if fails then (.error (2, 0), m)
    else if (List.range (q.size / 64 + 2)).any fun i => m.hostPoisoned (q.addr + min (64 * i) q.size) then (.error (3, 0), m)
    else (.ok (m.hostRead q.addr q.size), m)
  else
    let s := m.side q.addr
    let cs := if badForm q.addr || s.remote.isSome then [2] else m.localCauses s.addr (max 1 q.size) false
    match lowest cs with
    | some c => (.error (2, c), m.captureFault c q.addr true 3)
    | none =>
      let r := m.readAny s.addr q.size
      (if r.1.any Prod.snd then .error (3, 0) else .ok (r.1.map Prod.fst), r.2)

/-- R231: the translation enters the cache as its newest; the oldest make room within region 2 of R244. -/
def keepNewest (room : Nat) (c : List (Nat × Nat)) : List (Nat × Nat) :=
  (c.foldl (fun (a : List (Nat × Nat) × Nat) e => if e.2 + a.2 ≤ room then (a.1 ++ [e], a.2 + e.2) else (a.1, room)) ([], 0)).1
def Mach.cacheUse (m : Mach) (key size : Nat) : Mach :=
  { m with cache := keepNewest (m.rsvBytes 2) ((key, size) :: m.cache.filter fun e => e.1 != key) }

/-- R232: the last write of a stream's code: into its bank, unless that has become the active one, or into its code region (R234-R236). -/
def Mach.bankEnd (m : Mach) (id size : Nat) (t : LoadText) : Mach :=
  if t.bank then
    let i := t.at_ / 2
    let a := t.at_ % 2 = 0
    { m with banks := m.banks.set (fun _ => none) t.at_ (some t.text) }.wrs i
      [(if a then .SEQ_BANK_VALID_A else .SEQ_BANK_VALID_B, 1), (if a then .SEQ_BANK_ID_A else .SEQ_BANK_ID_B, id % 65536), (.SEQ_BANK_LOAD_BUSY, 0)]
  else
    let m := { m with codes := m.codes.set (fun _ => none) t.at_ (some t.text) }
    m.codeCheck 4 ((List.range ((size + 255) / 256)).map fun k => (t.at_ + k) * 256)

/-- The address fault or the empty pool that a deferred write of descriptor `q` meets (R271), as the module captures it. A remote module
acknowledges what it is sent. -/
def Mach.dataWrite (m : Mach) (q : Nat) (r : DataRec) : Written :=
  if r.bytes.isEmpty then .ok m
  else
    let s := m.side r.dest
    let n := r.bytes.length
    let cs := if badForm r.dest then [2] else match s.remote with
      | some g => (if m.inSlice g then [] else [3]) ++ (if isT2 s.addr then [4] else []) ++ (if rangeOf s.addr = .unmapped then [1] else [])
      | none => m.localCauses s.addr n true
    match lowest cs with
    | some c => .error (c, r.dest, m)
    | none => match s.remote with
      | some g => .ok ((m.memWrite 0 g s.addr false (r.bytes.map (·, false))).onFab fun b => { b with memOut := b.memOut ++ [(q, g, s.addr)] })
      | none => m.writeAny 4 s.addr (r.bytes.map (·, false))

/-- The records in order, up to the first fault. -/
def Mach.dataWrites (m : Mach) (q : Nat) : List DataRec → Written
  | [] => .ok m
  | r :: rs => match m.dataWrite q r with
    | .ok m => m.dataWrites q rs
    | .error e => .error e

/-- R238: what a load deferred is applied; it completes once remote modules have written what it sent them (R172). -/
def Mach.applyLoad (m : Mach) (x : Deferred) : Mach :=
  match m.dataWrites x.desc.seq x.data with
  | .error w => Hif.writeFailed x.desc (w.1, w.2.1, w.2.2.onFab fun b => { b with memOut := b.memOut.filter fun v => v.1 != x.desc.seq }) 3
  | .ok m =>
    let m := x.epi.foldl (fun m e => m.epiWrite (e.1 / 32) (e.1 % 32) (BitVec.ofNat 4096 (leNat e.2))) m
    let m := x.flags.foldl (fun m f => m.wr (Fld.ofKey f.1).1 (Fld.ofKey f.1).2 f.2) m
    if m.fab.memOut.any fun v => v.1 == x.desc.seq then { m with acking := m.acking ++ [x] } else m.loadDone x

/-- R232: a write that names the bank active when it arrives is dropped; the load ends. -/
def Mach.activeWrite (m : Mach) (x : Loading) (t : LoadText) : Mach :=
  let i := t.at_ / 2
  let m := x.texts.foldl (fun m u => if u.bank then m.wr .SEQ_BANK_LOAD_BUSY (u.at_ / 2) 0 else m) m
  ((m.bump .SEQ_IMEM_ACTIVE_WRITES i 1).raise 0x57 (i % 8) (64 + i / 8) 0 (i / 8)).complete x.rest.desc 0x11 0 0 []

/-- R232, R236, R238: the end of a load's writes to banks, code regions and shadow settings. -/
def Mach.loadEnd (m : Mach) (x : Loading) : Mach :=
  let m := { m with loads := m.loads.filter fun y => y.rest.desc.seq != x.rest.desc.seq }
  match x.texts.find? fun t => t.bank && m.rd .SEQ_BANK_SEL (t.at_ / 2) == t.at_ % 2 with
  | some t => m.activeWrite x t
  | none =>
    let m := x.texts.foldl (fun m t => m.bankEnd x.rest.image.id (8 * t.text.words.length) t) m
    let own := x.texts.filter fun t => !t.bank
    let m := Hif.cacheInv ((own.map fun t => 2 ^ t.core).foldl (· + ·) 0) m
    let m := x.shadow.foldl (fun m f => m.wrS (Fld.ofKey f.1).1 (Fld.ofKey f.1).2 f.2) m
    let m := m.cacheUse x.key x.size
    if m.stepRunning && !(x.rest.data.isEmpty && x.rest.epi.isEmpty && x.rest.flags.isEmpty) then
      { m with deferred := m.deferred ++ [x.rest] }
    else m.applyLoad x.rest

namespace Load

/-- LOAD_IMAGE (R411, R227-R238): the first time the image is read and checked; then its code is in place. `sigOk` is what Kindling finds
of its signature. -/
def image (r : BitVec 8) (i : BitVec 16) (sigOk readFails : Bool) (m : Mach) : Mach :=
  m.descRow r.toNat i.toNat 1 (fun _ d => loadBad d)
    (fun d m =>
      let m := m.fixLayout
      let q := m.loadReq d
      if m.allocBad d q.alloc then m.complete d 1 0 0 []
      else match m.readImage q readFails with
        | (.error e, m) => m.complete d e.1 e.2 0 []
        | (.ok img, m) =>
          if 24 ≤ img.length ∧ fieldOf img 16 8 ≠ q.size then m.complete d 1 0 0 []
          else m.loadBegin d q img sigOk)
    (fun d m => match m.loads.find? fun x => x.rest.desc.seq == d.seq with
      | some x => m.loadEnd x
      | none => m)

/-- LOAD_IMAGE_DEFERRED_APPLY (R238): in the first idle tick after the step; a FATAL_MODULE has ended the load (R501). -/
def deferredApply (m : Mach) : Mach :=
  match m.deferred with
  | x :: rest => if m.stepRunning || !m.hifUp || m.pathStopped then m else { m with deferred := rest }.applyLoad x
  | [] => m

end Load
end Sys2Proof.Machine
end

