-- ==== Sys2Proof/Machine/Write.lean ====
section
/-! DEFINITION. Register writes and reads (R13-R17, R372-R375, R414, R425, R442, R518): which encodings of a field are legal, what each
access code does, the registers whose writes have rows of their own, held and captured halves, and CONFIG_WRITE. -/
namespace Sys2Proof.Machine

/-- Table DBG-3: the code names an event of a core, or of the hub. -/
def coreEventOk (v : Nat) : Bool :=
  decide (v ≤ 0x0A ∨ 0x11 ≤ v ∧ v ≤ 0x1D ∨ 0x40 ≤ v ∧ v ≤ 0x6F ∨ 0x80 ≤ v ∧ v ≤ 0xAF ∨ 0xC0 ≤ v ∧ v ≤ 0xC7)
def hubEventOk (v : Nat) : Bool :=
  [0, 1, 0x18, 0x20, 0x21, 0x22, 0x28, 0x29, 0x30, 0x31, 0x38, 0x39].contains v || decide (0x08 ≤ v ∧ v ≤ 0x0C ∨ 0x10 ≤ v ∧ v ≤ 0x14)

/-- R15: the value is no reserved encoding of the field (of the register at index `j`); values outside the range that a description states
count as reserved (log entry 46). -/
def Fld.encOk (f : Fld) (j v : Nat) : Bool :=
  let within (lo hi : Nat) := decide (lo ≤ v ∧ v ≤ hi)
  match f with
  | .MOD_MODE_PMODE | .EPI_ENTRY_LO_RFMT | .EPI_ENTRY_LO_ZFMT | .ING_MC_POLICY | .RED_STREAM_CFG_OP => within 0 2
  | .MOD_MODE_CHECK_RATE | .SEQ_MEMBER_COUNT => within 0 16
  | .TICK_PERIOD_PERIOD_NS => within 20000 20000000
  | .TICK_PERIOD_LEAD_NS => within 1000 1000000
  | .TICK_SCHED_F_TICKS | .ING_MC_LAG_TIMEOUT | .DBG_CUT_SETTLE_US | .FAB_LINK_TEST_DURATION_MS => within 1 65535
  | .EPI_ENTRY_LO_ACT => within 0 7
  | .EPI_ENTRY_LO_OFMT => within 0 5 || v == 15
  | .QCFG_DEPTH | .RED_BUCKET_SIZE => within 4 256
  | .CHAN_BIND_KIND => within 0 4
  | .ING_CFG_SHUF_WINDOW => within 64 4096
  | .ING_RING_CFG_SLOTS => within 2 4096
  | .ING_RING_CFG_SLOT_4K => within 1 16384
  | .ING_MC_SKEW_MAX | .FAB_DISC_CTRL_NX | .FAB_DISC_CTRL_NY | .FAB_DISC_CTRL_NZ | .FAB_SLICE_EX | .FAB_SLICE_EY | .FAB_SLICE_EZ => within 1 64
  | .RED_CFG_AXIS_ORDER => within 0 5
  | .RED_STREAM_CFG_ORDER => v != 6
  | .RED_BUF_BASE => within 0 64
  | .RED_STREAM_CFG_BLOCK => within 1 4096
  | .FAB_ARB_W_NET | .FAB_ARB_W_RED | .FAB_ARB_W_MEM | .FAB_ARB_W_ING => within 1 15
  | .FAB_PORT_CFG_LINK_PORT => v != 6
  | .FAB_PORT_CFG_DETOUR => within 0 4
  | .CFG_CTRL_REDIRECT_TICKS => within 1 3
  | .HIF_RING_CFG_LOG => within 4 16
  | .DBG_TRACE_CFG_POST_PCT => within 0 100
  | .PROF_SEL_EVENT => coreEventOk v
  | .DBG_HPROF_SEL_EVENT => hubEventOk v
  | .MEM_RSV_SIZE => if j = 0 then within 4 256 else if j = 2 then within 1 16 else within 0 64
  | .FAB_LINK_TEST_LINK => within 0 35
  | .ING_ENG_TEST_ENGINE => within 0 95
  | _ => true

/-- The field takes no write of requester `req` now: flags, cursors and epilogue entries a host write while a step runs (R110, R167, R305), ING_CFG while a job is current, the HDM range while
it is committed (R395), a ring's settings while it is enabled (R398), the memory layout once it is fixed (R244, R256). -/
def Mach.locked (m : Mach) (req : Nat) (f : Fld) (i : Nat) : Bool :=
  match f with
  | .FLAG | .MFLAG | .ING_RING_CUR | .EPI_ENTRY_LO_ACT | .EPI_ENTRY_LO_OFMT | .EPI_ENTRY_LO_SCALE_EN | .EPI_ENTRY_LO_RESID_EN | .EPI_ENTRY_LO_RFMT
  | .EPI_ENTRY_LO_ZOUT_EN | .EPI_ENTRY_LO_ZFMT | .EPI_ENTRY_LO_AMAX_EN | .EPI_ENTRY_LO_ROUND | .EPI_ENTRY_LO_SAT | .EPI_ENTRY_HI_SCALE =>
    req == 0 && m.stepRunning
  | .ING_CFG_SHUF_WINDOW => m.ing.cur.isSome
  | .HIF_HDM_BASE | .HIF_HDM_SIZE => m.on .HIF_STATUS_HDM_EN 0
  | .HIF_RING_SQ_BASE | .HIF_RING_CQ_BASE | .HIF_RING_CFG_FMT | .HIF_RING_CFG_SERIAL | .HIF_RING_CFG_PRIO | .HIF_RING_CFG_LOG
  | .HIF_RING_CFG_VECTOR => m.on .HIF_RING_CFG_ENABLE i
  | .MEM_RSV_SIZE => i == 1 || m.on .MEM_STATUS_LAYOUT_FIXED 0
  | .MEM_PEAT_CFG_PAGES | .MEM_PEAT_CFG_SECTORS => m.on .MEM_STATUS_LAYOUT_FIXED 0
  | _ => false

/-- The value that a register write gives copy `k` of a field. -/
def FieldSpec.valOf (f : FieldSpec) (k v : Nat) : Nat := bitsAt v (f.lo + k * f.step) f.width

/-- R13, R15: a write of requester `req` reaches one field by its access code; WO and W1S bits act in the rows of their registers. -/
def Mach.putField (m : Mach) (req i v : Nat) (fk : FieldSpec × Nat) : Mach :=
  let f := fk.1
  let x := f.valOf fk.2 v
  let j := f.inst i fk.2
  match f.acc with
  | .rw => if f.fld.encOk j x && !m.locked req f.fld j then m.wr f.fld j x else m
  | .rws => if f.fld.encOk j x then m.wrS f.fld j x else m
  | .w1c => m.wr f.fld j (m.rd f.fld j - (m.rd f.fld j &&& x))
  | .ro | .w1s | .wo => m

/-- Every copy of every field of a register. -/
def RegSpec.parts (r : RegSpec) : List (FieldSpec × Nat) := r.fields.flatMap fun f => (List.range f.n).map (f, ·)

/-- R13: a write of a register by its fields' access codes alone. -/
def Mach.putReg (m : Mach) (req : Nat) (r : RegSpec) (i v : Nat) : Mach := r.parts.foldl (fun m fk => m.putField req i v fk) m

/-- Table BOOT-1: the register of this first field holds protected fields. -/
def Fld.protected : Fld → Bool
  | .FAB_SLICE_OX | .FAB_SLICE_ID | .SEC_POLICY_REQUIRE_SIG | .SEC_WDOG_TIMEOUT_MS | .SEC_KEY_VALID | .SEC_SVN_KINDLING_FUSED
  | .OPE_REPAIR_MFG_ROWS | .HIF_STATUS_LINK_UP => true
  | _ => false

/-- R425: Kindling alone writes protected fields, and JTAG while DEBUG_LOCK is 0; requesters are 0 host, 1 Cordwood, 2 a remote module,
3 JTAG, 4 Kindling. -/
def Mach.refusesWrite (m : Mach) (req : Nat) (f : Fld) : Bool :=
  f.protected && req != 4 && !(req == 3 && !m.on .SEC_POLICY_DEBUG_LOCK 0)

/-- R398, R423: a write of a ring's configuration. -/
def Mach.putRing (m : Mach) (req : Nat) (r : RegSpec) (i v : Nat) : Mach :=
  let others := r.parts.filter fun fk => fk.1.fld != .HIF_RING_CFG_ENABLE
  let m := others.foldl (fun m fk => m.putField req i v fk) m
  if bitsAt v 0 1 = 1 then Hif.ringEnable (BitVec.ofNat 8 i) m else Hif.ringDisable (BitVec.ofNat 8 i) m

/-- R406: unmasking a vector that is pending sends its message. -/
def Mach.putMsix (m : Mach) (req : Nat) (r : RegSpec) (i v : Nat) : Mach :=
  let m := m.putReg req r i v
  if !m.on .MSIX_MASK i && m.on .MSIX_PBA i then (m.wr .MSIX_PBA i 0).signal i else m

/-- A write that acts where one of its bits is 1. -/
def Mach.onBit (m : Mach) (v bit : Nat) (f : Mach → Mach) : Mach := if bitsAt v bit 1 = 1 then f m else m

/-- R110: a host write of an epilogue entry while a step runs is ignored and reported, with the entry that it named. -/
def Mach.putEpi (m : Mach) (req : Nat) (r : RegSpec) (i v : Nat) : Mach :=
  if req = 0 ∧ m.stepRunning then m.wrs (i / 32) [(.EPI_STATUS_WRITE_IGNORED, 1), (.EPI_STATUS_LAST_ENTRY, i % 32)] else m.putReg req r i v

/-- A 64-bit write of a register by requester `req`: what its row does, for those that have one, and its fields by their access codes. -/
def Mach.writeSpec (m : Mach) (req : Nat) (r : RegSpec) (i v : Nat) : Mach :=
  let v64 := BitVec.ofNat 64 v
  let g := BitVec.ofNat 6 i
  match (r.fields.head?.map (·.fld)).getD .MOD_SERIAL with
  | .MOD_CTRL_RESET => if bitsAt v 0 1 = 1 then Reset.modReset m else m.onBit v 1 Reset.modCtrlDpReset
  | .TICK_CTRL_RUN =>
    let m := m.onBit v 2 fun m => m.wr .TICK_CTRL_ORIGIN_LATE 0 0
    if bitsAt v 0 1 = 1 then Tick.run (bitsAt v 1 1 == 1) m else Tick.stop (m.wr .TICK_CTRL_SOLO 0 (bitsAt v 1 1))
  | .CFG_SWAP_CTRL_REQ => m.onBit v 0 Swap.swapRequest
  | .MOD_FENCE => Reset.fenceWrite v64 m
  | .VEC_RNG_SEED => Reset.rngSeed (req == 0) g v64 m
  | .VEC_RNG_POS_VEC_LO_POS => Reset.rngPos (req == 0) g false false v64 m
  | .VEC_RNG_POS_VEC_HI_POS => Reset.rngPos (req == 0) g false true (BitVec.ofNat 64 (v % 2 ^ 34)) m
  | .VEC_RNG_POS_DRU_LO_POS => Reset.rngPos (req == 0) g true false v64 m
  | .VEC_RNG_POS_DRU_HI_POS => Reset.rngPos (req == 0) g true true (BitVec.ofNat 64 (v % 2 ^ 35)) m
  | .ACC_NF_CAPTURE_VALID => m.onBit v 0 (Reset.nfClear g false)
  | .PWR_TEMP_TEMP => Reset.tempMax g m
  | .MEM_STK_STATUS_SPARED_PC => Reset.spareNext (BitVec.ofNat 5 i) (BitVec.ofNat 6 (bitsAt v 8 6)) m
  | .HIF_RING_CFG_ENABLE => m.putRing req r i v
  | .HIF_BAR4_WIN_BASE => Hif.bar4Win v64 m
  | .HIF_EVT_VECTOR => (m.putReg req r i v).onBit v 19 fun m => m.onAux fun a => { a with powerTaken := a.powerTaken && !m.ready }
  | .MSIX_DATA => m.putMsix req r i v
  | .DBG_FREEZE_CTRL_SRC_EN => ((m.putReg req r i v).onBit v 8 Debug.freezeHost).onBit v 9 Debug.freezeRelease
  | .DBG_PROF_CTRL_RUN => (m.putReg req r i v).onBit v 1 Debug.profClear
  | .ING_CTRL_ABORT => m.onBit v 0 Ingest.abort
  | .FAB_DISC_CTRL_START => if bitsAt v 0 1 = 1 then Disc.start v64 m else m.putReg req r i v
  | .FAB_LASER_CTRL_RELEASE_0 => ((m.putReg req r i v).onBit v 0 (Repair.laserRelease 0)).onBit v 1 (Repair.laserRelease 1)
  | .FAB_LINK_TEST_LINK =>
    if bitsAt v 7 1 = 1 then Repair.linkTestStart (BitVec.ofNat 6 (bitsAt v 0 6)) (bitsAt v 6 1 == 1) (BitVec.ofNat 16 (bitsAt v 16 16)) m
    else m.putReg req r i v
  | .CORE_TEST_CTRL_START => if bitsAt v 0 1 = 1 then Repair.coreTestStart g (bitsAt v 1 1 == 1) (bitsAt v 2 1 == 1) m else m.putReg req r i v
  | .ING_ENG_TEST_ENGINE => if bitsAt v 7 1 = 1 then Repair.engineTestStart (BitVec.ofNat 7 (bitsAt v 0 7)) m else m.putReg req r i v
  | .SEC_MBOX_CMD_ADDR =>
    if bitsAt v 63 1 = 0 then m.putReg req r i v
    else if m.on .SEC_MBOX_STATUS_BUSY 0 then m
    else (m.putReg req r i v).mboxGo
  | .SEC_WDOG_KICK => m.onBit v 0 Firm.wdogKick
  | .EPI_ENTRY_LO_ACT => m.putEpi req r i v
  | .EPI_ENTRY_HI_SCALE => m.putEpi req r i v
  | _ => m.putReg req r i v

/-- The block of the offset takes the requester's write: its domain is up, and the host waits for READY (R442). -/
def Mach.takes (m : Mach) (req a : Nat) : Bool := m.served req a

/-- R374: an offset of the shadow read-back window acts on the register that it mirrors. -/
def writeOffset (off : Nat) : Nat := if 0x2000000 ≤ off ∧ off < 0x4000000 then off - 0x2000000 else off

/-- R541: the TAP gives a way to the registers only while DEBUG_LOCK is 0. -/
def Mach.reaches (m : Mach) (req : Nat) : Bool := req != 3 || !m.on .SEC_POLICY_DEBUG_LOCK 0

/-- A whole write of requester `req` at a BAR0 offset; a hole ignores it (R515), a protected register counts and logs it (R425), and JTAG behind
DEBUG_LOCK reaches no other (R541). -/
def Mach.writeReg (m : Mach) (req off v : Nat) : Mach :=
  let a := writeOffset off
  if !m.takes req a then m
  else match regAt a with
    | none => m
    | some (r, i) =>
      if r.fields.any fun f => m.refusesWrite req f.fld then (m.bump .SEC_PROTECTED_WRITES 0 1).raise 0x58 (min req 3) srcHub 0 a
      else if m.reaches req then m.writeSpec req r i v else m

/-- The half is of this register and no older than 1 µs (R17, R518). -/
def HalfReg.serves (m : Mach) (h : HalfReg) (off : Nat) : Bool := h.off == off && decide (m.time ≤ h.time + 1000)

/-- The value that a read gives for the reader. -/
def Mach.respond (m : Mach) (n v : Nat) : Mach := m.onHif fun h => { h with resp := leBytes n v, respBad := false }

/-- R414: one entry of a CONFIG_WRITE list; whether it is applied. -/
def Mach.configEntry (m : Mach) (bs : List Byte) : Bool × Mach :=
  let off := leNat (bs.take 4)
  let named := off % 8 == 0 && (regAt (writeOffset off)).isSome
  if named && leNat ((bs.drop 4).take 4) == 0 then (true, m.writeReg 1 off (leNat ((bs.drop 8).take 8))) else (false, m)

namespace Bar0

/-- REG_WRITE (R13-R17): a 64-bit write, or (width 1) a 32-bit write to the upper half, which completes the requester's held half; one of
another width is ignored. -/
def write (req3 : BitVec 3) (off26 : BitVec 26) (val : BitVec 64) (width : BitVec 2) (m : Mach) : Mach :=
  let req := req3.toNat
  let off := off26.toNat
  let held := (m.heldHalf req).filter fun h => h.serves m off
  let m := m.setHalves req none none
  if width = 0 then m.writeReg req off val.toNat
  else if width = 1 then
    match held with
    | some h => m.writeReg req off (h.val + 2 ^ 32 * (val.toNat % 2 ^ 32))
    | none => m
  else m

/-- REG_LOWER_HALF_WRITE (R17): the half is held, in place of an earlier one. -/
def lowerWrite (req : BitVec 3) (off : BitVec 26) (lo : BitVec 32) (m : Mach) : Mach :=
  m.setHalves req.toNat (some ⟨off.toNat, lo.toNat, m.time⟩) none

/-- HALF_WRITE_TIMEOUT (R17): 1 µs after it was written, the half is discarded. -/
def halfTimeout (req : BitVec 3) (m : Mach) : Mach :=
  match m.heldHalf req.toNat with
  | some h => (m.advanceTo (h.time + 1000)).setHalves req.toNat none (m.captured req.toNat)
  | none => m

/-- REG_LOWER_HALF_READ (R17, R518): a read of the lower half (width 0) captures the register; width 1 reads the upper half, the captured
one where it still serves, and width 2 the whole register; an access of another width returns 0. -/
def lowerRead (req3 : BitVec 3) (off26 : BitVec 26) (width : BitVec 2) (m : Mach) : Mach :=
  let req := req3.toNat
  let off := off26.toNat
  let cap := (m.captured req).filter fun h => h.serves m off
  let m := m.setHalves req none none
  let r := if m.reaches req then m.readReg req off else (0, m)
  match width.toNat, cap with
  | 0, _ => (r.2.setHalves req none (some ⟨off, r.1, m.time⟩)).respond 4 r.1
  | 1, some h => m.respond 4 (h.val / 2 ^ 32)
  | 1, none => r.2.respond 4 (r.1 / 2 ^ 32)
  | 2, _ => r.2.respond 8 r.1
  | _, _ => m.respond 4 0

/-- CONFIG_WRITE (R414): entries of the list, as writes of Cordwood; `readFails` says that the read of the list failed (Table HIF-5). -/
def configWrite (r : BitVec 8) (i : BitVec 16) (readFails : Bool) (m : Mach) : Mach :=
  m.descRow r.toNat i.toNat 4 (fun _ d => !d.zero 12 48 || decide (d.at_ 8 4 = 0 ∨ 4096 < d.at_ 8 4))
    (fun d m =>
      let n := d.at_ 8 4
      let a := d.at_ 0 8
      if readFails then m.complete d 0x02 0 0 []
      else if (List.range n).any fun k => m.hostPoisoned (a + 16 * k) || m.hostPoisoned (a + 16 * k + 15) then m.complete d 0x03 0 0 []
      else
        let m := m.otherAccess 1
        let list := (List.range n).map fun k => m.hostRead (a + 16 * k) 16
        let (ok, m) := list.foldl (fun (am : Nat × Mach) e =>
          let (hit, m) := am.2.configEntry e
          (am.1 + b2n hit, m)) (0, m)
        m.complete d 0 0 (ok + 2 ^ 32 * (n - ok)) []) noGo

end Bar0
end Sys2Proof.Machine
end

