-- ==== Sys2Proof/Machine/Ckpt.lean ====
section
/-! DEFINITION. CHECKPOINT and RESTORE (R417, R483, R484, Tables DBG-6 and DBG-7). -/
namespace Sys2Proof.Machine

/-- A section of a checkpoint: its TYPE and bytes, with the poison that they carry (R249). -/
structure CkptSec where
  ty : Nat
  bytes : List PByte
  deriving DecidableEq, Repr

def clean (bs : List Byte) : List PByte := bs.map (·, false)

/-- The (offset, instance) pairs of a register's array. -/
def RegSpec.places : List (Nat × Nat) → Nat → Nat → List (Nat × Nat)
  | [], off, i => [(off, i)]
  | (s, n) :: ds, off, i =>
    (List.range n).flatMap fun k => RegSpec.places ds (off + k * s) (i * n + k)

/-- The fields that Table DBG-7 keeps: shadowed, but for the slice's. -/
def FieldSpec.config (f : FieldSpec) : Bool :=
  f.acc == .rws && !(f.fld == .FAB_SLICE_OX || f.fld == .FAB_SLICE_OY || f.fld == .FAB_SLICE_OZ || f.fld == .FAB_SLICE_EX
    || f.fld == .FAB_SLICE_EY || f.fld == .FAB_SLICE_EZ || f.fld == .FAB_SLICE_ID)

/-- CONFIG: a record for each register that holds such a field: its BAR0 offset and the active copies in their places. -/
def Mach.configSec (m : Mach) : List Byte :=
  (allRegs.filter fun r => r.fields.any FieldSpec.config).flatMap fun r =>
    (RegSpec.places r.dims r.base 0).flatMap fun p =>
      let v := (r.parts.filter fun fk => fk.1.config).map fun fk => m.rd fk.1.fld (fk.1.inst p.2 fk.2) * 2 ^ (fk.1.lo + fk.2 * fk.1.step)
      leBytes 4 p.1 ++ leBytes 4 0 ++ leBytes 8 (v.foldl (· + ·) 0)

/-- RNG: seed and positions of each core. -/
def Mach.rngSec (m : Mach) : List Byte :=
  (List.range 64).flatMap fun g => leBytes 8 (m.rd .VEC_RNG_SEED g) ++ leBytes 16 (m.rngPos g 0) ++ leBytes 16 (m.rngPos g 1)

/-- FLAGS: counting flags of the dies, then module flags. -/
def Mach.flagSec (m : Mach) : List Byte :=
  ((List.range 1024).flatMap fun k => leBytes 2 (m.rd .FLAG k)) ++ (List.range 64).flatMap fun k => leBytes 2 (m.rd .MFLAG k)

/-- An epilogue entry's 16 bytes (Table ACC-3). -/
def EpiEnt.bytes (x : EpiEnt) : List Byte :=
  leBytes 8 (x.act + x.ofmt * 16 + b2n x.scaleEn * 256 + b2n x.residEn * 512 + x.rfmt * 1024 + b2n x.zoutEn * 4096 + x.zfmt * 8192
    + b2n x.amaxEn * 32768 + b2n x.round * 65536 + b2n x.sat * 131072) ++ leBytes 8 x.scale
def Mach.epiSec (m : Mach) : List Byte := (List.range 2048).flatMap fun k => (m.epi (k / 32) (k % 32)).bytes

/-- The oldest of a group's micro-batches, newest first, of which the last `held` entries sent hold one. -/
def oldestHead : List McHead → Nat → Option McHead
  | [], _ => none
  | h :: hs, held => if held = 0 then none else if held ≤ h.sent then some h else (oldestHead hs (held - h.sent)).orElse fun _ => some h

/-- The oldest micro-batch of which a member end of group `n` still holds an entry. -/
def Mach.heldHead (m : Mach) (n : Nat) : Option McHead :=
  oldestHead (m.ing.heads.get (fun _ => []) n)
    (((m.mcMembers n).map fun k => (((m.core (k / 16)).chan (k % 16)).filter fun e => !e.fed).length).foldl max 0)

/-- R303: START_K, START_SEG and SEQ of the oldest micro-batch of a ring's jobs that no completed step has consumed: of those in a slot that a reader
has still to read, in delivery, or in a member end of a group, the one of least SEQ; else the one that the job delivers next; where no job has
one, they are free values. -/
def Mach.ingPos (m : Mach) (n : Nat) : Nat × Nat × Nat × Mach :=
  let w := m.rd .ING_RING_WR_W n
  let cur := (((m.readers n).map fun g => m.rd .ING_RING_CUR (n * 64 + g)).min?).getD w
  let hdr (bs : List Byte) : Nat × Nat × Nat := (fieldOf bs 8 6, fieldOf bs 14 2, fieldOf bs 0 4)
  let job := m.ing.cur.filter fun c => jRing c.raw == n
  let ends := ((List.range 64).filterMap m.heldHead).filterMap fun h => if h.ring = n then some (h.k, h.seg, h.seq) else none
  let out := (job.bind (·.mb)).toList.map fun b => hdr b.bytes
  let (slot, m) := if cur < w then
      let (bs, m) := m.readSide (m.ringSlot n cur) 64
      ([hdr (bs.map Prod.fst)], m)
    else ([], m)
  match (slot ++ out ++ ends).mergeSort fun a b => decide (a.2.2 ≤ b.2.2) with
  | h :: _ => (h.1, h.2.1, h.2.2, m)
  | [] => match job with
    | some c => (c.k, c.seg, c.seq, m)
    | none =>
      let (x, m) := m.fresh
      let (y, m) := m.fresh
      ((Config.freeBits x).toNat % 2 ^ 48, (Config.freeBits y).toNat % 2 ^ 16, (Config.freeBits y).toNat / 2 ^ 32, m)

/-- INGEST: SEED and EPOCH, then each enabled ring. -/
def Mach.ingestSec (m : Mach) : List Byte × Mach :=
  ((List.range 16).filter fun n => m.on .ING_RING_BASE_ENABLE n).foldl (fun (a : List Byte × Mach) n =>
    let (k, seg, seq, m) := a.2.ingPos n
    (a.1 ++ leBytes 1 n ++ leBytes 7 0 ++ leBytes 8 k ++ leBytes 2 seg ++ leBytes 2 0 ++ leBytes 4 seq, m))
    (leBytes 8 m.ing.seed ++ leBytes 4 m.ing.epoch ++ leBytes 4 0, m)

/-- Table DBG-7: the sections, in the order of their types. -/
def Mach.ckptSecs (m : Mach) : List CkptSec × Mach :=
  let regions := (m.image.elim [] (·.regions)).foldl (fun (a : List CkptSec × Mach) r =>
    let (bs, m) := a.2.readAny r.1 r.2
    (a.1 ++ [⟨1, clean (leBytes 8 r.1 ++ leBytes 8 r.2) ++ bs⟩], m)) ([], m)
  let m := regions.2
  let (ing, m) := m.ingestSec
  (regions.1 ++ [⟨2, clean m.configSec⟩, ⟨3, clean m.rngSec⟩, ⟨4, clean m.flagSec⟩, ⟨5, clean m.epiSec⟩, ⟨6, clean ing⟩], m)

/-- The section table's entries, the sections one after another from byte `off` on. -/
def ckptTable : Nat → List CkptSec → List Byte
  | _, [] => []
  | off, s :: ss =>
    leBytes 2 s.ty ++ leBytes 2 0 ++ leBytes 4 (crc32 (s.bytes.map Prod.fst)) ++ leBytes 8 off ++ leBytes 8 s.bytes.length
      ++ ckptTable (off + s.bytes.length) ss

/-- R483: the bytes of a checkpoint. -/
def Mach.ckptBytes (m : Mach) (ss : List CkptSec) : List PByte :=
  let size := 64 + 24 * ss.length + (ss.map fun s => s.bytes.length).foldl (· + ·) 0
  let head (crc : Nat) : List Byte :=
    [0x54, 0x58, 0x43, 0x4B] ++ leBytes 2 1 ++ leBytes 2 ss.length ++ leBytes 8 size ++ leBytes 8 (m.rd .MOD_SERIAL 0)
      ++ leBytes 8 (m.image.elim 0 (·.id)) ++ leBytes 8 (m.rd .TICK_NUMBER 0) ++ leBytes 1 (m.extent 0) ++ leBytes 1 (m.extent 1)
      ++ leBytes 1 (m.extent 2) ++ leBytes 1 (m.rd .MOD_STATUS_GEN 0) ++ leBytes 4 crc ++ leBytes 16 0
  let rest := clean (ckptTable (64 + 24 * ss.length) ss) ++ ss.flatMap (·.bytes)
  clean (head (crc32 (head 0 ++ rest.map Prod.fst))) ++ rest

/-- Two ranges of T1, each linear or in the alias, hold some byte in common. -/
def t1Meets (a n b k : Nat) : Bool :=
  let linear (x len y ln : Nat) : Bool :=
    (List.range 32).any fun s =>
      let lo := max y (0x10000000000 + s * 0x800000000)
      let hi := min (y + ln) (0x10000000000 + (s + 1) * 0x800000000)
      decide (lo < hi) && (StkRange.mk s 1 (lo - 0x10000000000 - s * 0x800000000) (hi - lo)).aliasHit (x - 0x20000000000) (x + len - 1 - 0x20000000000)
  if rangeOf a = rangeOf b then decide (a < b + k ∧ b < a + n)
  else if rangeOf a = .alias_ ∧ rangeOf b = .linear then linear a n b k
  else if rangeOf a = .linear ∧ rangeOf b = .alias_ then linear b k a n
  else false

/-- R483: `n` bytes at DEST lie in T1 linear, the alias or T2 plain, and outside every region that is copied. -/
def Mach.destBad (m : Mach) (a n : Nat) : Bool :=
  !((rangeOf a == .linear || rangeOf a == .alias_ || rangeOf a == .t2) && rangeOf (a + n - 1) == rangeOf a)
    || (m.image.elim [] (·.regions)).any fun r => t1Meets a n r.1 r.2

/-- R417: a step is armed, running or held. -/
def Mach.stepAny (m : Mach) : Bool := m.armed.isSome || m.step.isSome || m.stepRunning || m.cut.isSome || m.cutHeld

/-- A section of a checkpoint that is read back: TYPE and bytes, if its CRC holds. -/
def ckptSecAt (bs : List Byte) (k : Nat) : Option (Nat × List Byte) :=
  let e := 64 + 24 * k
  let s := (bs.drop (fieldOf bs (e + 8) 8)).take (fieldOf bs (e + 16) 8)
  if s.length = fieldOf bs (e + 16) 8 ∧ crc32 s = fieldOf bs (e + 4) 4 then some (fieldOf bs e 2, s) else none

/-- R484: the sections of a checkpoint that passes every check. -/
def Mach.ckptOpen (m : Mach) (bs : List Byte) : Option (List (Nat × List Byte)) :=
  let n := fieldOf bs 6 2
  let bs := bs.take (fieldOf bs 8 8)
  let ss := (List.range n).filterMap (ckptSecAt bs)
  if bs.length = fieldOf bs 8 8 ∧ 64 + 24 * n ≤ bs.length ∧ fieldOf bs 0 4 = 0x4B435854 ∧ fieldOf bs 4 2 = 1
      ∧ crc32 (bs.take 44 ++ [0, 0, 0, 0] ++ bs.drop 48) = fieldOf bs 44 4 ∧ ss.length = n
      ∧ m.image.map (·.id) = some (fieldOf bs 24 8)
      ∧ fieldOf bs 40 1 = m.extent 0 ∧ fieldOf bs 41 1 = m.extent 1 ∧ fieldOf bs 42 1 = m.extent 2 then some ss
  else none

/-- R484, action 1: tiles, queues, member ends, reduction buffers and the bucket as a data-path reset leaves them. -/
def Mach.emptyData (m : Mach) : Mach :=
  let m := m.discardEnds
  let m := { m with cores := (m.cores.map fun (gc : Nat × Core) =>
    let c : Core := { gc.2 with q := [], aq := [], ch := [], acc := [] }
    (gc.1, c)).filter fun (gc : Nat × Core) => gc.2 != Core.reset }
  { m with red := Red.reset, ing := { m.ing with full := [], feed := [] }
           regs := m.regs.filter fun kv => (Fld.ofKey kv.1).1 != .OPE_TILE_SB_STATE && (Fld.ofKey kv.1).1 != .ING_MC_DET }

/-- Writes the records of CONFIG to the shadow copies. -/
def Mach.restoreConfig (m : Mach) (bs : List Byte) : Mach :=
  (List.range (bs.length / 16)).foldl (fun m k =>
    match regAt (fieldOf bs (16 * k) 4) with
    | none => m
    | some (r, i) => (r.parts.filter fun fk => fk.1.config).foldl (fun m fk => m.putField 1 i (fieldOf bs (16 * k + 8) 8) fk) m) m

/-- Writes seeds and then positions (R143). -/
def Mach.restoreRng (m : Mach) (bs : List Byte) : Mach :=
  (List.range 64).foldl (fun m g =>
    ((m.writeSeed g (fieldOf bs (40 * g) 8)).writePos g 0 (fieldOf bs (40 * g + 8) 16)).writePos g 1 (fieldOf bs (40 * g + 24) 16)) m

def Mach.restoreFlags (m : Mach) (bs : List Byte) : Mach :=
  (List.range 1088).foldl (fun m k =>
    let v := fieldOf bs (2 * k) 2
    if k < 1024 then m.wr .FLAG k v else m.wr .MFLAG (k - 1024) v) m

def Mach.restoreEpi (m : Mach) (bs : List Byte) : Mach :=
  (List.range 2048).foldl (fun m k => m.setEpi (k / 32) (k % 32) (EpiEnt.ofWords (fieldOf bs (16 * k) 8) (fieldOf bs (16 * k + 8) 8))) m

/-- R484: one section restored. -/
def Mach.restoreSec (m : Mach) (s : Nat × List Byte) : Written :=
  match s.1 with
  | 1 => m.writeAny 4 (fieldOf s.2 0 8) (clean ((s.2.drop 16).take (fieldOf s.2 8 8)))
  | 2 => .ok (m.restoreConfig s.2)
  | 3 => .ok (m.restoreRng s.2)
  | 4 => .ok (m.restoreFlags s.2)
  | 5 => .ok (m.restoreEpi s.2)
  | _ => .ok m

/-- The sections restored in the order of R484, which is that of their types. -/
def Mach.restoreSecs (m : Mach) (ss : List (Nat × List Byte)) : Written :=
  ((List.range 6).flatMap fun t => ss.filter fun s => s.1 == t).foldl (fun r s =>
    match r with
    | .ok m => m.restoreSec s
    | .error e => .error e) (.ok m)

namespace Ckpt

/-- CHECKPOINT (R417, R483). -/
def checkpoint (r : BitVec 8) (i : BitVec 16) (m : Mach) : Mach :=
  m.descRow r.toNat i.toNat 7 (fun _ d => !d.zero 16 48)
    (fun d m =>
      let a := d.at_ 0 8
      if m.stepAny then m.complete d 0x06 0 0 []
      else
        let (ss, m) := m.ckptSecs
        let bs := m.ckptBytes ss
        if badForm a || (m.side a).remote.isSome || m.destBad (m.side a).addr bs.length then m.complete d 0x01 0 0 []
        else if d.at_ 8 8 < bs.length then m.complete d 0x1E 0 0 []
        else match lowest (m.localCauses (m.side a).addr bs.length true) with
          | some c => (m.captureFault c a true 3).complete d 0x02 c 0 []
          | none => match m.writeAny 4 (m.side a).addr bs with
            | .ok m => m.complete d (if bs.any Prod.snd then 0x03 else 0) 0 bs.length []
            | .error w => Hif.writeFailed d w 3) noGo

/-- RESTORE (R417, R484). -/
def restore (r : BitVec 8) (i : BitVec 16) (m : Mach) : Mach :=
  m.descRow r.toNat i.toNat 8 (fun _ d => !d.zero 16 48)
    (fun d m =>
      let a := d.at_ 0 8
      let n := d.at_ 8 8
      if m.stepAny then m.complete d 0x06 0 0 []
      else match lowest (if badForm a || (m.side a).remote.isSome then [2] else m.localCauses (m.side a).addr (max 1 n) false) with
        | some c => (m.captureFault c a true 3).complete d 0x02 c 0 []
        | none =>
          let (pbs, m) := m.readAny (m.side a).addr n
          let bs := pbs.map Prod.fst
          if pbs.any Prod.snd then m.complete d 0x03 0 0 []
          else match m.ckptOpen bs with
            | none => m.complete d 0x1F 0 0 []
            | some ss => match m.emptyData.restoreSecs ss with
              | .error w => Hif.writeFailed d w 3
              | .ok m =>
                let t := fieldOf bs 32 8
                (if m.on .TICK_STATE_GEN_RUNNING 0 then m else m.wr .TICK_NUMBER 0 t).complete d 0 0 t []) noGo

end Ckpt
end Sys2Proof.Machine
end

