-- ==== Sys2Proof/Machine/ExecHost.lean ====
section
/-! DEFINITION. The meanings of the host interface and debug (chapters 08, 14, 17): one definition for each command. -/
namespace Sys2Proof.Machine

/-- SQ_TAIL_DOORBELL (R400). A write of a ring's submission tail announces new descriptors. -/
def execSqTailDoorbell (ring : BitVec 8) (val : BitVec 32) (s : State) : Host.Outcome State Fault Refusal :=
  .next (s.lift fun m => Hif.tailDoorbell ring val (m.otherAccess 0))

/-- CQ_HEAD_DOORBELL (R402). A write of a ring's completion head frees completion entries. -/
def execCqHeadDoorbell (ring : BitVec 8) (val : BitVec 32) (s : State) : Host.Outcome State Fault Refusal :=
  .next (s.lift fun m => Hif.headDoorbell ring val (m.otherAccess 0))

/-- RING_ENABLE (R398). Setting HIF_RING_CFG.ENABLE resets the ring's indices and phase and starts service. -/
def execRingEnable (ring : BitVec 8) (s : State) : Host.Outcome State Fault Refusal :=
  .next (s.lift fun m => Hif.ringEnable ring (m.otherAccess 0))

/-- RING_DISABLE (R398). Clearing ENABLE stops fetching, and the ring becomes QUIESCED once its work completes. -/
def execRingDisable (ring : BitVec 8) (s : State) : Host.Outcome State Fault Refusal :=
  .next (s.lift fun m => Hif.ringDisable ring (m.otherAccess 0))

/-- DESCRIPTOR_FETCH (R402). A descriptor is fetched and started once a completion entry is free and ordering allows. -/
def execDescriptorFetch (ring : BitVec 8) (readFails : Bool) (s : State) : Host.Outcome State Fault Refusal :=
  .next (s.lift (Hif.fetch ring readFails))

/-- MSIX_COALESCE_TIMER (R406). COAL_US after the first unsignalled completion the ring signals its vector. -/
def execMsixCoalesceTimer (ring : BitVec 8) (s : State) : Host.Outcome State Fault Refusal :=
  .next (s.lift (Hif.coalesceTimer ring))

/-- BAR4_WIN_WRITE (R397). A write of HIF_BAR4_WIN.BASE moves the BAR4 aperture, or is ignored if invalid. -/
def execBar4WinWrite (v : BitVec 64) (s : State) : Host.Outcome State Fault Refusal :=
  .next (s.lift fun m => Hif.bar4Win v (m.otherAccess 0))

/-- BAR4_ACCESS (R397). A host load or store through BAR4 reaches T1. -/
def execBar4Access (off : BitVec 44) (write : Bool) (len : BitVec 7) (data : List Byte) (s : State) :
    Host.Outcome State Fault Refusal :=
  .next (s.lift fun m => Hif.bar4 off write len data (m.otherAccess 0))

/-- CXL_MEM_ACCESS (R395). A host CXL.mem access reaches the HDM range of T1. -/
def execCxlMemAccess (off : BitVec 44) (write : Bool) (len : BitVec 7) (data : List Byte) (s : State) :
    Host.Outcome State Fault Refusal :=
  .next (s.lift fun m => Hif.cxlMem off write len data (m.otherAccess 0))

/-- LOAD_IMAGE (R411). Descriptor that checks, translates and loads a ZIM image into inactive banks or code regions. -/
def execLoadImage (ring : BitVec 8) (idx : BitVec 16) (sigOk readFails : Bool) (s : State) : Host.Outcome State Fault Refusal :=
  .next (s.lift (Load.image ring idx sigOk readFails))

/-- LOAD_IMAGE_DEFERRED_APPLY (R238). Deferred DATA, EPI and flag writes are applied in the first IDLE tick after the step, and LOAD_IMAGE completes. -/
def execLoadImageDeferredApply (s : State) : Host.Outcome State Fault Refusal :=
  .next (s.lift Load.deferredApply)

/-- RUN_STEP (R412). Descriptor that writes TICK_STEP_AT and arms a step, or completes with the first status of R553 that holds. -/
def execRunStep (ring : BitVec 8) (idx : BitVec 16) (s : State) : Host.Outcome State Fault Refusal :=
  .next (s.lift (Hif.runStep ring idx))

/-- DMA (R413). Descriptor that runs a DMA command on the hub DMA engine. -/
def execDma (ring : BitVec 8) (idx : BitVec 16) (ack : Bool) (cause : BitVec 4) (data : List Byte) (poison : List Bool) (s : State) :
    Host.Outcome State Fault Refusal :=
  .next (s.lift (Hif.dma ring idx ack cause data poison))

/-- CONFIG_WRITE (R414). Descriptor that applies a list of register writes. -/
def execConfigWrite (ring : BitVec 8) (idx : BitVec 16) (readFails : Bool) (s : State) : Host.Outcome State Fault Refusal :=
  .next (s.lift (Bar0.configWrite ring idx readFails))

/-- SWAP (R415). Descriptor that requests a swap at AT_TICK and completes with its result. -/
def execSwap (ring : BitVec 8) (idx : BitVec 16) (s : State) : Host.Outcome State Fault Refusal :=
  .next (s.lift (Hif.swap ring idx))

/-- INGEST_SUBMIT (R416). Descriptor that submits an ingest job, or completes with BUSY. -/
def execIngestSubmit (ring : BitVec 8) (idx : BitVec 16) (s : State) : Host.Outcome State Fault Refusal :=
  .next (s.lift (Hif.ingestSubmit ring idx))

/-- CHECKPOINT (R483). Descriptor that writes a checkpoint of regions, config, RNG, flags, epilogues and ingest state. -/
def execCheckpoint (ring : BitVec 8) (idx : BitVec 16) (s : State) : Host.Outcome State Fault Refusal :=
  .next (s.lift (Ckpt.checkpoint ring idx))

/-- RESTORE (R484). Descriptor that checks a checkpoint and restores it to the module. -/
def execRestore (ring : BitVec 8) (idx : BitVec 16) (s : State) : Host.Outcome State Fault Refusal :=
  .next (s.lift (Ckpt.restore ring idx))

/-- REPLAY (R488). Descriptor that arms a step for bit-exact replay, with an optional cut. -/
def execReplay (ring : BitVec 8) (idx : BitVec 16) (s : State) : Host.Outcome State Fault Refusal :=
  .next (s.lift (Hif.replay ring idx))

/-- QUERY (R418). Descriptor that reads consecutive registers into host memory. -/
def execQuery (ring : BitVec 8) (idx : BitVec 16) (s : State) : Host.Outcome State Fault Refusal :=
  .next (s.lift (Hif.query ring idx))

/-- FENCE (R419). Descriptor that waits for earlier descriptors of the named rings and can invalidate instruction caches. -/
def execFence (ring : BitVec 8) (idx : BitVec 16) (s : State) : Host.Outcome State Fault Refusal :=
  .next (s.lift (Hif.fence ring idx))

/-- DP_RESET (R419). Descriptor that starts a data-path reset and completes when it has finished. -/
def execDpReset (ring : BitVec 8) (idx : BitVec 16) (s : State) : Host.Outcome State Fault Refusal :=
  .next (s.lift (Hif.dpReset ring idx))

/-- CUT_SETTLE (R489). After an instruction cut, the group's commands retire or SETTLE_US expires, and the module freezes with source CUT. -/
def execCutSettle (s : State) : Host.Outcome State Fault Refusal :=
  .next (s.lift Debug.cutSettle)

/-- FREEZE_HOST (R473). A write of 1 to DBG_FREEZE_CTRL.HOST freezes the module. -/
def execFreezeHost (s : State) : Host.Outcome State Fault Refusal :=
  .next (s.lift (Mach.hostRow Debug.freezeHost))

/-- FREEZE_RELEASE (R476). A write of 1 to DBG_FREEZE_CTRL.RELEASE ends a freeze, unless a held step or cut holds it. -/
def execFreezeRelease (s : State) : Host.Outcome State Fault Refusal :=
  .next (s.lift (Mach.hostRow Debug.freezeRelease))

/-- FREEZE_IN_ASSERT (R473). FREEZE_IN asserted for 20 ns freezes the module when PIN is enabled. -/
def execFreezeInAssert (s : State) : Host.Outcome State Fault Refusal :=
  .next (s.lift Debug.freezeIn)

/-- FREEZE_TIME_REACHED (R473). TIME reaching DBG_FREEZE_TIME freezes the module when TIME is enabled. -/
def execFreezeTimeReached (s : State) : Host.Outcome State Fault Refusal :=
  .next (s.lift Debug.freezeTime)

/-- PROF_CLEAR (R472). A write of 1 to DBG_PROF_CTRL.CLEAR zeroes every profile counter. -/
def execProfClear (s : State) : Host.Outcome State Fault Refusal :=
  .next (s.lift (Mach.hostRow Debug.profClear))

/-- TRACE_RECORD_WRITE (R480). Each hub cycle the trace writer moves one buffered record, preceded by a GAP record after drops, into region 0. -/
def execTraceRecordWrite (s : State) : Host.Outcome State Fault Refusal :=
  .next (s.lift Debug.traceRecordWrite)

end Sys2Proof.Machine
end

