-- ==== Sys2Proof/Machine/ExecIngest.lean ====
section
/-! DEFINITION. The meanings of broadcast ingest (chapter 10): one definition for each command. -/
namespace Sys2Proof.Machine

/-- ING_ABORT (R314). A write of 1 to ING_CTRL.ABORT ends the current job after its current micro-batch. -/
def execIngAbort (s : State) : Host.Outcome State Fault Refusal :=
  .next (s.lift (Mach.hostRow Ingest.abort))

/-- JOB_START (R274). A pending job becomes current, is checked, and starts or completes with BAD_PARAM. -/
def execJobStart (s : State) : Host.Outcome State Fault Refusal :=
  .next (s.lift Ingest.jobStart)

/-- FETCH_READ_DONE (R281). An RDMA or local source read completes and delivers its bytes to demultiplexing. -/
def execFetchReadDone (j : BitVec 20) (data : List Byte) (ecn : Bool) (s : State) : Host.Outcome State Fault Refusal :=
  .next (s.lift (Ingest.fetchReadDone j data ecn))

/-- RDMA_ACK_TIMEOUT (R281). An RDMA read's 4 ms acknowledge timeout expires, and it retries or fails the item. -/
def execRdmaAckTimeout (j : BitVec 20) (s : State) : Host.Outcome State Fault Refusal :=
  .next (s.lift (Ingest.rdmaAckTimeout j))

/-- ROCE_NAK_RECEIVED (R280). A RoCE v2 NAK from a storage target arrives and the RDMA READ is retried, counting toward the 7 retries of R281. -/
def execRoceNakReceived (j : BitVec 20) (s : State) : Host.Outcome State Fault Refusal :=
  .next (s.lift (Ingest.roceNak j))

/-- ROCE_CNP_RECEIVED (R280). A congestion notification packet arrives and the requester rate of the queue pair is reduced. -/
def execRoceCnpReceived (qp : BitVec 8) (s : State) : Host.Outcome State Fault Refusal :=
  .next (s.lift (Ingest.roceCnp qp))

/-- PFC_PAUSE_RECEIVED (R280). An IEEE 802.1Qbb priority flow control frame arrives and pauses or resumes transmission on its priority. -/
def execPfcPauseReceived (port : BitVec 1) (pause : Bool) (s : State) : Host.Outcome State Fault Refusal :=
  .next (s.lift (Ingest.pfcPause port pause))

/-- ITEM_DECODE_START (R296). A free video or audio engine takes the next item in shuffle order. -/
def execItemDecodeStart (e : BitVec 7) (s : State) : Host.Outcome State Fault Refusal :=
  .next (s.lift (Ingest.decodeStart e))

/-- ITEM_DECODE_DONE (R295). An engine finishes an item, which is shaped and cut into segment samples. -/
def execItemDecodeDone (e : BitVec 7) (s : State) : Host.Outcome State Fault Refusal :=
  .next (s.lift (Ingest.decodeDone e))

/-- SHUFFLE_ITEM_SEND (R298). A sender sends an item to its destination once the destination's window grants credit. -/
def execShuffleItemSend (granted : Bool) (s : State) : Host.Outcome State Fault Refusal :=
  .next (s.lift (Ingest.itemSend granted))

/-- MICROBATCH_PACK (R299). Received samples are packed into the next micro-batch, and the job completes after MB_TOTAL. -/
def execMicrobatchPack (s : State) : Host.Outcome State Fault Refusal :=
  .next (s.lift Ingest.pack)

/-- RING_WRITE (R305). A micro-batch is written to its ring slot once every reader's cursor allows it. -/
def execRingWrite (s : State) : Host.Outcome State Fault Refusal :=
  .next (s.lift Ingest.ringWrite)

/-- MCAST_ENTRY_SEND (R309). A multicast group sends its next entry once every attached member has room. -/
def execMcastEntrySend (n : BitVec 6) (s : State) : Host.Outcome State Fault Refusal :=
  .next (s.lift (Ingest.mcastSend n))

/-- MCAST_DETACH (R310). A member full for LAG_TIMEOUT while the group is held is detached. -/
def execMcastDetach (g : BitVec 6) (c : BitVec 4) (s : State) : Host.Outcome State Fault Refusal :=
  .next (s.lift (Ingest.mcastDetach g c))

/-- DETACHED_FEED (R310). A detached member end is fed by a slot copy from the ring at its cursor. -/
def execDetachedFeed (g : BitVec 6) (c : BitVec 4) (s : State) : Host.Outcome State Fault Refusal :=
  .next (s.lift (Ingest.detachedFeed g c))

end Sys2Proof.Machine
end

