-- ==== Sys2Proof/Machine/ExecPower.lean ====
section
/-! DEFINITION. The meanings of power, clocks, pins and boot (chapters 15, 16, 20): one definition for each command. -/
namespace Sys2Proof.Machine

/-- AUX12_OUT_OF_LIMITS (R451). AUX12 leaves its limits for 10 µs, and a cold reset follows. -/
def execAux12OutOfLimits (s : State) : Host.Outcome State Fault Refusal :=
  .next (Power.auxOut s)

/-- AUX12_IN_LIMITS (R439). AUX12 enters its limits, TIME starts and Kindling boots. -/
def execAux12InLimits (addr : BitVec 3) (mv : BitVec 16) (s : State) : Host.Outcome State Fault Refusal :=
  .next (Power.auxIn addr mv s)

/-- KINDLING_BOOT_DONE (R439). Kindling finishes its AUX boot and image selection, and sets KINDLING_UP. -/
def execKindlingBootDone (s : State) : Host.Outcome State Fault Refusal :=
  .next (s.lift Power.kindlingDone)

/-- PWR_EN_RISE (R440). PWR_EN rises, and the regulators come up once Kindling is up and an image is selected. -/
def execPwrEnRise (s : State) : Host.Outcome State Fault Refusal :=
  .next (s.lift Power.pwrEnRise)

/-- PWR_EN_FALL (R440). PWR_EN falls, and the main domain goes down. -/
def execPwrEnFall (s : State) : Host.Outcome State Fault Refusal :=
  .next (s.lift Power.pwrEnFall)

/-- PWR_GOOD_RISE (R441). PWR_GOOD rises and bring-up starts at stage 1. -/
def execPwrGoodRise (s : State) : Host.Outcome State Fault Refusal :=
  .next (s.lift Power.pwrGood)

/-- BRINGUP_STAGE_END (R441). A bring-up stage ends, and the next begins, READY is reached, or boot fails. -/
def execBringupStageEnd (us : BitVec 22) (o : BootOut) (s : State) : Host.Outcome State Fault Refusal :=
  .next (s.lift (Power.stageEnd us o))

/-- BRINGUP_STAGE_TIMEOUT (R443). A bring-up stage passes its Maximum time, STAGE becomes FAILED with TIMEOUT, ALERT_N is asserted and READY is not reached. -/
def execBringupStageTimeout (s : State) : Host.Outcome State Fault Refusal :=
  .next (s.lift Power.stageTimeout)

/-- PERST_ASSERT (R445). PERST_N asserted starts a module reset with GOODBYE. -/
def execPerstAssert (s : State) : Host.Outcome State Fault Refusal :=
  .next (s.lift Power.perstAssert)

/-- PERST_DEASSERT (R393). PERST_N deasserted samples CXL_SEL and ends the reset. -/
def execPerstDeassert (cxl : Bool) (s : State) : Host.Outcome State Fault Refusal :=
  .next (s.lift (Power.perstDeassert cxl))

/-- WARN_TRIP (R453). 48V_IN below 41.0 V for 2 µs starts a dip at PMODE 2. -/
def execWarnTrip (mv : BitVec 16) (s : State) : Host.Outcome State Fault Refusal :=
  .next (s.lift (Power.warnTrip mv))

/-- WARN_CLEAR (R452). 48V_IN at or above 42.0 V for 1 ms clears WARN. -/
def execWarnClear (low : BitVec 16) (s : State) : Host.Outcome State Fault Refusal :=
  .next (s.lift (Power.warnClear low))

/-- DIP_END (R453). 1 ms after WARN clears the dip ends and PMODE_EFF returns. -/
def execDipEnd (s : State) : Host.Outcome State Fault Refusal :=
  .next (s.lift Power.dipEnd)

/-- RESET_TRIP (R455). 48V_IN below 38.0 V for 2 µs takes a power-fail module reset. -/
def execResetTrip (mv : BitVec 16) (s : State) : Host.Outcome State Fault Refusal :=
  .next (s.lift (Power.resetTrip mv))

/-- POWER_FAIL_RESTART (R456). After 10 ms at or above 42.0 V with PWR_EN high, the regulators restart. -/
def execPowerFailRestart (s : State) : Host.Outcome State Fault Refusal :=
  .next (s.lift Power.failRestart)

/-- PHASE_FAIL (R457). A regulator phase fails; a second failure on one rail asserts ALERT_N. -/
def execPhaseFail (rail phase : BitVec 4) (s : State) : Host.Outcome State Fault Refusal :=
  .next (s.lift (Power.phaseFail rail phase))

/-- RAIL_OUT_OF_REGULATION (R458). A main rail falls out of regulation, PWR_GOOD drops and a power-fail module reset follows by R455. -/
def execRailOutOfRegulation (rail : BitVec 4) (s : State) : Host.Outcome State Fault Refusal :=
  .next (s.lift (Power.railOut rail))

/-- DROOP (R461). Droop on a VCORE rail stretches that die's clocks until the rail recovers. -/
def execDroop (d : BitVec 2) (s : State) : Host.Outcome State Fault Refusal :=
  .next (s.lift (Power.droop d))

/-- DROOP_END (R461). The VCORE rail recovers from droop and the die's clocks return to their nominal period. -/
def execDroopEnd (d : BitVec 2) (s : State) : Host.Outcome State Fault Refusal :=
  .next (s.lift (Power.droopEnd d))

/-- REFCLK_LOST (R463). REFCLK stops for 1 µs, and the PLLs free-run with REF_LOST and ALERT_N. -/
def execRefclkLost (s : State) : Host.Outcome State Fault Refusal :=
  .next (s.lift Power.refLost)

/-- REFCLK_RETURN (R463). REFCLK returns, and the PLLs relock within 1 ms. -/
def execRefclkReturn (s : State) : Host.Outcome State Fault Refusal :=
  .next (s.lift Power.refReturn)

/-- THROTTLE_ON (R465). A sensor reaches throttle-on, and PMODE_EFF steps down. -/
def execThrottleOn (n : BitVec 6) (temp : BitVec 16) (s : State) : Host.Outcome State Fault Refusal :=
  .next (s.lift (Power.throttleOn n temp))

/-- THROTTLE_OFF (R465). All sensors below throttle-off for 10 ms end throttle. -/
def execThrottleOff (temps : List (BitVec 16)) (s : State) : Host.Outcome State Fault Refusal :=
  .next (s.lift (Power.throttleOff temps))

/-- THERMAL_TRIP (R466). A sensor at trip level asserts THERM_TRIP_N and takes a module reset. -/
def execThermalTrip (n : BitVec 6) (temp : BitVec 16) (s : State) : Host.Outcome State Fault Refusal :=
  .next (s.lift (Power.thermalTrip n temp))

/-- HOST_LINK_TRAINED (R394). The PCIe or CXL host link completes training and HIF_STATUS.LINK_UP, GEN and WIDTH are set. -/
def execHostLinkTrained (gen : BitVec 3) (width : BitVec 5) (s : State) : Host.Outcome State Fault Refusal :=
  .next (s.lift (Hif.linkTrained gen width))

/-- HOST_LINK_DOWN (R394). The host link goes down and HIF_STATUS.LINK_UP clears. -/
def execHostLinkDown (s : State) : Host.Outcome State Fault Refusal :=
  .next (s.lift Hif.linkDown)

/-- HDM_DECODER_COMMIT (R395). The host commits the CXL HDM decoder, HDM_EN becomes 1 and later writes to HIF_HDM.BASE are ignored. -/
def execHdmDecoderCommit (s : State) : Host.Outcome State Fault Refusal :=
  .next (s.lift Hif.hdmCommit)

end Sys2Proof.Machine
end

