-- ==== Sys2Proof/Machine/ExecTime.lean ====
section
/-! DEFINITION. The meanings of ticks, time, swaps, resets and register accesses (chapters 00, 02, 13, 16, 18, 19): one definition for each command. -/
namespace Sys2Proof.Machine

/-- TICK_BOUNDARY (R42). At a boundary the module decides the pending swap, advances phase and tick, sets stretch, writes trace and releases TICKW. -/
def execTickBoundary (s : State) : Host.Outcome State Fault Refusal :=
  .next (s.lift Tick.boundary)

/-- TICK_DEADLINE (R46). At LEAD_NS before the boundary the module runs the done test and starts the wait-cycle check. -/
def execTickDeadline (s : State) : Host.Outcome State Fault Refusal :=
  .next (s.lift Tick.deadline)

/-- WAIT_CHECK_SECOND_SAMPLE (R51). 2 µs after the deadline the check samples again and declares WAIT_CYCLE, stretches the tick, or raises TICK_BUDGET. -/
def execWaitCheckSecondSample (s : State) : Host.Outcome State Fault Refusal :=
  .next (s.lift Tick.secondSample)

/-- TICK_RUN (R35). A write of TICK_CTRL.RUN = 1 starts the generator at TICK_ORIGIN, or cancels a pending stop. -/
def execTickRun (solo : Bool) (s : State) : Host.Outcome State Fault Refusal :=
  .next (s.lift fun m => Tick.run solo (m.otherAccess 0))

/-- TICK_STOP (R35). A write of RUN = 0 requests a stop after the current tick; it is ignored while a step runs. -/
def execTickStop (s : State) : Host.Outcome State Fault Refusal :=
  .next (s.lift fun m => Tick.stop (m.otherAccess 0))

/-- SYNC_TIMER (R57). Every 1 ms the module starts a SYNC exchange with its time parent. -/
def execSyncTimer (master : BitVec 18) (s : State) : Host.Outcome State Fault Refusal :=
  .next (s.lift (Tick.syncTimer master))

/-- TIME_LOCK_TIMEOUT (R58). No exchange completes for 10 ms, so TIME_LOCK clears and TIME_UNLOCKS counts. -/
def execTimeLockTimeout (s : State) : Host.Outcome State Fault Refusal :=
  .next (s.lift Tick.lockTimeout)

/-- TIME_HOLD_END (R58). A module held at first lock resumes counting once the master's TIME reaches its own. -/
def execTimeHoldEnd (s : State) : Host.Outcome State Fault Refusal :=
  .next (s.lift Tick.holdEnd)

/-- SWAP_REQUEST (R376). A write of 1 to CFG_SWAP_CTRL.REQ requests a swap for CFG_SWAP_AT, or it completes with SWAP_BUSY or SWAP_LATE. -/
def execSwapRequest (s : State) : Host.Outcome State Fault Refusal :=
  .next (s.lift fun m => Swap.swapRequest (m.otherAccess 0))

/-- SWAP_IDLE_APPLY (R377). With the generator stopped, a swap requested for tick 0 is decided within 1 µs, with no tick advance. -/
def execSwapIdleApply (s : State) : Host.Outcome State Fault Refusal :=
  .next (s.lift Swap.idleApply)

/-- MOD_RESET (R33). A write of MOD_CTRL.RESET = 1 starts a module reset. -/
def execModReset (s : State) : Host.Outcome State Fault Refusal :=
  .next (s.lift fun m => Reset.modReset (m.otherAccess 0))

/-- MOD_CTRL_DP_RESET (R33). A write of MOD_CTRL.DP_RESET = 1 starts a data-path reset. -/
def execModCtrlDpReset (s : State) : Host.Outcome State Fault Refusal :=
  .next (s.lift fun m => Reset.modCtrlDpReset (m.otherAccess 0))

/-- MODULE_RESET_END (R534). A module reset ends when PERST_N deasserts or 100 µs have passed, and bring-up restarts. -/
def execModuleResetEnd (s : State) : Host.Outcome State Fault Refusal :=
  .next (s.lift Reset.moduleResetEnd)

/-- MOD_FENCE_WRITE (R504). A write of MOD_FENCE fences or returns cores, or sets FENCE_REFUSED. -/
def execModFenceWrite (v : BitVec 64) (s : State) : Host.Outcome State Fault Refusal :=
  .next (s.lift fun m => Reset.fenceWrite v (m.otherAccess 0))

/-- RNG_SEED_WRITE (R143). A write of VEC_RNG_SEED sets the key and zeroes both stream positions, or is ignored during a step. -/
def execRngSeedWrite (g : BitVec 6) (v : BitVec 64) (s : State) : Host.Outcome State Fault Refusal :=
  .next (s.lift (Mach.hostRow (Reset.rngSeed true g v)))

/-- RNG_POS_WRITE (R143). A write of a stream position register sets that position, or is ignored during a step. -/
def execRngPosWrite (g : BitVec 6) (dru hi : Bool) (v : BitVec 64) (s : State) : Host.Outcome State Fault Refusal :=
  .next (s.lift (Mach.hostRow (Reset.rngPos true g dru hi v)))

/-- NF_CAPTURE_CLEAR (R99). A write of 1 to ACC_NF_CAPTURE.VALID clears it, unless a non-finite event in that cycle is captured. -/
def execNfCaptureClear (g : BitVec 6) (complete : Bool) (s : State) : Host.Outcome State Fault Refusal :=
  .next (s.lift (Mach.hostRow (Reset.nfClear g complete)))

/-- TEMP_MAX_WRITE (R517). Any write to PWR_TEMP_n.MAX sets it to the current TEMP. -/
def execTempMaxWrite (n : BitVec 6) (s : State) : Host.Outcome State Fault Refusal :=
  .next (s.lift fun m => Reset.tempMax n (m.otherAccess 0))

/-- SPARE_NEXT_WRITE (R251). A write of MEM_STK_STATUS_n.SPARE_NEXT requests sparing of a pseudo-channel from the next reset. -/
def execSpareNextWrite (n : BitVec 5) (pc : BitVec 6) (s : State) : Host.Outcome State Fault Refusal :=
  .next (s.lift fun m => Reset.spareNext n pc (m.otherAccess 1))

/-- REG_WRITE (R13). A write to a register without a row of its own, applied by access code, reserved encodings and shadowing. -/
def execRegWrite (req : BitVec 3) (off : BitVec 26) (val : BitVec 64) (width : BitVec 2) (s : State) :
    Host.Outcome State Fault Refusal :=
  .next (s.lift (Bar0.write req off val width))

/-- REG_LOWER_HALF_WRITE (R17). A 32-bit lower-half write is held until the same requester writes the upper half. -/
def execRegLowerHalfWrite (req : BitVec 3) (off : BitVec 26) (lo : BitVec 32) (s : State) :
    Host.Outcome State Fault Refusal :=
  .next (s.lift (Bar0.lowerWrite req off lo))

/-- HALF_WRITE_TIMEOUT (R17). A held lower half is discarded when no upper half arrives within 1 µs. -/
def execHalfWriteTimeout (req : BitVec 3) (s : State) : Host.Outcome State Fault Refusal :=
  .next (s.lift (Bar0.halfTimeout req))

/-- REG_LOWER_HALF_READ (R518). A 32-bit lower-half read captures the whole register for the following upper-half read. -/
def execRegLowerHalfRead (req : BitVec 3) (off : BitVec 26) (width : BitVec 2) (s : State) : Host.Outcome State Fault Refusal :=
  .next (s.lift (Bar0.lowerRead req off width))

end Sys2Proof.Machine
end

