-- ==== Sys2Proof/Machine/ExecZvi.lean ====
section
/-! DEFINITION. The meanings of the ZVI instructions (chapter 07): one definition for each command. -/
namespace Sys2Proof.Machine

/-- NOP (R174). Instruction that issues, counts in ICOUNT and does nothing else. -/
def execNop (t : ThreadId) (s : State) : Host.Outcome State Fault Refusal :=
  .next (s.lift (Control.nop t))

/-- LOOP (R181). Pushes a loop level with iteration count 0 for a body repeated n times, or without limit when n is 0. -/
def execLoop (t : ThreadId) (n : BitVec 16) (s : State) : Host.Outcome State Fault Refusal :=
  .next (s.lift (Control.loop t n))

/-- ENDL (R181). Adds 1 to the loop count, then either returns to the body or pops the loop level. -/
def execEndl (t : ThreadId) (s : State) : Host.Outcome State Fault Refusal :=
  .next (s.lift (Control.endl t))

/-- CTXSTART (R183). Starts a context at a target, or sets START_BUSY if that context already runs. -/
def execCtxstart (t : ThreadId) (ctx : BitVec 3) (target : BitVec 20) (s : State) : Host.Outcome State Fault Refusal :=
  .next (s.lift (Control.ctxstart t ctx target))

/-- CTXJOIN (R183). Waits until the named context has ended. -/
def execCtxjoin (t : ThreadId) (ctx : BitVec 3) (s : State) : Host.Outcome State Fault Refusal :=
  .next (s.lift (Control.ctxjoin t ctx))

/-- YIELD (R183). Makes the issuing context not ready in the next cycle. -/
def execYield (t : ThreadId) (s : State) : Host.Outcome State Fault Refusal :=
  .next (s.lift (Control.yield t))

/-- HALT (R183). Waits until every command of the context has retired and every flag operation has been applied, then ends the context. -/
def execHalt (t : ThreadId) (s : State) : Host.Outcome State Fault Refusal :=
  .next (s.lift (Control.halt t))

/-- FSET (R167). Writes a count to a counting flag or module flag, either at issue or deferred by AFTER. -/
def execFset (t : ThreadId) (g : BitVec 1) (flag : BitVec 8) (after : BitVec 6) (value : BitVec 16) (s : State) :
    Host.Outcome State Fault Refusal :=
  if Instr.wf (.fset t g flag after value) then .next (s.lift (Control.fset t g flag after value)) else .refused (.reservedEncoding "FSET")

/-- FADD (R167). Adds a signed value to a flag with clamping, either at issue or deferred by AFTER. -/
def execFadd (t : ThreadId) (g : BitVec 1) (flag : BitVec 8) (after : BitVec 6) (value : BitVec 16) (s : State) :
    Host.Outcome State Fault Refusal :=
  if Instr.wf (.fadd t g flag after value) then .next (s.lift (Control.fadd t g flag after value)) else .refused (.reservedEncoding "FADD")

/-- FCLR (R167). Writes 0 to a flag, either at issue or deferred by AFTER. -/
def execFclr (t : ThreadId) (g : BitVec 1) (flag : BitVec 8) (after : BitVec 6) (s : State) :
    Host.Outcome State Fault Refusal :=
  if Instr.wf (.fclr t g flag after) then .next (s.lift (Control.fclr t g flag after)) else .refused (.reservedEncoding "FCLR")

/-- FWAIT (R167). Stops the context until the flag count reaches the threshold. -/
def execFwait (t : ThreadId) (g : BitVec 1) (flag : BitVec 8) (thresh : BitVec 16) (s : State) :
    Host.Outcome State Fault Refusal :=
  if Instr.wf (.fwait t g flag thresh) then .next (s.lift (Control.fwait t g flag thresh)) else .refused (.reservedEncoding "FWAIT")

/-- TICKW (R184). Ends the thread's work for the tick until the next boundary releases it. -/
def execTickw (t : ThreadId) (s : State) : Host.Outcome State Fault Refusal :=
  .next (s.lift (Control.tickw t))

/-- PHASE (R185). Tests the current phase and the window position, and branches to the target if the test fails. -/
def execPhase (t : ThreadId) (pset : BitVec 3) (sel : BitVec 2) (target : BitVec 20) (s : State) :
    Host.Outcome State Fault Refusal :=
  if Instr.wf (.phase t pset sel target) then .next (s.lift (Control.phase t pset sel target)) else .refused (.reservedEncoding "PHASE")

/-- MARK (R186). Writes a cairn trace record when trace is on. -/
def execMark (t : ThreadId) (cls : BitVec 4) (value : BitVec 32) (s : State) : Host.Outcome State Fault Refusal :=
  .next (s.lift (Control.mark t cls value))

/-- SDEF (R187). Writes a stream descriptor and resets its position, after any SRUN of that descriptor has finished. -/
def execSdef (t : ThreadId) (d : SdefF) (s : State) : Host.Outcome State Fault Refusal :=
  if Instr.wf (.sdef t d) then .next (s.lift (Streams.sdef t d)) else .refused (.reservedEncoding "SDEF")

/-- SRUN (R155). Queues a run of a descriptor's next n addresses into an address queue on the stream engine. -/
def execSrun (t : ThreadId) (sd : BitVec 4) (a : BitVec 6) (n : BitVec 25) (s : State) : Host.Outcome State Fault Refusal :=
  if Instr.wf (.srun t sd a n) then .next (s.lift (Streams.srun t sd a n)) else .refused (.reservedEncoding "SRUN")

/-- LDV (R189). LSU command that reads one line per address entry into a data queue, unpacking where the read runs along the pack axis. -/
def execLdv (t : ThreadId) (a q ca : BitVec 6) (fmt : BitVec 4) (pack : BitVec 2) (part : BitVec 3) (w32 : BitVec 1) (n : BitVec 24) (s : State) :
    Host.Outcome State Fault Refusal :=
  if Instr.wf (.ldv t a q ca fmt pack part w32 n) then .next (s.lift (Lsu.ldv t a q ca fmt pack part w32 n)) else .refused (.reservedEncoding "LDV")

/-- LDS (R191). LSU command that builds MX scale entries from companion blocks over the DMA port. -/
def execLds (t : ThreadId) (aa ab q : BitVec 6) (fmt : BitVec 4) (pka pkb : BitVec 1) (n : BitVec 24) (s : State) :
    Host.Outcome State Fault Refusal :=
  if Instr.wf (.lds t aa ab q fmt pka pkb n) then .next (s.lift (Lsu.lds t aa ab q fmt pka pkb n)) else .refused (.reservedEncoding "LDS")

/-- STV (R192). LSU command that writes queue entries to core-store rows, columns or linear addresses. -/
def execStv (t : ThreadId) (q a : BitVec 6) (w32 : BitVec 1) (n : BitVec 24) (s : State) : Host.Outcome State Fault Refusal :=
  if Instr.wf (.stv t q a w32 n) then .next (s.lift (Lsu.stv t q a w32 n)) else .refused (.reservedEncoding "STV")

/-- QMOV (R193). LSU command that moves N entries from one queue to another. -/
def execQmov (t : ThreadId) (qs qd : BitVec 6) (n : BitVec 24) (s : State) : Host.Outcome State Fault Refusal :=
  if Instr.wf (.qmov t qs qd n) then .next (s.lift (Lsu.qmov t qs qd n)) else .refused (.reservedEncoding "QMOV")

/-- QDUP (R193). LSU command that pushes each popped entry to two queues. -/
def execQdup (t : ThreadId) (qs qd1 qd2 : BitVec 6) (n : BitVec 24) (s : State) : Host.Outcome State Fault Refusal :=
  if Instr.wf (.qdup t qs qd1 qd2 n) then .next (s.lift (Lsu.qdup t qs qd1 qd2 n)) else .refused (.reservedEncoding "QDUP")

/-- OPU (R196). OPE command that issues N outer-product updates to a tile. -/
def execOpu (t : ThreadId) (qa qb : BitVec 6) (tile : BitVec 7) (tinc : BitVec 1) (fa fb : BitVec 4) (n : BitVec 20) (s : State) :
    Host.Outcome State Fault Refusal :=
  if Instr.wf (.opu t qa qb tile tinc fa fb n) then .next (s.lift (Ope.opu t qa qb tile tinc fa fb n)) else .refused (.reservedEncoding "OPU")

/-- OPUS (R196). OPE command that issues N scaled MX outer-product updates, popping scale entries. -/
def execOpus (t : ThreadId) (qa qb qs : BitVec 6) (tile : BitVec 7) (tinc : BitVec 1) (fa fb : BitVec 4) (n : BitVec 20) (s : State) :
    Host.Outcome State Fault Refusal :=
  if Instr.wf (.opus t qa qb qs tile tinc fa fb n) then .next (s.lift (Ope.opus t qa qb qs tile tinc fa fb n)) else .refused (.reservedEncoding "OPUS")

/-- TLOAD (R100). DRU preload of a tile in mode ZERO (TZERO), BIAS, RESID or SCALE. -/
def execTload (t : ThreadId) (q : BitVec 6) (tile : BitVec 7) (tinc : BitVec 1) (mode : BitVec 2) (ax : BitVec 1) (sfmt : BitVec 2) (c : BitVec 32) (s : State) :
    Host.Outcome State Fault Refusal :=
  if Instr.wf (.tload t q tile tinc mode ax sfmt c) then .next (s.lift (Dru.tload t q tile tinc mode ax sfmt c)) else .refused (.reservedEncoding "TLOAD")

/-- TDRAIN (R111). DRU forward drain of a tile's lines through the epilogue. -/
def execTdrain (t : ThreadId) (f : DrainF) (s : State) : Host.Outcome State Fault Refusal :=
  if Instr.wf (.tdrain t f) then .next (s.lift (Dru.tdrain t f)) else .refused (.reservedEncoding "TDRAIN")

/-- TDRAING (R117). DRU gradient drain of a tile's lines through the derivative epilogue, to 16-bit output. -/
def execTdraing (t : ThreadId) (f : DrainF) (s : State) : Host.Outcome State Fault Refusal :=
  if Instr.wf (.tdraing t f) then .next (s.lift (Dru.tdraing t f)) else .refused (.reservedEncoding "TDRAING")

/-- EPI (R109). DRU command that pops an entry and writes one epilogue table entry. -/
def execEpi (t : ThreadId) (q : BitVec 6) (entry : BitVec 5) (s : State) : Host.Outcome State Fault Refusal :=
  if Instr.wf (.epi t q entry) then .next (s.lift (Dru.epi t q entry)) else .refused (.reservedEncoding "EPI")

/-- VADD (R126). VEC lanewise addition. -/
def execVadd (t : ThreadId) (f : VecF) (s : State) : Host.Outcome State Fault Refusal :=
  if Instr.wf (.vadd t f) then .next (s.lift (Vec.vadd t f)) else .refused (.reservedEncoding "VADD")

/-- VSUB (R126). VEC lanewise subtraction. -/
def execVsub (t : ThreadId) (f : VecF) (s : State) : Host.Outcome State Fault Refusal :=
  if Instr.wf (.vsub t f) then .next (s.lift (Vec.vsub t f)) else .refused (.reservedEncoding "VSUB")

/-- VMUL (R126). VEC lanewise multiplication. -/
def execVmul (t : ThreadId) (f : VecF) (s : State) : Host.Outcome State Fault Refusal :=
  if Instr.wf (.vmul t f) then .next (s.lift (Vec.vmul t f)) else .refused (.reservedEncoding "VMUL")

/-- VFMA (R126). VEC lanewise fused multiply-add. -/
def execVfma (t : ThreadId) (f : VecF) (s : State) : Host.Outcome State Fault Refusal :=
  if Instr.wf (.vfma t f) then .next (s.lift (Vec.vfma t f)) else .refused (.reservedEncoding "VFMA")

/-- VMAX (R127). VEC lanewise maximum. -/
def execVmax (t : ThreadId) (f : VecF) (s : State) : Host.Outcome State Fault Refusal :=
  if Instr.wf (.vmax t f) then .next (s.lift (Vec.vmax t f)) else .refused (.reservedEncoding "VMAX")

/-- VMIN (R127). VEC lanewise minimum. -/
def execVmin (t : ThreadId) (f : VecF) (s : State) : Host.Outcome State Fault Refusal :=
  if Instr.wf (.vmin t f) then .next (s.lift (Vec.vmin t f)) else .refused (.reservedEncoding "VMIN")

/-- VCMP (R127). VEC lanewise compare that writes masks. -/
def execVcmp (t : ThreadId) (f : VecF) (s : State) : Host.Outcome State Fault Refusal :=
  if Instr.wf (.vcmp t f) then .next (s.lift (Vec.vcmp t f)) else .refused (.reservedEncoding "VCMP")

/-- VSEL (R127). VEC lanewise select by mask. -/
def execVsel (t : ThreadId) (f : VecF) (s : State) : Host.Outcome State Fault Refusal :=
  if Instr.wf (.vsel t f) then .next (s.lift (Vec.vsel t f)) else .refused (.reservedEncoding "VSEL")

/-- VCVT (R130). VEC format conversion, rounding stochastically when ROUND is 1. -/
def execVcvt (t : ThreadId) (x d : BitVec 6) (ifmt ofmt : BitVec 4) (sat round : BitVec 1) (n : BitVec 16) (s : State) :
    Host.Outcome State Fault Refusal :=
  if Instr.wf (.vcvt t x d ifmt ofmt sat round n) then .next (s.lift (Vec.vcvt t x d ifmt ofmt sat round n)) else .refused (.reservedEncoding "VCVT")

/-- VEXP (R129). VEC exponential. -/
def execVexp (t : ThreadId) (f : VecF) (s : State) : Host.Outcome State Fault Refusal :=
  if Instr.wf (.vexp t f) then .next (s.lift (Vec.vexp t f)) else .refused (.reservedEncoding "VEXP")

/-- VLOG (R129). VEC natural logarithm. -/
def execVlog (t : ThreadId) (f : VecF) (s : State) : Host.Outcome State Fault Refusal :=
  if Instr.wf (.vlog t f) then .next (s.lift (Vec.vlog t f)) else .refused (.reservedEncoding "VLOG")

/-- VRSQ (R129). VEC reciprocal square root. -/
def execVrsq (t : ThreadId) (f : VecF) (s : State) : Host.Outcome State Fault Refusal :=
  if Instr.wf (.vrsq t f) then .next (s.lift (Vec.vrsq t f)) else .refused (.reservedEncoding "VRSQ")

/-- VRCP (R129). VEC reciprocal. -/
def execVrcp (t : ThreadId) (f : VecF) (s : State) : Host.Outcome State Fault Refusal :=
  if Instr.wf (.vrcp t f) then .next (s.lift (Vec.vrcp t f)) else .refused (.reservedEncoding "VRCP")

/-- VRED (R132). VEC cross-lane reduction by a fixed tree. -/
def execVred (t : ThreadId) (f : VecF) (s : State) : Host.Outcome State Fault Refusal :=
  if Instr.wf (.vred t f) then .next (s.lift (Vec.vred t f)) else .refused (.reservedEncoding "VRED")

/-- VSHUF (R134). VEC lane shuffle by an index entry. -/
def execVshuf (t : ThreadId) (f : VecF) (s : State) : Host.Outcome State Fault Refusal :=
  if Instr.wf (.vshuf t f) then .next (s.lift (Vec.vshuf t f)) else .refused (.reservedEncoding "VSHUF")

/-- VBCAST (R134). VEC broadcast of one lane to all lanes. -/
def execVbcast (t : ThreadId) (x : BitVec 6) (lane : BitVec 7) (d : BitVec 6) (fx fd : BitVec 2) (n : BitVec 16) (s : State) :
    Host.Outcome State Fault Refusal :=
  if Instr.wf (.vbcast t x lane d fx fd n) then .next (s.lift (Vec.vbcast t x lane d fx fd n)) else .refused (.reservedEncoding "VBCAST")

/-- VAMAX (R133). VEC largest magnitude over many entries and all lanes. -/
def execVamax (t : ThreadId) (f : VecF) (s : State) : Host.Outcome State Fault Refusal :=
  if Instr.wf (.vamax t f) then .next (s.lift (Vec.vamax t f)) else .refused (.reservedEncoding "VAMAX")

/-- VRNG (R144). VEC push of random entries drawn from the lane generators. -/
def execVrng (t : ThreadId) (p16 : BitVec 16) (d : BitVec 6) (mode : BitVec 3) (n : BitVec 16) (s : State) :
    Host.Outcome State Fault Refusal :=
  if Instr.wf (.vrng t p16 d mode n) then .next (s.lift (Vec.vrng t p16 d mode n)) else .refused (.reservedEncoding "VRNG")

/-- VADAMW (R136). Fused AdamW optimizer pass. -/
def execVadamw (t : ThreadId) (f : OptF) (s : State) : Host.Outcome State Fault Refusal :=
  if Instr.wf (.vadamw t f) then .next (s.lift (Vec.vadamw t f)) else .refused (.reservedEncoding "VADAMW")

/-- VLION (R136). Fused Lion optimizer pass. -/
def execVlion (t : ThreadId) (f : OptF) (s : State) : Host.Outcome State Fault Refusal :=
  if Instr.wf (.vlion t f) then .next (s.lift (Vec.vlion t f)) else .refused (.reservedEncoding "VLION")

/-- VSGDM (R136). Fused SGD-with-momentum optimizer pass. -/
def execVsgdm (t : ThreadId) (f : OptF) (s : State) : Host.Outcome State Fault Refusal :=
  if Instr.wf (.vsgdm t f) then .next (s.lift (Vec.vsgdm t f)) else .refused (.reservedEncoding "VSGDM")

/-- NSEND (R207). NIU command that pushes queue entries to a NET_TX channel end. -/
def execNsend (t : ThreadId) (q c : BitVec 6) (n : BitVec 24) (s : State) : Host.Outcome State Fault Refusal :=
  if Instr.wf (.nsend t q c n) then .next (s.lift (Niu.nsend t q c n)) else .refused (.reservedEncoding "NSEND")

/-- NRECV (R207). NIU command that pops entries from a NET_RX or MCAST_RX end into a queue. -/
def execNrecv (t : ThreadId) (c q : BitVec 6) (n : BitVec 24) (s : State) : Host.Outcome State Fault Refusal :=
  if Instr.wf (.nrecv t c q n) then .next (s.lift (Niu.nrecv t c q n)) else .refused (.reservedEncoding "NRECV")

/-- NMCAST (R207). NIU command that pushes each entry to every NET_TX end of a mask. -/
def execNmcast (t : ThreadId) (q : BitVec 6) (cmask : BitVec 16) (n : BitVec 24) (s : State) :
    Host.Outcome State Fault Refusal :=
  if Instr.wf (.nmcast t q cmask n) then .next (s.lift (Niu.nmcast t q cmask n)) else .refused (.reservedEncoding "NMCAST")

/-- RRED (R208). NIU all-reduce of queue entries over a reduction stream. -/
def execRred (t : ThreadId) (q d c : BitVec 6) (op : BitVec 2) (n : BitVec 24) (s : State) :
    Host.Outcome State Fault Refusal :=
  if Instr.wf (.rred t q d c op n) then .next (s.lift (Niu.rred t q d c op n)) else .refused (.reservedEncoding "RRED")

/-- RGATH (R208). NIU all-gather of queue entries over a reduction stream. -/
def execRgath (t : ThreadId) (q d c : BitVec 6) (n : BitVec 24) (s : State) : Host.Outcome State Fault Refusal :=
  if Instr.wf (.rgath t q d c n) then .next (s.lift (Niu.rgath t q d c n)) else .refused (.reservedEncoding "RGATH")

/-- DCOPY (R210). Places a DMA command of N transfers in the core's DMA command queue. -/
def execDcopy (t : ThreadId) (f : DmaF) (s : State) : Host.Outcome State Fault Refusal :=
  if Instr.wf (.dcopy t f) then .next (s.lift (Dma.dcopy t f)) else .refused (.reservedEncoding "DCOPY")

/-- DPREF (R212). Places a DMA command limited to SHARE eighths of the DMA port. -/
def execDpref (t : ThreadId) (f : DmaF) (s : State) : Host.Outcome State Fault Refusal :=
  if Instr.wf (.dpref t f) then .next (s.lift (Dma.dpref t f)) else .refused (.reservedEncoding "DPREF")

/-- DWAIT (R213). Waits until tagged DMA commands issued earlier have retired. -/
def execDwait (t : ThreadId) (tagmask : BitVec 16) (s : State) : Host.Outcome State Fault Refusal :=
  if Instr.wf (.dwait t tagmask) then .next (s.lift (Control.dwait t tagmask)) else .refused (.reservedEncoding "DWAIT")

/-- IPULL (R214). DMA command that performs N slot copies from a sample ring. -/
def execIpull (t : ThreadId) (a ring : BitVec 6) (n : BitVec 16) (tag : BitVec 4) (s : State) :
    Host.Outcome State Fault Refusal :=
  if Instr.wf (.ipull t a ring n tag) then .next (s.lift (Dma.ipull t a ring n tag)) else .refused (.reservedEncoding "IPULL")

end Sys2Proof.Machine
end

