-- ==== Sys2Proof/Machine/Dispatch.lean ====
section
/-! DEFINITION. One arm for each command: a direct call of its meaning. -/
namespace Sys2Proof.Machine

def exec (i : Instr) (s : State) : Host.Outcome State Fault Refusal :=
  match i with
  | .nop t => Sys2Proof.Machine.execNop t s
  | .loop t n => Sys2Proof.Machine.execLoop t n s
  | .endl t => Sys2Proof.Machine.execEndl t s
  | .ctxstart t ctx target => Sys2Proof.Machine.execCtxstart t ctx target s
  | .ctxjoin t ctx => Sys2Proof.Machine.execCtxjoin t ctx s
  | .yield t => Sys2Proof.Machine.execYield t s
  | .halt t => Sys2Proof.Machine.execHalt t s
  | .fset t g flag after value => Sys2Proof.Machine.execFset t g flag after value s
  | .fadd t g flag after value => Sys2Proof.Machine.execFadd t g flag after value s
  | .fclr t g flag after => Sys2Proof.Machine.execFclr t g flag after s
  | .fwait t g flag thresh => Sys2Proof.Machine.execFwait t g flag thresh s
  | .tickw t => Sys2Proof.Machine.execTickw t s
  | .phase t pset sel target => Sys2Proof.Machine.execPhase t pset sel target s
  | .mark t cls value => Sys2Proof.Machine.execMark t cls value s
  | .sdef t d => Sys2Proof.Machine.execSdef t d s
  | .srun t sd a n => Sys2Proof.Machine.execSrun t sd a n s
  | .ldv t a q ca fmt pack part w32 n => Sys2Proof.Machine.execLdv t a q ca fmt pack part w32 n s
  | .lds t aa ab q fmt pka pkb n => Sys2Proof.Machine.execLds t aa ab q fmt pka pkb n s
  | .stv t q a w32 n => Sys2Proof.Machine.execStv t q a w32 n s
  | .qmov t qs qd n => Sys2Proof.Machine.execQmov t qs qd n s
  | .qdup t qs qd1 qd2 n => Sys2Proof.Machine.execQdup t qs qd1 qd2 n s
  | .opu t qa qb tile tinc fa fb n => Sys2Proof.Machine.execOpu t qa qb tile tinc fa fb n s
  | .opus t qa qb qs tile tinc fa fb n => Sys2Proof.Machine.execOpus t qa qb qs tile tinc fa fb n s
  | .tload t q tile tinc mode ax sfmt c => Sys2Proof.Machine.execTload t q tile tinc mode ax sfmt c s
  | .tdrain t f => Sys2Proof.Machine.execTdrain t f s
  | .tdraing t f => Sys2Proof.Machine.execTdraing t f s
  | .epi t q entry => Sys2Proof.Machine.execEpi t q entry s
  | .vadd t f => Sys2Proof.Machine.execVadd t f s
  | .vsub t f => Sys2Proof.Machine.execVsub t f s
  | .vmul t f => Sys2Proof.Machine.execVmul t f s
  | .vfma t f => Sys2Proof.Machine.execVfma t f s
  | .vmax t f => Sys2Proof.Machine.execVmax t f s
  | .vmin t f => Sys2Proof.Machine.execVmin t f s
  | .vcmp t f => Sys2Proof.Machine.execVcmp t f s
  | .vsel t f => Sys2Proof.Machine.execVsel t f s
  | .vcvt t x d ifmt ofmt sat round n => Sys2Proof.Machine.execVcvt t x d ifmt ofmt sat round n s
  | .vexp t f => Sys2Proof.Machine.execVexp t f s
  | .vlog t f => Sys2Proof.Machine.execVlog t f s
  | .vrsq t f => Sys2Proof.Machine.execVrsq t f s
  | .vrcp t f => Sys2Proof.Machine.execVrcp t f s
  | .vred t f => Sys2Proof.Machine.execVred t f s
  | .vshuf t f => Sys2Proof.Machine.execVshuf t f s
  | .vbcast t x lane d fx fd n => Sys2Proof.Machine.execVbcast t x lane d fx fd n s
  | .vamax t f => Sys2Proof.Machine.execVamax t f s
  | .vrng t p16 d mode n => Sys2Proof.Machine.execVrng t p16 d mode n s
  | .vadamw t f => Sys2Proof.Machine.execVadamw t f s
  | .vlion t f => Sys2Proof.Machine.execVlion t f s
  | .vsgdm t f => Sys2Proof.Machine.execVsgdm t f s
  | .nsend t q c n => Sys2Proof.Machine.execNsend t q c n s
  | .nrecv t c q n => Sys2Proof.Machine.execNrecv t c q n s
  | .nmcast t q cmask n => Sys2Proof.Machine.execNmcast t q cmask n s
  | .rred t q d c op n => Sys2Proof.Machine.execRred t q d c op n s
  | .rgath t q d c n => Sys2Proof.Machine.execRgath t q d c n s
  | .dcopy t f => Sys2Proof.Machine.execDcopy t f s
  | .dpref t f => Sys2Proof.Machine.execDpref t f s
  | .dwait t tagmask => Sys2Proof.Machine.execDwait t tagmask s
  | .ipull t a ring n tag => Sys2Proof.Machine.execIpull t a ring n tag s
  | .icacheMissFill t => Sys2Proof.Machine.execIcacheMissFill t s
  | .streamGenStart g => Sys2Proof.Machine.execStreamGenStart g s
  | .streamAddressPush g gen => Sys2Proof.Machine.execStreamAddressPush g gen s
  | .lsuReadStart g slot => Sys2Proof.Machine.execLsuReadStart g slot s
  | .lsuEntryPush g slot => Sys2Proof.Machine.execLsuEntryPush g slot s
  | .opeUpdateIssue g => Sys2Proof.Machine.execOpeUpdateIssue g s
  | .opeUpdateComplete g => Sys2Proof.Machine.execOpeUpdateComplete g s
  | .drainStart g => Sys2Proof.Machine.execDrainStart g s
  | .drainLineRead g => Sys2Proof.Machine.execDrainLineRead g s
  | .drainEntryPush g => Sys2Proof.Machine.execDrainEntryPush g s
  | .preloadStart g => Sys2Proof.Machine.execPreloadStart g s
  | .preloadLineWrite g => Sys2Proof.Machine.execPreloadLineWrite g s
  | .vecEntryPop g => Sys2Proof.Machine.execVecEntryPop g s
  | .vecResultPush g => Sys2Proof.Machine.execVecResultPush g s
  | .niuEntryMove g slot => Sys2Proof.Machine.execNiuEntryMove g slot s
  | .deferredFlagApply t => Sys2Proof.Machine.execDeferredFlagApply t s
  | .dmaCommandStart g => Sys2Proof.Machine.execDmaCommandStart g s
  | .dmaTransferComplete g slot ack data poison => Sys2Proof.Machine.execDmaTransferComplete g slot ack data poison s
  | .addrFaultReport g slot cause addr => Sys2Proof.Machine.execAddrFaultReport g slot cause addr s
  | .iPullSlotCopy g slot ack => Sys2Proof.Machine.execIPullSlotCopy g slot ack s
  | .peatRmw addr data poison g hub => Sys2Proof.Machine.execPeatRmw addr data poison g hub s
  | .scrubRead addr found => Sys2Proof.Machine.execScrubRead addr found s
  | .tickBoundary => Sys2Proof.Machine.execTickBoundary s
  | .tickDeadline => Sys2Proof.Machine.execTickDeadline s
  | .waitCheckSecondSample => Sys2Proof.Machine.execWaitCheckSecondSample s
  | .tickRun solo => Sys2Proof.Machine.execTickRun solo s
  | .tickStop => Sys2Proof.Machine.execTickStop s
  | .syncTimer master => Sys2Proof.Machine.execSyncTimer master s
  | .timeLockTimeout => Sys2Proof.Machine.execTimeLockTimeout s
  | .timeHoldEnd => Sys2Proof.Machine.execTimeHoldEnd s
  | .swapRequest => Sys2Proof.Machine.execSwapRequest s
  | .swapIdleApply => Sys2Proof.Machine.execSwapIdleApply s
  | .modReset => Sys2Proof.Machine.execModReset s
  | .modCtrlDpReset => Sys2Proof.Machine.execModCtrlDpReset s
  | .moduleResetEnd => Sys2Proof.Machine.execModuleResetEnd s
  | .modFenceWrite v => Sys2Proof.Machine.execModFenceWrite v s
  | .rngSeedWrite g v => Sys2Proof.Machine.execRngSeedWrite g v s
  | .rngPosWrite g dru hi v => Sys2Proof.Machine.execRngPosWrite g dru hi v s
  | .nfCaptureClear g complete => Sys2Proof.Machine.execNfCaptureClear g complete s
  | .tempMaxWrite n => Sys2Proof.Machine.execTempMaxWrite n s
  | .spareNextWrite n pc => Sys2Proof.Machine.execSpareNextWrite n pc s
  | .regWrite req off val width => Sys2Proof.Machine.execRegWrite req off val width s
  | .regLowerHalfWrite req off lo => Sys2Proof.Machine.execRegLowerHalfWrite req off lo s
  | .halfWriteTimeout req => Sys2Proof.Machine.execHalfWriteTimeout req s
  | .regLowerHalfRead req off width => Sys2Proof.Machine.execRegLowerHalfRead req off width s
  | .sqTailDoorbell ring val => Sys2Proof.Machine.execSqTailDoorbell ring val s
  | .cqHeadDoorbell ring val => Sys2Proof.Machine.execCqHeadDoorbell ring val s
  | .ringEnable ring => Sys2Proof.Machine.execRingEnable ring s
  | .ringDisable ring => Sys2Proof.Machine.execRingDisable ring s
  | .descriptorFetch ring readFails => Sys2Proof.Machine.execDescriptorFetch ring readFails s
  | .msixCoalesceTimer ring => Sys2Proof.Machine.execMsixCoalesceTimer ring s
  | .bar4WinWrite v => Sys2Proof.Machine.execBar4WinWrite v s
  | .bar4Access off write len data => Sys2Proof.Machine.execBar4Access off write len data s
  | .cxlMemAccess off write len data => Sys2Proof.Machine.execCxlMemAccess off write len data s
  | .loadImage ring idx sigOk fails => Sys2Proof.Machine.execLoadImage ring idx sigOk fails s
  | .loadImageDeferredApply => Sys2Proof.Machine.execLoadImageDeferredApply s
  | .runStep ring idx => Sys2Proof.Machine.execRunStep ring idx s
  | .dma ring idx ack cause data poison => Sys2Proof.Machine.execDma ring idx ack cause data poison s
  | .configWrite ring idx fails => Sys2Proof.Machine.execConfigWrite ring idx fails s
  | .swap ring idx => Sys2Proof.Machine.execSwap ring idx s
  | .ingestSubmit ring idx => Sys2Proof.Machine.execIngestSubmit ring idx s
  | .checkpoint ring idx => Sys2Proof.Machine.execCheckpoint ring idx s
  | .restore ring idx => Sys2Proof.Machine.execRestore ring idx s
  | .replay ring idx => Sys2Proof.Machine.execReplay ring idx s
  | .query ring idx => Sys2Proof.Machine.execQuery ring idx s
  | .fence ring idx => Sys2Proof.Machine.execFence ring idx s
  | .dpReset ring idx => Sys2Proof.Machine.execDpReset ring idx s
  | .cutSettle => Sys2Proof.Machine.execCutSettle s
  | .freezeHost => Sys2Proof.Machine.execFreezeHost s
  | .freezeRelease => Sys2Proof.Machine.execFreezeRelease s
  | .freezeInAssert => Sys2Proof.Machine.execFreezeInAssert s
  | .freezeTimeReached => Sys2Proof.Machine.execFreezeTimeReached s
  | .profClear => Sys2Proof.Machine.execProfClear s
  | .traceRecordWrite => Sys2Proof.Machine.execTraceRecordWrite s
  | .laserUnitPlugged n p l => Sys2Proof.Machine.execLaserUnitPlugged n p l s
  | .laserRelease n => Sys2Proof.Machine.execLaserRelease n s
  | .linkTestStart k far ms => Sys2Proof.Machine.execLinkTestStart k far ms s
  | .linkTestDone symbols uncorr carr => Sys2Proof.Machine.execLinkTestDone symbols uncorr carr s
  | .coreTestStart g array march => Sys2Proof.Machine.execCoreTestStart g array march s
  | .coreTestDone g o => Sys2Proof.Machine.execCoreTestDone g o s
  | .engineTestStart e => Sys2Proof.Machine.execEngineTestStart e s
  | .engineTestDone fail => Sys2Proof.Machine.execEngineTestDone fail s
  | .redTxAccept g c => Sys2Proof.Machine.execRedTxAccept g c s
  | .bucketCopy n g => Sys2Proof.Machine.execBucketCopy n g s
  | .blockReduceStart n g => Sys2Proof.Machine.execBlockReduceStart n g s
  | .hopAddition n g mism => Sys2Proof.Machine.execHopAddition n g mism s
  | .data k f fixed uncorr crcOk => Sys2Proof.Machine.execData k f fixed uncorr crcOk s
  | .ack k seq cr => Sys2Proof.Machine.execAck k seq cr s
  | .nak k seq cr => Sys2Proof.Machine.execNak k seq cr s
  | .credit k cls n => Sys2Proof.Machine.execCredit k cls n s
  | .ident k f sigOk cr => Sys2Proof.Machine.execIdent k f sigOk cr s
  | .lcert k serial ok cr => Sys2Proof.Machine.execLcert k serial ok cr s
  | .assign k f cr => Sys2Proof.Machine.execAssign k f cr s
  | .topo k serials cr => Sys2Proof.Machine.execTopo k serials cr s
  | .sync k f cr => Sys2Proof.Machine.execSync k f cr s
  | .stretch k tick sv src via cr => Sys2Proof.Machine.execStretch k tick sv src via cr s
  | .freeze k src via cr => Sys2Proof.Machine.execFreeze k src via cr s
  | .goodbye k cr => Sys2Proof.Machine.execGoodbye k cr s
  | .dpreset k cr => Sys2Proof.Machine.execDpreset k cr s
  | .idle k cr => Sys2Proof.Machine.execIdle k cr s
  | .probe k payload cr => Sys2Proof.Machine.execProbe k payload cr s
  | .identTimer => Sys2Proof.Machine.execIdentTimer s
  | .dpresetTimer => Sys2Proof.Machine.execDpresetTimer s
  | .discStart v => Sys2Proof.Machine.execDiscStart v s
  | .discHoldTimer => Sys2Proof.Machine.execDiscHoldTimer s
  | .discCheck => Sys2Proof.Machine.execDiscCheck s
  | .carrierDegraded k carrier => Sys2Proof.Machine.execCarrierDegraded k carrier s
  | .linkFail k => Sys2Proof.Machine.execLinkFail k s
  | .lossOfLight d => Sys2Proof.Machine.execLossOfLight d s
  | .linkTrained k net red mem ing => Sys2Proof.Machine.execLinkTrained k net red mem ing s
  | .peerLightReturn d => Sys2Proof.Machine.execPeerLightReturn d s
  | .laserUnitLoss n power => Sys2Proof.Machine.execLaserUnitLoss n power s
  | .lightAppears p0 p1 l0 l1 => Sys2Proof.Machine.execLightAppears p0 p1 l0 l1 s
  | .peerDpResetEnd k => Sys2Proof.Machine.execPeerDpResetEnd k s
  | .ingAbort => Sys2Proof.Machine.execIngAbort s
  | .jobStart => Sys2Proof.Machine.execJobStart s
  | .fetchReadDone j data ecn => Sys2Proof.Machine.execFetchReadDone j data ecn s
  | .rdmaAckTimeout j => Sys2Proof.Machine.execRdmaAckTimeout j s
  | .roceNakReceived j => Sys2Proof.Machine.execRoceNakReceived j s
  | .roceCnpReceived qp => Sys2Proof.Machine.execRoceCnpReceived qp s
  | .pfcPauseReceived port pause => Sys2Proof.Machine.execPfcPauseReceived port pause s
  | .itemDecodeStart e => Sys2Proof.Machine.execItemDecodeStart e s
  | .itemDecodeDone e => Sys2Proof.Machine.execItemDecodeDone e s
  | .shuffleItemSend granted => Sys2Proof.Machine.execShuffleItemSend granted s
  | .microbatchPack => Sys2Proof.Machine.execMicrobatchPack s
  | .ringWrite => Sys2Proof.Machine.execRingWrite s
  | .mcastEntrySend n => Sys2Proof.Machine.execMcastEntrySend n s
  | .mcastDetach g c => Sys2Proof.Machine.execMcastDetach g c s
  | .detachedFeed g c => Sys2Proof.Machine.execDetachedFeed g c s
  | .sliceGrant sigOk => Sys2Proof.Machine.execSliceGrant sigOk s
  | .policy sigOk => Sys2Proof.Machine.execPolicy sigOk s
  | .key sigOk => Sys2Proof.Machine.execKey sigOk s
  | .fieldFuse => Sys2Proof.Machine.execFieldFuse s
  | .svnCommit => Sys2Proof.Machine.execSvnCommit s
  | .activate => Sys2Proof.Machine.execActivate s
  | .secWdogKick => Sys2Proof.Machine.execSecWdogKick s
  | .watchdogExpiry hashOk loadA loadB => Sys2Proof.Machine.execWatchdogExpiry hashOk loadA loadB s
  | .cordwoodRestartComplete => Sys2Proof.Machine.execCordwoodRestartComplete s
  | .getVersion => Sys2Proof.Machine.execGetVersion s
  | .getCapabilities => Sys2Proof.Machine.execGetCapabilities s
  | .negotiateAlgorithms offered => Sys2Proof.Machine.execNegotiateAlgorithms offered s
  | .getDigests => Sys2Proof.Machine.execGetDigests s
  | .getCertificate slot => Sys2Proof.Machine.execGetCertificate slot s
  | .challenge slot => Sys2Proof.Machine.execChallenge slot s
  | .getMeasurements index => Sys2Proof.Machine.execGetMeasurements index s
  | .pldmFirmwareUpdate cordwood img whole => Sys2Proof.Machine.execPldmFirmwareUpdate cordwood img whole s
  | .activateFirmware cordwood => Sys2Proof.Machine.execActivateFirmware cordwood s
  | .mctpSmbusMessage ty payload => Sys2Proof.Machine.execMctpSmbusMessage ty payload s
  | .consoleInput bytes rewrite => Sys2Proof.Machine.execConsoleInput bytes rewrite s
  | .jtagBoundaryScan ins cells => Sys2Proof.Machine.execJtagBoundaryScan ins cells s
  | .jtagLeaveScan => Sys2Proof.Machine.execJtagLeaveScan s
  | .aux12OutOfLimits => Sys2Proof.Machine.execAux12OutOfLimits s
  | .aux12InLimits addr mv => Sys2Proof.Machine.execAux12InLimits addr mv s
  | .kindlingBootDone => Sys2Proof.Machine.execKindlingBootDone s
  | .pwrEnRise => Sys2Proof.Machine.execPwrEnRise s
  | .pwrEnFall => Sys2Proof.Machine.execPwrEnFall s
  | .pwrGoodRise => Sys2Proof.Machine.execPwrGoodRise s
  | .bringupStageEnd us o => Sys2Proof.Machine.execBringupStageEnd us o s
  | .bringupStageTimeout => Sys2Proof.Machine.execBringupStageTimeout s
  | .perstAssert => Sys2Proof.Machine.execPerstAssert s
  | .perstDeassert cxl => Sys2Proof.Machine.execPerstDeassert cxl s
  | .warnTrip mv => Sys2Proof.Machine.execWarnTrip mv s
  | .warnClear low => Sys2Proof.Machine.execWarnClear low s
  | .dipEnd => Sys2Proof.Machine.execDipEnd s
  | .resetTrip mv => Sys2Proof.Machine.execResetTrip mv s
  | .powerFailRestart => Sys2Proof.Machine.execPowerFailRestart s
  | .phaseFail rail phase => Sys2Proof.Machine.execPhaseFail rail phase s
  | .railOutOfRegulation rail => Sys2Proof.Machine.execRailOutOfRegulation rail s
  | .droop d => Sys2Proof.Machine.execDroop d s
  | .droopEnd d => Sys2Proof.Machine.execDroopEnd d s
  | .refclkLost => Sys2Proof.Machine.execRefclkLost s
  | .refclkReturn => Sys2Proof.Machine.execRefclkReturn s
  | .throttleOn n temp => Sys2Proof.Machine.execThrottleOn n temp s
  | .throttleOff temps => Sys2Proof.Machine.execThrottleOff temps s
  | .thermalTrip n temp => Sys2Proof.Machine.execThermalTrip n temp s
  | .hostLinkTrained gen width => Sys2Proof.Machine.execHostLinkTrained gen width s
  | .hostLinkDown => Sys2Proof.Machine.execHostLinkDown s
  | .hdmDecoderCommit => Sys2Proof.Machine.execHdmDecoderCommit s

end Sys2Proof.Machine
end

