-- ==== Sys2Proof/Machine/Step.lean ====
section
/-! DEFINITION. One step: the command at the front of the queue, or 1 ns with nothing commanded (log entry 20). -/
namespace Sys2Proof.Machine

/-- The step takes the front command and runs it with the queue's rest; with none waiting the block idles. -/
def step (s : State) : Host.Outcome State Fault Refusal :=
  match s.pending with
  | [] => .next (s.lift Mach.idle)
  | c :: rest => exec c { s with pending := rest }

/-- The state with the command that a word spells at the front of its queue: the state itself, where it spells none. -/
def State.withFetchWord (s : State) (nbits w : Nat) : State :=
  match decodeTableWord nbits w with
  | some c => { s with pending := c :: s.pending }
  | none => s

end Sys2Proof.Machine
end

