-- ==== Sys2Proof/Machine/Side.lean ====
section
/-! DEFINITION. What the module drives on its sideband pins (Table PHY-3), and what its TAP shows (R540, R541). -/
namespace Sys2Proof.Machine

/-- The output positions of row G whose driver only pulls low. -/
def openDrain (g : Nat) : Bool := [2, 6, 7, 8, 11, 12].contains g
def pinOutput (g : Nat) : Bool := openDrain g || [5, 10, 19, 21].contains g

/-- An open-drain pin: driven low, or released. -/
def pulledLow (low : Bool) : Option Bool := if low then some false else none

/-- What the module drives at position G`g`: a level, or nothing (high impedance). Without AUX12 it drives nothing but PRESENT_N, which is joined to
ground (R524, R525). EXTEST and CLAMP drive the cells of the boundary-scan register, HIGHZ nothing (R541). SMBus, TDO and UART_TX idle. -/
def Mach.pinOut (m : Mach) (g : Nat) : Option Bool :=
  let cell := bitsAt m.pins.cells (g - 1) 1 == 1
  if g = 25 then some false
  else if !m.aux.inLimits || m.pins.scan == 3 then none
  else if m.pins.scan ≠ 0 then (if openDrain g then pulledLow (!cell) else if pinOutput g then some cell else none)
  else match g with
    | 2 => pulledLow m.pins.clkreq
    | 5 => some (m.on .MOD_STATUS_PWR_GOOD 0)
    | 6 => pulledLow (!m.ready)
    | 7 => pulledLow m.alert
    | 8 => pulledLow m.pins.thermTrip
    | 10 => some (m.on .MOD_STATUS_PWR_GOOD 0 && m.frozen)
    | 21 => some true
    | _ => none

/-- R540: IDCODE: version, part, manufacturer, 1. -/
def idcode : BitVec 32 := (0x2 : BitVec 4) ++ (0x0832 : BitVec 16) ++ (0x535 : BitVec 11) ++ (1 : BitVec 1)

/-- The data register that the TAP selects, its length and contents: IDCODE where no boundary-scan instruction holds the pins, the boundary-scan
register under EXTEST, and BYPASS under CLAMP and HIGHZ (IEEE 1149.1). -/
def Mach.tapRegister (m : Mach) : Nat × Nat :=
  if m.pins.scan = 0 then (32, idcode.toNat) else if m.pins.scan = 1 then (25, m.pins.cells) else (1, 0)

end Sys2Proof.Machine
end

