-- ==== Sys2Proof/Safety.lean ====
section
/-! DEFINITION. What the statements call a safe step and a command's effect, and the invariant of the block. -/
namespace Sys2Proof.Machine

/-- The command answers a next state that leaves the queue and the fuses as they were and the module as `P` says. -/
def Does (c : Instr) (s : State) (P : Mach → Prop) : Prop :=
  ∃ t, exec c s = .next t ∧ t.pending = s.pending ∧ t.fuses = s.fuses ∧ P t.m

/-- The command changes nothing: the attempt of an event whose conditions do not hold. -/
def Waits (c : Instr) (s : State) : Prop := exec c s = .next s

/-- No waiting command holds a reserved encoding, and the fused rollback counters stand within their 64 steps (R435). -/
def State.Inv (s : State) : Prop := (∀ c ∈ s.pending, c.wf = true) ∧ s.fuses.kindling ≤ 64 ∧ s.fuses.cordwood ≤ 64

/-- The fused rollback counters of `b` are not below those of `a`. -/
def Fuses.le (a b : Fuses) : Prop := a.kindling ≤ b.kindling ∧ a.cordwood ≤ b.cordwood

/-- R177: the place of a thread after an instruction of `w` words: ICOUNT one more, the pc past the words; every other context
of the module is as it was, every core too, and no register has changed but the issue counters, the profile counters and
TICK_STATE.HELD (which a cut sets). -/
def Mach.Issued (m m' : Mach) (k : Nat) : Prop :=
  (m'.ctx k).icount = ((m.ctx k).icount + 1) % 2 ^ 48 ∧ (∀ j, j ≠ k → m'.ctx j = m.ctx j) ∧
  (∀ f i, f ≠ .SEQ_ISSUED → f ≠ .PROF_CNT → f ≠ .TICK_STATE_HELD → m'.rd f i = m.rd f i) ∧
  (∀ a, m'.byteAt a = m.byteAt a) ∧ (∀ a, m'.isPoison a = m.isPoison a)

/-- The register of this first field has no row of its own: a write of it acts through its fields' access codes alone. -/
def Fld.rowless : Fld → Bool
  | .MOD_CTRL_RESET | .TICK_CTRL_RUN | .CFG_SWAP_CTRL_REQ | .MOD_FENCE | .VEC_RNG_SEED | .VEC_RNG_POS_VEC_LO_POS | .VEC_RNG_POS_VEC_HI_POS
  | .VEC_RNG_POS_DRU_LO_POS | .VEC_RNG_POS_DRU_HI_POS | .ACC_NF_CAPTURE_VALID | .PWR_TEMP_TEMP | .MEM_STK_STATUS_SPARED_PC
  | .HIF_RING_CFG_ENABLE | .HIF_BAR4_WIN_BASE | .HIF_EVT_VECTOR | .MSIX_DATA | .DBG_FREEZE_CTRL_SRC_EN | .DBG_PROF_CTRL_RUN
  | .ING_CTRL_ABORT | .FAB_DISC_CTRL_START | .FAB_LASER_CTRL_RELEASE_0 | .FAB_LINK_TEST_LINK | .CORE_TEST_CTRL_START
  | .ING_ENG_TEST_ENGINE | .SEC_MBOX_CMD_ADDR | .SEC_WDOG_KICK | .EPI_ENTRY_LO_ACT | .EPI_ENTRY_HI_SCALE => false
  | _ => true

/-- R13, R15: `m'` holds what a write of `v` to instance `i` of register `r` leaves. A RW field takes a value that is no reserved
encoding, unless it is locked; an RWS field takes it in its shadow copy; a W1C field loses the bits written as 1; an RO, WO or W1S
field keeps its value. -/
def Mach.Wrote (m : Mach) (req : Nat) (r : RegSpec) (i v : Nat) (m' : Mach) : Prop :=
  ∀ fk ∈ r.parts,
    let f := fk.1
    let j := f.inst i fk.2
    let x := f.valOf fk.2 v
    let old := m.rd f.fld j
    (f.acc = .rw → m'.rd f.fld j = if f.fld.encOk j x && !m.locked req f.fld j then x % 2 ^ f.fld.width else old) ∧
    (f.acc = .rws → m'.rdS f.fld j = (if f.fld.encOk j x then x % 2 ^ f.fld.width else m.rdS f.fld j) ∧ m'.rd f.fld j = old) ∧
    (f.acc = .w1c → m'.rd f.fld j = (old - (old &&& x)) % 2 ^ f.fld.width) ∧
    (f.acc = .ro ∨ f.acc = .wo ∨ f.acc = .w1s → m'.rd f.fld j = old)

/-- Every field that is not of instance `i` of register `r` is as it was. -/
def Mach.OthersKept (m : Mach) (r : RegSpec) (i : Nat) (m' : Mach) : Prop :=
  ∀ f j, (∀ fk ∈ r.parts, ¬(fk.1.fld = f ∧ fk.1.inst i fk.2 = j)) → m'.rd f j = m.rd f j ∧ m'.rdS f j = m.rdS f j

/-- The descriptor of the row's type at an index of a ring has been fetched and its turn to start has come (R403); it is well formed
(R16), and the module is ready where its type asks for that (R442). -/
def Mach.Begins (m : Mach) (r : BitVec 8) (i : BitVec 16) (ty : Nat) (d : Desc) : Prop :=
  m.findDesc r.toNat i.toNat ty = some d ∧ m.hifUp = true ∧ d.busy = false ∧ m.mayStart d = true ∧ d.bad = false ∧
    (m.ready = true ∨ ty = 10)

/-- R404, R405: from `m` to `m'` descriptor `d` has left those in progress, its completion entry with this status, detail and info stands
at the completion tail, and the tail has gone on by one. -/
def Mach.Ended (m m' : Mach) (d : Desc) (status detail info : Nat) : Prop :=
  m'.hif.descs = m.hif.descs.filter (fun e => e.seq != d.seq) ∧
  m'.hostRead (m.rd .HIF_RING_CQ_BASE d.ring * 4096 + 16 * m.rd .HIF_RING_STATUS_CQ_TAIL d.ring) 16
    = complBytes d status detail info (m.rd .HIF_RING_STATUS_PHASE d.ring) ∧
  m'.rd .HIF_RING_STATUS_CQ_TAIL d.ring = (m.rd .HIF_RING_STATUS_CQ_TAIL d.ring + 1) % m.ringLen d.ring % 2 ^ 16

end Sys2Proof.Machine
end

