-- ==== Sys2Proof/Certificates/Slice0/Obligations.lean ====
section
/-! DEFINITION. The statements about the block, each from the rules its docstring names. -/
open Sys2Proof Sys2Proof.Machine

/-- R14, R33: the machine after cold reset. No command waits; no field fuse is blown; every register field whose table gives a reset
value holds it, among them the defaults named here; memory lists nothing, so the core stores, the staging and the stacks read zero
(Table BOOT-5 for the module's own; log entry 5, the model's choice, for what no rule clears). -/
def Obligations.ResetLeaves : Prop :=
  State.reset.pending = [] ∧ State.reset.fuses = ⟨[], 0, 0⟩ ∧ State.reset.m.mem = [] ∧
  (∀ f i, State.reset.m.rd f i = f.resetVal i) ∧ (∀ a, State.reset.m.byteAt a = 0) ∧
  State.reset.m.rd .TICK_PERIOD_PERIOD_NS 0 = 2500000 ∧ State.reset.m.rd .TICK_PERIOD_LEAD_NS 0 = 10000 ∧
  State.reset.m.rd .MOD_STATUS_PMODE_EFF 0 = 2 ∧ State.reset.m.rd .MOD_STATUS_READY 0 = 0 ∧
  (∀ q, q < 2048 → State.reset.m.rd .QCFG_DEPTH q = 4) ∧ (∀ n, State.reset.m.rd .FLAG n = 0) ∧
  (∀ r, State.reset.m.rd .HIF_RING_STATUS_QUIESCED r = 1)

/-- The block takes its commands first in, first out: a step with `c` at the front of the queue is `exec` of `c` on the state with the
queue's rest; with no command waiting 1 ns passes (log entry 20, the model's choice). -/
def Obligations.StepRunsFrontCommand : Prop :=
  (∀ (c : Instr) (rest : List Instr) (s : State), step { s with pending := c :: rest } = exec c { s with pending := rest }) ∧
  (∀ s : State, s.pending = [] → step s = .next (s.lift Mach.idle))

/-- R16, R175: an instruction that holds a reserved encoding is never run: Zheber rejects the image that holds it, so the block stops on
it by name. -/
def Obligations.ReservedEncodingStops : Prop :=
  ∀ (i : Instr) (s : State), i.wf = false → ∃ mn, exec i s = .refused (.reservedEncoding mn)

/-- The invariant of the block holds at reset. -/
def Obligations.ResetHasInv : Prop :=
  State.reset.Inv

/-- Every command that holds no reserved encoding completes in every state: the block neither faults nor refuses. A step keeps the
invariant, and the fused rollback counters never fall (R435). -/
def Obligations.StepKeepsInv : Prop :=
  ∀ s : State, s.Inv → ∃ t, step s = .next t ∧ t.Inv ∧ s.fuses.le t.fuses ∧ t.pending = s.pending.tail

/-- R174, R177, R181, R183: NOP and YIELD, LOOP and ENDL of a thread that can issue. R171, R185: PHASE goes on at the next word where
the current phase is in its set and the phase tick index lies in the window of the thread's sequencer as SEL asks, and at its target
otherwise; an empty set and SEL 3 are reserved. COMPLETES: NOP, YIELD, LOOP, ENDL, PHASE. -/
def Obligations.LoopsAndPhases : Prop :=
  (∀ (t : ThreadId) (n : BitVec 16) (s : State), s.m.canIssue (threadNum t) = true →
      let c := s.m.ctx (threadNum t);
      let same := fun (i : Instr) (pc : Nat) (ls : List LoopLvl) => Does i s fun m => s.m.Issued m (threadNum t) ∧
        (∀ g, m.core g = (s.m.lineUsed (threadNum t)).core g) ∧ (m.ctx (threadNum t)).pc = pc ∧ (m.ctx (threadNum t)).loops = ls ∧
        (m.ctx (threadNum t)).running = true ∧ (m.ctx (threadNum t)).defer = c.defer;
      same (.nop t) (c.pc + 1) c.loops ∧ same (.yield t) (c.pc + 1) c.loops ∧
      same (.loop t n) (c.pc + 1) (⟨c.pc + 1, n.toNat, 0⟩ :: c.loops) ∧
      (∀ l rest, c.loops = l :: rest → l.count = 0 ∨ l.iter + 1 < l.count →
        same (.endl t) l.start ({ l with iter := l.iter + 1 } :: rest)) ∧
      (∀ l rest, c.loops = l :: rest → l.count ≠ 0 → l.count ≤ l.iter + 1 → same (.endl t) (c.pc + 1) rest) ∧
      (c.loops = [] → same (.endl t) (c.pc + 1) [])) ∧
  (∀ (t : ThreadId) (pset : BitVec 3) (sel : BitVec 2) (target : BitVec 20) (s : State),
      (pset = 0 ∨ sel = 3 → ∃ mn, exec (.phase t pset sel target) s = .refused (.reservedEncoding mn)) ∧
      (s.m.canIssue (threadNum t) = true → pset ≠ 0 → sel ≠ 3 →
        let k := threadNum t;
        let p := s.m.rd .TICK_STATE_PHASE 0;
        let i := s.m.phaseIndex;
        let passes := fun (w : Nat × Nat) => p ≠ 0 ∧ bitsAt pset.toNat (p - 1) 1 = 1 ∧ w.1 ≤ i ∧ i < w.1 + w.2 ∧
          (sel = 1 → i = w.1) ∧ (sel = 2 → i + 1 = w.1 + w.2);
        Does (.phase t pset sel target) s fun m => s.m.Issued m k ∧ (∀ g, m.core g = (s.m.lineUsed k).core g) ∧
          (m.ctx k).loops = (s.m.ctx k).loops ∧
          (∀ q, s.m.thrSeq k = some q → passes (s.m.window (thrDie k * 8 + q) p) → (m.ctx k).pc = (s.m.ctx k).pc + 1) ∧
          (∀ q, s.m.thrSeq k = some q → ¬passes (s.m.window (thrDie k * 8 + q) p) → (m.ctx k).pc = target.toNat) ∧
          (s.m.thrSeq k = none → (m.ctx k).pc = target.toNat)))

/-- R159, R167, R183, R184, R213: CTXJOIN, HALT, TICKW and DWAIT issue and wait: the context waits from now on for what the instruction
names, its pc past the instruction. R167, R180: FWAIT issues, and its context waits exactly while the flag's count is below the
threshold. COMPLETES: CTXJOIN, HALT, TICKW, DWAIT, FWAIT. -/
def Obligations.WaitingInstructions : Prop :=
  (∀ (t : ThreadId) (ctx : BitVec 3) (mask : BitVec 16) (s : State), s.m.canIssue (threadNum t) = true →
      let c := s.m.ctx (threadNum t);
      let waits := fun (i : Instr) (w : Wait) => Does i s fun m => s.m.Issued m (threadNum t) ∧ (∀ g, m.core g = (s.m.lineUsed (threadNum t)).core g) ∧
        m.ctx (threadNum t) = { c with icount := (c.icount + 1) % 2 ^ 48, pc := c.pc + 1, wait := w, since := s.m.time };
      waits (.ctxjoin t ctx) (.join ctx.toNat) ∧ waits (.halt t) .halt ∧ waits (.tickw t) .tick ∧
      (mask ≠ 0 → waits (.dwait t mask) (.dma mask.toNat ((c.icount + 1) % 2 ^ 48)))) ∧
  (∀ (t : ThreadId) (g : BitVec 1) (flag : BitVec 8) (thresh : BitVec 16) (s : State),
      s.m.canIssue (threadNum t) = true → (g = 0 ∨ flag.toNat < 64) →
      let k := threadNum t;
      Does (.fwait t g flag thresh) s fun m =>
        ((m.ctx k).wait = .flag (g == 1) flag.toNat thresh.toNat ↔ s.m.flag (thrDie k) (g == 1) flag.toNat < thresh.toNat) ∧
        (m.ctx k).icount = ((s.m.ctx k).icount + 1) % 2 ^ 48 ∧ (m.ctx k).pc = (s.m.ctx k).pc + 1 ∧
        (∀ d g' n, m.flag d g' n = s.m.flag d g' n) ∧ (∀ g, m.core g = (s.m.lineUsed k).core g) ∧ (∀ a, m.byteAt a = s.m.byteAt a))

/-- R158, R183: CTXSTART starts a context that does not run at the word of its target, with no loop level and no pending flag operation,
its ICOUNT going on (R177); where that context runs already it sets START_BUSY of every member core and starts nothing. COMPLETES:
CTXSTART. -/
def Obligations.CtxStart : Prop :=
  ∀ (t : ThreadId) (ctx : BitVec 3) (target : BitVec 20) (s : State), s.m.canIssue (threadNum t) = true →
    let k := threadNum t
    let j := k - thrCtx k + ctx.toNat
    (j ≠ k → s.m.ctxLive j = false → Does (.ctxstart t ctx target) s fun m =>
      m.ctx j = { s.m.ctx j with running := true, wait := .none, since := s.m.time, pc := target.toNat, loops := [], defer := [] } ∧
      (m.ctx k).icount = ((s.m.ctx k).icount + 1) % 2 ^ 48 ∧ (m.ctx k).pc = (s.m.ctx k).pc + 1 ∧
      (∀ l, l ≠ k → l ≠ j → m.ctx l = s.m.ctx l) ∧ (∀ g, m.core g = (s.m.lineUsed k).core g) ∧ (∀ a, m.byteAt a = s.m.byteAt a)) ∧
    (j = k ∨ s.m.ctxLive j = true → Does (.ctxstart t ctx target) s fun m =>
      (∀ g ∈ s.m.members k, m.rd .CC_STATUS_START_BUSY g = 1) ∧
      (m.ctx k).icount = ((s.m.ctx k).icount + 1) % 2 ^ 48 ∧ (m.ctx k).pc = (s.m.ctx k).pc + 1 ∧
      (∀ l, l ≠ k → m.ctx l = s.m.ctx l) ∧ (∀ g, m.core g = (s.m.lineUsed k).core g))

/-- R186: MARK writes a cairn record (VALUE, ICOUNT, CLASS with the form, and the thread's place) to the buffer of its region, where
trace is on, cairn records are enabled, no counter record of the region waits, and the buffer has a place free and has dropped
nothing. COMPLETES: MARK. -/
def Obligations.MarkWritesCairn : Prop :=
  ∀ (t : ThreadId) (cls : BitVec 4) (value : BitVec 32) (s : State), s.m.canIssue (threadNum t) = true →
    let k := threadNum t
    let src := if thrForm k = 0 then srcDie (thrDie k) else thrDie k * 16 + thrUnit k
    s.m.tracing = true → s.m.typeOn 3 = true → (s.m.buf src).recs.length < 16 → (s.m.buf src).drops = 0 →
    (∀ x ∈ s.m.dbg.snapQ, x.src ≠ src) →
    Does (.mark t cls value) s fun m =>
      (m.ctx k).icount = ((s.m.ctx k).icount + 1) % 2 ^ 48 ∧ (m.ctx k).pc = (s.m.ctx k).pc + 1 ∧
      (m.buf src).recs = (s.m.buf src).recs ++ [⟨s.m.time, s.m.rd .TICK_NUMBER 0 % 2 ^ 48, src, (s.m.buf src).stretched,
        (s.m.buf src).gated, 3, leBytes 4 value.toNat ++ leBytes 6 (((s.m.ctx k).icount + 1) % 2 ^ 48)
          ++ leBytes 1 (cls.toNat + 16 * thrForm k) ++ leBytes 1 (thrDie k + 4 * thrCtx k) ++ leBytes 1 (thrUnit k)⟩] ∧
      (∀ g, m.core g = (s.m.lineUsed k).core g) ∧ (∀ a, m.byteAt a = s.m.byteAt a)

/-- R167, R168, R180: FSET, FADD and FCLR without an AFTER set take effect at issue. The flag of the thread's die, or the module flag,
takes the written, added or zero count, held in 0 to 65,535; the thread and its ICOUNT become its last setter; every other flag
keeps its count. COMPLETES: FSET, FADD, FCLR. -/
def Obligations.FlagAtIssue : Prop :=
  ∀ (t : ThreadId) (g : BitVec 1) (flag : BitVec 8) (v : BitVec 16) (s : State), s.m.canIssue (threadNum t) = true →
    (g = 0 ∨ flag.toNat < 64) →
    let k := threadNum t
    let d := thrDie k
    let old := s.m.flag d (g == 1) flag.toNat
    let leaves := fun (i : Instr) (n : Nat) => Does i s fun m => m.flag d (g == 1) flag.toNat = n ∧
      (∀ d' g' n', flagKey d' g' n' ≠ flagKey d (g == 1) flag.toNat → n' < 256 → (g' = true → n' < 64) →
        m.flag d' g' n' = s.m.flag d' g' n') ∧
      m.setters.get (fun _ => none) (flagKey d (g == 1) flag.toNat) = some ⟨k, ((s.m.ctx k).icount + 1) % 2 ^ 48⟩ ∧
      (m.ctx k).icount = ((s.m.ctx k).icount + 1) % 2 ^ 48 ∧ (m.ctx k).pc = (s.m.ctx k).pc + 1 ∧
      (∀ g, m.core g = (s.m.lineUsed k).core g) ∧ (∀ a, m.byteAt a = s.m.byteAt a)
    leaves (.fset t g flag 0 v) v.toNat ∧ leaves (.fadd t g flag 0 v) (clamp16 ((old : Int) + v.toInt)) ∧
    leaves (.fclr t g flag 0) 0

/-- R160, R169: a flag instruction with an AFTER set issues while fewer than four operations of its thread are pending, and leaves its
operation pending, the newest one; the flags keep their counts. A fifth one waits, and issues nothing. R169: the oldest pending flag
operation of a thread is applied once every earlier command of its AFTER classes has retired: it leaves the pending operations, and
its flag takes its count. COMPLETES: FSET, FADD, FCLR, DEFERRED_FLAG_APPLY. -/
def Obligations.FlagsDeferred : Prop :=
  (∀ (t : ThreadId) (g : BitVec 1) (flag : BitVec 8) (after : BitVec 6) (v : BitVec 16) (s : State),
      s.m.canIssue (threadNum t) = true → (g = 0 ∨ flag.toNat < 64) → after ≠ 0 →
      let k := threadNum t;
      let waits := fun (i : Instr) => Does i s fun m => m.ctx k = { s.m.ctx k with wait := .flagq, since := (m.ctx k).since } ∧
        (∀ j, j ≠ k → m.ctx j = s.m.ctx j) ∧ ∀ g, m.core g = s.m.core g;
      let pends := fun (i : Instr) (fn : FlagFn) => Does i s fun m => s.m.Issued m k ∧
        (m.ctx k).defer = (s.m.ctx k).defer ++ [⟨g == 1, flag.toNat, fn, after.toNat, ((s.m.ctx k).icount + 1) % 2 ^ 48⟩] ∧
        (m.ctx k).pc = (s.m.ctx k).pc + 1 ∧ ∀ g, m.core g = (s.m.lineUsed k).core g;
      ((s.m.ctx k).defer.length < 4 → pends (.fset t g flag after v) (.set v.toNat) ∧ pends (.fadd t g flag after v) (.add v.toInt) ∧
        pends (.fclr t g flag after) .clr) ∧
      (4 ≤ (s.m.ctx k).defer.length → waits (.fset t g flag after v) ∧ waits (.fadd t g flag after v) ∧ waits (.fclr t g flag after))) ∧
  (∀ (t : ThreadId) (o : DefOp) (rest : List DefOp) (s : State), (s.m.ctx (threadNum t)).defer = o :: rest →
      s.m.mainUp = true → s.m.frozen = false → s.m.afterMet (threadNum t) o = true →
      Does (.deferredFlagApply t) s fun m => (m.ctx (threadNum t)).defer = rest ∧
        m.flag (thrDie (threadNum t)) o.g o.flag = clamp16 (o.fn.apply (s.m.flag (thrDie (threadNum t)) o.g o.flag)) ∧
        (∀ g, m.core g = s.m.core g) ∧ (∀ a, m.byteAt a = s.m.byteAt a))

/-- R161, R164, R165, R177, R200: an engine command of a thread that can issue goes, in its cycle of issue, to the tail of its engine's
queue in every core the thread drives, once each of them has a place free: 16 places, 512 for DMA. The command carries the thread,
its ICOUNT and the tile computed at issue; the pc moves past the instruction's words; no other core changes. R160, R164: an engine
command of a thread for which some member core has no place free issues nowhere: the thread's pc and ICOUNT, every other context and
every core stand as they were. A full DMA queue makes the context wait, and a full queue of another engine stops its whole unit.
COMPLETES: SDEF, SRUN, LDV, LDS, STV, QMOV, QDUP, OPU, OPUS, TLOAD, TDRAIN, TDRAING, EPI, VADD, VSUB, VMUL, VFMA, VMAX, VMIN, VCMP,
VSEL, VCVT, VEXP, VLOG, VRSQ, VRCP, VRED, VSHUF, VBCAST, VAMAX, VRNG, VADAMW, VLION, VSGDM, NSEND, NRECV, NMCAST, RRED, RGATH,
DCOPY, DPREF, IPULL. -/
def Obligations.EngineCommandIssues : Prop :=
  (∀ (i : Instr) (t : ThreadId) (ws : List Word64) (s : State), threadOf i = some t → unitOf i ≠ 7 → i.wf = true →
      zviEncode i = some ws → s.m.canIssue (threadNum t) = true →
      (∀ g ∈ s.m.members (threadNum t), ((s.m.core g).engQ (unitOf i)).length < if unitOf i = 5 then 512 else 16) →
      let k := threadNum t;
      let tile := match i with
        | .opu _ _ _ tile tinc _ _ _ | .opus _ _ _ _ tile tinc _ _ _ | .tload _ _ tile tinc _ _ _ _ => s.m.tileAt k tile tinc
        | .tdrain _ f | .tdraing _ f => s.m.tileAt k f.tile f.tinc
        | _ => 0;
      Does i s fun m => s.m.Issued m k ∧ (m.ctx k).pc = (s.m.ctx k).pc + ws.length ∧
        (m.ctx k).loops = (s.m.ctx k).loops ∧
        ∀ g, m.core g = if g ∈ s.m.members k then
          ((s.m.lineUsed k).core g).setEngQ (unitOf i) ((s.m.core g).engQ (unitOf i) ++ [⟨i, k, ((s.m.ctx k).icount + 1) % 2 ^ 48, tile⟩])
          else (s.m.lineUsed k).core g) ∧
  (∀ (i : Instr) (t : ThreadId) (g : Nat) (s : State), threadOf i = some t → unitOf i ≠ 7 → i.wf = true →
      s.m.canIssue (threadNum t) = true → g ∈ s.m.members (threadNum t) →
      (if unitOf i = 5 then 512 else 16) ≤ ((s.m.core g).engQ (unitOf i)).length →
      let k := threadNum t;
      Does i s fun m => (∀ j, m.ctx j = if j = k ∧ unitOf i = 5 ∧ (s.m.ctx k).wait ≠ .dmaq then
          { s.m.ctx k with wait := .dmaq, since := s.m.time } else s.m.ctx j) ∧
        m.jam = (if unitOf i = 5 then s.m.jam else NMap.set nat0 s.m.jam (k / 8) (1 + thrCtx k)) ∧
        (∀ h, m.core h = s.m.core h) ∧ ∀ a, m.byteAt a = s.m.byteAt a)

/-- R174 to R215, Tables ZVI-1 to ZVI-9: the decoder reads back every ZVI instruction from the words that the encoding tables give it,
with every field at every value. -/
def Obligations.DecodeOfEncode : Prop :=
  ∀ (i : Instr) (t : ThreadId), threadOf i = some t → ∃ ws, zviEncode i = some ws ∧ zviDecode t ws = some i

/-- R174, R175: words that the decoder accepts are the words of the instruction it reads: no two word sequences spell one instruction,
and a reserved bit that is set is never accepted. -/
def Obligations.EncodeOfDecode : Prop :=
  ∀ (t : ThreadId) (ws : List Word64) (i : Instr), zviDecode t ws = some i →
    zviEncode i = some ws ∧ threadOf i = some t ∧ opcodeOf i ≠ none

/-- R166, R177: a per-core thread that runs and whose next word lies in no cached line of its core misses: the miss is counted, and the
line fills a place of its set of the 64 KiB, 4-way cache as the most recently used, in place of the least recently used of four.
Every other set of the cache, every other core and every context stand (that lines are counted in ZVI words is the model's, log
entry 21). COMPLETES: ICACHE_MISS_FILL. -/
def Obligations.IcacheMissFills : Prop :=
  ∀ (t : ThreadId) (s : State), t.form = 1 →
    let k := threadNum t
    let g := thrDie k * 16 + thrUnit k
    let ln := lineOf (s.m.ctx k).pc
    s.m.coreRuns g = true → (s.m.ctx k).running = true → (s.m.core g).cached ln = false →
    Does (.icacheMissFill t) s fun m => (m.core g).icacheWays ln = (ln :: (s.m.core g).icacheWays ln).take 4 ∧
      (∀ l, icacheSet l ≠ icacheSet ln → (m.core g).icacheWays l = (s.m.core g).icacheWays l) ∧
      m.core g = { s.m.core g with icache := (m.core g).icache } ∧
      m.rd .CC_ICACHE_MISS g = (s.m.rd .CC_ICACHE_MISS g + 1) % 2 ^ 48 ∧
      (∀ f i, ¬(f = .CC_ICACHE_MISS ∧ i = g) → m.rd f i = s.m.rd f i) ∧
      (∀ h, h ≠ g → m.core h = s.m.core h) ∧ (∀ j, m.ctx j = s.m.ctx j) ∧ (∀ a, m.byteAt a = s.m.byteAt a)

/-- R153, R155, R156: the stream engine takes the head of its queue. An SDEF writes its descriptor with position 0 once no running SRUN
uses it; an SRUN of a defined descriptor takes the lowest free generator, its n addresses of the pass and the step's tick index T,
and the descriptor's position moves on by n modulo the pass. R154 to R156: a generator of a defined descriptor pushes the next
address, with the descriptor's mode tag, once its address queue has a place free and no older SRUN feeds that queue; after its last
address it is free. COMPLETES: STREAM_GEN_START, STREAM_ADDRESS_PUSH. -/
def Obligations.StreamGenerators : Prop :=
  (∀ (g6 : BitVec 6) (cmd : Cmd) (rest : List Cmd) (s : State),
      let g := g6.toNat;
      s.m.unitRuns g .str = true → (s.m.core g).strQ = cmd :: rest →
      (∀ t d, cmd.ins = .sdef t d → ((slotVals (s.m.core g).gens).any (·.uses (descKey cmd.thr d.s.toNat))) = false →
        Does (.streamGenStart g6) s fun m => (m.core g).strQ = rest ∧
          (m.core g).descAt (descKey cmd.thr d.s.toNat) = ⟨d, 0, true⟩ ∧
          (∀ k, k ≠ descKey cmd.thr d.s.toNat → (m.core g).descAt k = (s.m.core g).descAt k) ∧
          (∀ i, (m.core g).gen i = (s.m.core g).gen i) ∧ (∀ h, h ≠ g → m.core h = s.m.core h) ∧
          (∀ f i, m.rd f i = s.m.rd f i) ∧ (∀ a, m.byteAt a = s.m.byteAt a)) ∧
      (∀ t sd a n i d, cmd.ins = .srun t sd a n → n ≠ 0 → (s.m.core g).descAt (descKey cmd.thr sd.toNat) = d →
        d.defined = true → ((List.range 8).find? fun i => ((s.m.core g).gen i).isNone) = some i →
        Does (.streamGenStart g6) s fun m => (m.core g).strQ = rest ∧
          (∃ o, (m.core g).gen i = some ⟨cmd, o, n.toNat, s.m.stepTick, d.pos⟩) ∧
          (∀ j, j ≠ i → (m.core g).gen j = (s.m.core g).gen j) ∧
          (m.core g).descAt (descKey cmd.thr sd.toNat) = { d with pos := (d.pos + n.toNat) % sdefTotal d.d } ∧
          (∀ h, h ≠ g → m.core h = s.m.core h) ∧ (∀ f i, m.rd f i = s.m.rd f i) ∧ (∀ a, m.byteAt a = s.m.byteAt a))) ∧
  (∀ (g6 : BitVec 6) (i : BitVec 3) (r : GenRun) (t : ThreadId) (sd : BitVec 4) (a : BitVec 6) (n : BitVec 25) (d : StreamDesc)
      (s : State),
      let g := g6.toNat;
      s.m.unitRuns g .str = true → (s.m.core g).gen i.toNat = some r → r.cmd.ins = .srun t sd a n → okA a = true →
      (s.m.core g).descAt (descKey r.cmd.thr sd.toNat) = d → d.defined = true → s.m.aqRoom g a.toNat = true →
      (∀ q ∈ slotVals (s.m.core g).gens, r.ord ≤ q.ord ∨ q.queue ≠ a.toNat) →
      Does (.streamAddressPush g6 i) s fun m =>
        (m.core g).adq (a.toNat - 24) = (s.m.core g).adq (a.toNat - 24) ++
          [⟨sdefAddr d.d (s.m.position r.cmd.thr g) r.t r.pos, d.d.mode⟩] ∧
        (m.core g).gen i.toNat = (if r.left ≤ 1 then none
          else some { r with left := r.left - 1, pos := (r.pos + 1) % sdefTotal d.d }) ∧
        (∀ j, j ≠ a.toNat - 24 → (m.core g).adq j = (s.m.core g).adq j) ∧ (∀ h, h ≠ g → m.core h = s.m.core h) ∧
        (∀ f i, f ≠ .PROF_CNT → m.rd f i = s.m.rd f i) ∧ (∀ a, m.byteAt a = s.m.byteAt a))

/-- R76, R80, R81, R188 to R193, R550: slot `sl` of the LSU, with its command taken and no older command still to pop its queues, starts
one line, entry or move. An LDV pops its line's address, and the companion's after it where it unpacks an MX block, and holds as
entries on their way the line read, or what it unpacks to (all p entries, or the one PART names); an LDS holds the scale entry; an
STV writes its entry to the line's bytes of the core store and to no other; QMOV and QDUP hold the entry popped once for each
destination, when the pushes of the entry before are done. R78, R193: the oldest entry on its way of an LSU slot is pushed once its
queue has a place free and no older command still has to push there; a QDUP pushes both of its entries or neither. The slot is free
after its command's last. COMPLETES: LSU_READ_START, LSU_ENTRY_PUSH. -/
def Obligations.LsuMoves : Prop :=
  (∀ (g6 : BitVec 6) (sl : BitVec 3) (r : LsuRun) (e : AddrEnt) (d : Ent) (s : State),
      let g := g6.toNat;
      let m0 := Lsu.take g sl.toNat s.m;
      let left (fl : List (Nat × Ent)) : Option LsuRun :=
        if lsuN r.cmd.ins ≤ r.started + 1 ∧ fl = [] then none else some { r with started := r.started + 1, flight := fl };
      s.m.unitRuns g .lsu = true → sl.toNat ≤ 4 → (m0.core g).lsuAt sl.toNat = some r → r.started < lsuN r.cmd.ins →
      (m0.core g).lsuPopBusy r = false → (lsuReads r.cmd.ins = true → (m0.core g).lsuPushBusy r = false) →
      (∀ t a q ca fmt pack part w32 n, r.cmd.ins = .ldv t a q ca fmt pack part w32 n → s.m.headA g a.toNat = some e →
        let un := unpacks pack.toNat e.tag;
        let mx := un && isMx fmt.toNat;
        let m1 := s.m.dropA g a.toNat;
        let comp := ((m1.headA g ca.toNat).elim 0 fun x => x.addr.toNat) % 2 ^ 24;
        let os := lineBytes e (w32 == 1);
        let sos := lineScales fmt.toNat comp (lineIdx e) (e.tag == 1);
        let line := slotOfBytes (s.m.csRead g os).1;
        let us := (unpackLine fmt.toNat line (if mx = true then some ((s.m.csRead g sos).1.map (·.toNat)) else none)).map (·.1);
        let es := if un = true then (if part = 0 then us else (us.drop (part.toNat - 1)).take 1) else [line];
        (mx = true → (m1.headA g ca.toNat).isSome = true ∧ (s.m.csRead g sos).2 = false) → (s.m.csRead g os).2 = false →
        s.m.qRoom g q.toNat ((m0.core g).lsuComing q.toNat + if un = true ∧ part = 0 then packP fmt.toNat else 1) = true →
        Does (.lsuReadStart g6 sl) s fun m => (m.core g).lsuAt sl.toNat = left (r.flight ++ es.map fun x => (q.toNat, ⟨x, false⟩)) ∧
          (∀ i, (m.core g).adq i = ((if mx = true then m1.dropA g ca.toNat else m1).core g).adq i) ∧
          (∀ q, (m.core g).dq q = (s.m.core g).dq q) ∧ (∀ h, h ≠ g → m.core h = s.m.core h) ∧ (∀ a, m.byteAt a = s.m.byteAt a)) ∧
      (∀ t aa ab q fmt pka pkb n oa ob, r.cmd.ins = .lds t aa ab q fmt pka pkb n →
        let m1 := if isAddrQ aa.toNat = true then s.m.dropA g aa.toNat else s.m;
        Lsu.scaleSide s.m g aa.toNat (if pka = 1 then 4 * packP fmt.toNat else 1) = some oa →
        Lsu.scaleSide m1 g ab.toNat (if pkb = 1 then 4 * packP fmt.toNat else 1) = some ob →
        s.m.qRoom g q.toNat ((m0.core g).lsuComing q.toNat + 1) = true →
        (s.m.csRead g oa).2 = false → (s.m.csRead g ob).2 = false →
        Does (.lsuReadStart g6 sl) s fun m =>
          let es := slot16 fun l => ((s.m.csRead g oa).1.getD l 0).toNat + 256 * ((s.m.csRead g ob).1.getD l 0).toNat;
          (m.core g).lsuAt sl.toNat = left (r.flight ++ [(q.toNat, ⟨es, false⟩)]) ∧
          (∀ i, (m.core g).adq i = ((if isAddrQ ab.toNat = true then m1.dropA g ab.toNat else m1).core g).adq i) ∧
          (∀ q, (m.core g).dq q = (s.m.core g).dq q) ∧ (∀ h, h ≠ g → m.core h = s.m.core h) ∧ (∀ a, m.byteAt a = s.m.byteAt a)) ∧
      (∀ t q a w32 n, r.cmd.ins = .stv t q a w32 n → s.m.headA g a.toNat = some e → s.m.headQ g q.toNat = some d → d.poison = false →
        Does (.lsuReadStart g6 sl) s fun m =>
          let os := lineBytes e (w32 == 1);
          (m.core g).lsuAt sl.toNat = left r.flight ∧
          (∀ i, (m.core g).adq i = ((s.m.dropA g a.toNat).core g).adq i) ∧
          (∀ q', (m.core g).dq q' = ((s.m.dropQ g q.toNat 1).core g).dq q') ∧
          m.mem = (s.m.csWrite g (os.zip (slotBytes d.bits os.length))).mem ∧
          (∀ k, k ∉ os.map (coreAddr g) → m.byteAt k = s.m.byteAt k) ∧
          (∀ h, h ≠ g → m.core h = s.m.core h) ∧ (∀ f i, m.rd f i = s.m.rd f i)) ∧
      (∀ t qs ds, ((∃ qd n, r.cmd.ins = .qmov t qs qd n ∧ ds = [qd.toNat]) ∨
          ∃ d1 d2 n, r.cmd.ins = .qdup t qs d1 d2 n ∧ ds = [d1.toNat, d2.toNat]) →
        r.flight = [] → s.m.headQ g qs.toNat = some d → d.poison = false →
        Does (.lsuReadStart g6 sl) s fun m => (m.core g).lsuAt sl.toNat = left (ds.map fun q => (q, d)) ∧
          (∀ i, (m.core g).adq i = (s.m.core g).adq i) ∧
          (∀ q', (m.core g).dq q' = ((s.m.dropQ g qs.toNat 1).core g).dq q') ∧ (∀ h, h ≠ g → m.core h = s.m.core h) ∧
          (∀ f i, m.rd f i = s.m.rd f i) ∧ (∀ a, m.byteAt a = s.m.byteAt a))) ∧
  (∀ (g6 : BitVec 6) (sl : BitVec 3) (r : LsuRun) (s : State),
      let g := g6.toNat;
      let k := match r.cmd.ins with | .qdup .. => 2 | _ => 1;
      let es := r.flight.take k;
      s.m.unitRuns g .lsu = true → (s.m.core g).lsuAt sl.toNat = some r → es ≠ [] →
      (∀ e ∈ es, s.m.qRoom g e.1 (es.countP fun x => x.1 == e.1) = true) → (s.m.core g).lsuPushBusy r = false →
      Does (.lsuEntryPush g6 sl) s fun m =>
        (∀ q, (m.core g).dq q = (s.m.core g).dq q ++ (es.filter fun x => x.1 == q).map (·.2)) ∧
        (m.core g).lsuAt sl.toNat = (if lsuN r.cmd.ins ≤ r.started ∧ r.flight.drop k = [] then none
          else some { r with flight := r.flight.drop k }) ∧
        (∀ h, h ≠ g → m.core h = s.m.core h) ∧
        (∀ f i, f ≠ .PROF_CNT → m.rd f i = s.m.rd f i) ∧ (∀ a, m.byteAt a = s.m.byteAt a))

/-- R63, R70, R71, R84, R88: an update of the OPE's command in progress, or of the one at the head of its queue, issues once its tile
neither drains nor preloads and every entry it pops is present: an operand entry of each queue, and of an OPUS the scale entry once
every 32/r updates, the one popped last serving those between. It enters the pipeline; the accumulator stands. R63 to R67, R83: the
oldest update in the pipeline adds to each element of its tile the exact sum of the products of its operands, rounded once; no row
of another tile changes. COMPLETES: OPE_UPDATE_ISSUE, OPE_UPDATE_COMPLETE. -/
def Obligations.OpeUpdates : Prop :=
  (∀ (g6 : BitVec 6) (r : OpeRun) (f : OpuF) (a b sc : Ent) (s : State),
      let g := g6.toNat;
      let m1 := s.m.dropQ g f.qa 1;
      let m2 := m1.dropQ g f.qb 1;
      let scaled := isDataQ f.qs && r.issued % (32 / packP f.fa) == 0;
      s.m.unitRuns g .ope = true → Ope.current (s.m.core g) = some r → opuOf r.cmd.ins = some f →
      (s.m.core g).tileState r.cmd.tile ≠ 2 → (s.m.core g).tileState r.cmd.tile ≠ 3 →
      s.m.headQ g f.qa = some a → m1.headQ g f.qb = some b → (if scaled = true then m2.headQ g f.qs else some ⟨r.scale, false⟩) = some sc →
      a.poison = false → b.poison = false → sc.poison = false →
      Does (.opeUpdateIssue g6) s fun m =>
        (m.core g).opePipe = (s.m.core g).opePipe ++ [⟨r.cmd, r.cmd.tile, r.issued, a.bits, b.bits, sc.bits,
          decide (f.n ≤ r.issued + 1)⟩] ∧
        (m.core g).ope = (if f.n ≤ r.issued + 1 then none else some { r with issued := r.issued + 1, scale := sc.bits }) ∧
        (m.core g).opeQ = (if (s.m.core g).ope.isNone = true then (s.m.core g).opeQ.drop 1 else (s.m.core g).opeQ) ∧
        (∀ q, (m.core g).dq q = ((if scaled = true then m2.dropQ g f.qs 1 else m2).core g).dq q) ∧
        (m.core g).acc = (s.m.core g).acc ∧ (∀ h, h ≠ g → m.core h = s.m.core h) ∧ (∀ a, m.byteAt a = s.m.byteAt a)) ∧
  (∀ (g6 : BitVec 6) (p : OpePend) (rest : List OpePend) (f : OpuF) (s : State),
      let g := g6.toNat;
      s.m.mainUp = true → (s.m.core g).opePipe = p :: rest → opuOf p.cmd.ins = some f →
      let bl := (List.range 128).map fun j => scaledElems f.fb (lane16 p.b j) (lane16 p.sc j / 256);
      Does (.opeUpdateComplete g6) s fun m => (m.core g).opePipe = rest ∧
        (∀ i, i < 128 → (m.core g).accRow p.tile i = Ope.updRow f p bl i ((s.m.core g).accRow p.tile i)) ∧
        (∀ t i, t % 128 ≠ p.tile % 128 → (m.core g).accRow t i = (s.m.core g).accRow t i) ∧
        (∀ q, (m.core g).dq q = (s.m.core g).dq q) ∧ (∀ h, h ≠ g → m.core h = s.m.core h) ∧
        (∀ a, m.byteAt a = s.m.byteAt a))

/-- R88, R89, R108, R109: the drain or preload at the head of the DRU's queue starts when its tile is IDLE and its line port is free:
the drain with the epilogue entry that it names as it then stands, the preload at line 0. An EPI pops its entry once no older
command still pops from that queue, and writes its epilogue entry, reserved codes as 0. R100 to R102: a preload in progress writes
its next line: 0, the bias lane of its one entry (line 0 pops it; lane j along a row, lane u with AX 1), the lanes of the entry it
pops for the line, or the element times C; after line 127 it has retired. Only MODE FULL with AX 1 writes a column. No other line of
its tile and no other tile changes. COMPLETES: DRAIN_START, PRELOAD_START, PRELOAD_LINE_WRITE. -/
def Obligations.DruStartsAndPreloads : Prop :=
  (∀ (g6 : BitVec 6) (cmd : Cmd) (rest : List Cmd) (s : State),
      let g := g6.toNat;
      let ord := nextOrd (s.m.core g).druOrds;
      s.m.unitRuns g .dru = true → (s.m.core g).druQ = cmd :: rest →
      (∀ t f grad, cmd.ins = (if grad = true then .tdraing t f else .tdrain t f) → (s.m.core g).tileState cmd.tile = 0 →
        Dru.portBusy (s.m.core g) = false →
        Does (.drainStart g6) s fun m => (m.core g).druQ = rest ∧
          (m.core g).drains = (s.m.core g).drains ++ [⟨cmd, ord, grad, f, s.m.epi g f.epi.toNat, 0, [], 0⟩] ∧
          m.rd .DRU_STATUS_DRAIN_TILE g = cmd.tile % 128 ∧ m.rd .DRU_STATUS_DRAIN_EPI g = f.epi.toNat ∧
          (Dru.missing grad f (s.m.epi g f.epi.toNat) = true → m.rd .EPI_STATUS_OPERAND_MISSING g = 1) ∧
          (m.core g).acc = (s.m.core g).acc ∧
          (∀ h, h ≠ g → m.core h = s.m.core h) ∧ (∀ a, m.byteAt a = s.m.byteAt a)) ∧
      (∀ t q tile tinc mode ax sfmt c, cmd.ins = .tload t q tile tinc mode ax sfmt c → (s.m.core g).tileState cmd.tile = 0 →
        (s.m.core g).pre = none →
        Does (.preloadStart g6) s fun m => (m.core g).druQ = rest ∧ (m.core g).pre = some ⟨cmd, ord, 0, 0⟩ ∧
          m.rd .DRU_STATUS_PRELOAD_TILE g = cmd.tile % 128 ∧ (m.core g).acc = (s.m.core g).acc ∧
          (∀ h, h ≠ g → m.core h = s.m.core h) ∧ (∀ a, m.byteAt a = s.m.byteAt a)) ∧
      (∀ t q e d, cmd.ins = .epi t q e → Dru.popBusy (s.m.core g) ord [q.toNat] = false → s.m.headQ g q.toNat = some d →
        d.poison = false →
        Does (.drainStart g6) s fun m => (m.core g).druQ = rest ∧
          m.epi g e.toNat = (EpiEnt.ofWords (bitsAt d.bits.toNat 0 64) (bitsAt d.bits.toNat 64 64)).legal.1 ∧
          (∀ e', e' < 32 → e' ≠ e.toNat → m.epi g e' = s.m.epi g e') ∧
          (∀ q', (m.core g).dq q' = ((s.m.dropQ g q.toNat 1).core g).dq q') ∧ (m.core g).drains = (s.m.core g).drains ∧
          (∀ h, h ≠ g → m.core h = s.m.core h) ∧ (∀ a, m.byteAt a = s.m.byteAt a))) ∧
  (∀ (g6 : BitVec 6) (r : PreRun) (q mode ax sfmt cc : Nat) (e : Ent) (s : State),
      let g := g6.toNat;
      let pops := Dru.prePops r;
      s.m.unitRuns g .dru = true → (s.m.core g).pre = some r → Dru.tloadOf r.cmd.ins = some (q, mode, ax, sfmt, cc) → r.line < 128 →
      Dru.popBusy (s.m.core g) r.ord pops = false → (pops ≠ [] → s.m.headQ g q = some e ∧ e.poison = false) →
      let bias := if pops = [] then r.bias else e.bits;
      let col := mode == 2 && ax == 1;
      let new := match mode with
        | 1 => slot32 fun j => rlane sfmt bias (if ax = 0 then j else r.line)
        | 2 => slot32 fun j => rlane sfmt e.bits j
        | 3 => slot32 fun j => mul32 (lane32 ((s.m.core g).accRow r.cmd.tile r.line) j) cc
        | _ => 0;
      Does (.preloadLineWrite g6) s fun m =>
        Dru.tileLine (m.core g) r.cmd.tile col r.line = new ∧
        (∀ k, k < 128 → k ≠ r.line → Dru.tileLine (m.core g) r.cmd.tile col k = Dru.tileLine (s.m.core g) r.cmd.tile col k) ∧
        (∀ t i, t % 128 ≠ r.cmd.tile % 128 → (m.core g).accRow t i = (s.m.core g).accRow t i) ∧
        (m.core g).pre = (if r.line = 127 then none else some { r with line := r.line + 1, bias := bias }) ∧
        (∀ q', (m.core g).dq q' = ((if pops = [] then s.m else s.m.dropQ g q 1).core g).dq q') ∧
        (∀ h, h ≠ g → m.core h = s.m.core h) ∧ (∀ a, m.byteAt a = s.m.byteAt a))

/-- R103 to R106, R117: the drain that holds the line port reads its next line, with the entry that it pops for it (the residual, or z
of a TDRAING), while no drain of the core waits on a push and no older command still pops from its queue; with ZAFTER the line is
then 0, and without it the accumulator stands. R105, R106, R549: the oldest drain, once the lines of the 20 cycles before have been
read and the line of this cycle has its entry, makes all the pushes of its next cycle, each at a queue or channel end that takes it,
and moves to the next cycle; after the last it has retired. COMPLETES: DRAIN_LINE_READ, DRAIN_ENTRY_PUSH. -/
def Obligations.DrainMoves : Prop :=
  (∀ (g6 : BitVec 6) (d : DrainRun) (s : State),
      let g := g6.toNat;
      let qs := Dru.linePops d;
      let x := (qs.head?.bind fun q => s.m.headQ g q).elim (0 : Slot) fun e => e.bits;
      s.m.unitRuns g .dru = true → ((s.m.core g).drains.find? fun d => decide (d.pos < d.n)) = some d → Dru.readWaits s.m g d = false →
      (∀ q ∈ qs, ∃ e, s.m.headQ g q = some e ∧ e.poison = false) →
      let col := d.f.order == 1;
      let k := d.f.first.toNat + d.pos;
      let ln : DrainLine := ⟨Dru.tileLine (s.m.core g) d.cmd.tile col k, if d.grad = true then 0 else x, if d.grad = true then x else 0⟩;
      Does (.drainLineRead g6) s fun m =>
        (m.core g).drains = (s.m.core g).drains.map (fun e => if e = d then { d with pos := d.pos + 1, lines := d.lines ++ [ln] } else e) ∧
        (m.core g).acc = (if d.f.zafter = 1 then (Dru.setTileLine (s.m.core g) d.cmd.tile col k 0).acc else (s.m.core g).acc) ∧
        (∀ q, (m.core g).dq q = if q ∈ qs then ((s.m.core g).dq q).drop 1 else (s.m.core g).dq q) ∧
        m.rd .DRU_LINES g = (s.m.rd .DRU_LINES g + 1) % 2 ^ 48 ∧
        (∀ h, h ≠ g → m.core h = s.m.core h) ∧ (∀ a, m.byteAt a = s.m.byteAt a)) ∧
  (∀ (g6 : BitVec 6) (d : DrainRun) (rest : List DrainRun) (es : List (Nat × Ent)) (lost : Nat) (m1 m2 : Mach) (s : State),
      let g := g6.toNat;
      s.m.unitRuns g .dru = true → (s.m.core g).drains = d :: rest → Dru.due d = true → Dru.popWaits (s.m.core g) d = false →
      Dru.bundle s.m g d = some (es, lost, m1) → m1.pushAll g es = some m2 →
      Does (.drainEntryPush g6) s fun m =>
        (∀ q, isDataQ q = true → (m.core g).dq q = (s.m.core g).dq q ++ (es.filter fun x => x.1 == q).map (·.2)) ∧
        (m.core g).drains = (if d.pushed = d.cycles then rest else { d with pushed := d.pushed + 1 } :: rest) ∧
        m.rd .DRU_OUT_OVERFLOW g = (s.m.rd .DRU_OUT_OVERFLOW g + lost) % 2 ^ 48 ∧
        ((∀ e ∈ es, isDataQ e.1 = true) → (∀ h, h ≠ g → m.core h = s.m.core h) ∧ ∀ a, m.byteAt a = s.m.byteAt a))

/-- R124, R126, R128, R141, R206: the VEC command in progress, or at the head of its queue, pops the entries of its operands when all
are present, its oldest result is not held back and no more results are under way than its latency covers; it draws what it needs,
and the results enter the pipeline. A fused optimizer's first pop takes its parameter entry alone. The oldest result is pushed, and
counted, where its queue or channel end takes it. COMPLETES: VEC_ENTRY_POP, VEC_RESULT_PUSH. -/
def Obligations.VecMoves : Prop :=
  ∀ (g6 : BitVec 6) (s : State),
    let g := g6.toNat
    let m0 := Vec.take g s.m
    s.m.unitRuns g .vec = true →
    (∀ (r : VecRun) (b : Nat) (m1 : Mach), (m0.core g).vec = some r → Vec.full (m0.core g) r = false →
      let qs := vecPops r.cmd.ins r.param.isNone
      let es := Vec.heads s.m g qs
      (∀ q ∈ qs, qs.count q ≤ ((s.m.core g).dq q).length) → (∀ e ∈ es, e.2.poison = false) →
      (if vecDraws r.cmd.ins = 0 ∨ Vec.takesParam r = true then some (0, m0) else m0.draw g 0 (vecDraws r.cmd.ins)) = some (b, m1) →
      Does (.vecEntryPop g6) s fun m =>
        let o := vecStep r (es.map (·.2.bits)) fun l k => vecWord (s.m.rd .VEC_RNG_SEED g) g l (b + k)
        let last := decide (vecN r.cmd.ins ≤ r.done + 1)
        (Vec.takesParam r = true → (m.core g).vec = some { r with param := es.head?.map (·.2.bits) } ∧
          (m.core g).vecPipe = (s.m.core g).vecPipe) ∧
        (Vec.takesParam r = false → (m.core g).vec = (if last = true then none else some { r with done := r.done + 1, hold := o.hold }) ∧
          (m.core g).vecPipe = (s.m.core g).vecPipe ++ o.res.map (fun z => (⟨r.cmd, z.1, ⟨z.2, false⟩⟩ : VecPend))) ∧
        (∀ q, (m.core g).dq q = ((s.m.core g).dq q).drop (qs.count q)) ∧
        (∀ h, h ≠ g → m.core h = s.m.core h) ∧ (∀ a, m.byteAt a = s.m.byteAt a)) ∧
    (∀ (p : VecPend) (rest : List VecPend) (m1 : Mach), (s.m.core g).vecPipe = p :: rest → s.m.pushEnd g p.dst p.ent = some m1 →
      Does (.vecResultPush g6) s fun m =>
        (∀ q, isDataQ q = true → (m.core g).dq q = (s.m.core g).dq q ++ (if q = p.dst then [p.ent] else [])) ∧
        (m.core g).vecPipe = rest ∧ m.rd .VEC_ENTRIES g = (s.m.rd .VEC_ENTRIES g + 1) % 2 ^ 48 ∧
        (isDataQ p.dst = true → (∀ h, h ≠ g → m.core h = s.m.core h) ∧
          (∀ f i, f ≠ .PROF_CNT → f ≠ .VEC_ENTRIES → m.rd f i = s.m.rd f i) ∧ ∀ a, m.byteAt a = s.m.byteAt a))

/-- R207, R555: an NRECV that its slot holds, with an entry of this module at its channel end, moves it to its queue when that has a
place free; the command retires with its last entry. COMPLETES: NIU_ENTRY_MOVE. -/
def Obligations.NiuReceives : Prop :=
  ∀ (g6 : BitVec 6) (sl : BitVec 2) (r : NiuRun) (t : ThreadId) (c q : BitVec 6) (n : BitVec 24) (e : ChEnt) (es : List ChEnt)
    (s : State),
    let g := g6.toNat
    s.m.unitRuns g .niu = true → (s.m.core g).niuAt sl.toNat = some r → (s.m.core g).niuQ = [] →
    (s.m.core g).niuBusy r = false → r.cmd.ins = .nrecv t c q n → (s.m.core g).chan (c.toNat - 32) = e :: es →
    s.m.qRoom g q.toNat 1 = true → e.link = 0 → e.org = 0 →
    Does (.niuEntryMove g6 sl) s fun m => (m.core g).dq q.toNat = (s.m.core g).dq q.toNat ++ [e.ent] ∧
      (m.core g).niuAt sl.toNat = (if niuN r.cmd.ins ≤ r.done + 1 then none else some { r with done := r.done + 1 }) ∧
      (∀ q', q' ≠ q.toNat → (m.core g).dq q' = (s.m.core g).dq q') ∧ (∀ h, h ≠ g → m.core h = s.m.core h) ∧
      (∀ a, m.byteAt a = s.m.byteAt a)

/-- R161: the head of the DMA command queue takes the lowest free slot of the sixteen. R26, R163, R172, R210, R211, R269: a DMA transfer
whose addresses have been popped, between two addresses, with no transfer opened earlier between the same two units still to move,
moves its bytes. From a source on this module, or from a remote one whose bytes have come, to a destination on this module it stores
them in the layout asked for, and the slot goes on to its next transfer or retires; to a remote destination it sends them, and the
transfer ends when that module has written them. A destination in plain storage changes in the bytes stored to and in no other.
COMPLETES: DMA_COMMAND_START, DMA_TRANSFER_COMPLETE. -/
def Obligations.DmaMoves : Prop :=
  (∀ (g6 : BitVec 6) (cmd : Cmd) (rest : List Cmd) (i : Nat) (s : State),
      let g := g6.toNat;
      s.m.unitRuns g .dma = true → (s.m.core g).dmaQ = cmd :: rest →
      ((List.range 16).find? fun i => ((s.m.core g).dmaAt i).isNone) = some i →
      Does (.dmaCommandStart g6) s fun m => (m.core g).dmaQ = rest ∧
        (∃ o, (m.core g).dmaAt i = some ⟨cmd, o, 0, none, none, 0, [], 0⟩) ∧ (∀ j, j ≠ i → (m.core g).dmaAt j = (s.m.core g).dmaAt j) ∧
        (∀ h, h ≠ g → m.core h = s.m.core h) ∧ (∀ f i, m.rd f i = s.m.rd f i) ∧ (∀ a, m.byteAt a = s.m.byteAt a)) ∧
  (∀ (g6 : BitVec 6) (sl : BitVec 4) (ack : Bool) (ps : List Bool) (data : List Byte) (r : DmaRun) (f : DmaF) (a b : AddrEnt)
      (src : List PByte) (m0 m1 : Mach) (s : State),
      let g := g6.toNat;
      let n := dmaBytes f;
      let dst := (s.m.side b.addr.toNat).addr;
      let next : Option DmaRun := if dmaN r.cmd.ins ≤ r.done + 1 then none
        else some { r with done := r.done + 1, src := none, dst := none, moved := 0, held := [] };
      s.m.unitRuns g .dma = true → (s.m.core g).dmaAt sl.toNat = some r → dmaOf r.cmd.ins = some f → okA f.src = true →
      okA f.dst = true → (s.m.core g).dmaBusy r = false → r.src = some a → r.dst = some b →
      (r.moved ≠ n → s.m.dmaBehind g r = false → s.m.sourceSide a.addr.toNat n ack data ps = some (src, m0) →
        let bs := relayout f.layout.toNat src;
        ((s.m.side b.addr.toNat).remote = none → (m0.side b.addr.toNat).remote = none → (m0.side b.addr.toNat).addr = dst →
          m0.writeSide 0 dst false bs = .ok m1 → (m1.side b.addr.toNat).remote = none →
          Does (.dmaTransferComplete g6 sl ack data ps) s fun m => (m.core g).dmaAt sl.toNat = next ∧
            (∀ k, m.byteAt k = m1.byteAt k) ∧ (∀ k, m.isPoison k = m1.isPoison k) ∧
            (rangeOf dst ≠ .t2 → rangeOf dst ≠ .packed → rangeOf dst ≠ .t2packed →
              m.mem = (m0.plainWrite dst bs).mem ∧ ∀ k, k ∉ plainKeys dst bs.length → m.byteAt k = m0.byteAt k)) ∧
        (∀ d, (m0.side b.addr.toNat).remote = some d → ((m0.memWrite g d (m0.side b.addr.toNat).addr false bs).side b.addr.toNat).remote = some d →
          Does (.dmaTransferComplete g6 sl ack data ps) s fun m =>
            (m.core g).dmaAt sl.toNat = some { r with moved := bs.length, held := [] } ∧
            m.fab.out = (m0.memWrite g d (m0.side b.addr.toNat).addr false bs).fab.out ∧ ∀ k, m.byteAt k = m0.byteAt k)) ∧
      (r.moved = n → Does (.dmaTransferComplete g6 sl true data ps) s fun m => (m.core g).dmaAt sl.toNat = next ∧
        (∀ j, j ≠ sl.toNat → (m.core g).dmaAt j = (s.m.core g).dmaAt j) ∧ (∀ h, h ≠ g → m.core h = s.m.core h) ∧
        (∀ f i, m.rd f i = s.m.rd f i) ∧ ∀ k, m.byteAt k = s.m.byteAt k))

/-- R267, R271: a fault that a remote side reports retires the transfer of its slot; the module's first address fault is captured with
its cause, its address and its core; no memory and no other core changes. R306, R172: a slot copy of IPULL whose slot is complete
and whose sides' checks pass reads the slot's used bytes and writes them to the destination that it pops; on this module the copy is
then over, and the core's cursor moves on by one; on another it is over when that module has written them. COMPLETES:
ADDR_FAULT_REPORT, IPULL_SLOT_COPY. -/
def Obligations.RemoteFaultAndIpull : Prop :=
  (∀ (g6 : BitVec 6) (sl : BitVec 4) (cause : BitVec 4) (addr : BitVec 64) (r : DmaRun) (s : State),
      let g := g6.toNat;
      s.m.mainUp = true → s.m.frozen = false → (s.m.core g).dmaAt sl.toNat = some r → r.src.isSome = true →
      Does (.addrFaultReport g6 sl cause addr) s fun m =>
        (m.core g).dmaAt sl.toNat = (if dmaN r.cmd.ins ≤ r.done + 1 then none
          else some { r with done := r.done + 1, src := none, dst := none, moved := 0, held := [] }) ∧
        (s.m.on .MEM_ADDR_FAULT_VALID 0 = false → m.rd .MEM_ADDR_FAULT_VALID 0 = 1 ∧ m.rd .MEM_ADDR_FAULT_CAUSE 0 = cause.toNat ∧
          m.rd .MEM_ADDR_FAULT_ADDR 0 = addr.toNat % 2 ^ 44 ∧ m.rd .MEM_ADDR_FAULT_CORE 0 = g ∧ m.rd .MEM_ADDR_FAULT_HUB 0 = 0) ∧
        (∀ h, h ≠ g → m.core h = s.m.core h) ∧ (∀ k, m.byteAt k = s.m.byteAt k)) ∧
  (∀ (g6 : BitVec 6) (sl : BitVec 4) (r : DmaRun) (t : ThreadId) (a ring : BitVec 6) (n : BitVec 16) (tag : BitVec 4) (d : AddrEnt)
      (m1 : Mach) (ack : Bool) (s : State),
      let g := g6.toNat;
      let cur := s.m.rd .ING_RING_CUR (ring.toNat * 64 + g);
      let m0 := s.m.dropA g a.toNat;
      let slot := m0.ringSlot ring.toNat cur;
      let used := m0.word (slot + 28) 4;
      let src := m0.readSide slot used;
      let next : Option DmaRun := if dmaN r.cmd.ins ≤ r.done + 1 then none
        else some { r with done := r.done + 1, src := none, dst := none, moved := 0, held := [] };
      s.m.unitRuns g .dma = true → (s.m.core g).dmaAt sl.toNat = some r → r.cmd.ins = .ipull t a ring n tag →
      (s.m.core g).dmaBusy r = false →
      (r.src = none → cur < s.m.rd .ING_RING_WR_W ring.toNat → s.m.headA g a.toNat = some d →
        lowest (m0.sideCauses slot (max 1 used) false false (some g) ++ m0.sideCauses d.addr.toNat (max 1 used) true false (some g)) = none →
        Dma.writeDst g d.addr.toNat src.1 src.2 = .ok m1 →
        ((m1.side d.addr.toNat).remote = none → Does (.iPullSlotCopy g6 sl ack) s fun m =>
          (m.core g).dmaAt sl.toNat = next ∧ (∀ k, m.byteAt k = m1.byteAt k) ∧
          m.rd .ING_RING_CUR (ring.toNat * 64 + g) = (m1.rd .ING_RING_CUR (ring.toNat * 64 + g) + 1) % 2 ^ 48) ∧
        ((m1.side d.addr.toNat).remote.isSome = true → Does (.iPullSlotCopy g6 sl ack) s fun m =>
          (m.core g).dmaAt sl.toNat = some { r with src := some ⟨BitVec.ofNat 64 slot, 0⟩, dst := some d, moved := used } ∧
          m.rd .ING_RING_CUR (ring.toNat * 64 + g) = m1.rd .ING_RING_CUR (ring.toNat * 64 + g) ∧ m.fab.out = m1.fab.out)) ∧
      (r.src.isSome = true → Does (.iPullSlotCopy g6 sl true) s fun m => (m.core g).dmaAt sl.toNat = next ∧
        m.rd .ING_RING_CUR (ring.toNat * 64 + g) = (cur + 1) % 2 ^ 48 ∧ (∀ k, m.byteAt k = s.m.byteAt k) ∧
        ∀ h, h ≠ g → m.core h = s.m.core h))

/-- R247, R248, R252, R265, R266, R267, R271: scrub of a stack codeword that holds no poison counts an error that it corrected, and
marks the codeword that holds one it could not, which is counted; a codeword without an error is left. A partial write of a page
that the pool can take is performed by read-modify-write and counted; one that the pool cannot take, or of a page that does not
exist, is captured as the module's first address fault, with the cause POOL_EMPTY (or T2_WINDOW, for a hub pool's sectors outside
the windows) or PEAT_RANGE, and writes nothing. COMPLETES: SCRUB_READ, PEAT_RMW. -/
def Obligations.ScrubAndRmw : Prop :=
  ∀ (addr : BitVec 44) (s : State), s.m.mainUp = true →
    let a := addr.toNat / 64 * 64
    let n := (a - 0x10000000000) / 0x800000000
    (s.m.rd .MEM_SCRUB_PERIOD 0 ≠ 0 → rangeOf a = .linear → s.m.mapped a = true → s.m.frozen = false →
      s.m.poison.get (fun _ => false) a = false →
      (s.m.cellError a = 0 → Does (.scrubRead addr 0) s fun m => m = s.m) ∧
      (s.m.cellError a ≠ 2 → ∀ x, x ≠ 3 → x ≠ 0 ∨ s.m.cellError a ≠ 0 → Does (.scrubRead addr x) s fun m =>
        m.rd .MEM_STK_CORR n = (s.m.rd .MEM_STK_CORR n + 1) % 2 ^ 48 ∧
        (∀ k, m.byteAt k = s.m.byteAt k) ∧ ∀ k, m.isPoison k = s.m.isPoison k) ∧
      (∀ x, x = 3 ∨ s.m.cellError a = 2 → Does (.scrubRead addr x) s fun m => m.isPoison a = true ∧
        m.rd .MEM_STK_UNCORR n = (s.m.rd .MEM_STK_UNCORR n + 1) % 2 ^ 48 ∧
        (∀ k, m.byteAt k = s.m.byteAt k) ∧ ∀ k, granKey k ≠ a → m.isPoison k = s.m.isPoison k)) ∧
    (∀ (data : List Byte) (p hub : Bool) (g : BitVec 6),
      (rangeOf addr.toNat = .packed ∨ rangeOf addr.toNat = .t2packed) → data ≠ [] →
      let u := peatUnit addr.toNat
      let pg := peatPage addr.toNat
      let m0 := (s.m.pageRead u pg).2
      let bs := (data.take (4096 - addr.toNat % 4096)).map (·, p)
      (∀ m1, s.m.peatOk (addr.toNat / 4096 * 4096) = true →
        m0.peatPut (if hub = true then 1 else 0) false u pg (addr.toNat % 4096) bs = .ok m1 →
        Does (.peatRmw addr data p g hub) s fun m => m = m1) ∧
      (∀ c, s.m.peatOk (addr.toNat / 4096 * 4096) = true → s.m.on .MEM_ADDR_FAULT_VALID 0 = false →
        m0.peatPut (if hub = true then 1 else 0) false u pg (addr.toNat % 4096) bs = .error c →
        Does (.peatRmw addr data p g hub) s fun m => m.rd .MEM_ADDR_FAULT_VALID 0 = 1 ∧ m.rd .MEM_ADDR_FAULT_CAUSE 0 = c ∧
          m.rd .MEM_ADDR_FAULT_ADDR 0 = addr.toNat ∧ ∀ k, m.byteAt k = s.m.byteAt k) ∧
      (s.m.peatOk (addr.toNat / 4096 * 4096) = false → s.m.on .MEM_ADDR_FAULT_VALID 0 = false →
        Does (.peatRmw addr data p g hub) s fun m => m.rd .MEM_ADDR_FAULT_VALID 0 = 1 ∧ m.rd .MEM_ADDR_FAULT_CAUSE 0 = 8 ∧
          m.rd .MEM_ADDR_FAULT_ADDR 0 = addr.toNat ∧ ∀ k, m.byteAt k = s.m.byteAt k))

/-- R143, R99, R517, R251: a host's write of a seed sets the key and takes both streams of its core to position 0; a write of a position
sets that half (under EXACT; under FAST the position it gives stands for a call, R142); both are ignored and reported while a step
runs. The write of NF_CAPTURE.VALID clears it; any write of a sensor's MAX takes TEMP; SPARE_NEXT is recorded in flash for the next
reset where the stack's spare is free. R448, R504: a write of MOD_FENCE fences the cores that are in no stage group and returns
those that no pending fuse and no failed test hold; a bit that could not change sets FENCE_REFUSED; MOD_CORE_AVAIL follows.
COMPLETES: RNG_SEED_WRITE, RNG_POS_WRITE, NF_CAPTURE_CLEAR, TEMP_MAX_WRITE, SPARE_NEXT_WRITE, MOD_FENCE_WRITE. -/
def Obligations.SpecialWrites : Prop :=
  (∀ (g : BitVec 6) (v : BitVec 64) (n : BitVec 6) (st : BitVec 5) (s : State),
      (s.m.ready = true → s.m.stepRunning = false →
        Does (.rngSeedWrite g v) s (fun m => m.rd .VEC_RNG_SEED g.toNat = v.toNat ∧ m.rngPos g.toNat 0 = 0 ∧ m.rngPos g.toNat 1 = 0 ∧
          (∀ h, h ≠ g.toNat → ∀ f, m.rd f h = s.m.rd f h) ∧ (∀ k, m.byteAt k = s.m.byteAt k)) ∧
        (∀ dru hi, let str := b2n dru
          let p := s.m.rngPos g.toNat str;
          let q := if hi = true then p % 2 ^ 64 + 2 ^ 64 * v.toNat else p / 2 ^ 64 * 2 ^ 64 + v.toNat;
          let k := if dru = true then 8 else 4;
          Does (.rngPosWrite g dru hi v) s fun m =>
            m.rngPos g.toNat str = (if s.m.exact = true then q else q / k * k) % 2 ^ (if dru = true then 99 else 98) ∧
            m.rngPos g.toNat (1 - str) = s.m.rngPos g.toNat (1 - str) ∧ m.rd .VEC_RNG_SEED g.toNat = s.m.rd .VEC_RNG_SEED g.toNat)) ∧
      (s.m.ready = true → s.m.stepRunning = true → ∀ dru hi, ∀ c, c = .rngSeedWrite g v ∨ c = .rngPosWrite g dru hi v →
        Does c s (fun m => m.rd .VEC_STATUS_WRITE_IGNORED g.toNat = 1 ∧
          ∀ f i, ¬ (f = .VEC_STATUS_WRITE_IGNORED ∧ i = g.toNat) → m.rd f i = s.m.rd f i)) ∧
      (s.m.ready = true → Does (.nfCaptureClear g false) s fun m => m.rd .ACC_NF_CAPTURE_VALID g.toNat = 0 ∧
        (∀ f i, ¬ (f = .ACC_NF_CAPTURE_VALID ∧ i = g.toNat) → m.rd f i = s.m.rd f i) ∧ ∀ h, m.core h = s.m.core h) ∧
      (n.toNat < 37 → s.m.aux.inLimits = true → Does (.tempMaxWrite n) s fun m =>
        m.rd .PWR_TEMP_MAX n.toNat = s.m.rd .PWR_TEMP_TEMP n.toNat % 2 ^ 16 ∧
        ∀ f i, ¬ (f = .PWR_TEMP_MAX ∧ i = n.toNat) → m.rd f i = s.m.rd f i) ∧
      (s.m.mainUp = true → s.m.rd .MEM_STK_STATUS_SPARED_PC st.toNat = 0x3F → Does (.spareNextWrite st n) s fun m =>
        m.rd .MEM_STK_STATUS_SPARE_NEXT st.toNat = n.toNat ∧ m.flash.sparing.get (fun _ => 0x3F) st.toNat = n.toNat ∧
        ∀ f i, ¬ (f = .MEM_STK_STATUS_SPARE_NEXT ∧ i = st.toNat) → m.rd f i = s.m.rd f i)) ∧
  (∀ (v : BitVec 64) (s : State), s.m.ready = true → Does (.modFenceWrite v) s fun m =>
      (∀ g, g < 64 → bitsAt (m.rd .MOD_FENCE 0) g 1 = (s.m.fenceBit g (bitsAt v.toNat g 1)).1) ∧
      ((∃ g, g < 64 ∧ (s.m.fenceBit g (bitsAt v.toNat g 1)).2 = true) → m.rd .MOD_FLT_STATUS_FENCE_REFUSED 0 = 1) ∧
      (∀ f i, f ≠ .MOD_FENCE → f ≠ .MOD_FLT_STATUS_FENCE_REFUSED → f ≠ .MOD_CORE_AVAIL → m.rd f i = s.m.rd f i) ∧
      (∀ h, m.core h = s.m.core h) ∧ (∀ k, m.byteAt k = s.m.byteAt k))

/-- R33, R368, R445, R447, R534, R535: a write of MOD_CTRL.RESET = 1 with AUX power in limits, PWR_EN high and the regulators good, and
no reset in progress, sends GOODBYE on every UP link and begins a module reset of 100 µs with cause MOD_CTRL: memory, cores and
contexts are empty, the flags are 0, TIME and flash are kept. One that comes during a reset moves its end alone. A reset ends, once
its time has come and no PERST_N holds it, with bring-up at stage 1, its times counted from then. A write of DP_RESET = 1 with no
reset in progress ends the step, the armed step and a pending swap, and empties the contexts, the flags and every engine; memory
stays; 2 ms later at most it is complete. COMPLETES: MOD_RESET, MOD_CTRL_DP_RESET, MODULE_RESET_END. -/
def Obligations.Resets : Prop :=
  ∀ s : State,
    (s.m.aux.inLimits = true → s.m.pins.pwrEn = true → s.m.on .MOD_STATUS_PWR_GOOD 0 = true → s.m.aux.reset = none → Does .modReset s fun m =>
      m.aux.reset = some ⟨s.m.time, s.m.time + 100000, false⟩ ∧ m.rd .MOD_RESET_CAUSE_CAUSE 0 = 2 ∧
      m.rd .MOD_RESET_CAUSE_COUNT 0 = (s.m.rd .MOD_RESET_CAUSE_COUNT 0 + 1) % 2 ^ Fld.width .MOD_RESET_CAUSE_COUNT ∧
      m.mem = [] ∧ m.cores = [] ∧ m.ctxs = [] ∧ m.rd .MOD_STATUS_READY 0 = 0 ∧ m.rd .MOD_STATUS_PWR_GOOD 0 = 1 ∧ (∀ n, m.rd .FLAG n = 0) ∧
      m.flash = s.m.flash ∧ m.rd .TICK_TIME 0 = s.m.rd .TICK_TIME 0 ∧ m.fab.out = (s.m.sendCtlAll 0x30 []).fab.out) ∧
    (∀ r, s.m.aux.inLimits = true → s.m.pins.pwrEn = true → s.m.on .MOD_STATUS_PWR_GOOD 0 = true → s.m.aux.reset = some r →
      r.start / 10 < s.m.time / 10 → Does .modReset s fun m => m.aux.reset = some { r with due := max r.due (s.m.time + 100000) } ∧
        (∀ f i, m.rd f i = s.m.rd f i) ∧ m.mem = s.m.mem ∧ m.cores = s.m.cores) ∧
    (∀ r, s.m.aux.reset = some r → r.perst = false → s.m.on .MOD_STATUS_PWR_GOOD 0 = true → r.due ≤ s.m.time →
      Does .moduleResetEnd s fun m => m.aux.reset = none ∧ m.rd .MOD_BOOT_STAGE 0 = 1 ∧ m.rd .MOD_BOOT_FAIL_CAUSE 0 = 0 ∧
        m.aux.base = s.m.time ∧ m.mem = s.m.mem) ∧
    (s.m.mainUp = true → s.m.aux.dpEnd = none → Does .modCtrlDpReset s fun m =>
      m.aux.dpEnd = some (s.m.time + dpResetNs) ∧ m.step = none ∧ m.armed = none ∧ m.ctxs = [] ∧ m.tick.swap = none ∧
      (s.m.tick.swap.isSome = true → m.rd .CFG_SWAP_RESULT_STATUS 0 = 15 ∧ m.rd .CFG_SWAP_TICK 0 = s.m.rd .TICK_NUMBER 0 % 2 ^ 48) ∧
      (∀ n, m.rd .FLAG n = 0) ∧ (∀ n, m.rd .MFLAG n = 0) ∧ (∀ g q, (m.core g).dq q = []) ∧ (∀ g u, (m.core g).engQ u = []) ∧
      m.rd .MOD_STATUS_STEP_RUNNING 0 = 0 ∧ m.frozen = false ∧ ∀ k, m.byteAt k = s.m.byteAt k)

/-- R35, R39, R42, R55, R59: at a boundary whose time has come, with the generator running, not held, RUN set and no deadline or check
to come, the tick number goes up by one; with RUN clear the generator stops there. A request to run starts a stopped generator at
TICK_ORIGIN where that lies at least 10 µs ahead and TIME is locked or SOLO is written; where it lies nearer ORIGIN_LATE is set;
without lock and SOLO the write is ignored; with the generator running it cancels a stop. A request to stop clears RUN, and is
ignored while a step runs. COMPLETES: TICK_BOUNDARY, TICK_RUN, TICK_STOP. -/
def Obligations.TickGenerator : Prop :=
  ∀ (solo : Bool) (s : State), s.m.mainUp = true →
    let gen := s.m.on .TICK_STATE_GEN_RUNNING 0
    let may := s.m.on .TICK_STATE_TIME_LOCK 0 = true ∨ solo = true
    (gen = true → s.m.held = false → s.m.tick.deadline = none → s.m.tick.sample = none → s.m.rd .TICK_NEXT 0 ≤ s.m.time →
      (s.m.on .TICK_CTRL_RUN 0 = true →
        Does .tickBoundary s fun m => m.rd .TICK_NUMBER 0 = (s.m.rd .TICK_NUMBER 0 + 1) % 2 ^ 64) ∧
      (s.m.on .TICK_CTRL_RUN 0 = false → Does .tickBoundary s fun m => m.rd .TICK_STATE_GEN_RUNNING 0 = 0 ∧ m.rd .TICK_NEXT 0 = 0 ∧
        m.rd .TICK_NUMBER 0 = s.m.rd .TICK_NUMBER 0 ∧ ∀ h, m.core h = s.m.core h)) ∧
    (gen = false → s.m.time + 10000 ≤ s.m.rd .TICK_ORIGIN 0 → may →
      Does (.tickRun solo) s fun m => m.rd .TICK_CTRL_RUN 0 = 1 ∧ m.rd .TICK_STATE_GEN_RUNNING 0 = 1 ∧
        m.rd .TICK_NEXT 0 = s.m.rd .TICK_ORIGIN 0 % 2 ^ 64 ∧ m.rd .TICK_CTRL_SOLO 0 = b2n solo ∧
        m.rd .TICK_NUMBER 0 = s.m.rd .TICK_NUMBER 0 ∧ ∀ h, m.core h = s.m.core h) ∧
    (gen = false → s.m.rd .TICK_ORIGIN 0 < s.m.time + 10000 → may →
      Does (.tickRun solo) s fun m => m.rd .TICK_CTRL_ORIGIN_LATE 0 = 1 ∧
        ∀ f i, f ≠ .TICK_CTRL_ORIGIN_LATE → f ≠ .TICK_CTRL_SOLO → m.rd f i = s.m.rd f i) ∧
    (s.m.on .TICK_STATE_TIME_LOCK 0 = false → Does (.tickRun false) s fun m => ∀ f i, f ≠ .TICK_CTRL_SOLO → m.rd f i = s.m.rd f i) ∧
    (gen = true → may → Does (.tickRun solo) s fun m => m.rd .TICK_CTRL_RUN 0 = 1 ∧
      ∀ f i, f ≠ .TICK_CTRL_RUN → f ≠ .TICK_CTRL_SOLO → m.rd f i = s.m.rd f i) ∧
    (s.m.stepRunning = false → Does .tickStop s fun m => m.rd .TICK_CTRL_RUN 0 = 0 ∧
      ∀ f i, ¬ (f = .TICK_CTRL_RUN ∧ i = 0) → m.rd f i = s.m.rd f i) ∧
    (s.m.stepRunning = true → Does .tickStop s fun m => ∀ f i, m.rd f i = s.m.rd f i)

/-- R44, R46, R51, R52, R322: the deadline of a tick, once its TIME has come, releases the bucket's blocks and tests whether the module
is done. In a step, where it is not, the check's first sample is taken: whether a wait cycle stands, and every thread's ICOUNT; the
second is due 2 µs later. That ends the check: outside a step, or with the module done, nothing more happens; a wait cycle at both
samples with no instruction between them writes a snapshot and aborts the step; else the tick is stretched by one period, or, with
STRETCH_MAX reached, TICK_BUDGET aborts the step. R57, R58: the slice time master completes an exchange with itself: TIME_LOCK is
set and the offset is 0. Another module sends a SYNC frame with its TIME on the link toward its time parent. A lock whose 10 ms have
passed without an exchange clears, and is counted; a held TIME counts on once the master's has reached it, and is then locked.
COMPLETES: TICK_DEADLINE, WAIT_CHECK_SECOND_SAMPLE, SYNC_TIMER, TIME_LOCK_TIMEOUT, TIME_HOLD_END. -/
def Obligations.DeadlinesAndTimeLock : Prop :=
  (∀ (t : Nat) (w : WaitSample) (s : State), s.m.on .TICK_STATE_GEN_RUNNING 0 = true → s.m.held = false →
      let ph := s.m.rd .TICK_STATE_PHASE 0;
      let used := s.m.rd .TICK_STATE_STRETCH_USED 0;
      let icounts (m : Mach) : List (Nat × Nat) := m.ctxs.map fun kc => (kc.1, kc.2.icount);
      (s.m.tick.deadline = some t → t ≤ s.m.time →
        let m1 := ({ s.m with tick := { s.m.tick with deadline := none } } : Mach).settleHalts.releaseBucket;
        Does .tickDeadline s fun m => m.tick.deadline = none ∧ m.tick.sample = (if ph = 0 ∨ m1.moduleDone = true then s.m.tick.sample
            else some ⟨s.m.time + 2000, s.m.time, m1.waitCycle, icounts m1⟩) ∧
          (∀ b ∈ m.red.blks, b.bucketed = true → b.released = true) ∧ m.rd .TICK_STATE_STRETCH_USED 0 = used ∧
          m.rd .TICK_NEXT 0 = s.m.rd .TICK_NEXT 0 ∧ ∀ k, m.byteAt k = s.m.byteAt k) ∧
      (s.m.tick.sample = some w → w.due ≤ s.m.time → w.due < s.m.rd .TICK_NEXT 0 →
        let m1 := ({ s.m with tick := { s.m.tick with sample := none } } : Mach).settleHalts;
        let ends := ph = 0 ∨ m1.moduleDone = true;
        let cyc := w.cycle = true ∧ m1.waitCycle = true ∧ icounts m1 = w.icounts;
        let next := (s.m.rd .TICK_NEXT 0 + s.m.rd .TICK_PERIOD_PERIOD_NS 0) % 2 ^ 64;
        Does .waitCheckSecondSample s fun m => m.tick.sample = none ∧
          (ends → m.step = s.m.step ∧ m.rd .TICK_STATE_STRETCH_USED 0 = used ∧ m.rd .TICK_NEXT 0 = s.m.rd .TICK_NEXT 0 ∧
            m.rd .TICK_WSNAP_VALID 0 = s.m.rd .TICK_WSNAP_VALID 0) ∧
          (¬ends → cyc ∨ s.m.rd .MOD_MODE_STRETCH_MAX 0 ≤ used → m.step = none ∧ m.rd .TICK_WSNAP_VALID 0 ≠ 0 ∧
            (s.m.step.isSome = true → m.rd .MOD_FLT_STATUS_ABORTED 0 = 1) ∧ m.rd .TICK_STATE_STRETCH_USED 0 = used ∧
            m.rd .TICK_NEXT 0 = s.m.rd .TICK_NEXT 0) ∧
          (¬ends → ¬cyc → used < s.m.rd .MOD_MODE_STRETCH_MAX 0 → m.step = s.m.step ∧
            m.rd .TICK_STATE_STRETCH_USED 0 = (used + 1) % 2 ^ Fld.width .TICK_STATE_STRETCH_USED ∧ m.rd .TICK_NEXT 0 = next ∧
            m.tick.deadline = some (next - s.m.rd .TICK_PERIOD_LEAD_NS 0) ∧ m.rd .TICK_WSNAP_VALID 0 = s.m.rd .TICK_WSNAP_VALID 0))) ∧
  (∀ (id : BitVec 18) (s : State),
      (s.m.on .TICK_SYNC_MASTER 0 = true → Does (.syncTimer id) s fun m => m.rd .TICK_STATE_TIME_LOCK 0 = 1 ∧
        m.rd .TICK_TIME_OFFSET 0 = 0 ∧ m.tick.locked = true ∧ m.rd .TICK_TIME 0 = s.m.rd .TICK_TIME 0 ∧ ∀ h, m.core h = s.m.core h) ∧
      (∀ d k, s.m.on .TICK_SYNC_MASTER 0 = false → s.m.parentDir id.toNat = some d → s.m.ctlLink d = some (k, false) →
        Does (.syncTimer id) s fun m =>
          m.fab.out = (s.m.sendRaw k { s.m.ctlFrame 0x20 (leBytes 8 s.m.time ++ List.replicate 8 0) with detour := false, dMod := 0 }).fab.out ∧
          (∀ h, m.core h = s.m.core h) ∧ m.rd .TICK_TIME 0 = s.m.rd .TICK_TIME 0) ∧
      (s.m.on .TICK_STATE_TIME_LOCK 0 = true → s.m.tick.lastSync + 10000000 ≤ s.m.time →
        Does .timeLockTimeout s fun m => m.rd .TICK_STATE_TIME_LOCK 0 = 0 ∧
          m.rd .TICK_TIME_UNLOCKS 0 = (s.m.rd .TICK_TIME_UNLOCKS 0 + 1) % 2 ^ Fld.width .TICK_TIME_UNLOCKS) ∧
      (s.m.on .TICK_STATE_TIME_HOLD 0 = true → Does .timeHoldEnd s fun m => m.rd .TICK_STATE_TIME_HOLD 0 = 0 ∧
        m.rd .TICK_STATE_TIME_LOCK 0 = 1))

/-- R376, R377: a swap request for tick 0 or for a tick late enough, with none pending, is pending from then on; one that comes while
another pends, or too late, leaves that and the result as they were. A swap decided while the generator stands is pending no more,
and CFG_SWAP_RESULT holds its status. COMPLETES: SWAP_REQUEST, SWAP_IDLE_APPLY. -/
def Obligations.SwapRequested : Prop :=
  ∀ (w : SwapReq) (s : State),
    let t := s.m.rd .CFG_SWAP_AT_AT_TICK 0
    let next := s.m.rd .TICK_NUMBER 0 + 1
    let late := t ≠ 0 ∧ (t < next ∨ t = next ∧ s.m.on .TICK_STATE_GEN_RUNNING 0 = true ∧ s.m.rd .TICK_NEXT 0 < s.m.time + 1000)
    (s.m.mainUp = true → s.m.tick.swap = none → ¬late →
      Does .swapRequest s fun m => m.tick.swap = some ⟨t, s.m.time, none⟩ ∧
        m.rd .MOD_STATUS_SWAP_PENDING 0 = 1 ∧ (∀ f i, ¬(f = .MOD_STATUS_SWAP_PENDING ∧ i = 0) → m.rd f i = s.m.rd f i) ∧
        (∀ f i, m.rdS f i = s.m.rdS f i) ∧ ∀ h, m.core h = s.m.core h) ∧
    (s.m.tick.swap.isSome = true ∨ late → Does .swapRequest s fun m => m.tick.swap = s.m.tick.swap ∧ ∀ f i, m.rd f i = s.m.rd f i) ∧
    (s.m.tick.swap = some w → w.at_ = 0 → s.m.on .TICK_STATE_GEN_RUNNING 0 = false → s.m.held = false → s.m.pathStopped = false →
      Does .swapIdleApply s fun m => m.tick.swap = none ∧ m.rd .MOD_STATUS_SWAP_PENDING 0 = 0 ∧ m.rd .CFG_SWAP_RESULT_VALID 0 = 1 ∧
        m.rd .CFG_SWAP_RESULT_STATUS 0 = s.m.swapReasons.headD 0 % 16 ∧
        (s.m.swapReasons ≠ [] → ∀ h, m.core h = s.m.core h))

/-- R13, R15, R17, R372, R425, R515: a 64-bit write, or the upper half's write that completes a held lower half no older than 1 µs, of a
register without a row of its own reaches each of its fields by the field's access code, and no other field. A write of a hole, or
of another width, changes no field. R17, R518: a lower half that is written is held, and discarded 1 µs later; a read of a lower
half captures the register, whose upper half a read within 1 µs then gives; a read of both gives the register, and of another width
0. None of them changes a register field, but that a read brings a die's time up to date (R56) and takes what a sensor measures.
COMPLETES: REG_WRITE, REG_LOWER_HALF_WRITE, HALF_WRITE_TIMEOUT, REG_LOWER_HALF_READ. -/
def Obligations.RegisterAccesses : Prop :=
  (∀ (req : BitVec 3) (off : BitVec 26) (val : BitVec 64) (width : BitVec 2) (v : Nat) (r : RegSpec) (i : Nat) (s : State),
      let same := fun (m : Mach) => (∀ f j, m.rd f j = s.m.rd f j) ∧ (∀ h, m.core h = s.m.core h) ∧ ∀ k, m.byteAt k = s.m.byteAt k;
      ((width = 0 ∧ v = val.toNat ∨ width = 1 ∧ ∃ h, s.m.heldHalf req.toNat = some h ∧ h.off = off.toNat ∧
        s.m.time ≤ h.time + 1000 ∧ v = h.val + 2 ^ 32 * (val.toNat % 2 ^ 32)) →
      s.m.takes req.toNat (writeOffset off.toNat) = true → regAt (writeOffset off.toNat) = some (r, i) → s.m.reaches req.toNat = true →
      (∀ f ∈ r.fields, s.m.refusesWrite req.toNat f.fld = false) → (∀ f, r.fields.head? = some f → f.fld.rowless = true) →
      Does (.regWrite req off val width) s fun m => s.m.Wrote req.toNat r i v m ∧ s.m.OthersKept r i m ∧ m.heldHalf req.toNat = none ∧
        (∀ h, m.core h = s.m.core h) ∧ ∀ k, m.byteAt k = s.m.byteAt k) ∧
      (regAt (writeOffset off.toNat) = none ∨ 2 ≤ width.toNat → Does (.regWrite req off val width) s same)) ∧
  (∀ (req : BitVec 3) (off : BitVec 26) (lo : BitVec 32) (h : HalfReg) (s : State),
      let m0 := s.m.setHalves req.toNat none none;
      let v := if s.m.reaches req.toNat = true then (m0.readReg req.toNat off.toNat).1 else 0;
      let kept := fun (m : Mach) => (∀ f i, f.measured = false → m.rd f i = s.m.rd f i) ∧ m.heldHalf req.toNat = none ∧
        ∀ k, m.byteAt k = s.m.byteAt k;
      Does (.regLowerHalfWrite req off lo) s (fun m => m.heldHalf req.toNat = some ⟨off.toNat, lo.toNat, s.m.time⟩ ∧
        (∀ f i, m.rd f i = s.m.rd f i) ∧ ∀ k, m.byteAt k = s.m.byteAt k) ∧
      (s.m.heldHalf req.toNat = some h → Does (.halfWriteTimeout req) s fun m => m.heldHalf req.toNat = none ∧
        (s.m.aux.inLimits = true → h.time + 1000 < 2 ^ 64 → h.time + 1000 ≤ m.time) ∧ ∀ k, m.byteAt k = s.m.byteAt k) ∧
      Does (.regLowerHalfRead req off 0) s (fun m => m.captured req.toNat = some ⟨off.toNat, v, s.m.time⟩ ∧ m.hif.resp = leBytes 4 v ∧ kept m) ∧
      (s.m.captured req.toNat = some h → h.off = off.toNat → s.m.time ≤ h.time + 1000 →
        Does (.regLowerHalfRead req off 1) s fun m => m.hif.resp = leBytes 4 (h.val / 2 ^ 32) ∧ m.captured req.toNat = none ∧
          ∀ f i, m.rd f i = s.m.rd f i) ∧
      Does (.regLowerHalfRead req off 2) s (fun m => m.hif.resp = leBytes 8 v ∧ m.captured req.toNat = none ∧ kept m) ∧
      Does (.regLowerHalfRead req off 3) s (fun m => m.hif.resp = leBytes 4 0 ∧ m.captured req.toNat = none ∧ ∀ f i, m.rd f i = s.m.rd f i))

/-- R398, R399, R400, R402: a doorbell of an enabled ring sets that ring's pointer, or DB_ERR where the value lies outside the ring;
enabling a disabled ring puts its pointers at 0 and its phase at 1, and disabling it clears ENABLE. COMPLETES: SQ_TAIL_DOORBELL,
CQ_HEAD_DOORBELL, RING_ENABLE, RING_DISABLE. -/
def Obligations.RingControl : Prop :=
  ∀ (r : BitVec 8) (v : BitVec 32) (s : State), s.m.mainUp = true →
    let n := r.toNat
    let hif := (s.m.otherAccess 0).hif
    let others := fun (m : Mach) (f : Fld) => ∀ g i, ¬(g = f ∧ i = n) → g ≠ .HIF_DB_ERRORS → m.rd g i = s.m.rd g i
    (s.m.on .HIF_RING_CFG_ENABLE n = true → v.toNat < s.m.ringLen n →
      Does (.sqTailDoorbell r v) s (fun m => m.hif = { hif with sqTail := NMap.set nat0 hif.sqTail n v.toNat } ∧
        m.hif.sqTail.get nat0 n = v.toNat ∧ ∀ f i, m.rd f i = s.m.rd f i) ∧
      Does (.cqHeadDoorbell r v) s (fun m => m.hif = { hif with cqHead := NMap.set nat0 hif.cqHead n v.toNat } ∧
        m.hif.cqHead.get nat0 n = v.toNat ∧ ∀ f i, m.rd f i = s.m.rd f i)) ∧
    (s.m.on .HIF_RING_CFG_ENABLE n = true → s.m.ringLen n ≤ v.toNat → ∀ c, c = .sqTailDoorbell r v ∨ c = .cqHeadDoorbell r v →
      Does c s fun m => m.rd .HIF_RING_STATUS_DB_ERR n = 1 ∧ m.hif = hif ∧ others m .HIF_RING_STATUS_DB_ERR) ∧
    (s.m.on .HIF_RING_CFG_ENABLE n = false → Does (.ringEnable r) s fun m => m.rd .HIF_RING_CFG_ENABLE n = 1 ∧
      m.rd .HIF_RING_STATUS_SQ_HEAD n = 0 ∧ m.rd .HIF_RING_STATUS_CQ_TAIL n = 0 ∧ m.rd .HIF_RING_STATUS_PHASE n = 1 ∧
      m.rd .HIF_RING_STATUS_ERROR n = 0 ∧ m.hif.sqTail.get nat0 n = 0 ∧ m.hif.cqHead.get nat0 n = 0 ∧ m.hif.descs = s.m.hif.descs) ∧
    Does (.ringDisable r) s (fun m => m.rd .HIF_RING_CFG_ENABLE n = 0 ∧ m.hif = hif ∧ others m .HIF_RING_CFG_ENABLE)

/-- R400, R401, R402, R403, R406: a ring whose turn it is gives its next descriptor, and its head goes on; without a free completion
entry, or out of its turn, it waits, and a read that fails stops the ring with ERROR and an event. COAL_US after its first
unsignalled completion a ring signals its vector: the message of its table entry, or its pending bit while it is masked. COMPLETES:
DESCRIPTOR_FETCH, MSIX_COALESCE_TIMER. -/
def Obligations.RingService : Prop :=
  ∀ (r : BitVec 8) (fails : Bool) (s : State),
    let n := r.toNat
    let h := s.m.rd .HIF_RING_STATUS_SQ_HEAD n
    let a := s.m.rd .HIF_RING_SQ_BASE n * 4096 + s.m.descBytes n * h
    let bad := (fails || s.m.hostPoisoned a || s.m.hostPoisoned (a + s.m.descBytes n - 1)) = true
    let v := s.m.rd .HIF_RING_CFG_VECTOR n
    (s.m.hifUp = true → s.m.ringWants n = true →
      (s.m.ringTurn ≠ some n → Waits (.descriptorFetch r fails) s) ∧
      (s.m.ringTurn = some n → ¬bad → typeOk (s.m.on .HIF_RING_CFG_FMT n) (s.m.readDesc n h).ty = true →
        Does (.descriptorFetch r fails) s fun m => m.hif.descs = s.m.hif.descs ++ [s.m.readDesc n h] ∧ m.host = s.m.host ∧
          m.rd .HIF_RING_STATUS_SQ_HEAD n = (h + 1) % s.m.ringLen n % 2 ^ 16 ∧ m.hif.sqTail = s.m.hif.sqTail) ∧
      (s.m.ringTurn = some n → bad → Does (.descriptorFetch r fails) s fun m => m.rd .HIF_RING_STATUS_ERROR n = 1 ∧
        m.rd .HIF_EVT_RING_ERROR 0 = 1 ∧ m.hif.descs = s.m.hif.descs ∧ m.rd .HIF_RING_STATUS_SQ_HEAD n = h)) ∧
    (s.m.mainUp = true → s.m.rd .HIF_RING_CFG_COAL_US n ≠ 0 → (s.m.coal n).count ≠ 0 → s.m.aux.dpEnd = none →
      Does (.msixCoalesceTimer r) s fun m => m.coal n = ⟨0, 0⟩ ∧
        (s.m.on .MSIX_MASK v = true → m.rd .MSIX_PBA v = 1 ∧ m.hif.sent = s.m.hif.sent) ∧
        (s.m.on .MSIX_MASK v = false → m.hif.sent = s.m.hif.sent ++ [⟨v, s.m.rd .MSIX_ADDR v, s.m.rd .MSIX_DATA v⟩]))

/-- R395, R396, R397: a valid BASE moves the BAR4 aperture, an invalid one is ignored; a load or store through BAR4, or a CXL.mem access
to the committed range of HIF_HDM, of plain storage reads or writes T1 there; one whose address may not be so accessed is captured,
reads all ones and writes nothing. R393, R394, R395: the host link comes up after stage 2 with PERST_N high, and goes down; the host
commits its HDM decoder in CXL mode. COMPLETES: BAR4_WIN_WRITE, BAR4_ACCESS, CXL_MEM_ACCESS, HOST_LINK_TRAINED, HOST_LINK_DOWN,
HDM_DECODER_COMMIT. -/
def Obligations.HostWindowsAndLink : Prop :=
  (∀ (v : BitVec 64) (off : BitVec 44) (len : BitVec 7) (data : List Byte) (s : State),
      let b := bitsAt v.toNat 21 23;
      let n := max 1 (min 64 len.toNat);
      let m0 := s.m.otherAccess 0;
      let reaches := fun (a : Nat) (i : Bool → Instr) =>
        (s.m.localCauses a n false = [] →
          Does (i false) s fun m => m.hif.resp = (m0.readAny a n).1.map Prod.fst ∧ m.hif.respBad = (m0.readAny a n).1.any Prod.snd ∧
            ∀ k, m.byteAt k = (m0.readAny a n).2.byteAt k) ∧
        (∀ m1, s.m.localCauses a n true = [] → m0.writeAny 1 a ((padTo n data).map (·, false)) = .ok m1 → Does (i true) s fun m => m = m1) ∧
        (∀ c w, lowest (s.m.localCauses a n w) = some c → Does (i w) s fun m => (w = false → m.hif.resp = List.replicate n 0xFF) ∧
          (s.m.on .MEM_ADDR_FAULT_VALID 0 = false → m.rd .MEM_ADDR_FAULT_VALID 0 = 1 ∧ m.rd .MEM_ADDR_FAULT_CAUSE 0 = c % 16) ∧
          ∀ k, m.byteAt k = s.m.byteAt k);
      (s.m.mainUp = true → Hif.apertureOk b = true → Does (.bar4WinWrite v) s fun m => m.rd .HIF_BAR4_WIN_BASE 0 = b ∧
        ∀ f i, f ≠ .HIF_BAR4_WIN_BASE → m.rd f i = s.m.rd f i) ∧
      (Hif.apertureOk b = false → Does (.bar4WinWrite v) s fun m => ∀ f i, m.rd f i = s.m.rd f i) ∧
      (s.m.ready = true → s.m.on .HIF_STATUS_BAR4_EN 0 = true →
        reaches (s.m.rd .HIF_BAR4_WIN_BASE 0 * 2 ^ 21 + off.toNat % 2 ^ 36) fun w => .bar4Access off w len data) ∧
      (s.m.ready = true → s.m.on .HIF_STATUS_MODE 0 = true → s.m.on .HIF_STATUS_HDM_EN 0 = true →
        off.toNat + n ≤ s.m.rd .HIF_HDM_SIZE 0 * 2 ^ 28 →
        reaches (s.m.rd .HIF_HDM_BASE 0 * 2 ^ 28 + off.toNat) fun w => .cxlMemAccess off w len data)) ∧
  (∀ (gen : BitVec 3) (width : BitVec 5) (s : State),
      let keeps := fun (m : Mach) (fs : List Fld) => (∀ f i, f ∉ fs → m.rd f i = s.m.rd f i) ∧ ∀ k, m.byteAt k = s.m.byteAt k;
      (s.m.mainUp = true → s.m.pins.perstLow = false → 2 < s.m.rd .MOD_BOOT_STAGE 0 → 4 ≤ gen.toNat → gen.toNat ≤ 6 →
        width.toNat ∈ [1, 4, 8, 16] → Does (.hostLinkTrained gen width) s fun m => m.rd .HIF_STATUS_LINK_UP 0 = 1 ∧
          m.rd .HIF_STATUS_GEN 0 = gen.toNat ∧ m.rd .HIF_STATUS_WIDTH 0 = width.toNat ∧
          keeps m [.HIF_STATUS_LINK_UP, .HIF_STATUS_GEN, .HIF_STATUS_WIDTH]) ∧
      Does .hostLinkDown s (fun m => m.rd .HIF_STATUS_LINK_UP 0 = 0 ∧ keeps m [.HIF_STATUS_LINK_UP]) ∧
      (s.m.mainUp = true → s.m.on .HIF_STATUS_MODE 0 = true → Does .hdmDecoderCommit s fun m => m.rd .HIF_STATUS_HDM_EN 0 = 1 ∧
        keeps m [.HIF_STATUS_HDM_EN]))

/-- R16, R410, R442: a descriptor whose turn has come ends at once with NOT_READY before READY (but for QUERY), and with BAD_DESC where
it is malformed. -/
def Obligations.DescriptorsTurnedAway : Prop :=
  ∀ (r : BitVec 8) (i : BitVec 16) (d : Desc) (ack sig fails : Bool) (ps : List Bool) (cause : BitVec 4) (data : List Byte) (s : State)
      (c : Instr) (ty : Nat),
    (c, ty) ∈ [(Instr.loadImage r i sig fails, 1), (.runStep r i, 2), (.dma r i ack cause data ps, 3), (.configWrite r i fails, 4), (.swap r i, 5),
      (.ingestSubmit r i, 6), (.checkpoint r i, 7), (.restore r i, 8), (.replay r i, 9), (.query r i, 10), (.fence r i, 11),
      (.dpReset r i, 12)] →
    s.m.findDesc r.toNat i.toNat ty = some d → s.m.hifUp = true → d.busy = false → s.m.mayStart d = true →
    (s.m.ready = false → ty ≠ 10 → Does c s fun m => s.m.Ended m d 5 0 0) ∧
    (s.m.ready = true → d.bad = true → Does c s fun m => s.m.Ended m d 1 0 0)

/-- R41, R412, R488, R490, R553: RUN_STEP, and REPLAY under EXACT, arm a step at STEP_AT, or end with STEP_BUSY, then TICK_MISSED;
REPLAY without EXACT ends with NOT_EXACT, and one whose tick cut lies outside its step with BAD_DESC. R273, R376, R377, R416: SWAP
makes its request pending, or ends with SWAP_BUSY or SWAP_LATE; INGEST_SUBMIT joins the waiting jobs, or ends with BUSY where eight
wait. COMPLETES: RUN_STEP, REPLAY, SWAP, INGEST_SUBMIT. -/
def Obligations.DescriptorsAccepted : Prop :=
  (∀ (r : BitVec 8) (i : BitVec 16) (d : Desc) (s : State),
      let at_ := d.at_ 0 8;
      let arms := fun (c : Instr) (q : StepReq) =>
        (s.m.stepBusy at_ = false → s.m.tickMissed at_ = false → Does c s fun m => m.armed = some q ∧
          m.rd .TICK_STEP_AT 0 = at_ % 2 ^ 64 ∧ (∀ f j, f ≠ .TICK_STEP_AT → m.rd f j = s.m.rd f j) ∧ m.host = s.m.host ∧
          ∀ h, m.core h = s.m.core h) ∧
        (s.m.stepBusy at_ = true → Does c s fun m => s.m.Ended m d 6 0 0 ∧ m.armed = s.m.armed) ∧
        (s.m.stepBusy at_ = false → s.m.tickMissed at_ = true → Does c s fun m => s.m.Ended m d 0x18 0 0 ∧ m.armed = s.m.armed);
      (s.m.Begins r i 2 d → d.zero 8 48 = true → arms (.runStep r i) ⟨d, at_, false, 0, 0, 0, 0, 0, 0, 0, 0, 0⟩) ∧
      (s.m.Begins r i 9 d → d.zero 12 16 = true → d.zero 24 48 = true → d.at_ 8 1 ≤ 2 → d.at_ 9 1 ≤ 3 → d.at_ 10 1 / 8 % 2 = 0 → d.at_ 11 1 ≤ 7 →
        (s.m.cutOutside d = true → Does (.replay r i) s fun m => s.m.Ended m d 1 0 0 ∧ m.armed = s.m.armed) ∧
        (s.m.cutOutside d = false → s.m.exact = true → arms (.replay r i) ⟨d, at_, true, d.at_ 8 1, d.at_ 9 1, d.at_ 10 1, d.at_ 11 1, d.at_ 16 8, 0, 0, 0, 0⟩) ∧
        (s.m.cutOutside d = false → s.m.exact = false → Does (.replay r i) s fun m => s.m.Ended m d 0x1D 0 0 ∧ m.armed = s.m.armed))) ∧
  (∀ (r : BitVec 8) (i : BitVec 16) (d : Desc) (s : State),
      let t := d.at_ 0 8;
      let next := s.m.rd .TICK_NUMBER 0 + 1;
      let late := t ≠ 0 ∧ (t < next ∨ t = next ∧ s.m.on .TICK_STATE_GEN_RUNNING 0 = true ∧ s.m.rd .TICK_NEXT 0 < s.m.time + 1000);
      (s.m.Begins r i 5 d → d.zero 8 48 = true →
        (s.m.tick.swap = none → ¬late → Does (.swap r i) s fun m => m.tick.swap = some ⟨t, s.m.time, some d⟩ ∧
          m.rd .MOD_STATUS_SWAP_PENDING 0 = 1 ∧ (∀ f j, f ≠ .MOD_STATUS_SWAP_PENDING → m.rd f j = s.m.rd f j) ∧ m.host = s.m.host) ∧
        (s.m.tick.swap.isSome = true → Does (.swap r i) s fun m => s.m.Ended m d 0x2E 0 0 ∧ m.tick.swap = s.m.tick.swap) ∧
        (s.m.tick.swap = none → late → Does (.swap r i) s fun m => s.m.Ended m d 0x2D 0 0 ∧ m.tick.swap = none)) ∧
      (s.m.Begins r i 6 d → d.zero 8 48 = true → t % 64 = 0 →
        (s.m.ing.jobs.length < 8 → Does (.ingestSubmit r i) s fun m => m.ing.jobs = s.m.ing.jobs ++ [⟨d, t⟩] ∧ m.host = s.m.host ∧
          ∀ f j, m.rd f j = s.m.rd f j) ∧
        (8 ≤ s.m.ing.jobs.length → Does (.ingestSubmit r i) s fun m => s.m.Ended m d 0x36 0 0 ∧ m.ing.jobs = s.m.ing.jobs)))

/-- R414, R418: CONFIG_WRITE performs the entries of its list in order, as writes of Cordwood, and reports how many name a register and
how many do not; an entry of a register without a row of its own writes it by its fields' access codes. A list that cannot be read,
or is poisoned, ends it so. QUERY writes the registers that it reads to host memory and reports how many it read. COMPLETES:
CONFIG_WRITE, QUERY. -/
def Obligations.ListsOfRegisters : Prop :=
  ∀ (r : BitVec 8) (i : BitVec 16) (d : Desc) (q : RegSpec) (j off v : Nat) (s : State),
    let a := d.at_ 0 8
    let n := d.at_ 8 4
    let m0 := (s.m.setBusy d).otherAccess 1
    let list := (List.range n).map fun k => s.m.hostRead (a + 16 * k) 16
    let m1 := list.foldl (fun m e => (m.configEntry e).2) m0
    let names := fun (e : List Byte) => leNat (e.take 4) % 8 == 0 && (regAt (writeOffset (leNat (e.take 4)))).isSome
      && leNat ((e.drop 4).take 4) == 0
    let poisoned := ∃ k, k < n ∧ (s.m.hostPoisoned (a + 16 * k) = true ∨ s.m.hostPoisoned (a + 16 * k + 15) = true)
    (s.m.Begins r i 4 d → d.zero 12 48 = true → 0 < n → n ≤ 4096 →
      (¬poisoned → m1.hif.descs.any (·.seq == d.seq) = true → Does (.configWrite r i false) s fun m =>
        m1.Ended m d 0 0 (list.countP names + 2 ^ 32 * (n - list.countP names)) ∧ ∀ h, m.core h = m1.core h) ∧
      Does (.configWrite r i true) s (fun m => s.m.Ended m d 2 0 0) ∧
      (poisoned → Does (.configWrite r i false) s fun m => s.m.Ended m d 3 0 0)) ∧
    (off < 2 ^ 32 → v < 2 ^ 64 → off % 8 = 0 → regAt (writeOffset off) = some (q, j) → s.m.takes 1 (writeOffset off) = true →
      (∀ f ∈ q.fields, s.m.refusesWrite 1 f.fld = false) → (∀ f, q.fields.head? = some f → f.fld.rowless = true) →
      s.m.Wrote 1 q j v (s.m.configEntry (leBytes 4 off ++ leBytes 4 0 ++ leBytes 8 v)).2 ∧
      s.m.OthersKept q j (s.m.configEntry (leBytes 4 off ++ leBytes 4 0 ++ leBytes 8 v)).2) ∧
    (s.m.Begins r i 10 d → d.zero 16 48 = true → d.at_ 0 4 % 8 = 0 → d.at_ 4 4 ≠ 0 → d.at_ 4 4 ≤ 8192 →
      d.at_ 0 4 + 8 * d.at_ 4 4 ≤ 0x4000000 →
      let cq := s.m.rd .HIF_RING_CQ_BASE d.ring * 4096 + 16 * s.m.rd .HIF_RING_STATUS_CQ_TAIL d.ring
      Does (.query r i) s fun m => s.m.Ended m d 0 0 (d.at_ 4 4) ∧ (∀ f k, f ≠ .HIF_RING_STATUS_CQ_TAIL → f ≠ .HIF_RING_STATUS_PHASE →
          f ≠ .HIF_DESC_DONE → f ≠ .MSIX_PBA → f.measured = false → m.rd f k = s.m.rd f k) ∧
        (d.at_ 4 4 = 1 → d.result = 0 → d.at_ 8 8 + 8 ≤ cq ∨ cq + 16 ≤ d.at_ 8 8 →
          m.hostRead (d.at_ 8 8) 8 = leBytes 8 ((s.m.setBusy d).readReg 0 (d.at_ 0 4)).1))

/-- R236, R419: FENCE waits while an earlier descriptor of its ring or of a ring of its mask is in progress; then it completes, and,
asked to, invalidates the instruction caches of its cores, which clears STALE. DP_RESET begins a data-path reset that it completes
with. COMPLETES: FENCE, DP_RESET. -/
def Obligations.Fences : Prop :=
  ∀ (r : BitVec 8) (i : BitVec 16) (d : Desc) (s : State),
    (s.m.Begins r i 11 d → d.at_ 8 1 ≤ 1 → d.zero 9 (if d.fmt1 then 28 else 16) = true →
      (Hif.fenceWaits s.m d = true → Does (.fence r i) s fun m => m = s.m.setBusy d) ∧
      (Hif.fenceWaits s.m d = false → Does (.fence r i) s fun m => s.m.Ended m d 0 0 0 ∧
        (∀ g, g < 64 → d.at_ 8 1 = 1 → bitsAt (d.at_ 0 8) g 1 = 1 →
          m.rd .CC_CODE_STATUS_STALE g = 0 ∧ (m.core g).icache = [] ∧ (m.core g).stopped = false) ∧
        (∀ g, d.at_ 8 1 = 0 ∨ bitsAt (d.at_ 0 8) g 1 = 0 → m.core g = s.m.core g) ∧ ∀ k, m.byteAt k = s.m.byteAt k)) ∧
    (s.m.Begins r i 12 d → d.zero 0 48 = true → s.m.aux.reset = none → s.m.aux.dpEnd = none → Does (.dpReset r i) s fun m =>
      m.aux.dpEnd.isSome = true ∧ m.step = none ∧ m.armed = none ∧ m.ctxs = [] ∧ (∀ n, m.rd .FLAG n = 0) ∧
      ∀ k, m.byteAt k = s.m.byteAt k)

/-- R26, R249, R268, R269, R413: a DMA descriptor whose sides pass their checks asks a remote source for its bytes; from a source on
this module, or when these have come, it moves the bytes in the layout asked for, and completes with their number, or with POISONED
where a byte was poisoned; bytes for a remote destination are sent, and it completes when that module has written them. A side that
fails its checks ends it with ADDR_FAULT and the lowest cause, which the module's first address fault captures, and raises nothing.
COMPLETES: DMA. -/
def Obligations.DmaDescriptor : Prop :=
  ∀ (r : BitVec 8) (i : BitVec 16) (ack : Bool) (ps : List Bool) (data : List Byte) (d : Desc) (bs : List PByte) (m1 m2 : Mach) (s : State),
    let c := d.dmaCmd
    let starts := s.m.Begins r i 3 d ∧ c.bad = false ∧ d.zero (if d.fmt1 then 22 else 24) 48 = true
    let goes := s.m.findDesc r.toNat i.toNat 3 = some d ∧ s.m.hifUp = true ∧ d.busy = true
    let causes := s.m.sideCauses c.src c.len false (c.layout == 2) none ++ s.m.sideCauses c.dst c.len true (c.layout == 1) none
    let m0 := if d.busy = true then s.m else s.m.setBusy d
    let out := relayout c.layout bs
    (starts ∧ causes = [] ∧ (s.m.side c.src).remote = none ∨ goes ∧ d.sent = false →
      Hif.dmaBehind d m0 = false → m0.sourceSide c.src c.len ack data ps = some (bs, m2) →
      ((m2.side c.dst).remote = none → m2.writeSide 0 (m2.side c.dst).addr (c.flags == 1) out = .ok m1 →
        m1.hif.descs.any (·.seq == d.seq) = true → Does (.dma r i ack 0 data ps) s fun m =>
          m1.Ended m d (if bs.any Prod.snd then 3 else 0) 0 c.len ∧ ∀ k, m.byteAt k = m1.byteAt k) ∧
      (∀ g, (m2.side c.dst).remote = some g → Does (.dma r i ack 0 data ps) s fun m =>
        m.fab.out = (m2.memWrite 0 g (m2.side c.dst).addr (c.flags == 1) out).fab.out ∧
        (∀ e ∈ m.hif.descs, e.seq = d.seq → e.sent = true ∧ e.poisoned = bs.any Prod.snd) ∧ ∀ k, m.byteAt k = m2.byteAt k)) ∧
    (∀ g, starts → causes = [] → (s.m.side c.src).remote = some g → Does (.dma r i ack 0 data ps) s fun m =>
      m = (s.m.setBusy d).memRead 0 g (s.m.side c.src).addr c.len) ∧
    (goes → d.sent = true → Does (.dma r i true 0 data ps) s fun m => s.m.Ended m d (if d.poisoned then 3 else 0) 0 c.len) ∧
    (∀ x, starts → lowest causes = some x → Does (.dma r i ack 0 data ps) s fun m => s.m.Ended m d 2 x 0 ∧
      (s.m.on .MEM_ADDR_FAULT_VALID 0 = false → m.rd .MEM_ADDR_FAULT_VALID 0 = 1 ∧ m.rd .MEM_ADDR_FAULT_CAUSE 0 = x % 16) ∧
      (∀ f j, f ∉ [.MEM_ADDR_FAULT_VALID, .MEM_ADDR_FAULT_ADDR, .MEM_ADDR_FAULT_CAUSE, .MEM_ADDR_FAULT_CORE, .MEM_ADDR_FAULT_HUB,
        .MEM_ADDR_FAULT_HUB_SRC, .HIF_RING_STATUS_CQ_TAIL, .HIF_RING_STATUS_PHASE, .HIF_DESC_DONE, .MSIX_PBA] → m.rd f j = s.m.rd f j) ∧
      ∀ k, m.byteAt k = s.m.byteAt k)

/-- R227, R228, R232, R236, R238, R411: LOAD_IMAGE reads its image and checks it. An image that breaks a check ends it with LOAD_ERROR;
one that passes begins its load, in which each bank it writes stands invalid and busy. The load ends with the code in its banks;
what a running step defers waits, and is applied in the first idle tick after; it completes once remote modules have written what it
sent them. COMPLETES: LOAD_IMAGE, LOAD_IMAGE_DEFERRED_APPLY. -/
def Obligations.ImageLoads : Prop :=
  ∀ (r : BitVec 8) (i : BitVec 16) (sig fails : Bool) (d : Desc) (img : List Byte) (m1 : Mach) (s : State),
    let q := (s.m.setBusy d).fixLayout.loadReq d
    let valid := fun (t : LoadText) => if t.at_ % 2 = 0 then Fld.SEQ_BANK_VALID_A else .SEQ_BANK_VALID_B
    (s.m.Begins r i 1 d → loadBad d = false → (s.m.setBusy d).fixLayout.allocBad d q.alloc = false →
      (s.m.setBusy d).fixLayout.readImage q fails = (.ok img, m1) → ¬(24 ≤ img.length ∧ fieldOf img 16 8 ≠ q.size) →
      m1.hif.descs.any (·.seq == d.seq) = true →
      (∀ e, zimStage1 img = .error e → Does (.loadImage r i sig fails) s fun m => m1.Ended m d 0x10 0 1 ∧ m.loads = m1.loads ∧ m.banks = m1.banks) ∧
      (∀ ss z, zimStage1 img = .ok ss → m1.sigErrs img ss sig = [] →
        let key := m1.cacheKey img ss q.alloc
        let hit := m1.cache.any fun e => e.1 == key
        m1.checkImage img ss q.alloc hit = .ok z → Does (.loadImage r i sig fails) s fun m =>
          m.loads = m1.loads ++ [⟨z.texts, z.shadow, key, z.bytes, ⟨d, z.image, hit, z.data, z.epi, z.flags⟩⟩] ∧ m.banks = m1.banks ∧
          ∀ t ∈ z.texts, t.bank = true → m.rd (valid t) (t.at_ / 2) = 0 ∧ m.rd .SEQ_BANK_LOAD_BUSY (t.at_ / 2) = 1)) ∧
    (∀ x : Loading, s.m.findDesc r.toNat i.toNat 1 = some d → s.m.hifUp = true → d.busy = true →
      s.m.loads.find? (fun x => x.rest.desc.seq == d.seq) = some x → (∀ t ∈ x.texts, t.bank = true ∧ s.m.rd .SEQ_BANK_SEL (t.at_ / 2) ≠ t.at_ % 2) →
      (x.texts.map (·.at_)).Nodup → (∀ f ∈ x.rest.flags, (Fld.ofKey f.1).1 = .FLAG ∨ (Fld.ofKey f.1).1 = .MFLAG) →
      Does (.loadImage r i sig fails) s fun m =>
        (∀ t ∈ x.texts, m.banks.get (fun _ => none) t.at_ = some t.text ∧ m.rd (valid t) (t.at_ / 2) = 1 ∧
          m.rd .SEQ_BANK_LOAD_BUSY (t.at_ / 2) = 0) ∧
        (∀ k, (∀ t ∈ x.texts, t.at_ ≠ k) → m.banks.get (fun _ => none) k = s.m.banks.get (fun _ => none) k) ∧
        (s.m.stepRunning = true → x.rest.data ≠ [] → m.deferred = s.m.deferred ++ [x.rest] ∧ ∀ k, m.byteAt k = s.m.byteAt k) ∧
        (s.m.stepRunning = false → x.rest.data = [] → (∀ v ∈ s.m.fab.memOut, v.1 ≠ x.rest.desc.seq) → m.image = some x.rest.image ∧ ∀ e ∈ m.hif.descs, e.seq ≠ x.rest.desc.seq)) ∧
    (∀ (x : Deferred) (rest : List Deferred) (m2 : Mach), s.m.deferred = x :: rest → s.m.stepRunning = false → s.m.hifUp = true → s.m.pathStopped = false →
      ({ s.m with deferred := rest } : Mach).dataWrites x.desc.seq x.data = .ok m2 → Does .loadImageDeferredApply s fun m =>
        m.deferred = rest ∧ (∀ k, m.byteAt k = m2.byteAt k) ∧
        ((∀ v ∈ m2.fab.memOut, v.1 ≠ x.desc.seq) → m.image = some x.image ∧ ∀ e ∈ m.hif.descs, e.seq ≠ x.desc.seq) ∧
        ((∃ v ∈ m2.fab.memOut, v.1 = x.desc.seq) → m.acking = m2.acking ++ [x]))

/-- R417, R483, R484: with a step armed, running or held CHECKPOINT and RESTORE end with STEP_BUSY. Else CHECKPOINT writes the module's
sections to its destination and reports their bytes, or that there are too many; RESTORE of a checkpoint that fails a check ends
with CKPT_INVALID, and of one that passes restores its sections, with the tick where the generator stands. COMPLETES: CHECKPOINT,
RESTORE. -/
def Obligations.Checkpoints : Prop :=
  ∀ (r : BitVec 8) (i : BitVec 16) (d : Desc) (m1 : Mach) (s : State),
    let m0 := s.m.setBusy d
    let a := d.at_ 0 8
    let n := d.at_ 8 8
    let ck := m0.ckptSecs
    let b := ck.2.side a
    let bs := ck.2.ckptBytes ck.1
    let rd := m0.readAny (s.m.side a).addr n
    let src := rd.1.map Prod.fst
    let holds := fun (m : Mach) => m.hif.descs.any (·.seq == d.seq) = true
    (s.m.stepAny = true →
      (s.m.Begins r i 7 d → d.zero 16 48 = true → Does (.checkpoint r i) s fun m => s.m.Ended m d 6 0 0) ∧
      (s.m.Begins r i 8 d → d.zero 16 48 = true → Does (.restore r i) s fun m => s.m.Ended m d 6 0 0)) ∧
    (s.m.stepAny = false → badForm a = false →
      (s.m.Begins r i 7 d → d.zero 16 48 = true → b.remote = none → ck.2.destBad b.addr bs.length = false →
        (n < bs.length → holds ck.2 → Does (.checkpoint r i) s fun m => ck.2.Ended m d 0x1E 0 0 ∧ m.mem = ck.2.mem) ∧
        (bs.length ≤ n → ck.2.localCauses b.addr bs.length true = [] → ck.2.writeAny 4 b.addr bs = .ok m1 → holds m1 →
          Does (.checkpoint r i) s fun m => m1.Ended m d (if bs.any Prod.snd then 3 else 0) 0 bs.length ∧ m.mem = m1.mem)) ∧
      (s.m.Begins r i 8 d → d.zero 16 48 = true → (s.m.side a).remote = none → m0.localCauses (s.m.side a).addr (max 1 n) false = [] →
        (rd.1.any Prod.snd = true → holds rd.2 → Does (.restore r i) s fun m => rd.2.Ended m d 3 0 0 ∧ m.mem = rd.2.mem) ∧
        (rd.1.any Prod.snd = false → rd.2.ckptOpen src = none → holds rd.2 → Does (.restore r i) s fun m =>
          rd.2.Ended m d 0x1F 0 0 ∧ m.mem = rd.2.mem) ∧
        (∀ ss, rd.1.any Prod.snd = false → rd.2.ckptOpen src = some ss → rd.2.emptyData.restoreSecs ss = .ok m1 → holds m1 →
          Does (.restore r i) s fun m => m1.Ended m d 0 0 (fieldOf src 32 8) ∧ m.mem = m1.mem ∧ m.shadow = m1.shadow ∧
            (m1.on .TICK_STATE_GEN_RUNNING 0 = false → m.rd .TICK_NUMBER 0 = fieldOf src 32 8 % 2 ^ 64))))

/-- R473, R474, R475, R476, R481, R489, R491: a source of the freeze freezes a module that runs, and records itself with TIME; the
host's triggers a CENTRE trace where TRIG enables it. A host's release ends the freeze where no step or cut is held. A cut whose
commands have settled, or whose time has come, freezes the module, and holds its step. R61, R472, R477, R480: the clear of the
profile counters zeroes them and nothing else. The trace writer, once the next snapshot record has entered its buffer where that has
room, takes the oldest record of the next region in turn, and writes it at WPTR of reserved region 0 while writing has not stopped,
and to no other place; once it has, the record is dropped and counted. COMPLETES: FREEZE_HOST, FREEZE_RELEASE, FREEZE_IN_ASSERT,
FREEZE_TIME_REACHED, CUT_SETTLE, PROF_CLEAR, TRACE_RECORD_WRITE. -/
def Obligations.DebugEvents : Prop :=
  (∀ s : State, s.m.mainUp = true →
      let freezes := fun (c : Instr) (src : Nat) (at_ : Nat) => Does c s fun m => m.rd .DBG_FREEZE_CTRL_FROZEN 0 = 1 ∧
        m.rd .MOD_STATUS_FROZEN 0 = 1 ∧ m.rd .TICK_STATE_HELD 0 = 1 ∧ m.rd .DBG_FREEZE_CTRL_SOURCE 0 = src ∧
        m.rd .DBG_FREEZE_AT 0 = at_ % 2 ^ 64 ∧ ∀ k, m.byteAt k = s.m.byteAt k;
      (s.m.frozen = false →
        (s.m.ready = true → freezes .freezeHost 5 s.m.time ∧
          (s.m.rd .MOD_MODE_TRACE 0 = 3 → bitsAt (s.m.rd .DBG_TRACE_CFG_TRIG 0) 5 1 = 1 → Does .freezeHost s fun m =>
            m.rd .DBG_TRACE_STATUS_TRIGGERED 0 = 1)) ∧
        (s.m.pins.scan = 0 → s.m.freezeOn 0 = true → freezes .freezeInAssert 1 s.m.time) ∧
        (s.m.aux.inLimits = true → s.m.freezeOn 2 = true → s.m.time ≤ s.m.rd .DBG_FREEZE_TIME 0 → freezes .freezeTimeReached 3 (s.m.rd .DBG_FREEZE_TIME 0)) ∧
        (∀ (c : CutRun) (st : StepReq), s.m.cut = some c → s.m.step = some st →
          let done := (List.range 7).all fun u => s.m.pendOf c.cores u == 0;
          Does .cutSettle s fun m => m.cut = none ∧ m.step = none ∧ m.cutHeld = true ∧ m.rd .DBG_CUT_REACHED 0 = 1 ∧
            m.rd .DBG_CUT_SETTLED 0 = b2n done ∧ m.rd .DBG_FREEZE_CTRL_FROZEN 0 = 1 ∧ m.rd .DBG_FREEZE_CTRL_SOURCE 0 = 7 ∧
            m.rd .MOD_STATUS_STEP_RUNNING 0 = 0 ∧ m.rd .TICK_STATE_HELD 0 = 1)) ∧
      (s.m.ready = true → s.m.frozen = true →
        (s.m.stepRunning = false → s.m.cut = none → s.m.cutHeld = false → Does .freezeRelease s fun m => m.rd .DBG_FREEZE_CTRL_FROZEN 0 = 0 ∧
          m.rd .MOD_STATUS_FROZEN 0 = 0 ∧ m.rd .DBG_FREEZE_CTRL_HOST 0 = 0 ∧ m.rd .TICK_STATE_HELD 0 = 0 ∧ (∀ h, m.core h = s.m.core h) ∧
          ∀ k, m.byteAt k = s.m.byteAt k) ∧
        (s.m.stepRunning = true ∨ s.m.cut.isSome = true ∨ s.m.cutHeld = true → Does .freezeRelease s fun m => ∀ f i, m.rd f i = s.m.rd f i))) ∧
  (∀ (src : Nat) (t : TraceRec) (rest : List TraceRec) (s : State),
      let m0 := s.m.offerSnap;
      let a := s.m.rsvBase 0 + 32 * s.m.rd .DBG_TRACE_STATUS_WPTR 0;
      (s.m.ready = true → s.m.mainUp = true → Does .profClear s fun m => (∀ i, m.rd .PROF_CNT i = 0 ∧ m.rd .DBG_HPROF_CNT i = 0) ∧
        (∀ f i, f ≠ .PROF_CNT → f ≠ .DBG_HPROF_CNT → m.rd f i = s.m.rd f i) ∧ ∀ h, m.core h = s.m.core h) ∧
      (s.m.mainUp = true → s.m.tracing = true →
        ((List.range 69).map fun i => (m0.dbg.nextBuf + i) % 69).find? (fun q => !(m0.buf q).recs.isEmpty) = some src →
        (m0.buf src).recs = t :: rest → s.m.traceLen ≠ 0 →
        (s.m.on .DBG_TRACE_STATUS_STOPPED 0 = false → Does .traceRecordWrite s fun m => (m.buf src).recs = rest ∧
          (∀ q, q ≠ src → m.buf q = m0.buf q) ∧ m.dbg.snapQ = m0.dbg.snapQ ∧ m.mem = (m0.unitStore a t.bytes).mem ∧
          (∀ k, k ∉ plainKeys a 32 → m.byteAt k = s.m.byteAt k) ∧
          (s.m.frozen = false → m.rd .DBG_TRACE_WRITTEN 0 = (s.m.rd .DBG_TRACE_WRITTEN 0 + 1) % 2 ^ 48)) ∧
        (s.m.on .DBG_TRACE_STATUS_STOPPED 0 = true → Does .traceRecordWrite s fun m => (m.buf src).recs = rest ∧
          (∀ k, m.byteAt k = s.m.byteAt k) ∧ m.rd .DBG_TRACE_WRITTEN 0 = s.m.rd .DBG_TRACE_WRITTEN 0)))

/-- R90, R505, R506, R508, R509: a test that may start is BUSY until its time; one that may not is REFUSED. At its end its result
stands, and a tested core holds an empty store, empty queues and zero tiles; a failure within a row or column that serves no logical
one, or of a spare, is SPARE_BAD. COMPLETES: CORE_TEST_START, CORE_TEST_DONE, ENGINE_TEST_START, ENGINE_TEST_DONE, LINK_TEST_START,
LINK_TEST_DONE. -/
def Obligations.Tests : Prop :=
  ∀ (g6 k6 : BitVec 6) (a m far fail : Bool) (o : TestOut) (e7 : BitVec 7) (ms : BitVec 16) (sy : BitVec 48) (un : BitVec 16) (ca : BitVec 17)
      (t : Timer) (s : State),
    let g := g6.toNat
    let e := e7.toNat
    let k := k6.toNat
    let inLine := decide (o.unit.toNat < 2) && !o.spread
    let serves := s.m.servedBy g o.kind.toNat (o.index.toNat % 130)
    let failed := o.fail && !(inLine && serves.isNone)
    let spare := o.spareBad && (s.m.servedBy g o.spareKind.toNat (o.spareIndex.toNat % 130)).isNone || o.fail && !failed
    (s.m.mainUp = true → s.m.ready = true →
      (bitsAt (s.m.rd .MOD_FENCE 0) g 1 = 1 → s.m.on .CORE_TEST_CTRL_BUSY g = false → Does (.coreTestStart g6 a m) s fun m' =>
        m'.rd .CORE_TEST_CTRL_BUSY g = 1 ∧ m'.rd .CORE_TEST_CTRL_RESULT g = 0 ∧ m'.timer g = some ⟨s.m.time + s.m.testNs a m, b2n a + 2 * b2n m⟩ ∧
        m'.core g = s.m.core g) ∧
      (bitsAt (s.m.rd .MOD_FENCE 0) g 1 = 0 → Does (.coreTestStart g6 a m) s fun m' => m'.rd .CORE_TEST_CTRL_RESULT g = 3 ∧
        m'.timers = s.m.timers) ∧
      (e < 96 → s.m.engineFenced e = true → s.m.engineHolds e = false → s.m.on .ING_ENG_TEST_BUSY 0 = false → Does (.engineTestStart e7) s fun m' =>
        m'.rd .ING_ENG_TEST_BUSY 0 = 1 ∧ m'.rd .ING_ENG_TEST_RESULT 0 = 0 ∧ m'.rd .ING_ENG_TEST_ENGINE 0 = e ∧
        m'.timer 64 = some ⟨s.m.time + (if e < 64 then 40000000 else 15000000), e⟩) ∧
      (e < 96 → s.m.engineFenced e = false → Does (.engineTestStart e7) s fun m' => m'.rd .ING_ENG_TEST_RESULT 0 = 3 ∧ m'.timers = s.m.timers) ∧
      (k < 36 → ms ≠ 0 → s.m.on .FAB_LINK_TEST_BUSY 0 = false →
        (s.m.rd .FAB_PORT_CFG_LINK_PORT k = 7 → (far = true → s.m.linkUp k = true ∧ s.m.rd .FAB_LINK_LEVEL k = 4) →
          Does (.linkTestStart k6 far ms) s fun m' => m'.rd .FAB_LINK_TEST_BUSY 0 = 1 ∧ m'.rd .FAB_LINK_TEST_RESULT 0 = 0 ∧
            m'.rd .FAB_LINK_TEST_LINK 0 = k ∧ m'.rd .FAB_LINK_TEST_MODE 0 = b2n far ∧ m'.timer 65 = some ⟨s.m.time + ms.toNat * 1000000, k⟩) ∧
        (s.m.rd .FAB_PORT_CFG_LINK_PORT k ≠ 7 → Does (.linkTestStart k6 far ms) s fun m' => m'.rd .FAB_LINK_TEST_RESULT 0 = 3 ∧
          m'.timers = s.m.timers))) ∧
    (s.m.mainUp = true →
      (s.m.timer g = some t → s.m.frozen = false → Does (.coreTestDone g6 o) s fun m' => m'.timer g = none ∧
        m'.rd .CORE_TEST_CTRL_BUSY g = 0 ∧ m'.rd .CORE_TEST_CTRL_RESULT g = (if failed then 2 else 1) ∧
        m'.rd .CORE_TEST_CTRL_SPARE_BAD g = b2n spare ∧
        (failed = true → inLine = true → m'.rd .CORE_TEST_CTRL_LINDEX g = serves.getD 0 % 128) ∧ (m'.core g).q = [] ∧ (m'.core g).aq = [] ∧ (m'.core g).acc = [] ∧
        (∀ b, g * 2 ^ 24 ≤ b → b < (g + 1) * 2 ^ 24 → m'.byteAt b = 0) ∧
        ∀ b, b < g * 2 ^ 24 ∨ (g + 1) * 2 ^ 24 ≤ b → m'.byteAt b = s.m.byteAt b) ∧
      (s.m.timer 64 = some t → Does (.engineTestDone fail) s fun m' => m'.timer 64 = none ∧ m'.rd .ING_ENG_TEST_BUSY 0 = 0 ∧
        m'.rd .ING_ENG_TEST_RESULT 0 = (if fail then 2 else 1)) ∧
      (s.m.timer 65 = some t → Does (.linkTestDone sy un ca) s fun m' => m'.timer 65 = none ∧ m'.rd .FAB_LINK_TEST_BUSY 0 = 0 ∧
        m'.rd .FAB_LINK_TEST_RESULT 0 = (if un ≠ 0 ∨ ca ≠ 0 then 2 else 1) ∧ m'.rd .FAB_LINK_TEST_ERR_SYMBOLS 0 = sy.toNat ∧
        m'.rd .FAB_LINK_TEST_ERR_UNCORR 0 = un.toNat ∧ m'.rd .FAB_LINK_TEST_CARR_FAILED 0 = ca.toNat))

/-- R342, R363, R371, R510, R511: a laser port is released while its partner has light; a unit plugged into a released or dark port
lights it; a unit's loss leaves the partner to feed all carriers, or every link that was not DOWN failed; and light on a dark module
makes its links train. A unit gives light with at least 0.6 W, of which every line has 30 mW. COMPLETES: LASER_RELEASE,
LASER_UNIT_PLUGGED, LASER_UNIT_LOSS, LIGHT_APPEARS. -/
def Obligations.Lasers : Prop :=
  ∀ (n1 : BitVec 1) (p p0 p1 : BitVec 8) (l l0 l1 : Bool) (s : State),
    let n := n1.toNat
    let partner := s.m.on (lightFld (1 - n)) 0
    (s.m.mainUp = true → s.m.ready = true →
      (partner = true → Does (.laserRelease n1) s fun m => m.rd (releaseFld n) 0 = 1 ∧ m.rd (safeFld n) 0 = 1 ∧ m.rd .FAB_LASER_SINGLE 0 = 1 ∧
        ∀ f i, f ≠ releaseFld n → f ≠ safeFld n → f ≠ .FAB_LASER_SINGLE → m.rd f i = s.m.rd f i) ∧
      (partner = false → Does (.laserRelease n1) s fun m => m.rd (refusedFld n) 0 = 1 ∧ ∀ f i, f ≠ refusedFld n → m.rd f i = s.m.rd f i) ∧
      (hasLight p.toNat l = false → Does (.laserUnitPlugged n1 p l) s fun m => m.rd (powerFld n) 0 = p.toNat ∧
        ∀ f i, f ≠ powerFld n → m.rd f i = s.m.rd f i) ∧
      (hasLight p.toNat l = true → s.m.on (releaseFld n) 0 = true ∨ s.m.on (lightFld n) 0 = false → Does (.laserUnitPlugged n1 p l) s fun m => m.rd (lightFld n) 0 = 1 ∧
        m.rd (powerFld n) 0 = p.toNat ∧ m.rd (releaseFld n) 0 = 0 ∧ m.rd (safeFld n) 0 = 0 ∧ m.rd .FAB_LASER_SINGLE 0 = b2n !partner)) ∧
    (s.m.mainUp = true →
      (s.m.on (lightFld n) 0 = true → Does (.laserUnitLoss n1 p) s fun m => m.rd (lightFld n) 0 = 0 ∧ m.rd (powerFld n) 0 = p.toNat ∧
        (partner = true → m.rd .FAB_LASER_SINGLE 0 = 1 ∧ ∀ k, m.linkState k = s.m.linkState k) ∧
        (partner = false → m.rd .MOD_STATUS_NO_LIGHT 0 = 1 ∧ ∀ k, k < 36 → s.m.linkState k ≠ 0 → m.linkState k = 10)) ∧
      (s.m.on .MOD_STATUS_NO_LIGHT 0 = true → hasLight p0.toNat l0 = true ∨ hasLight p1.toNat l1 = true →
        Does (.lightAppears p0 p1 l0 l1) s fun m => m.rd .MOD_STATUS_NO_LIGHT 0 = 0 ∧
        m.rd (lightFld 0) 0 = b2n (hasLight p0.toNat l0) ∧ m.rd (lightFld 1) 0 = b2n (hasLight p1.toNat l1) ∧
        ∀ k, m.linkState k = if k < 36 ∧ (s.m.linkState k = 0 ∨ s.m.linkState k = 10) then 1 else s.m.linkState k))

/-- R31, R317, R318, R320, R322, R323, R327, R333: a RED_TX end takes the VEC's oldest result, or the oldest drain's pushes, into its
channel's block; a full block is copied to the bucket where it fits, and half a bucket releases all of it; a released block starts
with the entries that its buffer or the bucket holds, and is complete at once in a slice without an axis; a hop of the reduce-
scatter adds the arrived segment to the block's own and goes on to the next step, level or phase; one of the all-gather stores it,
and the last leaves the result complete. COMPLETES: RED_TX_ACCEPT, BUCKET_COPY, BLOCK_REDUCE_START, HOP_ADDITION. -/
def Obligations.Reduction : Prop :=
  ∀ (n6 g6 : BitVec 6) (c4 : BitVec 4) (b : RedBlk) (s : State),
    let n := n6.toNat
    let g := g6.toNat
    let dst := 32 + c4.toNat
    let same := fun (e b' : RedBlk) => e.n = b'.n ∧ e.g = b'.g ∧ e.k = b'.k
    let put := fun (b' : RedBlk) => s.m.red.blks.map fun e => if same e b' then b' else e
    (s.m.chKind g c4.toNat = 4 →
      (∀ (p : VecPend) (rest : List VecPend) (m1 : Mach), (s.m.core g).vecPipe = p :: rest → p.dst = dst →
        s.m.unitRuns g .vec = true → s.m.redAccept g c4.toNat p.ent = some m1 → Does (.redTxAccept g6 c4) s fun m => m.red = m1.red ∧
          (m.core g).vecPipe = rest ∧ (∀ h, h ≠ g → m.core h = s.m.core h) ∧ ∀ k, m.byteAt k = m1.byteAt k) ∧
      ((∀ p, (s.m.core g).vecPipe.head? = some p → p.dst ≠ dst) → exec (.redTxAccept g6 c4) s = exec (.drainEntryPush g6) s)) ∧
    (∀ m1, Reduce.works s.m = true → s.m.redTile = false →
      let size := s.m.rd .RED_BUCKET_SIZE 0 * 2 ^ 20
      let b' := { b with bucketed := true, place := freeRuns 0 b.units (runsOf (s.m.red.blks.filter (·.bucketed))) }
      s.m.red.blks.find? (fun b => b.n == n && b.g == g && b.kind == 0 && decide (b.need ≤ b.cnt) && !b.released && !b.bucketed) = some b →
      s.m.bucketBytes (fun _ => true) + b.need * redWidth b.op ≤ size → Reduce.copyUnits b b' s.m = (true, m1) →
      Does (.bucketCopy n6 g6) s fun m =>
        let m2 := m1.putBlk b'
        m.red.blks = (if size / 2 ≤ m2.bucketBytes (fun b => !b.released) then
            m2.red.blks.map fun b => if b.bucketed then { b with released := true } else b
          else m2.red.blks) ∧ ∀ k, m.byteAt k = m1.byteAt k) ∧
    (Reduce.works s.m = true → (∀ e ∈ s.m.red.blks, e.n = n → e.g = g → e.started = true → e.done = true) →
      (s.m.red.blks.filter fun e => e.n == n && e.g == g).find? (fun b => b.released && !b.started) = some b →
      let es := Reduce.entries b s.m
      let vals := es.1.flatMap fun e => redLanes b e.bits
      let bad := ((List.range es.1.length).zip es.1).foldl (fun t e => NMap.set (fun _ => false) t e.1 e.2.poison) []
      let axes := s.m.streamAxes b.n
      let me := s.m.rank s.m.myId
      let b0 : RedBlk := { b with started := true, axes := axes, vals := vals, poison := bad, level := 0, h := 1 }
      let b1 : RedBlk := if b.kind = 2 then { b0 with members := [(me, vals)], gather := true, level := axes.length - 1, poison := bad.map fun (kv : Nat × Bool) => (me * b.need + kv.1, kv.2) } else b0
      (axes ≠ [] → Does (.blockReduceStart n6 g6) s fun m => m.red.blks = put b1 ∧ ∀ k, m.byteAt k = es.2.byteAt k) ∧
      (axes = [] → b.kind ≠ 0 → Does (.blockReduceStart n6 g6) s fun m => m.red.blks = put { b1 with done := true } ∧
        ∀ k, m.byteAt k = es.2.byteAt k) ∧
      (∀ m1, axes = [] → b.kind = 0 → (es.2.putBlk b1).redResults b1 = (true, m1) → Does (.blockReduceStart n6 g6) s fun m =>
        m.red.blks = m1.red.blks.filter (fun e => !(e.n == b.n && e.g == b.g && e.k == b.k)) ∧ ∀ k, m.byteAt k = m1.byteAt k)) ∧
    (∀ (mism : BitVec 2) (x : RedSeg), Reduce.works s.m = true → s.m.red.blks.find? (fun b => b.n == n && b.g == g && b.started && !b.done) = some b →
      s.m.red.arrived.find? (·.fits b) = some x → x.poison = false →
      let ax := b.axes.getD b.level 0
      let ring := s.m.extent ax
      let pos := s.m.ringPos s.m.myId ax
      let spr := (s.m.spanAt b b.level).seg ring ((pos + 2 * ring - 1 - b.h) % ring)
      let spg := (s.m.spanAt b b.level).seg ring ((pos + ring - b.h) % ring)
      let b0 := { b with checked := if b.h = 1 then s.m.rd .MOD_MODE_CHECK_RATE 0 else x.rate }
      let sum := b0.store spr (List.zipWith (redAdd b.op) x.vals (b.slice spr))
      let goes := fun (bs : List RedBlk) => Does (.hopAddition n6 g6 mism) s fun m => m.red.arrived = s.m.red.arrived.erase x ∧ m.red.blks = bs
      (b.gather = false → s.m.unitRuns b.g .vec = true → b.poisonIn spr = false → x.vals.length = spr.len → mism.toNat ≤ 1 →
        (b.h + 1 < ring → goes (put { b0 with h := b.h + 1 })) ∧
        (ring ≤ b.h + 1 → b.level + 1 < b.axes.length → goes (put { sum with h := 1, level := b.level + 1 })) ∧
        (ring ≤ b.h + 1 → b.axes.length ≤ b.level + 1 → goes (put { sum with h := 1, gather := true }))) ∧
      (b.gather = true → b.kind ≠ 2 → x.vals.length = spg.len →
        (b.h + 1 < ring → goes (put { b.store spg x.vals with h := b.h + 1 })) ∧
        (ring ≤ b.h + 1 → b.level ≠ 0 → goes (put { b.store spg x.vals with h := 1, level := b.level - 1 })) ∧
        (ring ≤ b.h + 1 → b.level = 0 → b.kind ≠ 0 → goes (put { b.store spg x.vals with done := true })) ∧
        (ring ≤ b.h + 1 → b.level = 0 → b.kind = 0 → goes (s.m.red.blks.filter fun e => !(e.n == b.n && e.g == b.g && e.k == b.k)))))

/-- R298, R343, R344, R345, R346, R348, R384, R508: the next good DATA frame of a link is accepted and acknowledged; a NET entry that is
due for a core's end enters it, and the last bytes of an ingest item bring that to the current job; a frame that is damaged or ahead
is answered with NAK, a copy with ACK. ACK takes frames from the retry buffer, NAK sends the others again, CREDIT returns credits at
level 3, a control frame's header at level 4. A PROBE is echoed; IDLE does nothing more (the payload layouts are the model's, log
entry 30). COMPLETES: DATA, ACK, NAK, CREDIT, PROBE, IDLE. -/
def Obligations.LinkFrames : Prop :=
  ∀ (k6 : BitVec 6) (f : HFrame) (sq cr : BitVec 32) (c3 : BitVec 3) (n : BitVec 16) (payload : List Byte) (s : State),
    let k := k6.toNat
    let m0 := s.m.headerCredit k cr.toNat
    let due := s.m.fab.rxSeq.get nat0 k
    let seqFrame := fun (ty q : Nat) => s.m.stamped k ({ s.m.ctlFrame ty [] with seq := q % 2 ^ 32 } : Frame)
    let us := m0.fab.unacked.get (fun _ => []) k
    let again : List Unacked := (us.filter fun u => decide (seqDiff u.frame.seq sq.toNat < 2 ^ 31)).map fun u => ⟨u.frame, u.resent + 1⟩
    k < 36 → s.m.mainUp = true → s.m.linkLit k = true →
    (1 ≤ f.cls.toNat → f.cls.toNat ≤ 4 → s.m.linkState k ≠ 2 → s.m.linkState k ≠ 9 → s.m.on .FAB_LINK_IN_PORT k = true →
      (f.seq.toNat = due →
        Does (.data k6 f 0 false true) s (fun m => m.fab.rxSeq.get nat0 k = (f.seq.toNat + 1) % 2 ^ 32 ∧ (k, seqFrame 2 f.seq.toNat) ∈ m.fab.out) ∧
        (f.dMod.toNat = s.m.myId → s.m.aux.dpEnd = none → s.m.fab.early = [] →
          f.flow.toNat = s.m.fab.flowRx.get nat0 (flowKey f.sCore.toNat f.sMod.toNat f.cls.toNat) →
          (f.cls = 1 → s.m.genClass f.gen.toNat = 0 → f.credit = 0 → s.m.fab.wait = [] →
            Does (.data k6 f 0 false true) s fun m => (m.core f.dCore.toNat).chan f.dEnd.toNat =
              (s.m.core f.dCore.toNat).chan f.dEnd.toNat ++ [⟨entOf f.payload f.poison, 0, k + 1, false, false⟩] ∧
              ∀ h, h ≠ f.dCore.toNat → m.core h = s.m.core h) ∧
          (∀ c, f.cls = 4 → s.m.ing.cur = some c →
            let old := s.m.ing.coming.get (fun _ => []) f.sMod.toNat
            let bs := (if fieldAt f.payload 0 8 = 0 then old else []) ++ f.payload.drop 8
            let it := ShufItem.ofBytes bs
            ¬(fieldAt f.payload 0 8 = 0 ∧ old = []) →
            (fieldAt bs 0 8 ≤ bs.length → c.owns it = true → c.holds (s.m.rd .ING_CFG_SHUF_WINDOW 0) it.k = true →
              Does (.data k6 f 0 false true) s fun m => m.ing.cur = some (c.take it) ∧ m.ing.coming.get (fun _ => []) f.sMod.toNat = []) ∧
            (bs.length < fieldAt bs 0 8 → Does (.data k6 f 0 false true) s fun m => m.ing.cur = some c ∧
              m.ing.coming.get (fun _ => []) f.sMod.toNat = bs)))) ∧
      (1 ≤ seqDiff f.seq.toNat due → seqDiff f.seq.toNat due < 2 ^ 31 → Does (.data k6 f 0 false true) s fun m =>
        m.fab.out = s.m.fab.out ++ [(k, seqFrame 3 due)] ∧ m.fab.rxSeq = s.m.fab.rxSeq ∧ ∀ h, m.core h = s.m.core h) ∧
      (2 ^ 31 ≤ seqDiff f.seq.toNat due → Does (.data k6 f 0 false true) s fun m =>
        m.fab.out = s.m.fab.out ++ [(k, seqFrame 2 (due + 2 ^ 32 - 1))] ∧ m.fab.rxSeq = s.m.fab.rxSeq ∧ ∀ h, m.core h = s.m.core h)) ∧
    (∀ unc, Does (.data k6 f 0 unc false) s fun m => m.fab.out = s.m.fab.out ++ [(k, seqFrame 3 due)] ∧ m.fab.rxSeq = s.m.fab.rxSeq) ∧
    (m0.fab.wait = [] → us.any (fun u => u.frame.seq == sq.toNat) = true → Does (.ack k6 sq cr) s fun m =>
      m.fab.unacked.get (fun _ => []) k = us.filter (fun u => decide (u.frame.seq ≠ sq.toNat ∧ seqDiff u.frame.seq sq.toNat < 2 ^ 31)) ∧
      (∀ j, j ≠ k → m.fab.unacked.get (fun _ => []) j = m0.fab.unacked.get (fun _ => []) j) ∧ m.fab.out = m0.fab.out) ∧
    (again.any (fun u => decide (8 ≤ u.resent)) = false → Does (.nak k6 sq cr) s fun m => m.fab.unacked.get (fun _ => []) k = again ∧
        m.fab.out = m0.fab.out ++ again.map fun u => (k, u.frame)) ∧
    (again.any (fun u => decide (8 ≤ u.resent)) = true → Does (.nak k6 sq cr) s fun m => m.linkState k = 10) ∧
    (s.m.rd .FAB_LINK_LEVEL k = 3 → 1 ≤ c3.toNat → c3.toNat ≤ 4 → s.m.fab.wait = [] → Does (.credit k6 c3 n) s fun m =>
      m.fab.credits.get nat0 (credKey k c3.toNat) = s.m.fab.credits.get nat0 (credKey k c3.toNat) + n.toNat ∧ m.fab.out = s.m.fab.out) ∧
    (m0.linkState k = 3 → m0.rd .FAB_LINK_LEVEL k = 4 → m0.on .FAB_LINK_TEST_BUSY 0 = false → Does (.probe k6 payload cr) s fun m =>
      m.fab.out = m0.fab.out ++ [(k, m0.stamped k (m0.ctlFrame 0x40 payload))] ∧ ∀ f i, m.rd f i = m0.rd f i) ∧
    Does (.idle k6 cr) s (fun m => m = m0)

/-- R342, R350, R352, R363, R367, R368, R369, R371: what links come to. GOODBYE makes one GONE, DPRESET marks it and the end of its
peer's reset clears the mark; a failure makes it FAILED and takes it from its port; loss of light makes a direction's links ABSENT,
and its return, or the peer's, makes them train; a trained link begins its identity exchange with its credits. A bad carrier takes
the spare, a second one fails the link. COMPLETES: GOODBYE, DPRESET, PEER_DP_RESET_END, LINK_FAIL, CARRIER_DEGRADED, LINK_TRAINED,
LOSS_OF_LIGHT, PEER_LIGHT_RETURN, DPRESET_TIMER. -/
def Obligations.LinkStates : Prop :=
  ∀ (k6 : BitVec 6) (d3 : BitVec 3) (c5 : BitVec 5) (net red mem ing : BitVec 16) (cr : BitVec 32) (s : State), s.m.mainUp = true →
    let k := k6.toNat
    let gives := fun (c : Instr) (st : Nat → Nat) => Does c s fun m => (∀ j, m.linkState j = st j) ∧ ∀ a, m.byteAt a = s.m.byteAt a
    let one := fun (v j : Nat) => if j = k then v else s.m.linkState j
    (k < 36 →
      (s.m.linkLit k = true → gives (.goodbye k6 cr) (one 7)) ∧
      (s.m.linkState k = 3 → gives (.dpreset k6 cr) (one 8)) ∧
      (s.m.linkState k = 8 → gives (.peerDpResetEnd k6) (one 3)) ∧
      (s.m.linkState k ≠ 0 → gives (.linkFail k6) (one 10) ∧ (s.m.linkState k ≠ 10 → Does (.linkFail k6) s fun m =>
        m.rd .FAB_LINK_IN_PORT k = 0 ∧ m.rd .FAB_LINK_PORT k = 7 ∧ m.rd .FAB_LINK_LEVEL k = 0)) ∧
      (s.m.linkLit k = true → c5.toNat < 16 →
        (s.m.rd .FAB_LINK_SPARED k = 31 → Does (.carrierDegraded k6 c5) s fun m => m.rd .FAB_LINK_SPARED k = c5.toNat ∧
          (∀ j, m.linkState j = s.m.linkState j) ∧ ∀ j, j ≠ k → m.rd .FAB_LINK_SPARED j = s.m.rd .FAB_LINK_SPARED j) ∧
        (s.m.rd .FAB_LINK_SPARED k ≠ 31 → s.m.rd .FAB_LINK_SPARED k ≠ c5.toNat → gives (.carrierDegraded k6 c5) (one 10))) ∧
      (s.m.linkState k = 1 ∨ s.m.linkState k = 10 → gives (.linkTrained k6 net red mem ing) (one 2) ∧
        Does (.linkTrained k6 net red mem ing) s fun m => m.rd .FAB_LINK_READY k = b2n (s.m.fab.firstTrain.get nat0 k != 0) ∧
          m.fab.credits.get nat0 (credKey k 1) = net.toNat ∧ m.fab.credits.get nat0 (credKey k 2) = red.toNat ∧
          m.fab.credits.get nat0 (credKey k 3) = mem.toNat ∧ m.fab.credits.get nat0 (credKey k 4) = ing.toNat ∧
          m.fab.txSeq.get nat0 k = 0 ∧ m.fab.rxSeq.get nat0 k = 0)) ∧
    (d3.toNat < 6 →
      gives (.lossOfLight d3) (fun j => if j ∈ dirLinks d3.toNat ∧ s.m.linkState j ≠ 0 ∧ s.m.linkState j ≠ 4 ∧ s.m.linkState j ≠ 5 ∧
          s.m.linkState j ≠ 7 then 6
        else s.m.linkState j) ∧
      gives (.peerLightReturn d3) (fun j => if j ∈ dirLinks d3.toNat ∧ (s.m.linkState j = 6 ∨ s.m.linkState j = 7) then 1 else s.m.linkState j)) ∧
    (∀ e, s.m.aux.dpEnd = some e →
      let t := e - 10000 * ((e - s.m.time - 1) / 10000)
      (s.m.time < t → t < e → Does .dpresetTimer s fun m => m.fab.out = s.m.fab.out ++
        ((List.range 36).filter s.m.linkUp).map (fun j => (j, s.m.stamped j (s.m.ctlFrame 0x31 []))) ∧ ∀ a, m.byteAt a = s.m.byteAt a) ∧
      (t ≤ s.m.time ∨ e ≤ t → Waits .dpresetTimer s))

/-- R350, R352, R353, R371, R433: IDENT on a link whose certificate holds: the first row of the table of outcomes that applies decides
what the link becomes, with its reason. LCERT records a certificate that Kindling accepts, and holds the link down on another; IDENT
goes out on a lit link 100 ms after its last. COMPLETES: IDENT, LCERT, IDENT_TIMER. -/
def Obligations.Identity : Prop :=
  ∀ (k6 : BitVec 6) (f : IdentF) (sigOk : Bool) (serial : BitVec 64) (cr : BitVec 32) (t : Nat) (s : State), s.m.mainUp = true →
    let k := k6.toNat
    let m0 := s.m.headerCredit k cr.toNat
    let dueAt := fun (j : Nat) => s.m.fab.identAt.get nat0 j + 100000000
    let outcome : Nat × Nat :=
      if sigOk = false ∨ m0.fab.certOk.get nat0 k ≠ 1 + f.serial.toNat then (5, 5)
      else if f.levelMax.toNat < 3 ∨ 4 < f.levelMin.toNat ∨ f.levelMax.toNat < f.levelMin.toNat then (5, 4)
      else if f.serial.toNat = m0.rd .MOD_SERIAL 0 then (4, 3)
      else if f.dir.toNat ≠ dirOpp (k / 6) then (4, 1)
      else if f.echo = 0 then (m0.linkState k, 9)
      else if f.echo.toNat ≠ m0.fab.nonce.get nat0 k then (4, 1)
      else if m0.rd .FAB_STATUS_DISC 0 = 3 ∧ f.valid = true ∧ f.claim.toNat ≠ m0.neighbour m0.myId (k / 6) then (4, 2)
      else if m0.portPeer k f.serial.toNat = true then (4, 6)
      else if f.sliceId.toNat ≠ m0.rd .FAB_SLICE_ID 0 then (9, 0)
      else (if m0.linkState k = 8 then 8 else 3, 0)
    (k < 36 → s.m.linkLit k = true →
      (m0.fab.certOk.get nat0 k ≠ 0 → Does (.ident k6 f sigOk cr) s fun m => m.linkState k = outcome.1 ∧
        (outcome.1 = 4 ∨ outcome.1 = 5 → m.rd .FAB_LINK_REASON k = outcome.2) ∧
        (outcome = (3, 0) ∨ outcome = (8, 0) → m.rd .FAB_LINK_LEVEL k = min 4 f.levelMax.toNat) ∧
        (outcome.1 ≠ 5 → m.rd .FAB_PEER_PEER_ID k = f.claim.toNat ∧ m.rd .FAB_PEER_ID_VALID k = b2n f.valid) ∧
        (∀ j, j ≠ k → m.linkState j = m0.linkState j)) ∧
      Does (.lcert k6 serial true cr) s (fun m => m.fab.certOk.get nat0 k = 1 + serial.toNat ∧ ∀ f i, m.rd f i = m0.rd f i) ∧
      Does (.lcert k6 serial false cr) s (fun m => m.linkState k = 5 ∧ m.rd .FAB_LINK_REASON k = 5)) ∧
    (s.m.aux.inLimits = true → t < 2 ^ 64 → (((List.range 36).filter s.m.linkLit).map dueAt).min? = some t → Does .identTimer s fun m =>
      ∀ j, j < 36 → s.m.linkLit j = true → dueAt j ≤ t → m.fab.identAt.get nat0 j = m.time ∧ ∃ x, (j, x) ∈ m.fab.out ∧ x.ty = 0x10)

/-- R354, R355, R356, R437: discovery. START clears quarantines and holds, and begins the run; a root takes its coordinate at once. An
offer is recorded, and the first starts the hold timer, at whose end the offer of least hops is accepted. The check quarantines
every UP link with a wrong claim and ends discovery; a neighbour's table is kept. COMPLETES: DISC_START, ASSIGN, DISC_HOLD_TIMER,
DISC_CHECK, TOPO. -/
def Obligations.Discovery : Prop :=
  ∀ (v : BitVec 64) (k6 : BitVec 6) (f : AssignF) (serials : List (BitVec 64)) (o : Offer) (t : Nat) (cr : BitVec 32) (s : State),
    let k := k6.toNat
    let m0 := s.m.headerCredit k cr.toNat
    let x := bitsAt v.toNat 8 6
    let y := bitsAt v.toNat 16 6
    let z := bitsAt v.toNat 24 6
    (s.m.mainUp = true → s.m.ready = true → Does (.discStart v) s fun m =>
      (∀ j, j < 36 → m.linkState j = if s.m.linkState j = 4 ∨ s.m.linkState j = 5 then 2 else s.m.linkState j) ∧
      m.rd .FAB_STATUS_ROOT 0 = bitsAt v.toNat 1 1 ∧ m.fab.offers = [] ∧ m.fab.hold = none ∧
      (bitsAt v.toNat 1 1 = 0 → m.rd .FAB_STATUS_DISC 0 = 1 ∧ m.rd .FAB_STATUS_COORD_VALID 0 = 0 ∧ m.fab.check = none) ∧
      (bitsAt v.toNat 1 1 = 1 → m.rd .FAB_STATUS_DISC 0 = 2 ∧ m.rd .FAB_STATUS_COORD_VALID 0 = 1 ∧ m.rd .FAB_COORD_X 0 = x ∧
        m.rd .FAB_COORD_Y 0 = y ∧ m.rd .FAB_COORD_Z 0 = z ∧ m.rd .FAB_COORD_MODULE_ID 0 = x + 64 * y + 4096 * z ∧
        m.fab.check = some (s.m.time + 1000000))) ∧
    (s.m.mainUp = true → k < 36 → s.m.linkLit k = true → m0.linkUp k = true ∨ m0.linkState k = 9 → m0.rd .FAB_STATUS_DISC 0 = 1 →
      Does (.assign k6 f cr) s fun m =>
        m.fab.offers = m0.fab.offers ++ [⟨f.x.toNat, f.y.toNat, f.z.toNat, f.hops.toNat, k, f.nx.toNat, f.ny.toNat, f.nz.toNat⟩] ∧
        m.fab.hold = some (m0.fab.hold.getD (m0.time + 50000)) ∧ ∀ f i, m.rd f i = m0.rd f i) ∧
    (s.m.fab.hold = some t → o ∈ s.m.fab.offers →
      (∀ o' ∈ s.m.fab.offers, o' = o ∨ o.hops < o'.hops ∨ o.hops = o'.hops ∧ o.link < o'.link) → Does .discHoldTimer s fun m =>
        m.fab.hold = none ∧ m.rd .FAB_STATUS_DISC 0 = 2 ∧ m.rd .FAB_STATUS_COORD_VALID 0 = 1 ∧ m.rd .FAB_COORD_X 0 = o.x % 64 ∧
        m.rd .FAB_COORD_Y 0 = o.y % 64 ∧ m.rd .FAB_COORD_Z 0 = o.z % 64 ∧ m.rd .FAB_COORD_NX 0 = o.nx % 128 ∧ m.fab.hops = o.hops) ∧
    (s.m.fab.check = some t → Does .discCheck s fun m => m.fab.check = none ∧ m.rd .FAB_STATUS_DISC 0 = 3 ∧
      ∀ j, j < 36 → s.m.linkUp j = true → s.m.wrongClaim j = true → m.linkState j = 4 ∧ m.rd .FAB_LINK_REASON j = 2) ∧
    (s.m.mainUp = true → k < 36 → s.m.linkLit k = true → m0.linkUp k = true → Does (.topo k6 serials cr) s fun m =>
      m.fab.topo.get (fun _ => []) (k / 6) = (List.range 6).map fun d => (serials.getD d 0).toNat)

/-- R47, R48, R55, R57, R58, R361, R362, R475: SYNC: a request is answered with TIME, the way it came. A response within 25 ns locks a
module that is locked or runs, which slews by the offset; one further off takes the lock away. The first lock with the generator
stopped steps TIME forward, or holds it. STRETCH for the current tick moves the boundary by whole periods to the notice's count, one
for a later tick is held, one for an earlier tick that had fewer aborts the step. FREEZE freezes the module where FABRIC is enabled.
A frame on its way to another module over this one goes on (what SYNC carries is the model's, log entry 14). COMPLETES: SYNC,
STRETCH, FREEZE. -/
def Obligations.TimeFrames : Prop :=
  ∀ (k6 : BitVec 6) (f : SyncF) (tick : BitVec 64) (sv : BitVec 3) (src : BitVec 18) (via : Option (BitVec 18)) (cr : BitVec 32) (s : State),
    let k := k6.toNat
    let m0 := s.m.headerCredit k cr.toNat
    let used := m0.rd .TICK_STATE_STRETCH_USED 0
    let times := fun (a b : Nat) => m0.ctlFrame 0x20 (leBytes 8 a ++ leBytes 8 b)
    let mine := fun (v : Option (BitVec 18)) => ∀ b, v = some b → b.toNat = m0.myId
    let gen := m0.on .TICK_STATE_GEN_RUNNING 0
    let off := f.offset.toInt
    k < 36 → s.m.mainUp = true → s.m.linkLit k = true → m0.linkUp k = true →
    (mine f.via → f.response = false → Does (.sync k6 f cr) s fun m =>
      m.fab.out = m0.fab.out ++ [(k, m0.stamped k (if f.via.isSome then { times m0.time m0.time with dMod := f.src.toNat, detour := true }
        else times m0.time m0.time))] ∧ ∀ f i, m.rd f i = m0.rd f i) ∧
    (mine f.via → f.response = true → m0.tick.locked = true ∨ gen = true → Does (.sync k6 f cr) s fun m =>
      (-25 ≤ off → off ≤ 25 → m.rd .TICK_STATE_TIME_LOCK 0 = 1 ∧ m.tick.locked = true) ∧
      (off < -25 ∨ 25 < off → m.rd .TICK_STATE_TIME_LOCK 0 = 0) ∧ m.tick.slew = -off ∧ m.tick.lastSync = m0.time ∧
      m.rd .TICK_TIME_OFFSET 0 = f.offset.toNat ∧ m.rd .TICK_TIME 0 = m0.rd .TICK_TIME 0) ∧
    (mine f.via → f.response = true → m0.tick.locked = false → gen = false → Does (.sync k6 f cr) s fun m => m.tick.locked = true ∧
      (off ≤ 0 → m.rd .TICK_TIME 0 = (if off < 0 then (m0.time + (-off).toNat) % 2 ^ 64 else m0.rd .TICK_TIME 0) ∧ m.rd .TICK_STATE_TIME_LOCK 0 = 1) ∧
      (0 < off → m.rd .TICK_STATE_TIME_HOLD 0 = 1 ∧ m.tick.holdNs = off.toNat ∧ m.rd .TICK_TIME 0 = m0.rd .TICK_TIME 0)) ∧
    (∀ b, f.via = some b → b.toNat ≠ m0.myId → Does (.sync k6 f cr) s fun m =>
      m = m0.passDetour k b.toNat { times f.sent.toNat f.answered.toNat with sMod := f.src.toNat }) ∧
    (m0.inSlice src.toNat = true → mine via →
      (tick.toNat = m0.rd .TICK_NUMBER 0 → gen = true → m0.held = false → m0.tick.ended = false → used < sv.toNat →
        Does (.stretch k6 tick sv src via cr) s fun m => m.rd .TICK_STATE_STRETCH_USED 0 = sv.toNat ∧
          m.rd .TICK_NEXT 0 = (m0.rd .TICK_NEXT 0 + (sv.toNat - used) * m0.rd .TICK_PERIOD_PERIOD_NS 0) % 2 ^ 64 ∧
          m.tick.deadline = some (m.rd .TICK_NEXT 0 - m0.rd .TICK_PERIOD_LEAD_NS 0) ∧ m.tick.sample = none) ∧
      (tick.toNat = m0.rd .TICK_NUMBER 0 → m0.held = true ∨ sv.toNat ≤ used → m0.tick.ended = false →
        Does (.stretch k6 tick sv src via cr) s fun m => ∀ f i, m.rd f i = m0.rd f i) ∧
      (m0.rd .TICK_NUMBER 0 < tick.toNat → m0.tick.held.get nat0 tick.toNat % 8 < sv.toNat → Does (.stretch k6 tick sv src via cr) s fun m =>
        m.tick.held.get nat0 tick.toNat = sv.toNat % 8 + 8 * src.toNat ∧ ∀ f i, m.rd f i = m0.rd f i) ∧
      (tick.toNat < m0.rd .TICK_NUMBER 0 → m0.tick.past.get nat0 tick.toNat < sv.toNat → Does (.stretch k6 tick sv src via cr) s fun m =>
        m.step = none ∧ (m0.step.isSome = true → m.rd .MOD_FLT_STATUS_ABORTED 0 = 1)) ∧
      (m0.freezeOn 4 = true → m0.frozen = false → Does (.freeze k6 src via cr) s fun m => m.rd .DBG_FREEZE_CTRL_FROZEN 0 = 1 ∧
        m.rd .DBG_FREEZE_CTRL_SOURCE 0 = 6 ∧ m.rd .DBG_FREEZE_AT 0 = m0.time % 2 ^ 64) ∧
      (m0.freezeOn 4 = false → bitsAt (m0.rd .DBG_TRACE_CFG_TRIG 0) 4 1 = 0 → Does (.freeze k6 src via cr) s fun m =>
        (∀ f i, m.rd f i = m0.rd f i) ∧ ∀ h, m.core h = m0.core h))

/-- R274, R276, R277, R278, R279, R280, R281, R283, R314: the oldest waiting job starts once none is current, or ends with BAD_PARAM or
ADDR_FAULT; an abort ends it at once between micro-batches. A read that completes adds its bytes to its item and the item's next
read goes out; a lost one is tried again, and the eighth failure fails the item. A marked read is answered with a congestion
notification; one that arrives lowers its queue pair's rate, to a free value (log entry 4); a paused port sends nothing. COMPLETES:
ING_ABORT, JOB_START, FETCH_READ_DONE, RDMA_ACK_TIMEOUT, ROCE_NAK_RECEIVED, ROCE_CNP_RECEIVED, PFC_PAUSE_RECEIVED. -/
def Obligations.IngestJobs : Prop :=
  ∀ (c : IngCur) (it : IngItem) (j20 : BitVec 20) (data : List Byte) (ecn : Bool) (q : BitVec 8) (p1 : BitVec 1) (pause : Bool) (t : Nat) (s : State),
    let j := j20.toNat
    let bare := fun (c : IngCur) => { c with items := c.items.map fun it => { it with asked := none } }
    let pair := fun (it : IngItem) => Config.targetQp it.target (it.fetched / 2 ^ 20)
    let port := fun (q : BitVec 8) => (Config.qpPort q).toNat
    let isPaused := fun (q : BitVec 8) => s.m.ing.paused.get (fun _ => false) (port q)
    (s.m.ready = true → s.m.ing.cur = some c →
      (c.mb.isSome = true → Does .ingAbort s fun m => m.ing.cur = some { c with abort := true } ∧ m.host = s.m.host) ∧
      (c.mb = none → Does .ingAbort s fun m => m.ing.cur = none ∧ (∀ e ∈ m.hif.descs, e.seq ≠ c.job.desc.seq) ∧ ∀ k, m.byteAt k = s.m.byteAt k)) ∧
    (∀ (b : IngJob) (rest : List IngJob), s.m.ingRuns = true → s.m.ing.cur = none → s.m.ing.jobs = b :: rest →
      let m0 : Mach := { s.m with ing := { s.m.ing with jobs := rest } }
      (∀ x m1, m0.listRead b.addr 256 = .error (x, m1) → m1.hif.descs.any (·.seq == b.desc.seq) = true → Does .jobStart s fun m =>
        m1.Ended m b.desc 0x33 x 0 ∧ m.ing.cur = none ∧ m.ing.jobs = rest) ∧
      (∀ raw m1, m0.listRead b.addr 256 = .ok (raw, m1) →
        (m1.jobBad raw = true → m1.hif.descs.any (·.seq == b.desc.seq) = true → Does .jobStart s fun m =>
          m1.Ended m b.desc 0x35 0 0 ∧ m.ing.cur = none ∧ m.ing.jobs = rest) ∧
        (∀ src cur tsl m2, m1.jobBad raw = false → Ingest.lists raw m1 = .ok (src, cur, tsl, m2) →
          (pieces 48 (fieldAt raw 40 4) src).all (sourceOk raw) = true →
          let ts := (pieces 4 (fieldAt raw 64 2) tsl).map leNat
          let c0 := Ingest.started b raw src cur ts m2
          ascending ts = true → Does .jobStart s fun m =>
            (∃ c', m.ing.cur = some c' ∧ bare c' = (m2.ing.early.filter c0.owns).foldl IngCur.take c0) ∧ m.ing.jobs = rest ∧
            m.ing.seed = fieldAt raw 8 8 ∧ m.ing.epoch = fieldAt raw 4 4 ∧ m.rd .ING_STATUS_MB_DONE 0 = 0))) ∧
    (s.m.ingRuns = true → s.m.ing.cur = some c → c.items[j]? = some it → it.fetching = true → s.m.askReads = s.m →
      let got := fun (bs : List Byte) (m : Mach) =>
        (∃ c', m.ing.cur = some c' ∧ bare c' = bare (c.onItem j fun it => { it with bytes := it.bytes ++ bs, retries := 0 })) ∧
        let next : IngItem := { it with bytes := it.bytes ++ bs }
        (next.fetching = true → it.target ≠ 255 → isPaused (pair next) = false → (⟨false, (pair next).toNat, it.addr + next.fetched, it.rkey,
          next.nextRead, s.m.qpRate (pair next).toNat⟩ : RoceMsg) ∈ m.ing.roce)
      let fails := fun (m : Mach) => ∃ c', m.ing.cur = some c' ∧ (c'.items[j]?.map (·.failed)) = some true ∧ c'.failedItems = c.failedItems + 1 ∧
        c'.fetchErr = true
      let again := fun (m : Mach) => ∃ c', m.ing.cur = some c' ∧ bare c' = bare (c.onItem j fun it => { it with retries := it.retries + 1 })
      (it.target ≠ 255 → it.asked.isSome = true → data.length = it.nextRead → Does (.fetchReadDone j20 data ecn) s fun m => got data m ∧
        (ecn = true → (⟨true, (pair it).toNat, 0, 0, 0, s.m.qpRate (pair it).toNat⟩ : RoceMsg) ∈ m.ing.roce) ∧ ∀ k, m.byteAt k = s.m.byteAt k) ∧
      (∀ bs m1, it.target = 255 → s.m.listRead (it.addr + it.fetched) it.nextRead = .ok (bs, m1) →
        Does (.fetchReadDone j20 data ecn) s fun m => got bs m) ∧
      (∀ x, it.target = 255 → s.m.listRead (it.addr + it.fetched) it.nextRead = .error x → Does (.fetchReadDone j20 data ecn) s fails) ∧
      (it.target ≠ 255 → it.asked.isSome = true → (it.retries < 7 → Does (.roceNakReceived j20) s again) ∧
        (7 ≤ it.retries → Does (.roceNakReceived j20) s fails)) ∧
      (it.target ≠ 255 → it.asked = some t → (s.m.advanceTo (t + 4000000)).ingRuns = true → (s.m.advanceTo (t + 4000000)).ing = s.m.ing →
        (it.retries < 7 → Does (.rdmaAckTimeout j20) s fun m => again m ∧ t + 4000000 ≤ m.time) ∧
        (7 ≤ it.retries → Does (.rdmaAckTimeout j20) s fun m => fails m ∧ t + 4000000 ≤ m.time))) ∧
    (s.m.mainUp = true →
      Does (.roceCnpReceived q) s (fun m => m.qpRate q.toNat < max 1 (s.m.qpRate q.toNat) ∧
        (∀ k, k ≠ q.toNat → m.qpRate k = s.m.qpRate k) ∧ ∀ f i, m.rd f i = s.m.rd f i) ∧
      Does (.pfcPauseReceived p1 pause) s (fun m => m.ing.paused.get (fun _ => false) p1.toNat = pause ∧
        (∀ k, k ≠ p1.toNat → m.ing.paused.get (fun _ => false) k = s.m.ing.paused.get (fun _ => false) k) ∧
        (pause = true → ∀ x ∈ m.ing.roce, x ∈ s.m.ing.roce ∨ port (BitVec.ofNat 8 x.qp) ≠ p1.toNat) ∧ ∀ f i, m.rd f i = s.m.rd f i))

/-- R285, R286, R288, R289, R291, R293, R295, R296, R298, R299, R300, R303, R304, R305: an engine takes the next item that it can
decode, and makes of its bytes what the chapter's content rules say; the next item in position order goes to this module's window,
or to the module that grants it, else the hold is counted; what has arrived is packed into the next micro-batch, which is written to
its ring's next slot once every reader has left that, or ends the job where that slot faults. COMPLETES: ITEM_DECODE_START,
ITEM_DECODE_DONE, SHUFFLE_ITEM_SEND, MICROBATCH_PACK, RING_WRITE. -/
def Obligations.IngestItems : Prop :=
  ∀ (e7 : BitVec 7) (g : Bool) (c : IngCur) (j : Nat) (it : IngItem) (s : State),
    let e := e7.toNat
    let video := decide (e < 64)
    s.m.ingRuns = true → s.m.ing.cur = some c →
    (e < 96 → s.m.engineFenced e = false → s.m.engineHolds e = false →
      c.items.findIdx? (fun it => !it.failed && !it.sent && (if e < 64 then jVideo c.raw && it.vEng == 0 && it.vRes.isNone
        else jAudio c.raw && it.aEng == 0 && it.aRes.isNone)) = some j →
      Does (.itemDecodeStart e7) s fun m =>
        m.ing.cur = some (c.onItem j fun it => if video then { it with vEng := e + 1 } else { it with aEng := e + 1 }) ∧
        ∀ f i, m.rd f i = s.m.rd f i) ∧
    (c.items.findIdx? (fun it => (if e < 64 then it.vEng == e + 1 else it.aEng == e + 1) && decide (it.len ≤ it.fetched)) = some j →
      c.items[j]? = some it →
      let d := if e < 64 then videoItem c.raw c.ts it else audioItem c.raw it
      Does (.itemDecodeDone e7) s fun m => (∃ c', m.ing.cur = some c' ∧ c'.srcErr = (c.srcErr || (video && !d.ok)) ∧
        c'.items = (c.onItem j fun it => if video then { it with vEng := 0, vRes := some d } else { it with aEng := 0, aRes := some d }).items) ∧
        (s.m.frozen = false → m.rd .ING_FRAMES 0 = (s.m.rd .ING_FRAMES 0 + d.pictures) % 2 ^ Fld.width .ING_FRAMES ∧
          m.rd .ING_CONCEAL_BLOCKS 0 = (s.m.rd .ING_CONCEAL_BLOCKS 0 + d.concealed) % 2 ^ Fld.width .ING_CONCEAL_BLOCKS)) ∧
    (c.items.findIdx? (!·.sent) = some j → c.items[j]? = some it → c.ready it = true → c.abort = false → c.done < jMbTotal c.raw →
      let sent := (c.onItem j fun it => { it with sent := true, vRes := none, aRes := none }).items
      let takes := c.holds (s.m.rd .ING_CFG_SHUF_WINDOW 0) it.k
      (it.dest = s.m.myId → takes = true → c.k ≤ it.k → c.arrived.get (fun _ => none) it.k = none → Does (.shuffleItemSend g) s fun m =>
        ∃ c', m.ing.cur = some c' ∧ c'.items = sent ∧ c'.arrived.get (fun _ => none) it.k = some (c.shipment it) ∧ m.fab = s.m.fab) ∧
      (it.dest ≠ s.m.myId → g = true → Does (.shuffleItemSend g) s fun m => (∃ c', m.ing.cur = some c' ∧ c'.items = sent ∧
        c'.arrived = c.arrived) ∧ m.fab = (s.m.shipTo it.dest (c.shipment it).bytes).fab) ∧
      ((it.dest = s.m.myId ∧ takes = false ∨ it.dest ≠ s.m.myId ∧ g = false) → Does (.shuffleItemSend g) s fun m => m.ing = s.m.ing ∧
        ∀ f i, f ≠ .ING_SHUF_HOLD_CYCLES → m.rd f i = s.m.rd f i)) ∧
    (∀ p, c.mb = none → c.abort = false → c.done < jMbTotal c.raw → c.pick c.turns ⟨[], c.late, 0, c.k, c.seg, none, false⟩ = some p →
      jRing c.raw ≠ 255 ∨ jGroups c.raw ≠ [] → Does .microbatchPack s fun m => ∃ c' b, m.ing.cur = some c' ∧ c'.mb = some b ∧
        b.bytes = c.mbBytes p ∧ b.ring = jRing c.raw ∧ b.written = none ∧ c'.late = p.late ∧ c'.k = p.k ∧ c'.seg = p.seg ∧ c'.seq = c.seq + 1 ∧
        b.parts = (jGroups c.raw).map (fun ig => ⟨ig.2, jSecOff c.raw ig.1, jSecSize c.raw ig.1 / 256, 0⟩)) ∧
    (∀ b, c.mb = some b → b.ring ≠ 255 → b.written = none →
      let w := s.m.rd .ING_RING_WR_W b.ring
      let slot := s.m.ringSlot b.ring w
      let free := (s.m.readers b.ring).all fun r => decide (w < s.m.rd .ING_RING_CUR (b.ring * 64 + r) + s.m.rd .ING_RING_CFG_SLOTS b.ring)
      (free = false → Does .ringWrite s fun m => m.ing = s.m.ing ∧ (∀ f i, f ≠ .ING_RING_WAIT_CYCLES → m.rd f i = s.m.rd f i) ∧
        ∀ k, m.byteAt k = s.m.byteAt k) ∧
      (∀ x, free = true → lowest (s.m.listCauses slot b.bytes.length) = some x → s.m.hif.descs.any (·.seq == c.job.desc.seq) = true →
        Does .ringWrite s fun m => m.ing.cur = none ∧ (∀ e ∈ m.hif.descs, e.seq ≠ c.job.desc.seq) ∧ m.rd .ING_RING_WR_W b.ring = w) ∧
      (∀ m1, free = true → s.m.listCauses slot b.bytes.length = [] →
        s.m.writeAny 3 slot (b.bytes.map (·, false)) = .ok m1 → Does .ringWrite s fun m =>
          m.rd .ING_RING_WR_W b.ring = (w + 1) % 2 ^ 48 ∧ (∀ k, m.byteAt k = m1.byteAt k) ∧
          (b.parts.all (fun p => decide (17 + p.size ≤ p.sent)) = false → ∃ c', m.ing.cur = some c' ∧ c'.mb = some { b with written := some w })))

/-- R308, R309, R310, R311: a multicast group sends its next entry to all its attached members at once, and to none while one of them is
full. A member that has been full for LAG_TIMEOUT is detached; what it has not had comes to it from the ring at its core's cursor,
and a micro-batch that its group was not sent is passed. COMPLETES: MCAST_ENTRY_SEND, MCAST_DETACH, DETACHED_FEED. -/
def Obligations.Multicast : Prop :=
  ∀ (n6 g6 : BitVec 6) (c4 : BitVec 4) (c : IngCur) (b : MbOut) (p : McPart) (t : Nat) (s : State), s.m.ingRuns = true →
    let n := n6.toNat
    let g := g6.toNat
    let k := endKey g c4.toNat
    let q := s.m.chGroup g c4.toNat
    (s.m.ing.cur = some c → c.mb = some b → b.parts.find? (·.group == n) = some p → p.sent < 17 + p.size →
      ¬(s.m.detachOn n = true ∧ b.written = none) →
      ((s.m.attached n).any (s.m.endFull n) = true → Does (.mcastEntrySend n6) s fun m => (∀ h, m.core h = s.m.core h) ∧
        m.ing.cur = s.m.ing.cur) ∧
      ((s.m.attached n).any (s.m.endFull n) = false → Does (.mcastEntrySend n6) s fun m =>
        (∀ x ∈ s.m.attached n, (m.core (x / 16)).chan (x % 16) = (s.m.core (x / 16)).chan (x % 16) ++
          [⟨mcEntry b.bytes p.off p.sent, 0, 0, s.m.detachOn n && decide (p.sent + 1 = 17 + p.size), false⟩]) ∧
        (∀ h, (∀ x ∈ s.m.attached n, x / 16 ≠ h) → m.core h = s.m.core h) ∧ ∀ a, m.byteAt a = s.m.byteAt a)) ∧
    (s.m.ing.full.get (fun _ => none) k = some t → s.m.ing.cur = some c → c.mb = some b → b.parts.find? (·.group == q) = some p →
      s.m.chKind g c4.toNat = 3 → s.m.detachOn q = true → Does (.mcastDetach g6 c4) s fun m => m.ing.full.get (fun _ => none) k = none ∧
        m.ing.feed.get nat0 k = p.sent ∧ bitsAt (m.rd .ING_MC_DET q) g 1 = 1 ∧ t + 1000 * s.m.rd .ING_MC_LAG_TIMEOUT q ≤ m.time ∧
        ∀ a, m.byteAt a = s.m.byteAt a) ∧
    (let ring := s.m.rd .ING_MC_RING q
      let cur := s.m.rd .ING_RING_CUR (ring * 64 + g)
      let cs := (s.m.core g).chan c4.toNat
      let slot := s.m.ringSlot ring cur
      let known := s.m.ing.sect.get nat0 (sectKey ring cur q)
      let sec := known - 1
      let off := fun (i : Nat) => if i < 3 then s.m.word (slot + 32 + 4 * i) 4 else s.m.word (slot + 28) 4
      let i := s.m.ing.feed.get nat0 k
      let bs := (s.m.readSide (slot + (if i < 17 then 256 * i else off sec + 256 * (i - 17))) 256).1
      s.m.chKind g c4.toNat = 3 → bitsAt (s.m.rd .ING_MC_DET q) g 1 = 1 → cs.all (·.fed) = true → cs.length < s.m.rd .ING_MC_SKEW_MAX q →
      cur < s.m.rd .ING_RING_WR_W ring →
      (known = 0 → Does (.detachedFeed g6 c4) s fun m => m.rd .ING_RING_CUR (ring * 64 + g) = (cur + 1) % 2 ^ 48 ∧ ∀ h, m.core h = s.m.core h) ∧
      (known ≠ 0 → Does (.detachedFeed g6 c4) s fun m =>
        (m.core g).chan c4.toNat = cs ++ [⟨⟨slotOfBytes (padTo 512 (bs.map Prod.fst)), bs.any Prod.snd⟩, 0, 0, false, true⟩] ∧
        (∀ h, h ≠ g → m.core h = s.m.core h) ∧
        (if 17 + (off (sec + 1) - off sec) / 256 ≤ i + 1 then m.rd .ING_RING_CUR (ring * 64 + g) = (cur + 1) % 2 ^ 48 ∧ m.ing.feed.get nat0 k = 0
          else m.rd .ING_RING_CUR (ring * 64 + g) = cur ∧ m.ing.feed.get nat0 k = i + 1)))

/-- R91, R358, R426, R427, R435: Kindling answers the request that it works on. A signed request of bad form, or whose signature, key or
sequence number fails, is answered with the lowest code and does nothing else. A grant that fits sets the shadow slice; a policy is
kept and takes effect; a key slot is written or cleared; FIELD_FUSE blows the core's next field slot; SVN_COMMIT raises the fused
counters. COMPLETES: SLICE_GRANT, POLICY, KEY, FIELD_FUSE, SVN_COMMIT. -/
def Obligations.KindlingRequests : Prop :=
  ∀ (sig : Bool) (q : MboxReq) (s : State), s.m.kindling = true → s.m.aux.mbox = some q →
    let answered := fun (m : Mach) (r : Nat) => m.aux.mbox = none ∧ m.rd .SEC_MBOX_STATUS_BUSY 0 = 0 ∧ m.rd .SEC_MBOX_STATUS_RESULT 0 = r ∧
      m.rd .SEC_MBOX_STATUS_SEQ 0 = (s.m.rd .SEC_MBOX_STATUS_SEQ 0 + 1) % 2 ^ Fld.width .SEC_MBOX_STATUS_SEQ
    let status : List Fld := [.SEC_MBOX_STATUS_BUSY, .SEC_MBOX_STATUS_RESULT, .SEC_MBOX_STATUS_SEQ]
    let onlyAnswers := fun (c : Instr) (r : Nat) => Does c s fun m => answered m r ∧ (∀ f i, f ∉ status → m.rd f i = s.m.rd f i) ∧
      (∀ f i, m.rdS f i = s.m.rdS f i) ∧ m.flash = s.m.flash
    let signed := fun (usage : Nat) => q.formed true = true ∧ s.m.sigResult q usage sig = 0
    let o := fun i => q.body (4 + i) 1
    let fits := axisFits (o 0) (o 3) (s.m.rd .FAB_COORD_NX 0) && axisFits (o 1) (o 4) (s.m.rd .FAB_COORD_NY 0) &&
      axisFits (o 2) (o 5) (s.m.rd .FAB_COORD_NZ 0)
    let p := [q.body 0 1, q.body 1 1, q.body 2 1, q.body 3 1, q.body 4 2]
    let n := q.body 0 1
    let kb := (q.bytes.drop 32).take 96
    (∀ ty u c, (ty, u, c) ∈ [(1, 1, Instr.sliceGrant sig), (2, 2, .policy sig)] → q.ty = ty →
      (q.formed true = false → onlyAnswers c 1) ∧ (q.formed true = true → s.m.sigResult q u sig ≠ 0 → onlyAnswers c (s.m.sigResult q u sig % 16))) ∧
    (q.ty = 1 → signed 1 → s.m.on .FAB_STATUS_COORD_VALID 0 = true → fits = true → Does (.sliceGrant sig) s fun m => answered m 0 ∧
      m.rdS .FAB_SLICE_OX 0 = o 0 % 64 ∧ m.rdS .FAB_SLICE_OY 0 = o 1 % 64 ∧ m.rdS .FAB_SLICE_OZ 0 = o 2 % 64 ∧ m.rdS .FAB_SLICE_EX 0 = o 3 % 128 ∧
      m.rdS .FAB_SLICE_EY 0 = o 4 % 128 ∧ m.rdS .FAB_SLICE_EZ 0 = o 5 % 128 ∧ m.rdS .FAB_SLICE_ID 0 = q.body 0 4 % 2 ^ 32 ∧
      (∀ f i, f ∉ status → m.rd f i = s.m.rd f i) ∧ m.flash.rseq.get (fun _ => 0) 1 = q.at_ 16 8) ∧
    (q.ty = 1 → signed 1 → s.m.on .FAB_STATUS_COORD_VALID 0 = false ∨ fits = false → Does (.sliceGrant sig) s fun m => answered m 4 ∧
      ∀ f i, m.rdS f i = s.m.rdS f i) ∧
    (q.ty = 2 → signed 2 → q.body 0 1 ≤ 1 → q.body 1 1 ≤ 1 → q.body 2 1 ≤ 1 → q.body 3 1 ≤ 2 → 10 ≤ q.body 4 2 → q.body 4 2 ≤ 1000 →
      Does (.policy sig) s fun m => answered m 0 ∧ m.rd .SEC_POLICY_REQUIRE_SIG 0 = q.body 0 1 ∧ m.rd .SEC_POLICY_BAR4 0 = q.body 1 1 ∧
        m.rd .SEC_POLICY_DEBUG_LOCK 0 = q.body 2 1 ∧ m.rd .SEC_POLICY_PMODE_FLOOR 0 = q.body 3 1 ∧ m.rd .SEC_WDOG_TIMEOUT_MS 0 = q.body 4 2 ∧
        m.flash.policy = some p) ∧
    (q.ty = 3 → 1 ≤ n → n ≤ 7 → q.body 1 1 ≤ 15 →
      (s.m.on .SEC_STATUS_OWNED 0 = true ∧ signed 3 ∨ s.m.on .SEC_STATUS_OWNED 0 = false ∧ q.formed false = true) →
      Does (.key sig) s fun m => answered m 0 ∧ m.rd .SEC_KEY_VALID n = b2n !(kb.all (· == 0)) ∧
        m.rd .SEC_KEY_USAGE n = (if kb.all (· == 0) then 0 else q.body 1 1) ∧ (∀ i, i ≠ n → m.rd .SEC_KEY_VALID i = s.m.rd .SEC_KEY_VALID i) ∧
        m.flash.usages.get (fun _ => 0) n = if kb.all (· == 0) then 0 else q.body 1 1) ∧
    (q.ty = 4 → q.formed false = true → n ≤ 63 → q.body 1 1 ≤ 1 → q.body 2 1 ≤ 127 →
      let used := s.m.rd .OPE_REPAIR_FIELD_USED n
      (used < 2 → s.sparesLeft n (q.body 1 1) ≠ 0 → ∃ t, exec .fieldFuse s = .next t ∧ t.pending = s.pending ∧ answered t.m 0 ∧
        t.fuses.slots.get (fun _ => 0) (2 * n + used) = 256 + 128 * q.body 1 1 + q.body 2 1 ∧
        (∀ i, i ≠ 2 * n + used → t.fuses.slots.get (fun _ => 0) i = s.fuses.slots.get (fun _ => 0) i) ∧ t.fuses.kindling = s.fuses.kindling ∧
        t.fuses.cordwood = s.fuses.cordwood ∧ t.m.rd .OPE_REPAIR_FIELD_USED n = used + 1 ∧ t.m.rd .OPE_REPAIR_FIELD_PENDING n = 1) ∧
      (2 ≤ used ∨ s.sparesLeft n (q.body 1 1) = 0 → onlyAnswers .fieldFuse 4)) ∧
    (q.ty = 5 → q.formed false = true → ∃ t, exec .svnCommit s = .next t ∧ t.pending = s.pending ∧ answered t.m 0 ∧
      t.fuses.kindling = max s.fuses.kindling (min 64 (s.m.rd .SEC_SVN_KINDLING_BOOTED 0)) ∧
      t.fuses.cordwood = max s.fuses.cordwood (min 64 (s.m.rd .SEC_SVN_CORDWOOD_BOOTED 0)) ∧ t.fuses.slots = s.fuses.slots ∧
      t.m.rd .SEC_SVN_KINDLING_FUSED 0 = t.fuses.kindling % 256 ∧ t.m.rd .SEC_SVN_CORDWOOD_FUSED 0 = t.fuses.cordwood % 256)

/-- R421, R434, R436, R437, R438: ACTIVATE of an image that passes restarts Cordwood from it. A kick begins the watchdog's period anew;
its expiry restarts Cordwood, or the fourth within 60 s leaves it stopped; a restart ends with CORDWOOD_UP and a new period.
COMPLETES: ACTIVATE, SEC_WDOG_KICK, WATCHDOG_EXPIRY, CORDWOOD_RESTART_COMPLETE. -/
def Obligations.CordwoodLife : Prop :=
  ∀ (q : MboxReq) (hashOk a b : Bool) (t : Nat) (s : State),
    let period := fun (m : Mach) => some (s.m.time + m.rd .SEC_WDOG_TIMEOUT_MS 0 * 1000000)
    let recent := (s.m.aux.expiries.filter fun e => decide (t < e + 60000000000)) ++ [t]
    (s.m.kindling = true → s.m.aux.mbox = some q → q.ty = 6 → q.formed false = true → q.body 0 1 ≤ 1 →
      (s.m.imgPasses (q.body 0 1) = true → s.m.on .MOD_STATUS_CORDWOOD_UP 0 = true ∨ s.m.aux.restarting = true → s.m.mainUp = true → s.m.on .SEC_STATUS_CORDWOOD_FAILED 0 = false →
        Does .activate s fun m => m.rd .SEC_MBOX_STATUS_RESULT 0 = 0 ∧ m.rd .SEC_MBOX_STATUS_BUSY 0 = 0 ∧ m.rd .SEC_STATUS_IMAGE 0 = q.body 0 1 ∧
          m.rd .MOD_STATUS_CORDWOOD_UP 0 = 0 ∧ m.aux.restarting = true ∧ m.aux.wdog = none ∧ m.cache = [] ∧ m.rd .HIF_EVT_CORDWOOD_RESTART 0 = 1) ∧
      (s.m.imgPasses (q.body 0 1) = false → Does .activate s fun m => m.rd .SEC_MBOX_STATUS_RESULT 0 = 4 ∧ m.aux.restarting = s.m.aux.restarting ∧
        m.cache = s.m.cache)) ∧
    (s.m.on .MOD_STATUS_CORDWOOD_UP 0 = true →
      Does .secWdogKick s (fun m => m.aux.wdog = period s.m ∧ ∀ f i, m.rd f i = s.m.rd f i) ∧
      (s.m.aux.wdog = some t →
        (recent.length < 4 → hashOk = true → Does (.watchdogExpiry hashOk a b) s fun m => m.rd .MOD_STATUS_CORDWOOD_UP 0 = 0 ∧
          m.aux.restarting = true ∧ m.aux.expiries = recent ∧ m.aux.wdog = none) ∧
        (4 ≤ recent.length → Does (.watchdogExpiry hashOk a b) s fun m => m.rd .MOD_STATUS_CORDWOOD_UP 0 = 0 ∧
          m.rd .SEC_STATUS_CORDWOOD_FAILED 0 = 1 ∧ m.rd .MOD_FLT_STATUS_FATAL_MODULE 0 = 1 ∧ m.step = s.m.step ∧ m.aux.wdog = none))) ∧
    (s.m.aux.restarting = true → s.m.mainUp = true → Does .cordwoodRestartComplete s fun m => m.rd .MOD_STATUS_CORDWOOD_UP 0 = 1 ∧
      m.aux.restarting = false ∧ m.aux.wdog = period s.m)

/-- R429, R432, R434, R538, R539, R541: Kindling's SPDM responder answers in the order of its negotiation, and an earlier request with
an error (log entry 37 says what is presumed of DSP0274); a firmware update writes the copy that is not in use, and is activated if
that passes; MCTP messages for Cordwood are handed on, others dropped; the console answers, and can rewrite a copy; boundary scan
takes the pins (which cell drives which pin is the model's choice, log entry 69). COMPLETES: GET_VERSION, GET_CAPABILITIES,
NEGOTIATE_ALGORITHMS, GET_DIGESTS, GET_CERTIFICATE, CHALLENGE, GET_MEASUREMENTS, PLDM_FIRMWARE_UPDATE, ACTIVATE_FIRMWARE,
MCTP_SMBUS_MESSAGE, CONSOLE_INPUT, JTAG_BOUNDARY_SCAN. -/
def Obligations.Management : Prop :=
  ∀ (offered cw whole : Bool) (slot : BitVec 4) (ix : BitVec 8) (img x : FlashImg) (ty : BitVec 7) (payload bytes : List Byte)
      (rw : Option (Bool × FlashImg)) (ins : BitVec 2) (cells : BitVec 25) (s : State),
    let sends := fun (c : Instr) (k : Nat) (bs : List Byte) => Does c s fun m => m.mgmt.sent = s.m.mgmt.sent ++ [⟨k, bs⟩] ∧ ∀ f i, m.rd f i = s.m.rd f i
    let free := fun (c : Instr) (k n : Nat) => Does c s fun m => (∃ bs : List Byte, bs.length = n ∧ m.mgmt.sent = s.m.mgmt.sent ++ [⟨k, bs⟩]) ∧
      ∀ f i, m.rd f i = s.m.rd f i
    (s.m.kindling = true →
      sends .getVersion 1 [0x12] ∧ Does .getVersion s (fun m => m.mgmt.stage = 1) ∧
      (1 ≤ s.m.mgmt.stage → sends .getCapabilities 2 [1, 1, 1, 0, 0, 0] ∧ Does .getCapabilities s (fun m => m.mgmt.stage = 2)) ∧
      (2 ≤ s.m.mgmt.stage → offered = true → sends (.negotiateAlgorithms offered) 3 [1, 1] ∧
        Does (.negotiateAlgorithms offered) s fun m => m.mgmt.stage = 3) ∧
      (3 ≤ s.m.mgmt.stage → free .getDigests 4 48 ∧ (slot = 0 → free (.getCertificate slot) 5 48 ∧ free (.challenge slot) 6 96) ∧
        (ix = 0 → sends (.getMeasurements ix) 7 [6]) ∧
        (1 ≤ ix.toNat → ix.toNat ≤ 6 → sends (.getMeasurements ix) 7 (s.m.measurement ix.toNat))) ∧
      (s.m.mgmt.stage < 3 → ∀ c ∈ [Instr.getDigests, .getCertificate slot, .challenge slot, .getMeasurements ix], sends c 0x7F [1]) ∧
      (s.m.on .MOD_STATUS_CORDWOOD_UP 0 = true →
        let y : FlashImg := { img with signed := img.signed && whole }
        (cw = false → Does (.pldmFirmwareUpdate cw img whole) s fun m => m.flash = { s.m.flash with patchCopy := some y }) ∧
        (cw = true → s.m.rd .SEC_STATUS_IMAGE 0 = 0 → Does (.pldmFirmwareUpdate cw img whole) s fun m => m.flash = { s.m.flash with cordB := some y }) ∧
        (cw = true → s.m.rd .SEC_STATUS_IMAGE 0 = 1 → Does (.pldmFirmwareUpdate cw img whole) s fun m => m.flash = { s.m.flash with cordA := some y }) ∧
        (cw = true → sends (.activateFirmware cw) 8 [if s.m.imgPasses (1 - s.m.rd .SEC_STATUS_IMAGE 0) then 1 else 0]) ∧
        (cw = false → s.m.flash.patchCopy = some x → x.signed = true → s.m.rd .SEC_SVN_KINDLING_FUSED 0 ≤ x.svn →
          sends (.activateFirmware cw) 8 [1] ∧ Does (.activateFirmware cw) s fun m => m.flash.patchNext = some x) ∧
        (s.m.pins.scan = 0 → ty = 1 ∨ ty = 5 → Does (.mctpSmbusMessage ty payload) s fun m =>
          m.mgmt.relayed = s.m.mgmt.relayed ++ [⟨ty.toNat, payload⟩] ∧ m.mgmt.sent = s.m.mgmt.sent)) ∧
      (s.m.pins.scan = 0 → s.m.on .MOD_STATUS_CORDWOOD_UP 0 = false → ty ≠ 0 → Waits (.mctpSmbusMessage ty payload) s) ∧
      (s.m.pins.scan = 0 → Does (.consoleInput bytes rw) s fun m => (∃ r, r.length = bytes.length ∧ m.pins.uartOut = s.m.pins.uartOut ++ r) ∧
        (rw = none → m.flash = s.m.flash) ∧ (∀ i, rw = some (true, i) → m.flash = { s.m.flash with cordB := some i }) ∧
        (∀ i, rw = some (false, i) → m.flash = { s.m.flash with cordA := some i }))) ∧
    (s.m.pins.scan = 0 → s.m.tapRegister = (32, 0x20832A6B)) ∧
    (s.m.aux.inLimits = true → ins ≠ 0 → Does (.jtagBoundaryScan ins cells) s fun m => m.pins.scan = ins.toNat ∧ m.pins.cells = cells.toNat ∧
      (ins = 1 → m.tapRegister = (25, cells.toNat)) ∧ (ins = 3 → ∀ g, g ≠ 25 → m.pinOut g = none) ∧ ∀ f i, m.rd f i = s.m.rd f i)

/-- R393, R428, R429, R439, R440, R441, R443, R444, R451, R533, R534: AUX power boots Kindling, with the fused values shown, and its
loss is a cold reset; Kindling selects an image; PWR_EN lets the regulators come up, which begins bring-up; each stage that succeeds
leads to the next, the last to READY, and one that fails or overruns its maximum ends bring-up with its cause. COMPLETES:
AUX12_OUT_OF_LIMITS, AUX12_IN_LIMITS, KINDLING_BOOT_DONE, PWR_EN_RISE, PWR_GOOD_RISE, BRINGUP_STAGE_END, BRINGUP_STAGE_TIMEOUT. -/
def Obligations.PowerUp : Prop :=
  ∀ (addr : BitVec 3) (mv : BitVec 16) (us : BitVec 22) (o : BootOut) (s : State),
    let stage := s.m.rd .MOD_BOOT_STAGE 0
    let goes := fun (c : Instr) (n : Nat) => Does c s fun m => m.rd .MOD_BOOT_STAGE 0 = n
    let fails := fun (c : Instr) (n : Nat) => Does c s fun m => m.rd .MOD_BOOT_STAGE 0 = 15 ∧ m.rd .MOD_BOOT_FAIL_CAUSE 0 = n
    (s.m.aux.inLimits = true → Does .aux12OutOfLimits s fun m => m.aux.inLimits = false ∧ (∀ f i, m.rd f i = if f.manufactured i then s.m.rd f i else f.resetVal i) ∧ m.mem = [] ∧
      m.flash = s.m.flash ∧ m.pins.pwrEn = s.m.pins.pwrEn ∧ m.pinOut 2 = none) ∧
    (s.m.aux.inLimits = false → 10800 ≤ mv.toNat → mv.toNat ≤ 13200 → Does (.aux12InLimits addr mv) s fun m => m.aux.inLimits = true ∧
      m.pins.sampledAddr = addr.toNat ∧ m.rd .PWR_VIN_AUX_MV 0 = mv.toNat ∧ m.rd .SEC_SVN_KINDLING_FUSED 0 = s.fuses.kindling % 256 ∧
      m.rd .SEC_SVN_CORDWOOD_FUSED 0 = s.fuses.cordwood % 256) ∧
    (s.m.aux.inLimits = true → s.m.on .SEC_STATUS_KINDLING_UP 0 = false → Does .kindlingBootDone s fun m => m.rd .SEC_STATUS_KINDLING_UP 0 = 1 ∧
      m.aux.selected = Power.selectImage s.m ∧ (s.m.pins.scan = 0 → m.pinOut 2 = some false) ∧ (Power.selectImage s.m = none → m.rd .MOD_BOOT_STAGE 0 = 15 ∧ m.rd .MOD_BOOT_FAIL_CAUSE 0 = 5)) ∧
    Does .pwrEnRise s (fun m => m.pins.pwrEn = true ∧ (s.m.pins.scan = 0 → m.aux.tripped = false) ∧ ∀ f i, m.rd f i = s.m.rd f i) ∧
    (s.m.mayPower = true → Does .pwrGoodRise s fun m => m.rd .MOD_STATUS_PWR_GOOD 0 = 1 ∧ (∀ n, n < 10 → m.rd .PWR_RAIL_GOOD n = 1) ∧
      m.rd .MOD_BOOT_STAGE 0 = 1 ∧ m.aux.base = s.m.time ∧ m.aux.reset = if s.m.pins.perstLow then some ⟨s.m.time, s.m.time, true⟩ else none) ∧
    (s.m.inStage = true →
      (stage = 1 ∨ stage = 4 ∨ stage = 6 → goes (.bringupStageEnd us o) (stage + 1)) ∧
      (stage = 2 → (o.pll = true → goes (.bringupStageEnd us o) 3) ∧ (o.pll = false → fails (.bringupStageEnd us o) 2)) ∧
      (stage = 3 → (o.stackBad = 0 → goes (.bringupStageEnd us o) 4) ∧ (o.stackBad ≠ 0 → fails (.bringupStageEnd us o) 3)) ∧
      (stage = 5 → (o.hubOk = true → Does (.bringupStageEnd us o) s fun m => m.rd .MOD_BOOT_STAGE 0 = 6 ∧ m.aux.bistOk = o.cores.toNat) ∧
        (o.hubOk = false → fails (.bringupStageEnd us o) 4)) ∧
      (stage = 7 → ((s.m.loadCordwood o.loadA o.loadB).isSome = true → Does (.bringupStageEnd us o) s fun m => m.rd .MOD_BOOT_STAGE 0 = 8 ∧
          m.rd .MOD_STATUS_CORDWOOD_UP 0 = 1 ∧ m.aux.wdog.isSome = true) ∧
        (s.m.loadCordwood o.loadA o.loadB = none → fails (.bringupStageEnd us o) 5)) ∧
      (stage = 8 → Does (.bringupStageEnd us o) s fun m => m.rd .MOD_STATUS_READY 0 = 1 ∧ m.rd .MOD_BOOT_STAGE 0 = 9) ∧
      fails .bringupStageTimeout 6) ∧
    (s.m.inStage = false → s.m.mayPower = true → fails .bringupStageTimeout 1)

/-- R393, R440, R445, R446, R447, R534, R535, R537, R541: PERST_N low begins a module reset with GOODBYE, which lasts while it is low,
and its rise samples CXL_SEL and begins bring-up; PWR_EN low takes the main domain down; leaving boundary scan is a module reset.
Each sets its cause and clears the main domain. COMPLETES: PERST_ASSERT, PERST_DEASSERT, PWR_EN_FALL, JTAG_LEAVE_SCAN. -/
def Obligations.PinResets : Prop :=
  ∀ (cxl : Bool) (r : ModReset) (s : State),
    let resets := fun (c : Instr) (cause due : Nat) (held : Bool) => Does c s fun m => m.aux.reset = some ⟨s.m.time, due, held⟩ ∧
      m.rd .MOD_RESET_CAUSE_CAUSE 0 = cause ∧ m.mem = [] ∧ m.cores = [] ∧ m.ctxs = [] ∧ m.rd .MOD_STATUS_READY 0 = 0 ∧ m.flash = s.m.flash ∧
      m.rd .MOD_STATUS_PWR_GOOD 0 = (if cause ≤ 2 then 1 else 0)
    (s.m.pins.scan = 0 → s.m.aux.reset = none → s.m.on .MOD_STATUS_PWR_GOOD 0 = true →
      (s.m.pins.perstLow = false → s.m.mayReset = true → resets .perstAssert 1 s.m.time true ∧
        Does .perstAssert s fun m => m.pins.perstLow = true) ∧
      (s.m.pins.pwrEn = true → resets .pwrEnFall 4 s.m.time s.m.pins.perstLow ∧ Does .pwrEnFall s fun m => m.pins.pwrEn = false ∧
        m.rd .MOD_BOOT_STAGE 0 = 0)) ∧
    (s.m.pins.scan = 0 → s.m.pins.perstLow = true → s.m.aux.inLimits = true → Does (.perstDeassert cxl) s fun m => m.pins.perstLow = false ∧
      m.pins.cxlSel = cxl ∧ (s.m.aux.reset = some r → s.m.on .MOD_STATUS_PWR_GOOD 0 = true → m.aux.reset = none ∧ m.rd .MOD_BOOT_STAGE 0 = 1)) ∧
    (s.m.pins.scan ≠ 0 →
      (s.m.on .MOD_STATUS_PWR_GOOD 0 = true → s.m.aux.reset = none → s.m.pins.pwrEn = true → resets .jtagLeaveScan 2 (s.m.time + 100000) s.m.pins.perstLow) ∧
      Does .jtagLeaveScan s fun m => m.pins.scan = 0)

/-- R32, R452, R453, R454, R455, R456, R457, R458, R461, R463, R465, R466: supplies, clocks and temperatures. A dip holds PMODE 2 until
1 ms after the input is back; below 38 V, or with a rail out of regulation, a power-fail reset follows, and after a trip a thermal
one; failed phases, droop, a lost reference and throttling are shown as long as they last. COMPLETES: WARN_TRIP, WARN_CLEAR,
DIP_END, RESET_TRIP, POWER_FAIL_RESTART, REFCLK_RETURN, REFCLK_LOST, RAIL_OUT_OF_REGULATION, THERMAL_TRIP, PHASE_FAIL, DROOP,
DROOP_END, THROTTLE_ON, THROTTLE_OFF. -/
def Obligations.Supplies : Prop :=
  ∀ (mv : BitVec 16) (rail phase : BitVec 4) (d2 : BitVec 2) (n6 : BitVec 6) (temp : BitVec 16) (temps : List (BitVec 16)) (t : Nat) (s : State),
    let v := mv.toNat
    let n := n6.toNat
    let old := s.m.rd .PWR_RAIL_FAILED rail.toNat
    let down := fun (m : Mach) (cause : Nat) => m.aux.reset = some ⟨s.m.time, s.m.time, s.m.pins.perstLow⟩ ∧ m.rd .MOD_RESET_CAUSE_CAUSE 0 = cause ∧
      m.rd .MOD_STATUS_PWR_GOOD 0 = 0 ∧ m.rd .MOD_STATUS_READY 0 = 0 ∧ m.mem = [] ∧ m.flash = s.m.flash ∧ m.aux.powerTaken = true
    (Power.monitor s.m = true →
      (v < 41000 → s.m.on .PWR_STATUS_WARN 0 = false →
        (s.m.on .MOD_STATUS_DIP_ACTIVE 0 = false → Does (.warnTrip mv) s fun m => m.rd .PWR_STATUS_WARN 0 = 1 ∧ m.rd .PWR_VIN_VIN_MV 0 = v ∧
          m.rd .MOD_STATUS_DIP_ACTIVE 0 = 1 ∧ m.rd .PWR_DIP_MIN_MV 0 = v ∧ m.rd .PWR_DIP_VALID 0 = 1 ∧ m.rd .MOD_STATUS_PMODE_EFF 0 = 2) ∧
        (s.m.on .MOD_STATUS_DIP_ACTIVE 0 = true → Does (.warnTrip mv) s fun m => m.rd .PWR_STATUS_WARN 0 = 1 ∧ m.aux.dipEnd = none ∧
          m.rd .PWR_DIP_MIN_MV 0 = min v (s.m.rd .PWR_DIP_MIN_MV 0) % 2 ^ 16)) ∧
      (s.m.on .PWR_STATUS_WARN 0 = true → Does (.warnClear mv) s fun m => m.rd .PWR_STATUS_WARN 0 = 0 ∧
        (s.m.on .MOD_STATUS_DIP_ACTIVE 0 = true → m.aux.dipEnd = some (s.m.time + 1000000))) ∧
      (v < 38000 → s.m.aux.reset = none → Does (.resetTrip mv) s fun m => down m 3 ∧ m.aux.failWait = true ∧ m.rd .PWR_STATUS_RESET_LVL 0 = 1)) ∧
    (s.m.aux.dipEnd = some t → Does .dipEnd s fun m => m.aux.dipEnd = none ∧ m.rd .MOD_STATUS_DIP_ACTIVE 0 = 0) ∧
    (s.m.aux.inLimits = true → Does .powerFailRestart s (fun m => m.rd .PWR_STATUS_RESET_LVL 0 = 0 ∧
        m.aux.failWait = (s.m.aux.failWait && !s.m.pins.pwrEn)) ∧ Does .refclkReturn s (fun m => m.rd .PWR_STATUS_REF_LOST 0 = 0)) ∧
    (s.m.on .MOD_STATUS_PWR_GOOD 0 = true → s.m.pins.pwrEn = true → s.m.aux.reset = none →
      (rail.toNat < 10 → Does (.railOutOfRegulation rail) s fun m => down m 3 ∧ m.aux.failWait = true) ∧
      (n < 37 → tempTrip n ≤ temp.toInt → Does (.thermalTrip n6 temp) s fun m => down m 5 ∧ m.pins.thermTrip = true ∧ m.aux.tripped = true)) ∧
    (s.m.mainUp = true →
      (rail.toNat < 10 → phase.toNat < s.m.rd .PWR_RAIL_PHASES rail.toNat → bitsAt old phase.toNat 1 = 0 → Does (.phaseFail rail phase) s fun m =>
          m.rd .PWR_RAIL_FAILED rail.toNat = (old ||| 2 ^ phase.toNat) % 2 ^ 13 ∧ (onesOf old = 1 → m.rd .PWR_STATUS_PHASE_DEGRADED 0 = 1)) ∧
      (bitsAt s.m.aux.droop d2.toNat 1 = 0 → Does (.droop d2) s fun m => m.aux.droop = s.m.aux.droop ||| 2 ^ d2.toNat) ∧
      (s.m.on .PWR_STATUS_REF_LOST 0 = false → Does .refclkLost s fun m => m.rd .PWR_STATUS_REF_LOST 0 = 1 ∧ m.on .TICK_STATE_TIME_LOCK 0 = false) ∧
      (n < 37 → tempOn n ≤ temp.toInt → Does (.throttleOn n6 temp) s fun m => m.rd .MOD_STATUS_THROTTLE 0 = 1 ∧ m.rd .PWR_TEMP_TEMP n = temp.toNat) ∧
      (temps.length = 37 → (∀ i, i < 37 → (temps.getD i 0).toInt < tempOff i) → Does (.throttleOff temps) s fun m => m.rd .MOD_STATUS_THROTTLE 0 = 0 ∧
        ∀ i, i < 37 → m.rd .PWR_TEMP_TEMP i = (temps.getD i 0).toNat)) ∧
    (bitsAt s.m.aux.droop d2.toNat 1 = 1 → Does (.droopEnd d2) s fun m => m.aux.droop = s.m.aux.droop - 2 ^ d2.toNat)

/-- R428, R430, R434, R435: rollback. No command but SVN_COMMIT changes a fused counter; SVN_COMMIT never lowers one and keeps it within
its 64 steps. The Kindling patch that runs, and every Cordwood image that a bring-up, a reload or ACTIVATE makes the resident one,
has an SVN of at least the fused counter that SEC_SVN shows. -/
def Obligations.RollbackCounters : Prop :=
  ∀ (c : Instr) (us : BitVec 22) (o : BootOut) (hashOk a b : Bool) (s t : State), exec c s = .next t →
    (c ≠ .svnCommit → t.fuses.kindling = s.fuses.kindling ∧ t.fuses.cordwood = s.fuses.cordwood) ∧
    (s.fuses.kindling ≤ 64 → s.fuses.cordwood ≤ 64 → s.fuses.le t.fuses ∧ t.fuses.kindling ≤ 64 ∧ t.fuses.cordwood ≤ 64) ∧
    (c = .kindlingBootDone → s.m.on .SEC_STATUS_PATCH_VALID 0 = false → t.m.on .SEC_STATUS_PATCH_VALID 0 = true →
      ∃ x, t.m.flash.patch = some x ∧ x.signed = true ∧ s.m.rd .SEC_SVN_KINDLING_FUSED 0 ≤ x.svn) ∧
    (c = .activate ∨ c = .bringupStageEnd us o ∨ c = .watchdogExpiry hashOk a b → ∀ r, t.m.aux.resident = some r →
      s.m.aux.resident = some r ∨ r.img.signed = true ∧ s.m.rd .SEC_SVN_CORDWOOD_FUSED 0 ≤ r.img.svn)
end

