-- ==== Sys2Proof/Laws/Map.lean ====
section
/-! SUPPORT. Sparse tables: what a read after a write gives, and that every write keeps the canonical form. -/
namespace Sys2Proof.Machine

/-- A fold over a list keeps what each of its steps keeps. -/
theorem foldl_keep {σ β γ : Type} (q : σ → γ) (f : σ → β → σ) (h : ∀ x b, q (f x b) = q x) (l : List β) (x : σ) :
    q (l.foldl f x) = q x := by
  induction l generalizing x with
  | nil => rfl
  | cons b l ih => rw [List.foldl_cons, ih, h]

variable {α : Type} {d : Nat → α}

@[simp] theorem NMap.get_nil (k : Nat) : NMap.get d [] k = d k := rfl

theorem NMap.get_cons (k j : Nat) (v : α) (m : NMap α) :
    NMap.get d ((k, v) :: m) j = if j = k then v else NMap.get d m j := rfl

theorem NMap.get_erase (m : NMap α) (k j : Nat) : (m.erase k).get d j = if j = k then d k else m.get d j := by
  induction m with
  | nil => by_cases h : j = k <;> simp [NMap.erase, h]
  | cons p m ih =>
    obtain ⟨k', v'⟩ := p
    by_cases hk : k = k'
    · subst hk
      simp only [NMap.erase, if_true, ih, NMap.get_cons]
      split <;> rfl
    · by_cases hj : j = k
      · subst hj; simp [NMap.erase, NMap.get_cons, ih, hk]
      · simp [NMap.erase, NMap.get_cons, ih, hk, hj]

theorem NMap.get_insert (m : NMap α) (k j : Nat) (v : α) :
    ((m.erase k).insert k v).get d j = if j = k then v else m.get d j := by
  induction m with
  | nil => simp [NMap.erase, NMap.insert, NMap.get_cons]
  | cons p m ih =>
    obtain ⟨k', v'⟩ := p
    by_cases hk : k = k'
    · subst hk
      simp only [NMap.erase, if_true, ih, NMap.get_cons]
      split <;> rfl
    · by_cases hlt : k < k'
      · by_cases hj : j = k
        · simp [NMap.erase, NMap.insert, NMap.get_cons, hk, hlt, hj]
        · simp [NMap.erase, NMap.insert, NMap.get_cons, hk, hlt, hj, NMap.get_erase]
      · by_cases hj : j = k
        · subst hj; simp [NMap.erase, NMap.insert, NMap.get_cons, hk, hlt, ih]
        · simp [NMap.erase, NMap.insert, NMap.get_cons, hk, hlt, hj, ih]

/-- A read after a write gives the value written there, and what was there before elsewhere. -/
theorem NMap.get_set [DecidableEq α] (m : NMap α) (k j : Nat) (v : α) :
    (m.set d k v).get d j = if j = k then v else m.get d j := by
  unfold NMap.set
  split
  · next h => rw [NMap.get_erase, h]
  · exact NMap.get_insert m k j v

@[simp] theorem NMap.get_set_self [DecidableEq α] (m : NMap α) (k : Nat) (v : α) : (m.set d k v).get d k = v := by
  simp [NMap.get_set]

theorem NMap.get_set_ne [DecidableEq α] (m : NMap α) {k j : Nat} (v : α) (h : j ≠ k) :
    (m.set d k v).get d j = m.get d j := by
  simp [NMap.get_set, h]

theorem NMap.get_setMany_of_notMem [DecidableEq α] (kvs : List (Nat × α)) (m : NMap α) (j : Nat)
    (h : ∀ kv ∈ kvs, kv.1 ≠ j) : (m.setMany d kvs).get d j = m.get d j := by
  induction kvs generalizing m with
  | nil => rfl
  | cons kv kvs ih =>
    rw [NMap.setMany, List.foldl_cons]
    have := ih (m.set d kv.1 kv.2) fun x hx => h x (List.mem_cons_of_mem _ hx)
    rw [NMap.setMany] at this
    rw [this, NMap.get_set_ne _ _ (Ne.symm (h kv List.mem_cons_self))]

/-- A table whose values are mapped, where the mapping keeps what unlisted numbers read as. -/
theorem NMap.get_mapVals {β : Type} {e : Nat → β} (F : Nat → α → β) (hF : ∀ k, F k (d k) = e k) (m : NMap α) (k : Nat) :
    NMap.get e (m.map fun kv => (kv.1, F kv.1 kv.2)) k = F k (m.get d k) := by
  induction m with
  | nil => exact (hF k).symm
  | cons p m ih =>
    obtain ⟨k', v⟩ := p
    rw [List.map_cons, NMap.get_cons, NMap.get_cons]
    by_cases h : k = k'
    · rw [if_pos h, if_pos h, h]
    · rw [if_neg h, if_neg h]; exact ih

theorem NMap.wfFrom_mono [DecidableEq α] (m : NMap α) {lo lo' : Nat} (h : lo' ≤ lo) (hm : NMap.wfFrom d lo m = true) :
    NMap.wfFrom d lo' m = true := by
  cases m with
  | nil => rfl
  | cons p m =>
    simp only [NMap.wfFrom, Bool.and_eq_true, decide_eq_true_eq] at hm ⊢
    exact ⟨⟨Nat.le_trans h hm.1.1, hm.1.2⟩, hm.2⟩

theorem NMap.wfFrom_erase [DecidableEq α] (m : NMap α) (k lo : Nat) (hm : NMap.wfFrom d lo m = true) :
    NMap.wfFrom d lo (m.erase k) = true := by
  induction m generalizing lo with
  | nil => rfl
  | cons p m ih =>
    simp only [NMap.wfFrom, Bool.and_eq_true, decide_eq_true_eq] at hm
    by_cases hk : k = p.1
    · rw [NMap.erase, if_pos hk]
      exact NMap.wfFrom_mono _ (Nat.le_succ_of_le hm.1.1) (ih _ hm.2)
    · simp only [NMap.erase, if_neg hk, NMap.wfFrom, Bool.and_eq_true, decide_eq_true_eq]
      exact ⟨hm.1, ih _ hm.2⟩

theorem NMap.wfFrom_insert [DecidableEq α] (m : NMap α) (k lo : Nat) (v : α) (hv : v ≠ d k) (hlo : lo ≤ k)
    (hm : NMap.wfFrom d lo m = true) : NMap.wfFrom d lo ((m.erase k).insert k v) = true := by
  induction m generalizing lo with
  | nil => simp [NMap.erase, NMap.insert, NMap.wfFrom, hv, hlo]
  | cons p m ih =>
    have hm' := hm
    simp only [NMap.wfFrom, Bool.and_eq_true, decide_eq_true_eq] at hm
    by_cases hk : k = p.1
    · rw [NMap.erase, if_pos hk]
      exact ih _ hlo (NMap.wfFrom_mono _ (Nat.le_succ_of_le hm.1.1) hm.2)
    · simp only [NMap.erase, if_neg hk, NMap.insert]
      split
      · next hlt =>
        simp only [NMap.wfFrom, Bool.and_eq_true, decide_eq_true_eq]
        exact ⟨⟨hlo, hv⟩, ⟨hlt, hm.1.2⟩, NMap.wfFrom_erase _ _ _ hm.2⟩
      · next hlt =>
        simp only [NMap.wfFrom, Bool.and_eq_true, decide_eq_true_eq]
        exact ⟨hm.1, ih _ (by omega) hm.2⟩

/-- A write keeps the canonical form. -/
theorem NMap.wf_set [DecidableEq α] (m : NMap α) (k : Nat) (v : α) (hm : m.wf d = true) : (m.set d k v).wf d = true := by
  unfold NMap.set
  split
  · exact NMap.wfFrom_erase _ _ _ hm
  · next h => exact NMap.wfFrom_insert _ _ _ _ h (Nat.zero_le _) hm

theorem NMap.wf_setMany [DecidableEq α] (kvs : List (Nat × α)) (m : NMap α) (hm : m.wf d = true) :
    (m.setMany d kvs).wf d = true := by
  induction kvs generalizing m with
  | nil => exact hm
  | cons kv kvs ih => exact ih _ (NMap.wf_set _ _ _ hm)

theorem NMap.wfFrom_filter [DecidableEq α] (p : Nat × α → Bool) (m : NMap α) (lo : Nat) (hm : NMap.wfFrom d lo m = true) :
    NMap.wfFrom d lo (m.filter p) = true := by
  induction m generalizing lo with
  | nil => rfl
  | cons kv m ih =>
    simp only [NMap.wfFrom, Bool.and_eq_true, decide_eq_true_eq] at hm
    by_cases h : p kv = true
    · rw [List.filter_cons_of_pos h]
      simp only [NMap.wfFrom, Bool.and_eq_true, decide_eq_true_eq]
      exact ⟨hm.1, ih _ hm.2⟩
    · rw [List.filter_cons_of_neg h]
      exact NMap.wfFrom_mono _ (by omega) (ih _ hm.2)

theorem NMap.wf_filter [DecidableEq α] (p : Nat × α → Bool) (m : NMap α) (hm : m.wf d = true) :
    NMap.wf d (m.filter p) = true := NMap.wfFrom_filter p m 0 hm

end Sys2Proof.Machine
end

