-- ==== Sys2Proof/Laws/Regs.lean ====
section
/-! SUPPORT. Register fields, cores and contexts: what a read after a write gives. -/
namespace Sys2Proof.Machine

theorem Fld.ctorIdx_lt (f : Fld) : f.ctorIdx < 1024 := by
  cases f <;> exact of_decide_eq_true rfl

theorem Fld.ofNat_ctorIdx' (f : Fld) : Fld.ofNat f.ctorIdx = f := by
  cases f <;> rfl

theorem Fld.ofKey_key (f : Fld) (i : Nat) : Fld.ofKey (f.key i) = (f, i) := by
  have h := f.ctorIdx_lt
  have h1 : (f.ctorIdx + 1024 * i) % 1024 = f.ctorIdx := by omega
  have h2 : (f.ctorIdx + 1024 * i) / 1024 = i := by omega
  rw [Fld.ofKey, Fld.key, h1, h2, Fld.ofNat_ctorIdx']

/-- Two fields of two instances are held under one number only if they are the same. -/
theorem Fld.key_inj {f f' : Fld} {i i' : Nat} : f.key i = f'.key i' ↔ f = f' ∧ i = i' := by
  refine ⟨fun h => ?_, fun h => by rw [h.1, h.2]⟩
  have := congrArg Fld.ofKey h
  rw [Fld.ofKey_key, Fld.ofKey_key] at this
  exact ⟨congrArg Prod.fst this, congrArg Prod.snd this⟩

/-- A field that nothing has written reads as its value after cold reset. -/
@[simp] theorem regDefault_key (f : Fld) (i : Nat) : regDefault (f.key i) = f.resetVal i := by
  rw [regDefault, Fld.ofKey_key]

/-- A read after a write of a register field. -/
@[simp] theorem Mach.rd_wr (m : Mach) (f f' : Fld) (i i' v : Nat) :
    (m.wr f i v).rd f' i' = if f' = f ∧ i' = i then v % 2 ^ f.width else m.rd f' i' := by
  simp only [Mach.rd, Mach.wr, NMap.get_set, Fld.key_inj]

@[simp] theorem Mach.rdS_wrS (m : Mach) (f f' : Fld) (i i' v : Nat) :
    (m.wrS f i v).rdS f' i' = if f' = f ∧ i' = i then v % 2 ^ f.width else m.rdS f' i' := by
  simp only [Mach.rdS, Mach.wrS, NMap.get_set, Fld.key_inj]

@[simp] theorem Mach.on_wr (m : Mach) (f f' : Fld) (i i' v : Nat) :
    (m.wr f i v).on f' i' = if f' = f ∧ i' = i then v % 2 ^ f.width == 1 else m.on f' i' := by
  simp only [Mach.on, Mach.rd_wr]
  split <;> rfl

@[simp] theorem Mach.rd_wrS (m : Mach) (f f' : Fld) (i i' v : Nat) : (m.wrS f i v).rd f' i' = m.rd f' i' := rfl
@[simp] theorem Mach.rdS_wr (m : Mach) (f f' : Fld) (i i' v : Nat) : (m.wr f i v).rdS f' i' = m.rdS f' i' := rfl

/-- A field that several writes do not name keeps its value. -/
theorem Mach.rd_wrs_of_notMem (fs : List (Fld × Nat)) (m : Mach) (f : Fld) (i i' : Nat) (h : ∀ fv ∈ fs, fv.1 ≠ f ∨ i ≠ i') :
    (m.wrs i fs).rd f i' = m.rd f i' := by
  induction fs generalizing m with
  | nil => rfl
  | cons fv fs ih =>
    rw [Mach.wrs, List.foldl_cons]
    have := ih (m.wr fv.1 i fv.2) fun x hx => h x (List.mem_cons_of_mem _ hx)
    rw [Mach.wrs] at this
    rw [this, Mach.rd_wr, if_neg]
    rintro ⟨rfl, rfl⟩
    exact (h fv List.mem_cons_self).elim (· rfl) (· rfl)

@[simp] theorem Mach.wrs_nil (m : Mach) (i : Nat) : m.wrs i [] = m := rfl
@[simp] theorem Mach.wrs_cons (m : Mach) (i : Nat) (f : Fld) (v : Nat) (fs : List (Fld × Nat)) :
    m.wrs i ((f, v) :: fs) = (m.wr f i v).wrs i fs := rfl

/-- The core that a write of core `g` leaves. -/
@[simp] theorem Mach.core_setCore (m : Mach) (g h : Nat) (c : Core) : (m.setCore g c).core h = if h = g then c else m.core h := by
  simp only [Mach.core, Mach.setCore, NMap.get_set]

@[simp] theorem Mach.core_onCore (m : Mach) (g h : Nat) (f : Core → Core) :
    (m.onCore g f).core h = if h = g then f (m.core g) else m.core h := by
  simp only [Mach.onCore, Mach.core_setCore]

/-- The context that a write of context `k` leaves. -/
@[simp] theorem Mach.ctx_setCtx (m : Mach) (k j : Nat) (c : Ctx) : (m.setCtx k c).ctx j = if j = k then c else m.ctx j := by
  simp only [Mach.ctx, Mach.setCtx, NMap.get_set]

@[simp] theorem Mach.ctx_onCtx (m : Mach) (k j : Nat) (f : Ctx → Ctx) :
    (m.onCtx k f).ctx j = if j = k then f (m.ctx k) else m.ctx j := by
  simp only [Mach.onCtx, Mach.ctx_setCtx]

@[simp] theorem Mach.core_wr (m : Mach) (f : Fld) (i v g : Nat) : (m.wr f i v).core g = m.core g := rfl
@[simp] theorem Mach.ctx_wr (m : Mach) (f : Fld) (i v k : Nat) : (m.wr f i v).ctx k = m.ctx k := rfl
@[simp] theorem Mach.core_setCtx (m : Mach) (k g : Nat) (c : Ctx) : (m.setCtx k c).core g = m.core g := rfl
@[simp] theorem Mach.core_onCtx (m : Mach) (k g : Nat) (f : Ctx → Ctx) : (m.onCtx k f).core g = m.core g := rfl
@[simp] theorem Mach.ctx_setCore (m : Mach) (k g : Nat) (c : Core) : (m.setCore g c).ctx k = m.ctx k := rfl
@[simp] theorem Mach.ctx_onCore (m : Mach) (k g : Nat) (f : Core → Core) : (m.onCore g f).ctx k = m.ctx k := rfl
@[simp] theorem Mach.rd_setCore (m : Mach) (g : Nat) (c : Core) (f : Fld) (i : Nat) : (m.setCore g c).rd f i = m.rd f i := rfl
@[simp] theorem Mach.rd_onCore (m : Mach) (g : Nat) (h : Core → Core) (f : Fld) (i : Nat) : (m.onCore g h).rd f i = m.rd f i := rfl
@[simp] theorem Mach.rd_setCtx (m : Mach) (k : Nat) (c : Ctx) (f : Fld) (i : Nat) : (m.setCtx k c).rd f i = m.rd f i := rfl
@[simp] theorem Mach.rd_onCtx (m : Mach) (k : Nat) (h : Ctx → Ctx) (f : Fld) (i : Nat) : (m.onCtx k h).rd f i = m.rd f i := rfl

/-- A counter's addition writes that counter alone. -/
theorem Mach.rd_bump_ne (m : Mach) {f f' : Fld} (i i' n : Nat) (h : ¬ (f' = f ∧ i' = i)) :
    (m.bump f i n).rd f' i' = m.rd f' i' := by
  unfold Mach.bump
  split
  · rfl
  · rw [Mach.rd_wr, if_neg h]

@[simp] theorem Mach.core_bump (m : Mach) (f : Fld) (i n g : Nat) : (m.bump f i n).core g = m.core g := by
  unfold Mach.bump; split <;> rfl
@[simp] theorem Mach.ctx_bump (m : Mach) (f : Fld) (i n k : Nat) : (m.bump f i n).ctx k = m.ctx k := by
  unfold Mach.bump; split <;> rfl

end Sys2Proof.Machine
end

