-- ==== Sys2Proof/Laws/Control.lean ====
section
/-! SUPPORT. Issue and the control instructions: what an issue changes, and what follows it. -/
namespace Sys2Proof.Machine

/-- Profile events write profile counters alone. -/
theorem Mach.rd_ev (m : Mach) (g code n : Nat) (f : Fld) (i : Nat) (h : f ≠ .PROF_CNT) : (m.ev g code n).rd f i = m.rd f i := by
  unfold Mach.ev
  split
  · generalize List.range 16 = l
    apply foldl_keep (fun m : Mach => m.rd f i)
    intro m a
    split
    · exact Mach.rd_bump_ne _ _ _ _ fun x => h x.1
    · rfl
  · rfl

theorem Mach.bump_eq (m : Mach) (f : Fld) (i n : Nat) : m.bump f i n = { m with regs := (m.bump f i n).regs } := by
  unfold Mach.bump; split <;> rfl

theorem Mach.ev_eq (m : Mach) (g code n : Nat) : m.ev g code n = { m with regs := (m.ev g code n).regs } := by
  have : ∀ l : List Nat, ∀ m : Mach,
      let r := l.foldl (fun m i => if m.rd .PROF_SEL_EVENT (g * 16 + i) = code then m.bump .PROF_CNT (g * 16 + i) n else m) m
      r = { m with regs := r.regs } := by
    intro l
    induction l with
    | nil => intro m; rfl
    | cons a l ih =>
      intro m
      dsimp only [List.foldl_cons] at ih ⊢
      split
      · rw [ih, Mach.bump_eq]
      · exact ih m
  unfold Mach.ev
  split
  · exact this _ _
  · rfl

@[simp] theorem Mach.ctx_ev (m : Mach) (g code n k : Nat) : (m.ev g code n).ctx k = m.ctx k := by rw [Mach.ev_eq]; rfl
@[simp] theorem Mach.core_ev (m : Mach) (g code n k : Nat) : (m.ev g code n).core k = m.core k := by rw [Mach.ev_eq]; rfl

@[simp] theorem Mach.core_roundOn (m : Mach) (k g : Nat) : (m.roundOn k).core g = m.core g := rfl
@[simp] theorem Mach.ctx_roundOn (m : Mach) (k j : Nat) : (m.roundOn k).ctx j = m.ctx j := rfl
@[simp] theorem Mach.rd_roundOn (m : Mach) (k : Nat) (f : Fld) (i : Nat) : (m.roundOn k).rd f i = m.rd f i := rfl

/-- The use of a cache line changes one core's instruction cache and nothing else of the module. -/
theorem Mach.lineUsed_eq (m : Mach) (k : Nat) : m.lineUsed k = { m with cores := (m.lineUsed k).cores } := by
  unfold Mach.lineUsed; split <;> rfl
@[simp] theorem Mach.ctx_lineUsed (m : Mach) (k j : Nat) : (m.lineUsed k).ctx j = m.ctx j := by rw [Mach.lineUsed_eq]; rfl
@[simp] theorem Mach.rd_lineUsed (m : Mach) (k : Nat) (f : Fld) (i : Nat) : (m.lineUsed k).rd f i = m.rd f i := by
  rw [Mach.lineUsed_eq]; rfl
@[simp] theorem Mach.time_lineUsed (m : Mach) (k : Nat) : (m.lineUsed k).time = m.time := by rw [Mach.lineUsed_eq]; rfl

/-- The use of a line leaves every core as it was but for its instruction cache. -/
theorem Mach.core_lineUsed (m : Mach) (k g : Nat) :
    (m.lineUsed k).core g = { m.core g with icache := ((m.lineUsed k).core g).icache } := by
  unfold Mach.lineUsed
  split
  · rfl
  · rw [Mach.core_onCore]
    split
    · next h => subst h; rfl
    · rfl

/-- R177: an issue adds 1 to the thread's ICOUNT, moves its pc past the words, and ends its wait; no other context changes. -/
theorem Mach.ctx_issue (m : Mach) (k w j : Nat) :
    (m.issue k w).ctx j = if j = k then
      { m.ctx k with icount := ((m.ctx k).icount + 1) % 2 ^ 48, pc := (m.ctx k).pc + w, wait := .none, since := m.time }
    else m.ctx j := by
  unfold Mach.issue
  dsimp only
  split <;> simp

/-- R166: of the cores, an issue changes the instruction cache of a per-core thread's own. -/
theorem Mach.core_issue (m : Mach) (k w g : Nat) : (m.issue k w).core g = (m.lineUsed k).core g := by
  unfold Mach.issue
  dsimp only
  split <;> simp

/-- An issue writes no register but its counters. -/
theorem Mach.rd_issue (m : Mach) (k w : Nat) (f : Fld) (i : Nat) (h1 : f ≠ .SEQ_ISSUED) (h2 : f ≠ .PROF_CNT) :
    (m.issue k w).rd f i = m.rd f i := by
  unfold Mach.issue
  dsimp only
  split
  · rw [Mach.rd_bump_ne _ _ _ _ fun x => h1 x.1, Mach.rd_roundOn, Mach.rd_onCtx, Mach.rd_lineUsed]
  · rw [Mach.rd_ev _ _ _ _ _ _ h2, Mach.rd_roundOn, Mach.rd_onCtx, Mach.rd_lineUsed]

/-- What follows an issue leaves every register but TICK_STATE.HELD. -/
theorem Mach.rd_issued (m : Mach) (k : Nat) (f : Fld) (i : Nat) (h : f ≠ .TICK_STATE_HELD) : (m.issued k).rd f i = m.rd f i := by
  unfold Mach.issued Mach.cutCheck Mach.implicitHalt
  repeat' split
  all_goals simp [h, Mach.rd, Mach.onCtx, Mach.setCtx, Mach.wr, NMap.get_set, Fld.key_inj]

@[simp] theorem Mach.core_issued (m : Mach) (k g : Nat) : (m.issued k).core g = m.core g := by
  unfold Mach.issued Mach.cutCheck Mach.implicitHalt
  repeat' split
  all_goals simp [Mach.core, Mach.onCtx, Mach.setCtx, Mach.wr]

/-- What follows an issue: a context at the end of its text begins the implicit HALT (R183), and nothing else of a context changes. -/
theorem Mach.ctx_issued (m : Mach) (k j : Nat) :
    ((m.issued k).ctx j).icount = (m.ctx j).icount ∧ ((m.issued k).ctx j).pc = (m.ctx j).pc ∧
    ((m.issued k).ctx j).loops = (m.ctx j).loops ∧ ((m.issued k).ctx j).running = (m.ctx j).running ∧
    ((m.issued k).ctx j).defer = (m.ctx j).defer ∧
    ((m.ctx j).wait ≠ .none → ((m.issued k).ctx j).wait = (m.ctx j).wait) := by
  have h : ∀ m : Mach, (m.cutCheck k).ctx j = m.ctx j := by
    intro m
    unfold Mach.cutCheck
    repeat' split
    all_goals rfl
  unfold Mach.issued
  rw [h]
  unfold Mach.implicitHalt
  repeat' split
  all_goals simp
  split
  · next hw hj => subst hj; simp_all
  · simp

theorem Mach.issue_eq (m : Mach) (k w : Nat) :
    m.issue k w = { m with regs := (m.issue k w).regs, ctxs := (m.issue k w).ctxs, cores := (m.issue k w).cores,
                           turn := (m.issue k w).turn, jam := (m.issue k w).jam } := by
  unfold Mach.issue
  dsimp only
  rw [Mach.lineUsed_eq]
  split
  · rw [Mach.bump_eq]; rfl
  · rw [Mach.ev_eq]; rfl

theorem Mach.issued_eq (m : Mach) (k : Nat) :
    m.issued k = { m with regs := (m.issued k).regs, ctxs := (m.issued k).ctxs, cut := (m.issued k).cut } := by
  unfold Mach.issued Mach.cutCheck Mach.implicitHalt
  repeat' split
  all_goals rfl

theorem Mach.ctx_issued_ne (m : Mach) (k j : Nat) (h : j ≠ k) : (m.issued k).ctx j = m.ctx j := by
  unfold Mach.issued Mach.cutCheck Mach.implicitHalt
  repeat' split
  all_goals simp [Mach.ctx, Mach.onCtx, Mach.setCtx, Mach.wr, NMap.get_set, h]

/-- The issue of an instruction whose effect is on its own context. -/
theorem Mach.issued_onCtx (m : Mach) (k w : Nat) (h : Ctx → Ctx) (hi : ∀ c, (h c).icount = c.icount) :
    m.Issued (((m.issue k w).onCtx k h).issued k) k := by
  refine ⟨?_, fun j hj => ?_, fun f i h1 h2 h3 => ?_, fun a => ?_, fun a => ?_⟩
  · rw [(Mach.ctx_issued _ _ _).1, Mach.ctx_onCtx, if_pos rfl, hi, Mach.ctx_issue, if_pos rfl]
  · rw [Mach.ctx_issued_ne _ _ _ hj, Mach.ctx_onCtx, if_neg hj, Mach.ctx_issue, if_neg hj]
  · rw [Mach.rd_issued _ _ _ _ h3, Mach.rd_onCtx, Mach.rd_issue _ _ _ _ _ h1 h2]
  · rw [Mach.issued_eq, Mach.issue_eq]; rfl
  · rw [Mach.issued_eq, Mach.issue_eq]; rfl

/-- A control instruction of a thread that can issue. -/
theorem control_eq (t : ThreadId) (f : Nat → Mach → Mach) (m : Mach) (h : m.canIssue (threadNum t) = true) :
    control t f m = (f (threadNum t) (m.issue (threadNum t) 1)).issued (threadNum t) := if_pos h

/-- A control instruction of a thread that cannot issue waits. -/
theorem control_waits (t : ThreadId) (f : Nat → Mach → Mach) (m : Mach) (h : m.canIssue (threadNum t) = false) :
    control t f m = m := if_neg (by rw [h]; exact Bool.false_ne_true)

/-- The place of a thread's context and the rest of the module after an effect `m1` on what an issue left. -/
theorem Mach.Issued.of {m m1 : Mach} {k w : Nat} (hk : (m1.ctx k).icount = ((m.issue k w).ctx k).icount)
    (hj : ∀ j, j ≠ k → m1.ctx j = (m.issue k w).ctx j) (hr : ∀ f i, m1.rd f i = (m.issue k w).rd f i)
    (hm : m1.mem = m.mem) (hp : m1.poison = m.poison) (hh : m1.hurt = m.hurt) : m.Issued (m1.issued k) k := by
  refine ⟨?_, fun j h => ?_, fun f i h1 h2 h3 => ?_, fun a => ?_, fun a => ?_⟩
  · rw [(Mach.ctx_issued _ _ _).1, hk, Mach.ctx_issue, if_pos rfl]
  · rw [Mach.ctx_issued_ne _ _ _ h, hj j h, Mach.ctx_issue, if_neg h]
  · rw [Mach.rd_issued _ _ _ _ h3, hr, Mach.rd_issue _ _ _ _ _ h1 h2]
  · rw [Mach.issued_eq]; show NMap.get byte0 m1.mem a = _; rw [hm]; rfl
  · rw [Mach.issued_eq]; unfold Mach.isPoison Mach.cellError; dsimp only; rw [hp, hh]

theorem Mach.mem_issue (m : Mach) (k w : Nat) : (m.issue k w).mem = m.mem := by rw [Mach.issue_eq]
theorem Mach.poison_issue (m : Mach) (k w : Nat) : (m.issue k w).poison = m.poison := by rw [Mach.issue_eq]
theorem Mach.mem_issued (m : Mach) (k : Nat) : (m.issued k).mem = m.mem := by rw [Mach.issued_eq]
theorem Mach.poison_issued (m : Mach) (k : Nat) : (m.issued k).poison = m.poison := by rw [Mach.issued_eq]
theorem Mach.time_issue (m : Mach) (k w : Nat) : (m.issue k w).time = m.time :=
  Mach.rd_issue _ _ _ _ _ (by decide) (by decide)

/-- The member cores of a thread are distinct. -/
theorem Mach.members_nodup (m : Mach) (k : Nat) : (m.members k).Nodup := by
  unfold Mach.members Mach.groupCores
  split
  · exact List.Pairwise.map _ (fun a b h => by omega) (List.nodup_range (n := m.rd .SEQ_MEMBER_COUNT _))
  · exact List.nodup_cons.2 ⟨List.not_mem_nil, List.nodup_nil⟩

/-- What a thread drives does not depend on issues. -/
theorem Mach.members_issue (m : Mach) (k w j : Nat) : (m.issue k w).members j = m.members j := by
  unfold Mach.members Mach.groupCores
  rw [Mach.rd_issue _ _ _ _ _ (by decide) (by decide), Mach.rd_issue _ _ _ _ _ (by decide) (by decide)]

theorem Mach.outstanding_issue (m : Mach) (k w g thr ic : Nat) (us : List Nat) :
    (m.issue k w).outstanding g thr ic us = m.outstanding g thr ic us := by
  unfold Mach.outstanding; rw [Mach.core_issue, Mach.core_lineUsed]; rfl

/-- Whether another context runs does not depend on an issue. -/
theorem Mach.ctxLive_issue (m : Mach) (k w j : Nat) (h : j ≠ k) : (m.issue k w).ctxLive j = m.ctxLive j := by
  unfold Mach.ctxLive
  rw [Mach.ctx_issue, if_neg h, Mach.members_issue]
  simp only [Mach.outstanding_issue]

theorem Mach.seqOf_issue (m : Mach) (k w g : Nat) : (m.issue k w).seqOf g = m.seqOf g := by
  unfold Mach.seqOf
  simp only [Mach.rd_issue _ _ _ Fld.SEQ_MEMBER_FIRST _ (by decide) (by decide),
    Mach.rd_issue _ _ _ Fld.SEQ_MEMBER_COUNT _ (by decide) (by decide)]

theorem Mach.phaseTest_issue (m : Mach) (k w j p q : Nat) : (m.issue k w).phaseTest j p q = m.phaseTest j p q := by
  have hs : (m.issue k w).step = m.step := by rw [Mach.issue_eq]
  have hr : ∀ f i, f ≠ .SEQ_ISSUED → f ≠ .PROF_CNT → (m.issue k w).rd f i = m.rd f i := fun f i h1 h2 =>
    Mach.rd_issue _ _ _ _ _ h1 h2
  unfold Mach.phaseTest Mach.thrSeq Mach.window Mach.phaseIndex
  simp only [Mach.seqOf_issue, hs, hr .TICK_STATE_PHASE _ (by decide) (by decide),
    hr .TICK_STATE_PHASE_LEFT _ (by decide) (by decide), hr .SEQ_WIN_FB_F_OFF _ (by decide) (by decide),
    hr .SEQ_WIN_FB_F_LEN _ (by decide) (by decide), hr .SEQ_WIN_FB_B_OFF _ (by decide) (by decide),
    hr .SEQ_WIN_FB_B_LEN _ (by decide) (by decide), hr .SEQ_WIN_U_U_OFF _ (by decide) (by decide),
    hr .SEQ_WIN_U_U_LEN _ (by decide) (by decide)]

/-- A thread that can issue runs and waits for nothing that a count of a flag would end. -/
theorem Mach.running_of_canIssue {m : Mach} {k : Nat} (h : m.canIssue k = true) : (m.ctx k).running = true := by
  unfold Mach.canIssue at h
  simp only [Bool.and_eq_true] at h
  exact h.1.1.1.1.1.1.2

theorem Mach.frozen_of_canIssue {m : Mach} {k : Nat} (h : m.canIssue k = true) : m.frozen = false := by
  unfold Mach.canIssue at h
  simp only [Bool.and_eq_true, Bool.not_eq_true'] at h
  exact h.1.1.1.1.1.1.1.1.1.1.1.2

/-- A flag's count after contexts wake. -/
@[simp] theorem Mach.rd_wakeFlags (m : Mach) (f : Fld) (i : Nat) : m.wakeFlags.rd f i = m.rd f i := rfl
@[simp] theorem Mach.core_wakeFlags (m : Mach) (g : Nat) : m.wakeFlags.core g = m.core g := rfl

/-- A wake ends the wait of contexts whose flag has reached its threshold, and changes nothing else of any context. -/
theorem Mach.ctx_wakeFlags (m : Mach) (k : Nat) : m.wakeFlags.ctx k = m.woken k (m.ctx k) :=
  NMap.get_mapVals (d := fun _ => Ctx.idle) (e := fun _ => Ctx.idle) m.woken (fun _ => rfl) m.ctxs k

/-- A wake changes only a context's wait. -/
theorem Mach.woken_keeps (m : Mach) (k : Nat) (c : Ctx) :
    (m.woken k c).icount = c.icount ∧ (m.woken k c).pc = c.pc ∧ (m.woken k c).loops = c.loops ∧
    (m.woken k c).running = c.running ∧ (m.woken k c).defer = c.defer := by
  unfold Mach.woken
  repeat' split
  all_goals exact ⟨rfl, rfl, rfl, rfl, rfl⟩

end Sys2Proof.Machine
end

