-- ==== Sys2Proof/Laws/Still.lean ====
section
/-! SUPPORT. What the shared side effects leave alone: counters, profile events, trace records, host messages, completions, freezes
and faults write registers, the trace buffers, the host's side, the logs, the fabric's control frames and the step's requests. No
core, no memory, no code, no channel of the collectives, and nothing of the AUX domain changes. -/
namespace Sys2Proof.Machine

/-- What the shared side effects never change. -/
structure Still where
  shadow : NMap Nat
  mem : List Host.Cell
  poison : NMap Bool
  hurt : Hurt
  cores : NMap Core
  setters : NMap (Option Setter)
  banks : NMap (Option Text)
  codes : NMap (Option Text)
  free : Nat
  red : Red
  tick : TickGen
  flash : Flash
  aux : Aux
  pins : Pins
  mgmt : Mgmt
  deferred : List Deferred
  loads : List Loading
  acking : List Deferred
  cache : List (Nat × Nat)
  image : Option Loaded
  timers : NMap (Option Timer)

/-- That part of the machine. -/
def Mach.still (m : Mach) : Still :=
  ⟨m.shadow, m.mem, m.poison, m.hurt, m.cores, m.setters, m.banks, m.codes, m.free, m.red, m.tick, m.flash, m.aux, m.pins, m.mgmt,
    m.deferred, m.loads, m.acking, m.cache, m.image, m.timers⟩

theorem Mach.core_of_still {m m' : Mach} (h : m'.still = m.still) (g : Nat) : m'.core g = m.core g :=
  congrArg (fun s : Still => NMap.get (fun _ => Core.reset) s.cores g) h
theorem Mach.byteAt_of_still {m m' : Mach} (h : m'.still = m.still) (a : Nat) : m'.byteAt a = m.byteAt a :=
  congrArg (fun s : Still => NMap.get byte0 s.mem a) h
theorem Mach.isPoison_of_still {m m' : Mach} (h : m'.still = m.still) (a : Nat) : m'.isPoison a = m.isPoison a :=
  congrArg (fun s : Still => NMap.get (fun _ => false) s.poison (granKey a) || NMap.get (fun _ => 0) s.hurt.cells (granKey a) == 2) h

@[simp] theorem Mach.still_wr (m : Mach) (f : Fld) (i v : Nat) : (m.wr f i v).still = m.still := rfl
@[simp] theorem Mach.still_wrs (m : Mach) (i : Nat) (fs : List (Fld × Nat)) : (m.wrs i fs).still = m.still :=
  foldl_keep Mach.still (fun m (fv : Fld × Nat) => m.wr fv.1 i fv.2) (fun _ _ => rfl) fs m
@[simp] theorem Mach.still_bump (m : Mach) (f : Fld) (i n : Nat) : (m.bump f i n).still = m.still := by
  unfold Mach.bump; split <;> rfl
@[simp] theorem Mach.still_onCtx (m : Mach) (k : Nat) (f : Ctx → Ctx) : (m.onCtx k f).still = m.still := rfl
@[simp] theorem Mach.still_onFab (m : Mach) (f : Fab → Fab) : (m.onFab f).still = m.still := rfl
@[simp] theorem Mach.still_setBuf (m : Mach) (s : Nat) (b : TraceBuf) : (m.setBuf s b).still = m.still := rfl
@[simp] theorem Mach.still_setCoal (m : Mach) (r : Nat) (c : Coal) : (m.setCoal r c).still = m.still := rfl
@[simp] theorem Mach.still_hostWrite (m : Mach) (a : Nat) (bs : List Byte) : (m.hostWrite a bs).still = m.still := rfl
@[simp] theorem Mach.still_dropDeferred (m : Mach) : m.dropDeferred.still = m.still := rfl

@[simp] theorem Mach.still_ev (m : Mach) (g code n : Nat) : (m.ev g code n).still = m.still := by
  rw [Mach.ev_eq]; rfl

@[simp] theorem Mach.still_hev (m : Mach) (b code n : Nat) : (m.hev b code n).still = m.still := by
  unfold Mach.hev
  split
  · generalize List.range 32 = l
    apply foldl_keep Mach.still
    intro m a
    split
    · exact m.still_bump _ _ _
    · rfl
  · rfl

@[simp] theorem Mach.still_stall (m : Mach) (g : Nat) (f : Fld) (c : Nat) : (m.stall g f c).still = m.still := by
  simp [Mach.stall]
@[simp] theorem Mach.still_stallEmpty (m : Mach) (g : Nat) (f : Fld) (c e : Nat) : (m.stallEmpty g f c e).still = m.still := by
  simp [Mach.stallEmpty]

@[simp] theorem Mach.still_traceRec (m : Mach) (r : TraceRec) : (m.traceRec r).still = m.still := by
  unfold Mach.traceRec; exact Mach.still_bump _ _ _ _

@[simp] theorem Mach.still_offerPending (m : Mach) (s : Nat) : (m.offerPending s).still = m.still := by
  unfold Mach.offerPending
  split
  · rfl
  · exact foldl_keep Mach.still _ (fun m r => m.still_traceRec r) _ _

@[simp] theorem Mach.still_trace (m : Mach) (s ty : Nat) (p : List Byte) : (m.trace s ty p).still = m.still := by
  unfold Mach.trace
  split <;> simp

@[simp] theorem Mach.still_markGated (m : Mach) (rs : List Nat) : (m.markGated rs).still = m.still :=
  foldl_keep Mach.still (fun m r => m.setBuf r { m.buf r with gated := true }) (fun _ _ => rfl) rs m

@[simp] theorem Mach.still_takeOwed (m : Mach) (k : Nat) : (m.takeOwed k).2.still = m.still := by
  unfold Mach.takeOwed
  split
  · exact Mach.still_onFab _ _
  · rfl
@[simp] theorem Mach.still_sendRaw (m : Mach) (k : Nat) (f : Frame) : (m.sendRaw k f).still = m.still :=
  (Mach.still_onFab _ _).trans (m.still_takeOwed k)
@[simp] theorem Mach.still_sendCtl (m : Mach) (k ty : Nat) (p : List Byte) : (m.sendCtl k ty p).still = m.still :=
  m.still_sendRaw _ _

@[simp] theorem Mach.still_sendCtlAll (m : Mach) (ty : Nat) (p : List Byte) : (m.sendCtlAll ty p).still = m.still :=
  foldl_keep Mach.still _ (fun m k => m.still_sendCtl k ty p) _ m

@[simp] theorem Mach.still_castForward (m : Mach) (f : Frame) : (m.castForward f).still = m.still := by
  unfold Mach.castForward
  apply foldl_keep Mach.still
  intro m d
  unfold Mach.castHop
  repeat' split
  all_goals simp

@[simp] theorem Mach.still_broadcast (m : Mach) (ty : Nat) (p : List Byte) : (m.broadcast ty p).still = m.still := by
  unfold Mach.broadcast; simp

@[simp] theorem Mach.still_setLink (m : Mach) (k st r : Nat) : (m.setLink k st r).still = m.still := by
  unfold Mach.setLink
  dsimp only
  split <;> simp

@[simp] theorem Mach.still_signal (m : Mach) (v : Nat) : (m.signal v).still = m.still := by
  unfold Mach.signal; split <;> rfl

@[simp] theorem Mach.still_event (m : Mach) (f : Fld) : (m.event f).still = m.still := by
  unfold Mach.event
  dsimp only
  split <;> simp

@[simp] theorem Mach.still_coalesce (m : Mach) (r : Nat) (b : Bool) : (m.coalesce r b).still = m.still := by
  unfold Mach.coalesce
  dsimp only
  repeat' split
  all_goals simp

@[simp] theorem Mach.still_writeCompletion (m : Mach) (d : Desc) (e res : List Byte) : (m.writeCompletion d e res).still = m.still := by
  unfold Mach.writeCompletion
  dsimp only
  rw [Mach.still_hostWrite]
  split <;> rfl

@[simp] theorem Mach.still_advanceTail (m : Mach) (r : Nat) : (m.advanceTail r).still = m.still := by
  unfold Mach.advanceTail
  dsimp only
  split <;> rfl

/-- R405: a completion writes the host's memory, the ring's registers and its signal. -/
@[simp] theorem Mach.still_complete (m : Mach) (d : Desc) (st de inf : Nat) (res : List Byte) :
    (m.complete d st de inf res).still = m.still := by
  unfold Mach.complete
  split
  · rfl
  · dsimp only
    rw [Mach.still_coalesce, Mach.still_bump]
    exact (Mach.still_advanceTail _ _).trans (Mach.still_writeCompletion _ _ _ _)

@[simp] theorem Mach.still_trigger (m : Mach) (s : Nat) : (m.trigger s).still = m.still := by
  unfold Mach.trigger
  split <;> simp

/-- R473-R475: a freeze writes its registers, its trace record and, with BCAST, its frames. -/
@[simp] theorem Mach.still_freeze (m : Mach) (s : Nat) : (m.freeze s).still = m.still := by
  unfold Mach.freeze
  split
  · rfl
  split
  · split
    · exact Mach.still_wr _ _ _ _
    · rfl
  extract_lets m1 m2 m3 m4
  have h2 : m2.still = m.still := Mach.still_trace _ _ _ _
  have h3 : m3.still = m.still := by
    unfold m3
    split
    · rw [Mach.still_broadcast, h2]
    · exact h2
  rw [Mach.still_wr, Mach.still_wr, Mach.still_wr, Mach.still_wr, Mach.still_markGated, h3]

@[simp] theorem Mach.still_logFault (m : Mach) (e : FaultEnt) : (m.logFault e).still = m.still := by
  unfold Mach.logFault
  dsimp only
  rw [Mach.still_event, Mach.still_wr, Mach.still_wr]
  rfl

@[simp] theorem Mach.still_endStep (m : Mach) (st de inf t : Nat) : (m.endStep st de inf t).still = m.still := by
  unfold Mach.endStep
  split
  · rfl
  · dsimp only
    rw [Mach.still_wrs, Mach.still_complete]
    rfl

@[simp] theorem Mach.still_abortStep (m : Mach) (c : Nat) : (m.abortStep c).still = m.still := by
  unfold Mach.abortStep
  split <;> simp

/-- R278: the end of an ingest job completes its descriptor. -/
@[simp] theorem Mach.still_endJob (m : Mach) (c : IngCur) (st de : Nat) : (m.endJob c st de).still = m.still := by
  unfold Mach.endJob; rw [Mach.still_complete]; rfl

@[simp] theorem Mach.still_abortDescs (m : Mach) (ds : List Desc) : (m.abortDescs ds).still = m.still := by
  unfold Mach.abortDescs
  refine foldl_keep (q := Mach.still) (h := fun m d => ?_) ..
  split <;> simp

@[simp] theorem Mach.still_fatalModule (m : Mach) : m.fatalModule.still = m.still := by
  unfold Mach.fatalModule
  dsimp only
  rw [Mach.still_event, Mach.still_wr]
  show (Mach.abortDescs _ _).still = _
  rw [Mach.still_abortDescs, Mach.still_wrs]
  rfl

@[simp] theorem Mach.still_countNotice (m : Mach) (c : Nat) : (m.countNotice c).2.still = m.still := by
  unfold Mach.countNotice
  dsimp only
  repeat' split
  all_goals rfl

@[simp] theorem Mach.still_faultTrace (m : Mach) (s c k : Nat) : (m.faultTrace s c k).still = m.still := m.still_trace _ _ _

/-- R473, R481: a source's firing triggers a trace and freezes. -/
@[simp] theorem Mach.still_fires (m : Mach) (b : Nat) : (m.fires b).still = m.still := by
  unfold Mach.fires
  dsimp only
  repeat' split
  all_goals simp

@[simp] theorem Mach.still_raiseFreeze (m : Mach) (c : Nat) : (m.raiseFreeze c).still = m.still := by
  unfold Mach.raiseFreeze
  repeat' split
  all_goals simp

@[simp] theorem Mach.still_raiseLog (m : Mach) (code sub src a0 a1 : Nat) : (m.raiseLog code sub src a0 a1).still = m.still := by
  unfold Mach.raiseLog
  dsimp only
  repeat' split
  all_goals simp

/-- R494: raising a fault writes the logs, the trace, the freeze and, where it is fatal, the step and the descriptors: no core,
no memory, no code, and nothing of the AUX domain. -/
@[simp] theorem Mach.still_raise (m : Mach) (code sub src a0 a1 : Nat) : (m.raise code sub src a0 a1).still = m.still := by
  unfold Mach.raise
  dsimp only
  repeat' split
  all_goals simp

@[simp] theorem Mach.still_issue (m : Mach) (k w : Nat) : (m.issue k w).still = (m.lineUsed k).still := by
  unfold Mach.issue
  dsimp only
  split
  · exact (Mach.still_bump _ _ _ _).trans rfl
  · exact (Mach.still_ev _ _ _ _).trans rfl
@[simp] theorem Mach.still_issued (m : Mach) (k : Nat) : (m.issued k).still = m.still := by rw [Mach.issued_eq]; rfl

@[simp] theorem Mach.still_captureFault (m : Mach) (c a : Nat) (h : Bool) (s : Nat) : (m.captureFault c a h s).still = m.still := by
  unfold Mach.captureFault; split <;> simp

@[simp] theorem Mach.still_addrFault (m : Mach) (g c a : Nat) : (m.addrFault g c a).still = m.still := by
  unfold Mach.addrFault
  dsimp only
  split <;> simp

/-- R250: a unit that takes poison halts; no other core changes, and no memory. -/
theorem Mach.core_poisonConsumed (m : Mach) (g : Nat) (u : UnitCls) (e off h : Nat) :
    (m.poisonConsumed g u e off).core h = if h = g then { m.core g with halted := u :: (m.core g).halted } else m.core h := by
  unfold Mach.poisonConsumed
  dsimp only
  rw [Mach.core_of_still (Mach.still_raise _ _ _ _ _ _), Mach.core_onCore]
  have hc : ∀ j, (if m.on .MEM_POISON_CONSUMED_VALID 0 = true then m
    else m.wrs 0 [(.MEM_POISON_CONSUMED_VALID, 1), (.MEM_POISON_CONSUMED_CORE, g), (.MEM_POISON_CONSUMED_UNIT, u.code),
      (.MEM_POISON_CONSUMED_QUEUE, e), (.MEM_POISON_CONSUMED_CS_ADDR, off)]).core j = m.core j := by
    intro j; split <;> rfl
  rw [hc, hc]

end Sys2Proof.Machine
end

