-- ==== Sys2Proof/Laws/Aside.lean ====
section
/-! SUPPORT. The registers that the shared side effects write; every other register keeps its value. -/
namespace Sys2Proof.Machine

/-- The registers that a fault, a freeze, a completion, a trace record or an issue writes. -/
def Fld.aside : Fld → Bool
  | .DBG_TRACE_STATUS_TRIGGERED | .DBG_TRACE_DROPPED | .DBG_FREEZE_CTRL_SOURCE | .DBG_FREEZE_AT | .DBG_FREEZE_CTRL_FROZEN
  | .MOD_STATUS_FROZEN | .TICK_STATE_HELD | .MOD_FLT_STATUS_WPTR | .MOD_FLT_STATUS_TOTAL | .HIF_EVT_FAULT_LOG | .HIF_EVT_ALERT
  | .MSIX_PBA | .HIF_RING_STATUS_CQ_TAIL | .HIF_RING_STATUS_PHASE | .HIF_DESC_DONE | .MOD_STATUS_STEP_RUNNING
  | .TICK_STATE_PHASE | .TICK_STATE_PHASE_LEFT | .MOD_FLT_STATUS_ABORTED | .MOD_FLT_STATUS_FATAL_MODULE | .SEQ_ISSUED
  | .PROF_CNT | .DBG_HPROF_CNT => true
  | _ => false

theorem Fld.ne_of_aside {f g : Fld} (h : f.aside = false) (hg : g.aside = true) : f ≠ g := by
  rintro rfl; rw [h] at hg; exact absurd hg Bool.false_ne_true

@[simp] theorem Mach.rd_takeOwed (m : Mach) (k : Nat) (f : Fld) (i : Nat) : (m.takeOwed k).2.rd f i = m.rd f i := by
  have hf : ∀ (m : Mach) (g : Fab → Fab), (m.onFab g).rd f i = m.rd f i := fun _ _ => rfl
  unfold Mach.takeOwed
  split
  · exact hf _ _
  · rfl
@[simp] theorem Mach.rd_sendRaw (m : Mach) (k : Nat) (x : Frame) (f : Fld) (i : Nat) : (m.sendRaw k x).rd f i = m.rd f i :=
  m.rd_takeOwed k f i
@[simp] theorem Mach.rd_markGated (m : Mach) (rs : List Nat) (f : Fld) (i : Nat) : (m.markGated rs).rd f i = m.rd f i :=
  foldl_keep (fun m : Mach => m.rd f i) (fun m r => m.setBuf r { m.buf r with gated := true }) (fun _ _ => rfl) rs m

theorem Mach.rd_castForward (f : Fld) (i : Nat) (m : Mach) (fr : Frame) : (m.castForward fr).rd f i = m.rd f i := by
  unfold Mach.castForward
  apply foldl_keep (fun m : Mach => m.rd f i)
  intro m d
  unfold Mach.castHop
  repeat' split
  all_goals simp

section
variable {f : Fld} (h : f.aside = false) (i : Nat)
include h

theorem Mach.rdAside_wr (m : Mach) {g : Fld} (hg : g.aside = true) (j v : Nat) : (m.wr g j v).rd f i = m.rd f i := by
  rw [Mach.rd_wr, if_neg fun x => Fld.ne_of_aside h hg x.1]

theorem Mach.rdAside_wrs (m : Mach) (j : Nat) (fs : List (Fld × Nat)) (hf : fs.all (fun x => x.1.aside) = true) :
    (m.wrs j fs).rd f i = m.rd f i := by
  induction fs generalizing m with
  | nil => rfl
  | cons x fs ih =>
    rw [List.all_cons, Bool.and_eq_true] at hf
    exact (ih _ hf.2).trans (Mach.rdAside_wr h i m hf.1 j x.2)

theorem Mach.rdAside_bump (m : Mach) {g : Fld} (hg : g.aside = true) (j n : Nat) : (m.bump g j n).rd f i = m.rd f i :=
  Mach.rd_bump_ne _ _ _ _ fun x => Fld.ne_of_aside h hg x.1

theorem Mach.rdAside_ev (m : Mach) (g code n : Nat) : (m.ev g code n).rd f i = m.rd f i :=
  Mach.rd_ev _ _ _ _ _ _ (Fld.ne_of_aside h rfl)

theorem Mach.rdAside_hev (m : Mach) (b code n : Nat) : (m.hev b code n).rd f i = m.rd f i := by
  unfold Mach.hev
  split
  · generalize List.range 32 = l
    apply foldl_keep (fun m : Mach => m.rd f i)
    intro m a
    split
    · exact Mach.rdAside_bump h i m rfl _ _
    · rfl
  · rfl

theorem Mach.rdAside_trace (m : Mach) (s ty : Nat) (p : List Byte) : (m.trace s ty p).rd f i = m.rd f i := by
  have hr : ∀ (m : Mach) r, (m.traceRec r).rd f i = m.rd f i := fun m r => Mach.rdAside_bump h i _ rfl _ _
  unfold Mach.trace
  split
  · rw [hr]
    unfold Mach.offerPending
    split
    · rfl
    · exact foldl_keep (fun m : Mach => m.rd f i) Mach.traceRec hr _ _
  · rfl

theorem Mach.rdAside_trigger (m : Mach) (s : Nat) : (m.trigger s).rd f i = m.rd f i := by
  unfold Mach.trigger
  split
  · rw [Mach.rdAside_trace h, Mach.rdAside_wr h i _ rfl]
  · rfl

theorem Mach.rdAside_freeze (m : Mach) (s : Nat) : (m.freeze s).rd f i = m.rd f i := by
  unfold Mach.freeze
  generalize List.range 69 = rs
  dsimp only
  repeat' split
  all_goals first
    | rfl
    | simp only [Mach.rd_markGated, Mach.rdAside_wr h i _ (g := .DBG_FREEZE_CTRL_SOURCE) rfl, Mach.rdAside_wr h i _ (g := .DBG_FREEZE_AT) rfl,
        Mach.rdAside_wr h i _ (g := .DBG_FREEZE_CTRL_FROZEN) rfl, Mach.rdAside_wr h i _ (g := .MOD_STATUS_FROZEN) rfl,
        Mach.rdAside_wr h i _ (g := .TICK_STATE_HELD) rfl, Mach.broadcast, Mach.rd_castForward, Mach.rdAside_trace h]

theorem Mach.rdAside_signal (m : Mach) (v : Nat) : (m.signal v).rd f i = m.rd f i := by
  unfold Mach.signal
  split
  · exact Mach.rdAside_wr h i _ rfl _ _
  · rfl

theorem Mach.rdAside_event (m : Mach) {g : Fld} (hg : g.aside = true) : (m.event g).rd f i = m.rd f i := by
  unfold Mach.event
  dsimp only
  split
  · rw [Mach.rdAside_signal h, Mach.rdAside_wr h i _ hg]
  · exact Mach.rdAside_wr h i _ hg _ _

theorem Mach.rdAside_coalesce (m : Mach) (r : Nat) (b : Bool) : (m.coalesce r b).rd f i = m.rd f i := by
  unfold Mach.coalesce
  dsimp only
  repeat' split
  all_goals first
    | rfl
    | (rw [Mach.rdAside_signal h]; rfl)

theorem Mach.rdAside_complete (m : Mach) (d : Desc) (st de inf : Nat) (res : List Byte) :
    (m.complete d st de inf res).rd f i = m.rd f i := by
  have ht : ∀ m : Mach, (m.advanceTail d.ring).rd f i = m.rd f i := by
    intro m
    unfold Mach.advanceTail
    dsimp only
    split
    · rw [Mach.rdAside_wr h i _ rfl, Mach.rdAside_wr h i _ rfl]
    · rw [Mach.rdAside_wr h i _ rfl]
  have hw : ∀ (m : Mach) e, (m.writeCompletion d e res).rd f i = m.rd f i := by
    intro m e
    unfold Mach.writeCompletion
    dsimp only
    split <;> rfl
  unfold Mach.complete
  split
  · rfl
  · dsimp only
    rw [Mach.rdAside_coalesce h, Mach.rdAside_bump h i _ rfl]
    exact (ht _).trans (hw _ _)

theorem Mach.rdAside_logFault (m : Mach) (e : FaultEnt) : (m.logFault e).rd f i = m.rd f i := by
  unfold Mach.logFault
  dsimp only
  rw [Mach.rdAside_event h i _ rfl, Mach.rdAside_wr h i _ rfl, Mach.rdAside_wr h i _ rfl]
  rfl

theorem Mach.rdAside_endStep (m : Mach) (st de inf t : Nat) : (m.endStep st de inf t).rd f i = m.rd f i := by
  unfold Mach.endStep
  split
  · rfl
  · dsimp only
    rw [Mach.rdAside_wrs h i _ _ _ rfl, Mach.rdAside_complete h]
    rfl

theorem Mach.rdAside_abortStep (m : Mach) (c : Nat) : (m.abortStep c).rd f i = m.rd f i := by
  unfold Mach.abortStep
  split
  · rfl
  · rw [Mach.rdAside_wr h i _ rfl]
    exact Mach.rdAside_endStep h i _ _ _ _ _

theorem Mach.rdAside_fatalModule (m : Mach) : m.fatalModule.rd f i = m.rd f i := by
  have ha : ∀ (ds : List Desc) (m : Mach), (m.abortDescs ds).rd f i = m.rd f i := by
    intro ds m
    unfold Mach.abortDescs
    refine foldl_keep (q := fun m : Mach => m.rd f i) (h := fun m d => ?_) ..
    split
    · unfold Mach.endJob; rw [Mach.rdAside_complete h]; rfl
    · exact Mach.rdAside_complete h i m d _ _ _ _
  unfold Mach.fatalModule
  dsimp only
  rw [Mach.rdAside_event h i _ rfl, Mach.rdAside_wr h i _ rfl]
  show (Mach.abortDescs _ _).rd f i = _
  rw [ha, Mach.rdAside_wrs h i _ _ _ rfl]
  rfl

/-- R494: a fault writes the registers of its side effects and no other. -/
theorem Mach.rdAside_raise (m : Mach) (code sub src a0 a1 : Nat) : (m.raise code sub src a0 a1).rd f i = m.rd f i := by
  have h1 : ∀ (m : Mach) c, (m.raiseFreeze c).rd f i = m.rd f i := by
    intro m c
    unfold Mach.raiseFreeze Mach.fires
    dsimp only
    repeat' split
    all_goals simp only [Mach.rdAside_freeze h, Mach.rdAside_trigger h]
  have h2 : ∀ m : Mach, (m.raiseLog code sub src a0 a1).rd f i = m.rd f i := by
    intro m
    have hn : (m.countNotice code).2.rd f i = m.rd f i := by
      unfold Mach.countNotice
      dsimp only
      repeat' split
      all_goals rfl
    unfold Mach.raiseLog
    dsimp only
    repeat' split
    all_goals first
      | exact hn
      | rw [Mach.rdAside_logFault h, hn]
      | exact Mach.rdAside_logFault h i _ _
  unfold Mach.raise
  dsimp only
  unfold Mach.faultTrace
  repeat' split
  · rw [Mach.rdAside_abortStep h, Mach.rdAside_trace h, h2, h1]
  · rw [Mach.rdAside_fatalModule h, Mach.rdAside_trace h, h2, h1]
  · rw [Mach.rdAside_trace h, h2, h1]

theorem Mach.rdAside_issue (m : Mach) (k w : Nat) : (m.issue k w).rd f i = m.rd f i :=
  Mach.rd_issue _ _ _ _ _ (Fld.ne_of_aside h rfl) (Fld.ne_of_aside h rfl)

theorem Mach.rdAside_issued (m : Mach) (k : Nat) : (m.issued k).rd f i = m.rd f i :=
  Mach.rd_issued _ _ _ _ (Fld.ne_of_aside h rfl)

end

end Sys2Proof.Machine
end

