-- ==== Sys2Proof/Laws/Exec.lean ====
section
/-! SUPPORT. What the dispatcher answers: an effect on the module, but for the commands that blow fuses and for AUX12, and a
refusal for a reserved encoding. -/
namespace Sys2Proof.Machine

/-- The four commands whose meaning is a function of the whole state. -/
def Instr.whole : Instr → Bool
  | .fieldFuse | .svnCommit | .aux12OutOfLimits | .aux12InLimits .. => true
  | _ => false

/-- A command with no reserved encoding answers a next state: an effect on the module alone. -/
theorem exec_lifts (c : Instr) (s : State) (h : c.wf = true) (hw : Instr.whole c = false) :
    ∃ f, exec c s = .next (s.lift f) := by
  cases c
  all_goals first
    | exact ⟨_, rfl⟩
    | exact ⟨_, if_pos h⟩
    | exact absurd hw (by decide)
    | exact absurd hw Bool.noConfusion

/-- A reserved encoding is refused by name. -/
theorem exec_ill (c : Instr) (s : State) (h : c.wf = false) : ∃ mn, exec c s = .refused (.reservedEncoding mn) := by
  cases c
  all_goals first
    | exact ⟨_, if_neg (by rw [h]; exact Bool.false_ne_true)⟩
    | exact absurd h (by decide)
    | exact absurd h Bool.noConfusion

/-- An effect on the module completes the command. -/
theorem does_of_lift {c : Instr} {s : State} {P : Mach → Prop} {f : Mach → Mach} (h : exec c s = .next (s.lift f))
    (hp : P (f s.m)) : Does c s P := ⟨s.lift f, h, rfl, rfl, hp⟩

end Sys2Proof.Machine
end

