-- ==== Sys2Proof/Laws/Memory.lean ====
section
/-! SUPPORT. Memory: every operation that writes the module's memory or the host's keeps its canonical form, which both have
at reset; a byte that an operation does not write reads as before. -/
namespace Sys2Proof.Machine

theorem Memory.wf_reset : Memory.wf State.reset.m.mem = true ∧ Memory.wf State.reset.m.host = true := ⟨rfl, rfl⟩

@[simp] theorem Mach.markPoison_mem (m : Mach) (kps : List (Nat × Bool)) : (m.markPoison kps).mem = m.mem := rfl
@[simp] theorem Mach.markPoison_host (m : Mach) (kps : List (Nat × Bool)) : (m.markPoison kps).host = m.host := rfl
@[simp] theorem Mach.plainWrite_host (m : Mach) (a : Nat) (bs : List PByte) : (m.plainWrite a bs).host = m.host := rfl

theorem Mach.plainWrite_wf (m : Mach) (a : Nat) (bs : List PByte) (h : Memory.wf m.mem = true) :
    Memory.wf (m.plainWrite a bs).mem = true := NMap.wf_setMany _ _ h

theorem Mach.store_wf (m : Mach) (a : Nat) (bs : List Byte) (h : Memory.wf m.mem = true) : Memory.wf (m.store a bs).mem = true :=
  m.plainWrite_wf a _ h

theorem Mach.csWrite_wf (m : Mach) (g : Nat) (obs : List (Nat × Byte)) (h : Memory.wf m.mem = true) :
    Memory.wf (m.csWrite g obs).mem = true := NMap.wf_setMany _ _ h

theorem Mach.clearStore_wf (m : Mach) (g : Nat) (h : Memory.wf m.mem = true) : Memory.wf (m.clearStore g).mem = true :=
  NMap.wf_filter _ _ h

theorem Mach.clearMain_wf (m : Mach) : Memory.wf m.clearMain.mem = true := by
  unfold Mach.clearMain
  dsimp only
  split <;> rfl

@[simp] theorem Mach.clearMain_host (m : Mach) : m.clearMain.host = m.host := by
  unfold Mach.clearMain
  dsimp only
  split <;> rfl

theorem Mach.hostWrite_wf (m : Mach) (a : Nat) (bs : List Byte) (h : Memory.wf m.host = true) : Memory.wf (m.hostWrite a bs).host = true :=
  NMap.wf_setMany _ _ h

theorem Mach.t2Write_wf (m : Mach) (o : Nat) (bs : List PByte) (h : Memory.wf m.host = true) : Memory.wf (m.t2Write o bs).host = true := by
  unfold Mach.t2Write
  generalize (List.range bs.length).zip bs = l
  induction l generalizing m with
  | nil => exact h
  | cons x l ih =>
    refine ih _ ?_
    dsimp only
    split
    · exact NMap.wf_set _ _ _ h
    · exact h

@[simp] theorem Mach.t2Write_mem (m : Mach) (o : Nat) (bs : List PByte) : (m.t2Write o bs).mem = m.mem := by
  unfold Mach.t2Write
  refine foldl_keep (q := Mach.mem) (h := fun x b => ?_) ..
  split <;> rfl

theorem Mach.raise_mem (m : Mach) (code sub src a0 a1 : Nat) : (m.raise code sub src a0 a1).mem = m.mem :=
  congrArg Still.mem (m.still_raise code sub src a0 a1)

/-- The check of the code windows leaves memory as it was. -/
theorem Mach.codeCheck_mem (m : Mach) (src : Nat) (ks : List Nat) : (m.codeCheck src ks).mem = m.mem := by
  unfold Mach.codeCheck
  extract_lets t1
  split
  · rfl
  refine foldl_keep (q := Mach.mem) (h := fun x b => ?_) ..
  split
  · rfl
  extract_lets first m2
  have h2 : m2.mem = x.mem := by unfold m2; split <;> rfl
  split
  · split
    · exact h2
    · rw [Mach.raise_mem]; exact h2
  · exact h2

theorem Mach.agentWrite_wf (m : Mach) (src a : Nat) (bs : List PByte) (h : Memory.wf m.mem = true) :
    Memory.wf (m.agentWrite src a bs).mem = true := by
  rw [Mach.agentWrite, Mach.codeCheck_mem]
  exact m.plainWrite_wf a bs h

/-- A byte outside the keys that a write of plain storage reaches reads as before. -/
theorem Mach.byteAt_plainWrite (m : Mach) (a : Nat) (bs : List PByte) (k : Nat) (h : k ∉ plainKeys a bs.length) :
    (m.plainWrite a bs).byteAt k = m.byteAt k :=
  NMap.get_setMany_of_notMem _ _ _ fun _ hkv e => h (e ▸ (List.of_mem_zip hkv).1)

/-- A byte outside the host addresses of a write reads as before. -/
theorem Mach.host_hostWrite (m : Mach) (a : Nat) (bs : List Byte) (k : Nat) (h : k < a ∨ a + bs.length ≤ k) :
    NMap.get byte0 (m.hostWrite a bs).host k = NMap.get byte0 m.host k :=
  NMap.get_setMany_of_notMem _ _ _ fun kv hkv e => by
    have hm := (List.of_mem_zip (show (kv.1, kv.2) ∈ _ from hkv)).1
    obtain ⟨i, hi, hk⟩ := List.mem_map.mp hm
    have := List.mem_range.mp hi
    omega

end Sys2Proof.Machine
end

