-- ==== Sys2Proof/Laws/State.lean ====
section
/-! SUPPORT. What each named update of the state leaves as it was: one lemma per field per update, true by unfolding, so that
no proof unfolds a record update. The lemmas that read a register, a core or a context back stand in Regs.lean. -/
namespace Sys2Proof.Machine

@[simp] theorem State.lift_pending (s : State) (g : Mach → Mach) : (s.lift g).pending = s.pending := rfl
@[simp] theorem State.lift_fuses (s : State) (g : Mach → Mach) : (s.lift g).fuses = s.fuses := rfl
@[simp] theorem State.lift_m (s : State) (g : Mach → Mach) : (s.lift g).m = g s.m := rfl

@[simp] theorem Mach.wr_shadow (m : Mach) (f : Fld) (i v : Nat) : (m.wr f i v).shadow = m.shadow := rfl
@[simp] theorem Mach.wr_mem (m : Mach) (f : Fld) (i v : Nat) : (m.wr f i v).mem = m.mem := rfl
@[simp] theorem Mach.wr_poison (m : Mach) (f : Fld) (i v : Nat) : (m.wr f i v).poison = m.poison := rfl
@[simp] theorem Mach.wr_hurt (m : Mach) (f : Fld) (i v : Nat) : (m.wr f i v).hurt = m.hurt := rfl
@[simp] theorem Mach.wr_host (m : Mach) (f : Fld) (i v : Nat) : (m.wr f i v).host = m.host := rfl
@[simp] theorem Mach.wr_hostPoison (m : Mach) (f : Fld) (i v : Nat) : (m.wr f i v).hostPoison = m.hostPoison := rfl
@[simp] theorem Mach.wr_cores (m : Mach) (f : Fld) (i v : Nat) : (m.wr f i v).cores = m.cores := rfl
@[simp] theorem Mach.wr_ctxs (m : Mach) (f : Fld) (i v : Nat) : (m.wr f i v).ctxs = m.ctxs := rfl
@[simp] theorem Mach.wr_turn (m : Mach) (f : Fld) (i v : Nat) : (m.wr f i v).turn = m.turn := rfl
@[simp] theorem Mach.wr_jam (m : Mach) (f : Fld) (i v : Nat) : (m.wr f i v).jam = m.jam := rfl
@[simp] theorem Mach.wr_setters (m : Mach) (f : Fld) (i v : Nat) : (m.wr f i v).setters = m.setters := rfl
@[simp] theorem Mach.wr_banks (m : Mach) (f : Fld) (i v : Nat) : (m.wr f i v).banks = m.banks := rfl
@[simp] theorem Mach.wr_codes (m : Mach) (f : Fld) (i v : Nat) : (m.wr f i v).codes = m.codes := rfl
@[simp] theorem Mach.wr_skipped (m : Mach) (f : Fld) (i v : Nat) : (m.wr f i v).skipped = m.skipped := rfl
@[simp] theorem Mach.wr_newSlots (m : Mach) (f : Fld) (i v : Nat) : (m.wr f i v).newSlots = m.newSlots := rfl
@[simp] theorem Mach.wr_free (m : Mach) (f : Fld) (i v : Nat) : (m.wr f i v).free = m.free := rfl
@[simp] theorem Mach.wr_dbg (m : Mach) (f : Fld) (i v : Nat) : (m.wr f i v).dbg = m.dbg := rfl
@[simp] theorem Mach.wr_hif (m : Mach) (f : Fld) (i v : Nat) : (m.wr f i v).hif = m.hif := rfl
@[simp] theorem Mach.wr_armed (m : Mach) (f : Fld) (i v : Nat) : (m.wr f i v).armed = m.armed := rfl
@[simp] theorem Mach.wr_step (m : Mach) (f : Fld) (i v : Nat) : (m.wr f i v).step = m.step := rfl
@[simp] theorem Mach.wr_cut (m : Mach) (f : Fld) (i v : Nat) : (m.wr f i v).cut = m.cut := rfl
@[simp] theorem Mach.wr_cutHeld (m : Mach) (f : Fld) (i v : Nat) : (m.wr f i v).cutHeld = m.cutHeld := rfl
@[simp] theorem Mach.wr_fab (m : Mach) (f : Fld) (i v : Nat) : (m.wr f i v).fab = m.fab := rfl
@[simp] theorem Mach.wr_red (m : Mach) (f : Fld) (i v : Nat) : (m.wr f i v).red = m.red := rfl
@[simp] theorem Mach.wr_ing (m : Mach) (f : Fld) (i v : Nat) : (m.wr f i v).ing = m.ing := rfl
@[simp] theorem Mach.wr_liveGens (m : Mach) (f : Fld) (i v : Nat) : (m.wr f i v).liveGens = m.liveGens := rfl
@[simp] theorem Mach.wr_faultLog (m : Mach) (f : Fld) (i v : Nat) : (m.wr f i v).faultLog = m.faultLog := rfl
@[simp] theorem Mach.wr_notices (m : Mach) (f : Fld) (i v : Nat) : (m.wr f i v).notices = m.notices := rfl
@[simp] theorem Mach.wr_tick (m : Mach) (f : Fld) (i v : Nat) : (m.wr f i v).tick = m.tick := rfl
@[simp] theorem Mach.wr_flash (m : Mach) (f : Fld) (i v : Nat) : (m.wr f i v).flash = m.flash := rfl
@[simp] theorem Mach.wr_aux (m : Mach) (f : Fld) (i v : Nat) : (m.wr f i v).aux = m.aux := rfl
@[simp] theorem Mach.wr_pins (m : Mach) (f : Fld) (i v : Nat) : (m.wr f i v).pins = m.pins := rfl
@[simp] theorem Mach.wr_mgmt (m : Mach) (f : Fld) (i v : Nat) : (m.wr f i v).mgmt = m.mgmt := rfl
@[simp] theorem Mach.wr_deferred (m : Mach) (f : Fld) (i v : Nat) : (m.wr f i v).deferred = m.deferred := rfl
@[simp] theorem Mach.wr_loads (m : Mach) (f : Fld) (i v : Nat) : (m.wr f i v).loads = m.loads := rfl
@[simp] theorem Mach.wr_acking (m : Mach) (f : Fld) (i v : Nat) : (m.wr f i v).acking = m.acking := rfl
@[simp] theorem Mach.wr_cache (m : Mach) (f : Fld) (i v : Nat) : (m.wr f i v).cache = m.cache := rfl
@[simp] theorem Mach.wr_image (m : Mach) (f : Fld) (i v : Nat) : (m.wr f i v).image = m.image := rfl
@[simp] theorem Mach.wr_timers (m : Mach) (f : Fld) (i v : Nat) : (m.wr f i v).timers = m.timers := rfl

@[simp] theorem Mach.wrS_regs (m : Mach) (f : Fld) (i v : Nat) : (m.wrS f i v).regs = m.regs := rfl
@[simp] theorem Mach.wrS_mem (m : Mach) (f : Fld) (i v : Nat) : (m.wrS f i v).mem = m.mem := rfl
@[simp] theorem Mach.wrS_poison (m : Mach) (f : Fld) (i v : Nat) : (m.wrS f i v).poison = m.poison := rfl
@[simp] theorem Mach.wrS_hurt (m : Mach) (f : Fld) (i v : Nat) : (m.wrS f i v).hurt = m.hurt := rfl
@[simp] theorem Mach.wrS_host (m : Mach) (f : Fld) (i v : Nat) : (m.wrS f i v).host = m.host := rfl
@[simp] theorem Mach.wrS_hostPoison (m : Mach) (f : Fld) (i v : Nat) : (m.wrS f i v).hostPoison = m.hostPoison := rfl
@[simp] theorem Mach.wrS_cores (m : Mach) (f : Fld) (i v : Nat) : (m.wrS f i v).cores = m.cores := rfl
@[simp] theorem Mach.wrS_ctxs (m : Mach) (f : Fld) (i v : Nat) : (m.wrS f i v).ctxs = m.ctxs := rfl
@[simp] theorem Mach.wrS_turn (m : Mach) (f : Fld) (i v : Nat) : (m.wrS f i v).turn = m.turn := rfl
@[simp] theorem Mach.wrS_jam (m : Mach) (f : Fld) (i v : Nat) : (m.wrS f i v).jam = m.jam := rfl
@[simp] theorem Mach.wrS_setters (m : Mach) (f : Fld) (i v : Nat) : (m.wrS f i v).setters = m.setters := rfl
@[simp] theorem Mach.wrS_banks (m : Mach) (f : Fld) (i v : Nat) : (m.wrS f i v).banks = m.banks := rfl
@[simp] theorem Mach.wrS_codes (m : Mach) (f : Fld) (i v : Nat) : (m.wrS f i v).codes = m.codes := rfl
@[simp] theorem Mach.wrS_skipped (m : Mach) (f : Fld) (i v : Nat) : (m.wrS f i v).skipped = m.skipped := rfl
@[simp] theorem Mach.wrS_newSlots (m : Mach) (f : Fld) (i v : Nat) : (m.wrS f i v).newSlots = m.newSlots := rfl
@[simp] theorem Mach.wrS_free (m : Mach) (f : Fld) (i v : Nat) : (m.wrS f i v).free = m.free := rfl
@[simp] theorem Mach.wrS_dbg (m : Mach) (f : Fld) (i v : Nat) : (m.wrS f i v).dbg = m.dbg := rfl
@[simp] theorem Mach.wrS_hif (m : Mach) (f : Fld) (i v : Nat) : (m.wrS f i v).hif = m.hif := rfl
@[simp] theorem Mach.wrS_armed (m : Mach) (f : Fld) (i v : Nat) : (m.wrS f i v).armed = m.armed := rfl
@[simp] theorem Mach.wrS_step (m : Mach) (f : Fld) (i v : Nat) : (m.wrS f i v).step = m.step := rfl
@[simp] theorem Mach.wrS_cut (m : Mach) (f : Fld) (i v : Nat) : (m.wrS f i v).cut = m.cut := rfl
@[simp] theorem Mach.wrS_cutHeld (m : Mach) (f : Fld) (i v : Nat) : (m.wrS f i v).cutHeld = m.cutHeld := rfl
@[simp] theorem Mach.wrS_fab (m : Mach) (f : Fld) (i v : Nat) : (m.wrS f i v).fab = m.fab := rfl
@[simp] theorem Mach.wrS_red (m : Mach) (f : Fld) (i v : Nat) : (m.wrS f i v).red = m.red := rfl
@[simp] theorem Mach.wrS_ing (m : Mach) (f : Fld) (i v : Nat) : (m.wrS f i v).ing = m.ing := rfl
@[simp] theorem Mach.wrS_liveGens (m : Mach) (f : Fld) (i v : Nat) : (m.wrS f i v).liveGens = m.liveGens := rfl
@[simp] theorem Mach.wrS_faultLog (m : Mach) (f : Fld) (i v : Nat) : (m.wrS f i v).faultLog = m.faultLog := rfl
@[simp] theorem Mach.wrS_notices (m : Mach) (f : Fld) (i v : Nat) : (m.wrS f i v).notices = m.notices := rfl
@[simp] theorem Mach.wrS_tick (m : Mach) (f : Fld) (i v : Nat) : (m.wrS f i v).tick = m.tick := rfl
@[simp] theorem Mach.wrS_flash (m : Mach) (f : Fld) (i v : Nat) : (m.wrS f i v).flash = m.flash := rfl
@[simp] theorem Mach.wrS_aux (m : Mach) (f : Fld) (i v : Nat) : (m.wrS f i v).aux = m.aux := rfl
@[simp] theorem Mach.wrS_pins (m : Mach) (f : Fld) (i v : Nat) : (m.wrS f i v).pins = m.pins := rfl
@[simp] theorem Mach.wrS_mgmt (m : Mach) (f : Fld) (i v : Nat) : (m.wrS f i v).mgmt = m.mgmt := rfl
@[simp] theorem Mach.wrS_deferred (m : Mach) (f : Fld) (i v : Nat) : (m.wrS f i v).deferred = m.deferred := rfl
@[simp] theorem Mach.wrS_loads (m : Mach) (f : Fld) (i v : Nat) : (m.wrS f i v).loads = m.loads := rfl
@[simp] theorem Mach.wrS_acking (m : Mach) (f : Fld) (i v : Nat) : (m.wrS f i v).acking = m.acking := rfl
@[simp] theorem Mach.wrS_cache (m : Mach) (f : Fld) (i v : Nat) : (m.wrS f i v).cache = m.cache := rfl
@[simp] theorem Mach.wrS_image (m : Mach) (f : Fld) (i v : Nat) : (m.wrS f i v).image = m.image := rfl
@[simp] theorem Mach.wrS_timers (m : Mach) (f : Fld) (i v : Nat) : (m.wrS f i v).timers = m.timers := rfl

@[simp] theorem Mach.setCore_regs (m : Mach) (g : Nat) (c : Core) : (m.setCore g c).regs = m.regs := rfl
@[simp] theorem Mach.setCore_shadow (m : Mach) (g : Nat) (c : Core) : (m.setCore g c).shadow = m.shadow := rfl
@[simp] theorem Mach.setCore_mem (m : Mach) (g : Nat) (c : Core) : (m.setCore g c).mem = m.mem := rfl
@[simp] theorem Mach.setCore_poison (m : Mach) (g : Nat) (c : Core) : (m.setCore g c).poison = m.poison := rfl
@[simp] theorem Mach.setCore_hurt (m : Mach) (g : Nat) (c : Core) : (m.setCore g c).hurt = m.hurt := rfl
@[simp] theorem Mach.setCore_host (m : Mach) (g : Nat) (c : Core) : (m.setCore g c).host = m.host := rfl
@[simp] theorem Mach.setCore_hostPoison (m : Mach) (g : Nat) (c : Core) : (m.setCore g c).hostPoison = m.hostPoison := rfl
@[simp] theorem Mach.setCore_ctxs (m : Mach) (g : Nat) (c : Core) : (m.setCore g c).ctxs = m.ctxs := rfl
@[simp] theorem Mach.setCore_turn (m : Mach) (g : Nat) (c : Core) : (m.setCore g c).turn = m.turn := rfl
@[simp] theorem Mach.setCore_jam (m : Mach) (g : Nat) (c : Core) : (m.setCore g c).jam = m.jam := rfl
@[simp] theorem Mach.setCore_setters (m : Mach) (g : Nat) (c : Core) : (m.setCore g c).setters = m.setters := rfl
@[simp] theorem Mach.setCore_banks (m : Mach) (g : Nat) (c : Core) : (m.setCore g c).banks = m.banks := rfl
@[simp] theorem Mach.setCore_codes (m : Mach) (g : Nat) (c : Core) : (m.setCore g c).codes = m.codes := rfl
@[simp] theorem Mach.setCore_skipped (m : Mach) (g : Nat) (c : Core) : (m.setCore g c).skipped = m.skipped := rfl
@[simp] theorem Mach.setCore_newSlots (m : Mach) (g : Nat) (c : Core) : (m.setCore g c).newSlots = m.newSlots := rfl
@[simp] theorem Mach.setCore_free (m : Mach) (g : Nat) (c : Core) : (m.setCore g c).free = m.free := rfl
@[simp] theorem Mach.setCore_dbg (m : Mach) (g : Nat) (c : Core) : (m.setCore g c).dbg = m.dbg := rfl
@[simp] theorem Mach.setCore_hif (m : Mach) (g : Nat) (c : Core) : (m.setCore g c).hif = m.hif := rfl
@[simp] theorem Mach.setCore_armed (m : Mach) (g : Nat) (c : Core) : (m.setCore g c).armed = m.armed := rfl
@[simp] theorem Mach.setCore_step (m : Mach) (g : Nat) (c : Core) : (m.setCore g c).step = m.step := rfl
@[simp] theorem Mach.setCore_cut (m : Mach) (g : Nat) (c : Core) : (m.setCore g c).cut = m.cut := rfl
@[simp] theorem Mach.setCore_cutHeld (m : Mach) (g : Nat) (c : Core) : (m.setCore g c).cutHeld = m.cutHeld := rfl
@[simp] theorem Mach.setCore_fab (m : Mach) (g : Nat) (c : Core) : (m.setCore g c).fab = m.fab := rfl
@[simp] theorem Mach.setCore_red (m : Mach) (g : Nat) (c : Core) : (m.setCore g c).red = m.red := rfl
@[simp] theorem Mach.setCore_ing (m : Mach) (g : Nat) (c : Core) : (m.setCore g c).ing = m.ing := rfl
@[simp] theorem Mach.setCore_liveGens (m : Mach) (g : Nat) (c : Core) : (m.setCore g c).liveGens = m.liveGens := rfl
@[simp] theorem Mach.setCore_faultLog (m : Mach) (g : Nat) (c : Core) : (m.setCore g c).faultLog = m.faultLog := rfl
@[simp] theorem Mach.setCore_notices (m : Mach) (g : Nat) (c : Core) : (m.setCore g c).notices = m.notices := rfl
@[simp] theorem Mach.setCore_tick (m : Mach) (g : Nat) (c : Core) : (m.setCore g c).tick = m.tick := rfl
@[simp] theorem Mach.setCore_flash (m : Mach) (g : Nat) (c : Core) : (m.setCore g c).flash = m.flash := rfl
@[simp] theorem Mach.setCore_aux (m : Mach) (g : Nat) (c : Core) : (m.setCore g c).aux = m.aux := rfl
@[simp] theorem Mach.setCore_pins (m : Mach) (g : Nat) (c : Core) : (m.setCore g c).pins = m.pins := rfl
@[simp] theorem Mach.setCore_mgmt (m : Mach) (g : Nat) (c : Core) : (m.setCore g c).mgmt = m.mgmt := rfl
@[simp] theorem Mach.setCore_deferred (m : Mach) (g : Nat) (c : Core) : (m.setCore g c).deferred = m.deferred := rfl
@[simp] theorem Mach.setCore_loads (m : Mach) (g : Nat) (c : Core) : (m.setCore g c).loads = m.loads := rfl
@[simp] theorem Mach.setCore_acking (m : Mach) (g : Nat) (c : Core) : (m.setCore g c).acking = m.acking := rfl
@[simp] theorem Mach.setCore_cache (m : Mach) (g : Nat) (c : Core) : (m.setCore g c).cache = m.cache := rfl
@[simp] theorem Mach.setCore_image (m : Mach) (g : Nat) (c : Core) : (m.setCore g c).image = m.image := rfl
@[simp] theorem Mach.setCore_timers (m : Mach) (g : Nat) (c : Core) : (m.setCore g c).timers = m.timers := rfl

@[simp] theorem Mach.onCore_regs (m : Mach) (g : Nat) (f : Core → Core) : (m.onCore g f).regs = m.regs := rfl
@[simp] theorem Mach.onCore_shadow (m : Mach) (g : Nat) (f : Core → Core) : (m.onCore g f).shadow = m.shadow := rfl
@[simp] theorem Mach.onCore_mem (m : Mach) (g : Nat) (f : Core → Core) : (m.onCore g f).mem = m.mem := rfl
@[simp] theorem Mach.onCore_poison (m : Mach) (g : Nat) (f : Core → Core) : (m.onCore g f).poison = m.poison := rfl
@[simp] theorem Mach.onCore_hurt (m : Mach) (g : Nat) (f : Core → Core) : (m.onCore g f).hurt = m.hurt := rfl
@[simp] theorem Mach.onCore_host (m : Mach) (g : Nat) (f : Core → Core) : (m.onCore g f).host = m.host := rfl
@[simp] theorem Mach.onCore_hostPoison (m : Mach) (g : Nat) (f : Core → Core) : (m.onCore g f).hostPoison = m.hostPoison := rfl
@[simp] theorem Mach.onCore_ctxs (m : Mach) (g : Nat) (f : Core → Core) : (m.onCore g f).ctxs = m.ctxs := rfl
@[simp] theorem Mach.onCore_turn (m : Mach) (g : Nat) (f : Core → Core) : (m.onCore g f).turn = m.turn := rfl
@[simp] theorem Mach.onCore_jam (m : Mach) (g : Nat) (f : Core → Core) : (m.onCore g f).jam = m.jam := rfl
@[simp] theorem Mach.onCore_setters (m : Mach) (g : Nat) (f : Core → Core) : (m.onCore g f).setters = m.setters := rfl
@[simp] theorem Mach.onCore_banks (m : Mach) (g : Nat) (f : Core → Core) : (m.onCore g f).banks = m.banks := rfl
@[simp] theorem Mach.onCore_codes (m : Mach) (g : Nat) (f : Core → Core) : (m.onCore g f).codes = m.codes := rfl
@[simp] theorem Mach.onCore_skipped (m : Mach) (g : Nat) (f : Core → Core) : (m.onCore g f).skipped = m.skipped := rfl
@[simp] theorem Mach.onCore_newSlots (m : Mach) (g : Nat) (f : Core → Core) : (m.onCore g f).newSlots = m.newSlots := rfl
@[simp] theorem Mach.onCore_free (m : Mach) (g : Nat) (f : Core → Core) : (m.onCore g f).free = m.free := rfl
@[simp] theorem Mach.onCore_dbg (m : Mach) (g : Nat) (f : Core → Core) : (m.onCore g f).dbg = m.dbg := rfl
@[simp] theorem Mach.onCore_hif (m : Mach) (g : Nat) (f : Core → Core) : (m.onCore g f).hif = m.hif := rfl
@[simp] theorem Mach.onCore_armed (m : Mach) (g : Nat) (f : Core → Core) : (m.onCore g f).armed = m.armed := rfl
@[simp] theorem Mach.onCore_step (m : Mach) (g : Nat) (f : Core → Core) : (m.onCore g f).step = m.step := rfl
@[simp] theorem Mach.onCore_cut (m : Mach) (g : Nat) (f : Core → Core) : (m.onCore g f).cut = m.cut := rfl
@[simp] theorem Mach.onCore_cutHeld (m : Mach) (g : Nat) (f : Core → Core) : (m.onCore g f).cutHeld = m.cutHeld := rfl
@[simp] theorem Mach.onCore_fab (m : Mach) (g : Nat) (f : Core → Core) : (m.onCore g f).fab = m.fab := rfl
@[simp] theorem Mach.onCore_red (m : Mach) (g : Nat) (f : Core → Core) : (m.onCore g f).red = m.red := rfl
@[simp] theorem Mach.onCore_ing (m : Mach) (g : Nat) (f : Core → Core) : (m.onCore g f).ing = m.ing := rfl
@[simp] theorem Mach.onCore_liveGens (m : Mach) (g : Nat) (f : Core → Core) : (m.onCore g f).liveGens = m.liveGens := rfl
@[simp] theorem Mach.onCore_faultLog (m : Mach) (g : Nat) (f : Core → Core) : (m.onCore g f).faultLog = m.faultLog := rfl
@[simp] theorem Mach.onCore_notices (m : Mach) (g : Nat) (f : Core → Core) : (m.onCore g f).notices = m.notices := rfl
@[simp] theorem Mach.onCore_tick (m : Mach) (g : Nat) (f : Core → Core) : (m.onCore g f).tick = m.tick := rfl
@[simp] theorem Mach.onCore_flash (m : Mach) (g : Nat) (f : Core → Core) : (m.onCore g f).flash = m.flash := rfl
@[simp] theorem Mach.onCore_aux (m : Mach) (g : Nat) (f : Core → Core) : (m.onCore g f).aux = m.aux := rfl
@[simp] theorem Mach.onCore_pins (m : Mach) (g : Nat) (f : Core → Core) : (m.onCore g f).pins = m.pins := rfl
@[simp] theorem Mach.onCore_mgmt (m : Mach) (g : Nat) (f : Core → Core) : (m.onCore g f).mgmt = m.mgmt := rfl
@[simp] theorem Mach.onCore_deferred (m : Mach) (g : Nat) (f : Core → Core) : (m.onCore g f).deferred = m.deferred := rfl
@[simp] theorem Mach.onCore_loads (m : Mach) (g : Nat) (f : Core → Core) : (m.onCore g f).loads = m.loads := rfl
@[simp] theorem Mach.onCore_acking (m : Mach) (g : Nat) (f : Core → Core) : (m.onCore g f).acking = m.acking := rfl
@[simp] theorem Mach.onCore_cache (m : Mach) (g : Nat) (f : Core → Core) : (m.onCore g f).cache = m.cache := rfl
@[simp] theorem Mach.onCore_image (m : Mach) (g : Nat) (f : Core → Core) : (m.onCore g f).image = m.image := rfl
@[simp] theorem Mach.onCore_timers (m : Mach) (g : Nat) (f : Core → Core) : (m.onCore g f).timers = m.timers := rfl

@[simp] theorem Mach.setCtx_regs (m : Mach) (k : Nat) (c : Ctx) : (m.setCtx k c).regs = m.regs := rfl
@[simp] theorem Mach.setCtx_shadow (m : Mach) (k : Nat) (c : Ctx) : (m.setCtx k c).shadow = m.shadow := rfl
@[simp] theorem Mach.setCtx_mem (m : Mach) (k : Nat) (c : Ctx) : (m.setCtx k c).mem = m.mem := rfl
@[simp] theorem Mach.setCtx_poison (m : Mach) (k : Nat) (c : Ctx) : (m.setCtx k c).poison = m.poison := rfl
@[simp] theorem Mach.setCtx_hurt (m : Mach) (k : Nat) (c : Ctx) : (m.setCtx k c).hurt = m.hurt := rfl
@[simp] theorem Mach.setCtx_host (m : Mach) (k : Nat) (c : Ctx) : (m.setCtx k c).host = m.host := rfl
@[simp] theorem Mach.setCtx_hostPoison (m : Mach) (k : Nat) (c : Ctx) : (m.setCtx k c).hostPoison = m.hostPoison := rfl
@[simp] theorem Mach.setCtx_cores (m : Mach) (k : Nat) (c : Ctx) : (m.setCtx k c).cores = m.cores := rfl
@[simp] theorem Mach.setCtx_turn (m : Mach) (k : Nat) (c : Ctx) : (m.setCtx k c).turn = m.turn := rfl
@[simp] theorem Mach.setCtx_jam (m : Mach) (k : Nat) (c : Ctx) : (m.setCtx k c).jam = m.jam := rfl
@[simp] theorem Mach.setCtx_setters (m : Mach) (k : Nat) (c : Ctx) : (m.setCtx k c).setters = m.setters := rfl
@[simp] theorem Mach.setCtx_banks (m : Mach) (k : Nat) (c : Ctx) : (m.setCtx k c).banks = m.banks := rfl
@[simp] theorem Mach.setCtx_codes (m : Mach) (k : Nat) (c : Ctx) : (m.setCtx k c).codes = m.codes := rfl
@[simp] theorem Mach.setCtx_skipped (m : Mach) (k : Nat) (c : Ctx) : (m.setCtx k c).skipped = m.skipped := rfl
@[simp] theorem Mach.setCtx_newSlots (m : Mach) (k : Nat) (c : Ctx) : (m.setCtx k c).newSlots = m.newSlots := rfl
@[simp] theorem Mach.setCtx_free (m : Mach) (k : Nat) (c : Ctx) : (m.setCtx k c).free = m.free := rfl
@[simp] theorem Mach.setCtx_dbg (m : Mach) (k : Nat) (c : Ctx) : (m.setCtx k c).dbg = m.dbg := rfl
@[simp] theorem Mach.setCtx_hif (m : Mach) (k : Nat) (c : Ctx) : (m.setCtx k c).hif = m.hif := rfl
@[simp] theorem Mach.setCtx_armed (m : Mach) (k : Nat) (c : Ctx) : (m.setCtx k c).armed = m.armed := rfl
@[simp] theorem Mach.setCtx_step (m : Mach) (k : Nat) (c : Ctx) : (m.setCtx k c).step = m.step := rfl
@[simp] theorem Mach.setCtx_cut (m : Mach) (k : Nat) (c : Ctx) : (m.setCtx k c).cut = m.cut := rfl
@[simp] theorem Mach.setCtx_cutHeld (m : Mach) (k : Nat) (c : Ctx) : (m.setCtx k c).cutHeld = m.cutHeld := rfl
@[simp] theorem Mach.setCtx_fab (m : Mach) (k : Nat) (c : Ctx) : (m.setCtx k c).fab = m.fab := rfl
@[simp] theorem Mach.setCtx_red (m : Mach) (k : Nat) (c : Ctx) : (m.setCtx k c).red = m.red := rfl
@[simp] theorem Mach.setCtx_ing (m : Mach) (k : Nat) (c : Ctx) : (m.setCtx k c).ing = m.ing := rfl
@[simp] theorem Mach.setCtx_liveGens (m : Mach) (k : Nat) (c : Ctx) : (m.setCtx k c).liveGens = m.liveGens := rfl
@[simp] theorem Mach.setCtx_faultLog (m : Mach) (k : Nat) (c : Ctx) : (m.setCtx k c).faultLog = m.faultLog := rfl
@[simp] theorem Mach.setCtx_notices (m : Mach) (k : Nat) (c : Ctx) : (m.setCtx k c).notices = m.notices := rfl
@[simp] theorem Mach.setCtx_tick (m : Mach) (k : Nat) (c : Ctx) : (m.setCtx k c).tick = m.tick := rfl
@[simp] theorem Mach.setCtx_flash (m : Mach) (k : Nat) (c : Ctx) : (m.setCtx k c).flash = m.flash := rfl
@[simp] theorem Mach.setCtx_aux (m : Mach) (k : Nat) (c : Ctx) : (m.setCtx k c).aux = m.aux := rfl
@[simp] theorem Mach.setCtx_pins (m : Mach) (k : Nat) (c : Ctx) : (m.setCtx k c).pins = m.pins := rfl
@[simp] theorem Mach.setCtx_mgmt (m : Mach) (k : Nat) (c : Ctx) : (m.setCtx k c).mgmt = m.mgmt := rfl
@[simp] theorem Mach.setCtx_deferred (m : Mach) (k : Nat) (c : Ctx) : (m.setCtx k c).deferred = m.deferred := rfl
@[simp] theorem Mach.setCtx_loads (m : Mach) (k : Nat) (c : Ctx) : (m.setCtx k c).loads = m.loads := rfl
@[simp] theorem Mach.setCtx_acking (m : Mach) (k : Nat) (c : Ctx) : (m.setCtx k c).acking = m.acking := rfl
@[simp] theorem Mach.setCtx_cache (m : Mach) (k : Nat) (c : Ctx) : (m.setCtx k c).cache = m.cache := rfl
@[simp] theorem Mach.setCtx_image (m : Mach) (k : Nat) (c : Ctx) : (m.setCtx k c).image = m.image := rfl
@[simp] theorem Mach.setCtx_timers (m : Mach) (k : Nat) (c : Ctx) : (m.setCtx k c).timers = m.timers := rfl

@[simp] theorem Mach.onCtx_regs (m : Mach) (k : Nat) (f : Ctx → Ctx) : (m.onCtx k f).regs = m.regs := rfl
@[simp] theorem Mach.onCtx_shadow (m : Mach) (k : Nat) (f : Ctx → Ctx) : (m.onCtx k f).shadow = m.shadow := rfl
@[simp] theorem Mach.onCtx_mem (m : Mach) (k : Nat) (f : Ctx → Ctx) : (m.onCtx k f).mem = m.mem := rfl
@[simp] theorem Mach.onCtx_poison (m : Mach) (k : Nat) (f : Ctx → Ctx) : (m.onCtx k f).poison = m.poison := rfl
@[simp] theorem Mach.onCtx_hurt (m : Mach) (k : Nat) (f : Ctx → Ctx) : (m.onCtx k f).hurt = m.hurt := rfl
@[simp] theorem Mach.onCtx_host (m : Mach) (k : Nat) (f : Ctx → Ctx) : (m.onCtx k f).host = m.host := rfl
@[simp] theorem Mach.onCtx_hostPoison (m : Mach) (k : Nat) (f : Ctx → Ctx) : (m.onCtx k f).hostPoison = m.hostPoison := rfl
@[simp] theorem Mach.onCtx_cores (m : Mach) (k : Nat) (f : Ctx → Ctx) : (m.onCtx k f).cores = m.cores := rfl
@[simp] theorem Mach.onCtx_turn (m : Mach) (k : Nat) (f : Ctx → Ctx) : (m.onCtx k f).turn = m.turn := rfl
@[simp] theorem Mach.onCtx_jam (m : Mach) (k : Nat) (f : Ctx → Ctx) : (m.onCtx k f).jam = m.jam := rfl
@[simp] theorem Mach.onCtx_setters (m : Mach) (k : Nat) (f : Ctx → Ctx) : (m.onCtx k f).setters = m.setters := rfl
@[simp] theorem Mach.onCtx_banks (m : Mach) (k : Nat) (f : Ctx → Ctx) : (m.onCtx k f).banks = m.banks := rfl
@[simp] theorem Mach.onCtx_codes (m : Mach) (k : Nat) (f : Ctx → Ctx) : (m.onCtx k f).codes = m.codes := rfl
@[simp] theorem Mach.onCtx_skipped (m : Mach) (k : Nat) (f : Ctx → Ctx) : (m.onCtx k f).skipped = m.skipped := rfl
@[simp] theorem Mach.onCtx_newSlots (m : Mach) (k : Nat) (f : Ctx → Ctx) : (m.onCtx k f).newSlots = m.newSlots := rfl
@[simp] theorem Mach.onCtx_free (m : Mach) (k : Nat) (f : Ctx → Ctx) : (m.onCtx k f).free = m.free := rfl
@[simp] theorem Mach.onCtx_dbg (m : Mach) (k : Nat) (f : Ctx → Ctx) : (m.onCtx k f).dbg = m.dbg := rfl
@[simp] theorem Mach.onCtx_hif (m : Mach) (k : Nat) (f : Ctx → Ctx) : (m.onCtx k f).hif = m.hif := rfl
@[simp] theorem Mach.onCtx_armed (m : Mach) (k : Nat) (f : Ctx → Ctx) : (m.onCtx k f).armed = m.armed := rfl
@[simp] theorem Mach.onCtx_step (m : Mach) (k : Nat) (f : Ctx → Ctx) : (m.onCtx k f).step = m.step := rfl
@[simp] theorem Mach.onCtx_cut (m : Mach) (k : Nat) (f : Ctx → Ctx) : (m.onCtx k f).cut = m.cut := rfl
@[simp] theorem Mach.onCtx_cutHeld (m : Mach) (k : Nat) (f : Ctx → Ctx) : (m.onCtx k f).cutHeld = m.cutHeld := rfl
@[simp] theorem Mach.onCtx_fab (m : Mach) (k : Nat) (f : Ctx → Ctx) : (m.onCtx k f).fab = m.fab := rfl
@[simp] theorem Mach.onCtx_red (m : Mach) (k : Nat) (f : Ctx → Ctx) : (m.onCtx k f).red = m.red := rfl
@[simp] theorem Mach.onCtx_ing (m : Mach) (k : Nat) (f : Ctx → Ctx) : (m.onCtx k f).ing = m.ing := rfl
@[simp] theorem Mach.onCtx_liveGens (m : Mach) (k : Nat) (f : Ctx → Ctx) : (m.onCtx k f).liveGens = m.liveGens := rfl
@[simp] theorem Mach.onCtx_faultLog (m : Mach) (k : Nat) (f : Ctx → Ctx) : (m.onCtx k f).faultLog = m.faultLog := rfl
@[simp] theorem Mach.onCtx_notices (m : Mach) (k : Nat) (f : Ctx → Ctx) : (m.onCtx k f).notices = m.notices := rfl
@[simp] theorem Mach.onCtx_tick (m : Mach) (k : Nat) (f : Ctx → Ctx) : (m.onCtx k f).tick = m.tick := rfl
@[simp] theorem Mach.onCtx_flash (m : Mach) (k : Nat) (f : Ctx → Ctx) : (m.onCtx k f).flash = m.flash := rfl
@[simp] theorem Mach.onCtx_aux (m : Mach) (k : Nat) (f : Ctx → Ctx) : (m.onCtx k f).aux = m.aux := rfl
@[simp] theorem Mach.onCtx_pins (m : Mach) (k : Nat) (f : Ctx → Ctx) : (m.onCtx k f).pins = m.pins := rfl
@[simp] theorem Mach.onCtx_mgmt (m : Mach) (k : Nat) (f : Ctx → Ctx) : (m.onCtx k f).mgmt = m.mgmt := rfl
@[simp] theorem Mach.onCtx_deferred (m : Mach) (k : Nat) (f : Ctx → Ctx) : (m.onCtx k f).deferred = m.deferred := rfl
@[simp] theorem Mach.onCtx_loads (m : Mach) (k : Nat) (f : Ctx → Ctx) : (m.onCtx k f).loads = m.loads := rfl
@[simp] theorem Mach.onCtx_acking (m : Mach) (k : Nat) (f : Ctx → Ctx) : (m.onCtx k f).acking = m.acking := rfl
@[simp] theorem Mach.onCtx_cache (m : Mach) (k : Nat) (f : Ctx → Ctx) : (m.onCtx k f).cache = m.cache := rfl
@[simp] theorem Mach.onCtx_image (m : Mach) (k : Nat) (f : Ctx → Ctx) : (m.onCtx k f).image = m.image := rfl
@[simp] theorem Mach.onCtx_timers (m : Mach) (k : Nat) (f : Ctx → Ctx) : (m.onCtx k f).timers = m.timers := rfl

@[simp] theorem Mach.fresh_regs (m : Mach) : m.fresh.2.regs = m.regs := rfl
@[simp] theorem Mach.fresh_shadow (m : Mach) : m.fresh.2.shadow = m.shadow := rfl
@[simp] theorem Mach.fresh_mem (m : Mach) : m.fresh.2.mem = m.mem := rfl
@[simp] theorem Mach.fresh_poison (m : Mach) : m.fresh.2.poison = m.poison := rfl
@[simp] theorem Mach.fresh_hurt (m : Mach) : m.fresh.2.hurt = m.hurt := rfl
@[simp] theorem Mach.fresh_host (m : Mach) : m.fresh.2.host = m.host := rfl
@[simp] theorem Mach.fresh_hostPoison (m : Mach) : m.fresh.2.hostPoison = m.hostPoison := rfl
@[simp] theorem Mach.fresh_cores (m : Mach) : m.fresh.2.cores = m.cores := rfl
@[simp] theorem Mach.fresh_ctxs (m : Mach) : m.fresh.2.ctxs = m.ctxs := rfl
@[simp] theorem Mach.fresh_turn (m : Mach) : m.fresh.2.turn = m.turn := rfl
@[simp] theorem Mach.fresh_jam (m : Mach) : m.fresh.2.jam = m.jam := rfl
@[simp] theorem Mach.fresh_setters (m : Mach) : m.fresh.2.setters = m.setters := rfl
@[simp] theorem Mach.fresh_banks (m : Mach) : m.fresh.2.banks = m.banks := rfl
@[simp] theorem Mach.fresh_codes (m : Mach) : m.fresh.2.codes = m.codes := rfl
@[simp] theorem Mach.fresh_skipped (m : Mach) : m.fresh.2.skipped = m.skipped := rfl
@[simp] theorem Mach.fresh_newSlots (m : Mach) : m.fresh.2.newSlots = m.newSlots := rfl
@[simp] theorem Mach.fresh_free (m : Mach) : m.fresh.2.free = m.free + 1 := rfl
@[simp] theorem Mach.fresh_dbg (m : Mach) : m.fresh.2.dbg = m.dbg := rfl
@[simp] theorem Mach.fresh_hif (m : Mach) : m.fresh.2.hif = m.hif := rfl
@[simp] theorem Mach.fresh_armed (m : Mach) : m.fresh.2.armed = m.armed := rfl
@[simp] theorem Mach.fresh_step (m : Mach) : m.fresh.2.step = m.step := rfl
@[simp] theorem Mach.fresh_cut (m : Mach) : m.fresh.2.cut = m.cut := rfl
@[simp] theorem Mach.fresh_cutHeld (m : Mach) : m.fresh.2.cutHeld = m.cutHeld := rfl
@[simp] theorem Mach.fresh_fab (m : Mach) : m.fresh.2.fab = m.fab := rfl
@[simp] theorem Mach.fresh_red (m : Mach) : m.fresh.2.red = m.red := rfl
@[simp] theorem Mach.fresh_ing (m : Mach) : m.fresh.2.ing = m.ing := rfl
@[simp] theorem Mach.fresh_liveGens (m : Mach) : m.fresh.2.liveGens = m.liveGens := rfl
@[simp] theorem Mach.fresh_faultLog (m : Mach) : m.fresh.2.faultLog = m.faultLog := rfl
@[simp] theorem Mach.fresh_notices (m : Mach) : m.fresh.2.notices = m.notices := rfl
@[simp] theorem Mach.fresh_tick (m : Mach) : m.fresh.2.tick = m.tick := rfl
@[simp] theorem Mach.fresh_flash (m : Mach) : m.fresh.2.flash = m.flash := rfl
@[simp] theorem Mach.fresh_aux (m : Mach) : m.fresh.2.aux = m.aux := rfl
@[simp] theorem Mach.fresh_pins (m : Mach) : m.fresh.2.pins = m.pins := rfl
@[simp] theorem Mach.fresh_mgmt (m : Mach) : m.fresh.2.mgmt = m.mgmt := rfl
@[simp] theorem Mach.fresh_deferred (m : Mach) : m.fresh.2.deferred = m.deferred := rfl
@[simp] theorem Mach.fresh_loads (m : Mach) : m.fresh.2.loads = m.loads := rfl
@[simp] theorem Mach.fresh_acking (m : Mach) : m.fresh.2.acking = m.acking := rfl
@[simp] theorem Mach.fresh_cache (m : Mach) : m.fresh.2.cache = m.cache := rfl
@[simp] theorem Mach.fresh_image (m : Mach) : m.fresh.2.image = m.image := rfl
@[simp] theorem Mach.fresh_timers (m : Mach) : m.fresh.2.timers = m.timers := rfl

@[simp] theorem Core.setDq_aq (c : Core) (n : Nat) (l : List Ent) : (c.setDq n l).aq = c.aq := rfl
@[simp] theorem Core.setDq_ch (c : Core) (n : Nat) (l : List Ent) : (c.setDq n l).ch = c.ch := rfl
@[simp] theorem Core.setDq_acc (c : Core) (n : Nat) (l : List Ent) : (c.setDq n l).acc = c.acc := rfl
@[simp] theorem Core.setDq_lsuQ (c : Core) (n : Nat) (l : List Ent) : (c.setDq n l).lsuQ = c.lsuQ := rfl
@[simp] theorem Core.setDq_opeQ (c : Core) (n : Nat) (l : List Ent) : (c.setDq n l).opeQ = c.opeQ := rfl
@[simp] theorem Core.setDq_druQ (c : Core) (n : Nat) (l : List Ent) : (c.setDq n l).druQ = c.druQ := rfl
@[simp] theorem Core.setDq_vecQ (c : Core) (n : Nat) (l : List Ent) : (c.setDq n l).vecQ = c.vecQ := rfl
@[simp] theorem Core.setDq_niuQ (c : Core) (n : Nat) (l : List Ent) : (c.setDq n l).niuQ = c.niuQ := rfl
@[simp] theorem Core.setDq_strQ (c : Core) (n : Nat) (l : List Ent) : (c.setDq n l).strQ = c.strQ := rfl
@[simp] theorem Core.setDq_dmaQ (c : Core) (n : Nat) (l : List Ent) : (c.setDq n l).dmaQ = c.dmaQ := rfl
@[simp] theorem Core.setDq_lsu (c : Core) (n : Nat) (l : List Ent) : (c.setDq n l).lsu = c.lsu := rfl
@[simp] theorem Core.setDq_ope (c : Core) (n : Nat) (l : List Ent) : (c.setDq n l).ope = c.ope := rfl
@[simp] theorem Core.setDq_opePipe (c : Core) (n : Nat) (l : List Ent) : (c.setDq n l).opePipe = c.opePipe := rfl
@[simp] theorem Core.setDq_drains (c : Core) (n : Nat) (l : List Ent) : (c.setDq n l).drains = c.drains := rfl
@[simp] theorem Core.setDq_pre (c : Core) (n : Nat) (l : List Ent) : (c.setDq n l).pre = c.pre := rfl
@[simp] theorem Core.setDq_vec (c : Core) (n : Nat) (l : List Ent) : (c.setDq n l).vec = c.vec := rfl
@[simp] theorem Core.setDq_vecPipe (c : Core) (n : Nat) (l : List Ent) : (c.setDq n l).vecPipe = c.vecPipe := rfl
@[simp] theorem Core.setDq_niu (c : Core) (n : Nat) (l : List Ent) : (c.setDq n l).niu = c.niu := rfl
@[simp] theorem Core.setDq_dma (c : Core) (n : Nat) (l : List Ent) : (c.setDq n l).dma = c.dma := rfl
@[simp] theorem Core.setDq_gens (c : Core) (n : Nat) (l : List Ent) : (c.setDq n l).gens = c.gens := rfl
@[simp] theorem Core.setDq_desc (c : Core) (n : Nat) (l : List Ent) : (c.setDq n l).desc = c.desc := rfl
@[simp] theorem Core.setDq_icache (c : Core) (n : Nat) (l : List Ent) : (c.setDq n l).icache = c.icache := rfl
@[simp] theorem Core.setDq_halted (c : Core) (n : Nat) (l : List Ent) : (c.setDq n l).halted = c.halted := rfl
@[simp] theorem Core.setDq_stopped (c : Core) (n : Nat) (l : List Ent) : (c.setDq n l).stopped = c.stopped := rfl
@[simp] theorem Core.setDq_vecHeld (c : Core) (n : Nat) (l : List Ent) : (c.setDq n l).vecHeld = c.vecHeld := rfl
@[simp] theorem Core.setDq_vecUsed (c : Core) (n : Nat) (l : List Ent) : (c.setDq n l).vecUsed = c.vecUsed := rfl
@[simp] theorem Core.setDq_druUsed (c : Core) (n : Nat) (l : List Ent) : (c.setDq n l).druUsed = c.druUsed := rfl

@[simp] theorem Core.setAdq_q (c : Core) (n : Nat) (l : List AddrEnt) : (c.setAdq n l).q = c.q := rfl
@[simp] theorem Core.setAdq_ch (c : Core) (n : Nat) (l : List AddrEnt) : (c.setAdq n l).ch = c.ch := rfl
@[simp] theorem Core.setAdq_acc (c : Core) (n : Nat) (l : List AddrEnt) : (c.setAdq n l).acc = c.acc := rfl
@[simp] theorem Core.setAdq_lsuQ (c : Core) (n : Nat) (l : List AddrEnt) : (c.setAdq n l).lsuQ = c.lsuQ := rfl
@[simp] theorem Core.setAdq_opeQ (c : Core) (n : Nat) (l : List AddrEnt) : (c.setAdq n l).opeQ = c.opeQ := rfl
@[simp] theorem Core.setAdq_druQ (c : Core) (n : Nat) (l : List AddrEnt) : (c.setAdq n l).druQ = c.druQ := rfl
@[simp] theorem Core.setAdq_vecQ (c : Core) (n : Nat) (l : List AddrEnt) : (c.setAdq n l).vecQ = c.vecQ := rfl
@[simp] theorem Core.setAdq_niuQ (c : Core) (n : Nat) (l : List AddrEnt) : (c.setAdq n l).niuQ = c.niuQ := rfl
@[simp] theorem Core.setAdq_strQ (c : Core) (n : Nat) (l : List AddrEnt) : (c.setAdq n l).strQ = c.strQ := rfl
@[simp] theorem Core.setAdq_dmaQ (c : Core) (n : Nat) (l : List AddrEnt) : (c.setAdq n l).dmaQ = c.dmaQ := rfl
@[simp] theorem Core.setAdq_lsu (c : Core) (n : Nat) (l : List AddrEnt) : (c.setAdq n l).lsu = c.lsu := rfl
@[simp] theorem Core.setAdq_ope (c : Core) (n : Nat) (l : List AddrEnt) : (c.setAdq n l).ope = c.ope := rfl
@[simp] theorem Core.setAdq_opePipe (c : Core) (n : Nat) (l : List AddrEnt) : (c.setAdq n l).opePipe = c.opePipe := rfl
@[simp] theorem Core.setAdq_drains (c : Core) (n : Nat) (l : List AddrEnt) : (c.setAdq n l).drains = c.drains := rfl
@[simp] theorem Core.setAdq_pre (c : Core) (n : Nat) (l : List AddrEnt) : (c.setAdq n l).pre = c.pre := rfl
@[simp] theorem Core.setAdq_vec (c : Core) (n : Nat) (l : List AddrEnt) : (c.setAdq n l).vec = c.vec := rfl
@[simp] theorem Core.setAdq_vecPipe (c : Core) (n : Nat) (l : List AddrEnt) : (c.setAdq n l).vecPipe = c.vecPipe := rfl
@[simp] theorem Core.setAdq_niu (c : Core) (n : Nat) (l : List AddrEnt) : (c.setAdq n l).niu = c.niu := rfl
@[simp] theorem Core.setAdq_dma (c : Core) (n : Nat) (l : List AddrEnt) : (c.setAdq n l).dma = c.dma := rfl
@[simp] theorem Core.setAdq_gens (c : Core) (n : Nat) (l : List AddrEnt) : (c.setAdq n l).gens = c.gens := rfl
@[simp] theorem Core.setAdq_desc (c : Core) (n : Nat) (l : List AddrEnt) : (c.setAdq n l).desc = c.desc := rfl
@[simp] theorem Core.setAdq_icache (c : Core) (n : Nat) (l : List AddrEnt) : (c.setAdq n l).icache = c.icache := rfl
@[simp] theorem Core.setAdq_halted (c : Core) (n : Nat) (l : List AddrEnt) : (c.setAdq n l).halted = c.halted := rfl
@[simp] theorem Core.setAdq_stopped (c : Core) (n : Nat) (l : List AddrEnt) : (c.setAdq n l).stopped = c.stopped := rfl
@[simp] theorem Core.setAdq_vecHeld (c : Core) (n : Nat) (l : List AddrEnt) : (c.setAdq n l).vecHeld = c.vecHeld := rfl
@[simp] theorem Core.setAdq_vecUsed (c : Core) (n : Nat) (l : List AddrEnt) : (c.setAdq n l).vecUsed = c.vecUsed := rfl
@[simp] theorem Core.setAdq_druUsed (c : Core) (n : Nat) (l : List AddrEnt) : (c.setAdq n l).druUsed = c.druUsed := rfl

@[simp] theorem Core.setChan_q (c : Core) (n : Nat) (l : List ChEnt) : (c.setChan n l).q = c.q := rfl
@[simp] theorem Core.setChan_aq (c : Core) (n : Nat) (l : List ChEnt) : (c.setChan n l).aq = c.aq := rfl
@[simp] theorem Core.setChan_acc (c : Core) (n : Nat) (l : List ChEnt) : (c.setChan n l).acc = c.acc := rfl
@[simp] theorem Core.setChan_lsuQ (c : Core) (n : Nat) (l : List ChEnt) : (c.setChan n l).lsuQ = c.lsuQ := rfl
@[simp] theorem Core.setChan_opeQ (c : Core) (n : Nat) (l : List ChEnt) : (c.setChan n l).opeQ = c.opeQ := rfl
@[simp] theorem Core.setChan_druQ (c : Core) (n : Nat) (l : List ChEnt) : (c.setChan n l).druQ = c.druQ := rfl
@[simp] theorem Core.setChan_vecQ (c : Core) (n : Nat) (l : List ChEnt) : (c.setChan n l).vecQ = c.vecQ := rfl
@[simp] theorem Core.setChan_niuQ (c : Core) (n : Nat) (l : List ChEnt) : (c.setChan n l).niuQ = c.niuQ := rfl
@[simp] theorem Core.setChan_strQ (c : Core) (n : Nat) (l : List ChEnt) : (c.setChan n l).strQ = c.strQ := rfl
@[simp] theorem Core.setChan_dmaQ (c : Core) (n : Nat) (l : List ChEnt) : (c.setChan n l).dmaQ = c.dmaQ := rfl
@[simp] theorem Core.setChan_lsu (c : Core) (n : Nat) (l : List ChEnt) : (c.setChan n l).lsu = c.lsu := rfl
@[simp] theorem Core.setChan_ope (c : Core) (n : Nat) (l : List ChEnt) : (c.setChan n l).ope = c.ope := rfl
@[simp] theorem Core.setChan_opePipe (c : Core) (n : Nat) (l : List ChEnt) : (c.setChan n l).opePipe = c.opePipe := rfl
@[simp] theorem Core.setChan_drains (c : Core) (n : Nat) (l : List ChEnt) : (c.setChan n l).drains = c.drains := rfl
@[simp] theorem Core.setChan_pre (c : Core) (n : Nat) (l : List ChEnt) : (c.setChan n l).pre = c.pre := rfl
@[simp] theorem Core.setChan_vec (c : Core) (n : Nat) (l : List ChEnt) : (c.setChan n l).vec = c.vec := rfl
@[simp] theorem Core.setChan_vecPipe (c : Core) (n : Nat) (l : List ChEnt) : (c.setChan n l).vecPipe = c.vecPipe := rfl
@[simp] theorem Core.setChan_niu (c : Core) (n : Nat) (l : List ChEnt) : (c.setChan n l).niu = c.niu := rfl
@[simp] theorem Core.setChan_dma (c : Core) (n : Nat) (l : List ChEnt) : (c.setChan n l).dma = c.dma := rfl
@[simp] theorem Core.setChan_gens (c : Core) (n : Nat) (l : List ChEnt) : (c.setChan n l).gens = c.gens := rfl
@[simp] theorem Core.setChan_desc (c : Core) (n : Nat) (l : List ChEnt) : (c.setChan n l).desc = c.desc := rfl
@[simp] theorem Core.setChan_icache (c : Core) (n : Nat) (l : List ChEnt) : (c.setChan n l).icache = c.icache := rfl
@[simp] theorem Core.setChan_halted (c : Core) (n : Nat) (l : List ChEnt) : (c.setChan n l).halted = c.halted := rfl
@[simp] theorem Core.setChan_stopped (c : Core) (n : Nat) (l : List ChEnt) : (c.setChan n l).stopped = c.stopped := rfl
@[simp] theorem Core.setChan_vecHeld (c : Core) (n : Nat) (l : List ChEnt) : (c.setChan n l).vecHeld = c.vecHeld := rfl
@[simp] theorem Core.setChan_vecUsed (c : Core) (n : Nat) (l : List ChEnt) : (c.setChan n l).vecUsed = c.vecUsed := rfl
@[simp] theorem Core.setChan_druUsed (c : Core) (n : Nat) (l : List ChEnt) : (c.setChan n l).druUsed = c.druUsed := rfl

end Sys2Proof.Machine
end

