-- ==== Sys2Proof/Tests/Slice0.lean ====
section
/-! SUPPORT. Tests: an ill-formed term for each check of WellFormed, words written out from the encoding tables, the spec's worked
examples, and for each statement with hypotheses a state and operands that meet them, clause by clause. -/
namespace Sys2Proof.Tests
open Sys2Proof Sys2Proof.Machine

/-! The tests are checked one after another, which keeps the check within its memory. -/
set_option Elab.async false

/-! Helper states: AUX power up, main power up, ready, a step running. -/

def st (m : Mach) : State := ⟨[], ⟨[], 0, 0⟩, m⟩
def auxM : Mach :=
  { Mach.reset with aux := { Mach.reset.aux with inLimits := true, selected := some 0 }, pins := { Mach.reset.pins with pwrEn := true } }.wrs 0
    [(.SEC_STATUS_KINDLING_UP, 1), (.SEC_WDOG_TIMEOUT_MS, 100), (.TICK_TIME, 5000)]
def mainM : Mach := auxM.wrs 0 [(.MOD_STATUS_PWR_GOOD, 1), (.MOD_BOOT_STAGE, 3)]
def upM : Mach :=
  mainM.wrs 0 [(.MOD_STATUS_CORDWOOD_UP, 1), (.MOD_STATUS_READY, 1), (.MOD_BOOT_STAGE, 9), (.SEQ_MEMBER_COUNT, 2), (.MOD_CORE_AVAIL, 2 ^ 64 - 1)]
def runM : Mach := upM.wrs 0 [(.MOD_STATUS_STEP_RUNNING, 1), (.TICK_STATE_PHASE, 1), (.TICK_STATE_GEN_RUNNING, 1)]
/-- A thread in broadcast form (sequencer 0 of die 0) and one in per-core form (core 2). -/
def th0 : ThreadId := ⟨0, 0, 0, 1⟩
def th1 : ThreadId := ⟨0, 1, 2, 0⟩
def k0 : Nat := threadNum th0
def ctx0 : Ctx := ⟨true, .none, 0, 5, 7, [], []⟩
def rM : Mach :=
  ((runM.wr .MOD_MODE_TRACE 0 1).setCtx k0 ctx0).setCtx (threadNum th1) { ctx0 with loops := [⟨4, 2, 0⟩] } |>.onCore 2 fun c => { c with icache := [(0, [0])] }
def withLoops (ls : List LoopLvl) : Mach := rM.setCtx k0 { ctx0 with loops := ls }
/-- Core 1 in a given state, in a running step. -/
def c1 (f : Core → Core) : Mach := rM.onCore 1 f
def cm (i : Instr) (tile : Nat := 0) : Cmd := ⟨i, k0, 9, tile⟩
def e1 : Ent := ⟨0x3F803F803F803F80, false⟩
def e2 : Ent := ⟨0x40000000400000004040404, false⟩
/-- The result is one, and it is as `p` says. -/
def okWith {ε α : Type} (x : Except ε α) (p : α → Bool) : Bool := match x with | .ok a => p a | .error _ => false
/-- The result is an error. -/
def fails {ε α : Type} (x : Except ε α) : Bool := match x with | .ok _ => false | .error _ => true

/-! Instructions that hold a reserved encoding or an operand of the wrong kind: one for each check. -/

def drn : DrainF := ⟨5, 0, 3, 0, 1, 0, 4, 63, 63, 3, 63, 63⟩
def vf : VecF := ⟨0, 1, 63, 2, 0, 0, 0, 0, 0, 2⟩
def ofm : OptF := ⟨1, 2, 3, 4, 5, 1, 0, 0, 4, 6, 7, 8, 63⟩
def dmf : DmaF := ⟨24, 25, 16, 1, 0, 0, 3, 0⟩

/-- R180: a module flag above 63. R185: PHASE with an empty set or SEL 3. -/
theorem test_wf_flags_phase : (Instr.fset th0 1 64 0 0).wf = false ∧ (Instr.fadd th0 1 64 0 0).wf = false ∧ (Instr.fclr th0 1 64 0).wf = false ∧
    (Instr.fwait th0 1 64 0).wf = false ∧ (Instr.fset th0 1 63 0 0).wf = true ∧ (Instr.phase th0 0 0 0).wf = false ∧
    (Instr.phase th0 1 3 0).wf = false ∧ (Instr.phase th0 1 2 0).wf = true := by decide
/-- R187: MODE 3 of SDEF. SRUN into a data queue, and with more than 2^24 addresses. -/
theorem test_wf_streams : (Instr.sdef th0 ⟨1, 3, 0, 4096, 4, 1, 0, 1, 1, 0, 256, 0, 0, 0, 0⟩).wf = false ∧ (Instr.srun th0 0 23 1).wf = false ∧
    (Instr.srun th0 0 24 0x1000001).wf = false ∧ (Instr.srun th0 0 24 0x1000000).wf = true := by decide
/-- R189, R190: each check of LDV. -/
theorem test_wf_ldv : (Instr.ldv th0 23 1 63 0 0 0 0 1).wf = false ∧ (Instr.ldv th0 24 24 63 0 0 0 0 1).wf = false ∧
    (Instr.ldv th0 24 1 63 6 0 0 0 1).wf = false ∧ (Instr.ldv th0 24 1 63 2 3 0 0 1).wf = false ∧ (Instr.ldv th0 24 1 63 0 1 0 0 1).wf = false ∧
    (Instr.ldv th0 24 1 63 2 1 3 0 1).wf = false ∧ (Instr.ldv th0 24 1 0 0 0 0 0 1).wf = false ∧ (Instr.ldv th0 24 1 63 4 1 0 0 1).wf = false ∧
    (Instr.ldv th0 24 1 63 2 1 2 0 1).wf = true := by decide
/-- R190, R191: each check of LDS; the operands of STV, QMOV and QDUP. -/
theorem test_wf_lsu : (Instr.lds th0 24 25 0 0 0 0 1).wf = false ∧ (Instr.lds th0 1 25 0 4 0 0 1).wf = false ∧ (Instr.lds th0 24 1 0 4 0 0 1).wf = false ∧
    (Instr.lds th0 63 63 0 4 0 0 1).wf = false ∧ (Instr.lds th0 24 25 24 4 0 0 1).wf = false ∧ (Instr.lds th0 24 63 0 4 0 0 1).wf = true ∧
    (Instr.stv th0 24 24 0 1).wf = false ∧ (Instr.stv th0 0 0 0 1).wf = false ∧ (Instr.qmov th0 24 0 1).wf = false ∧ (Instr.qmov th0 0 24 1).wf = false ∧
    (Instr.qdup th0 24 0 1 1).wf = false ∧ (Instr.qdup th0 0 24 1 1).wf = false ∧ (Instr.qdup th0 0 1 32 1).wf = false := by decide
/-- R69, R70: the formats of OPU and OPUS, their queues, and the count of a scaled update. -/
theorem test_wf_ope : (Instr.opu th0 24 1 0 0 0 0 1).wf = false ∧ (Instr.opu th0 0 24 0 0 0 0 1).wf = false ∧ (Instr.opu th0 0 1 0 0 6 0 1).wf = false ∧
    (Instr.opu th0 0 1 0 0 0 6 1).wf = false ∧ (Instr.opu th0 0 1 0 0 0 2 1).wf = false ∧ (Instr.opu th0 0 1 0 0 4 4 1).wf = false ∧
    (Instr.opus th0 0 1 24 0 0 4 4 16).wf = false ∧ (Instr.opus th0 0 1 2 0 0 2 2 16).wf = false ∧ (Instr.opus th0 0 1 2 0 0 4 4 8).wf = false ∧
    (Instr.opus th0 0 1 2 0 0 4 4 16).wf = true ∧ (Instr.opu th0 0 1 0 0 2 3 1).wf = true := by decide
/-- R197: the operands that each MODE of TLOAD leaves unused. -/
theorem test_wf_tload : (Instr.tload th0 0 5 0 0 0 0 0).wf = false ∧ (Instr.tload th0 63 5 0 0 1 0 0).wf = false ∧ (Instr.tload th0 63 5 0 0 0 1 0).wf = false ∧
    (Instr.tload th0 63 5 0 0 0 0 1).wf = false ∧ (Instr.tload th0 0 5 0 3 0 0 1).wf = false ∧ (Instr.tload th0 63 5 0 1 0 0 0).wf = false ∧
    (Instr.tload th0 0 5 0 1 0 3 0).wf = false ∧ (Instr.tload th0 0 5 0 2 0 0 1).wf = false ∧ (Instr.tload th0 0 5 0 1 1 2 0).wf = true := by decide
/-- R103, R198: each check of TDRAIN and TDRAING; EPI from an address queue. -/
theorem test_wf_drain : (Instr.tdrain th0 { drn with nlines := 0 }).wf = false ∧ (Instr.tdrain th0 { drn with first := 125 }).wf = false ∧
    (Instr.tdrain th0 { drn with res := 24 }).wf = false ∧ (Instr.tdrain th0 { drn with out := 24 }).wf = false ∧
    (Instr.tdrain th0 { drn with amax := 48 }).wf = false ∧ (Instr.tdrain th0 { drn with scl := 31 }).wf = false ∧
    (Instr.tdrain th0 { drn with zq := 31 }).wf = false ∧ (Instr.tdraing th0 { drn with zq := 32 }).wf = false ∧
    (Instr.tdraing th0 { drn with res := 0 }).wf = false ∧ (Instr.tdraing th0 { drn with scl := 0 }).wf = false ∧
    (Instr.tdrain th0 { drn with first := 124 }).wf = true ∧ (Instr.epi th0 24 0).wf = false := by decide
/-- R201 to R204: each check of the VEC instructions. -/
theorem test_wf_vec : (Instr.vadd th0 { vf with x := 24 }).wf = false ∧ (Instr.vadd th0 { vf with y := 24 }).wf = false ∧
    (Instr.vadd th0 { vf with fy := 3 }).wf = false ∧ (Instr.vadd th0 { vf with z := 1 }).wf = false ∧ (Instr.vadd th0 { vf with fz := 1 }).wf = false ∧
    (Instr.vadd th0 { vf with d := 24 }).wf = false ∧ (Instr.vadd th0 { vf with fx := 3 }).wf = false ∧ (Instr.vadd th0 { vf with fd := 3 }).wf = false ∧
    (Instr.vadd th0 { vf with ext := 1 }).wf = false ∧ (Instr.vfma th0 vf).wf = false ∧ (Instr.vexp th0 vf).wf = false ∧
    (Instr.vcmp th0 { vf with ext := 6 }).wf = false ∧ (Instr.vcmp th0 { vf with fd := 1 }).wf = false ∧ (Instr.vred th0 { vf with y := 63, ext := 4 }).wf = false ∧
    (Instr.vshuf th0 { vf with fy := 1 }).wf = false ∧ (Instr.vamax th0 { vf with y := 63, fd := 1 }).wf = false ∧ (Instr.vadd th0 vf).wf = true := by decide
theorem test_wf_vec2 : (Instr.vcvt th0 24 1 0 0 0 0 2).wf = false ∧ (Instr.vcvt th0 0 1 4 0 0 0 2).wf = false ∧ (Instr.vcvt th0 0 1 0 13 0 0 2).wf = false ∧
    (Instr.vcvt th0 0 1 0 2 0 0 3).wf = false ∧ (Instr.vcvt th0 0 1 0 2 0 0 2).wf = true ∧ (Instr.vbcast th0 24 0 1 0 0 1).wf = false ∧
    (Instr.vbcast th0 0 0 1 3 0 1).wf = false ∧ (Instr.vbcast th0 0 0 1 0 3 1).wf = false ∧ (Instr.vrng th0 0 24 0 1).wf = false ∧
    (Instr.vrng th0 0 1 5 1).wf = false ∧ (Instr.vrng th0 1 1 0 1).wf = false ∧ (Instr.vrng th0 1 1 4 1).wf = true := by decide
/-- R206: each operand of the optimizers. -/
theorem test_wf_opt : (Instr.vadamw th0 ofm).wf = true ∧ (Instr.vadamw th0 { ofm with p := 24 }).wf = false ∧ (Instr.vadamw th0 { ofm with fg := 0 }).wf = false ∧
    (Instr.vadamw th0 { ofm with wo := 24 }).wf = false ∧ (Instr.vadamw th0 { ofm with v := 63 }).wf = false ∧ (Instr.vlion th0 ofm).wf = false ∧
    (Instr.vlion th0 { ofm with v := 63, vo := 63 }).wf = true ∧ (Instr.vadamw th0 { ofm with wcopy := 1 }).wf = false ∧
    (Instr.vadamw th0 { ofm with wb := 9 }).wf = false ∧ (Instr.vsgdm th0 { ofm with v := 63 }).wf = false := by decide
/-- R207 to R214: NIU and DMA instructions. -/
theorem test_wf_niu_dma : (Instr.nsend th0 0 0 1).wf = false ∧ (Instr.nsend th0 32 32 1).wf = false ∧ (Instr.nrecv th0 0 0 1).wf = false ∧
    (Instr.nmcast th0 0 0 1).wf = false ∧ (Instr.rred th0 0 1 32 3 1).wf = false ∧ (Instr.rred th0 0 24 32 0 1).wf = false ∧
    (Instr.rgath th0 0 1 31 1).wf = false ∧ (Instr.dcopy th0 dmf).wf = true ∧ (Instr.dcopy th0 { dmf with share := 1 }).wf = false ∧
    (Instr.dcopy th0 { dmf with src := 0, dst := 1 }).wf = false ∧ (Instr.dcopy th0 { dmf with layout := 3 }).wf = false ∧
    (Instr.dcopy th0 { dmf with layout := 1 }).wf = false ∧ (Instr.dcopy th0 { dmf with src := 0, bytes := 1 }).wf = false ∧
    (Instr.dcopy th0 { dmf with src := 40 }).wf = false ∧ (Instr.dpref th0 { dmf with dst := 0 }).wf = false ∧ (Instr.dwait th0 0).wf = false ∧
    (Instr.ipull th0 0 0 1 0).wf = false ∧ (Instr.ipull th0 24 16 1 0).wf = false ∧ (Instr.ipull th0 24 15 1 0).wf = true := by decide

/-! Words: "Worked example: five instructions as words" of chapter 07, and for the other families words added up from Tables ZVI-2 to ZVI-9. -/

theorem test_word_opu : zviDecode th0 [0x2000040400000400] = some (.opu th0 0 1 0 1 0 0 1024) := by decide +kernel
theorem test_word_tdrain : zviDecode th0 [0x2400460080000000, 0x3FFC20FF] =
    some (.tdrain th0 ⟨0, 1, 3, 0, 0, 0, 128, 63, 3, 2, 63, 63⟩) := by decide +kernel
theorem test_word_fadd : zviDecode th0 [0x024280000000FFFF] = some (.fadd th0 0 20 0 0xFFFF) := by decide +kernel
theorem test_word_fadd_after : zviDecode th0 [0x0242F00000000001] = some (.fadd th0 0 23 0x20 1) := by decide +kernel
theorem test_word_srun : zviDecode th0 [0x1041800000000000] = some (.srun th0 0 24 0) := by decide +kernel
theorem test_word_dcopy : zviDecode th0 [0x701E7C0200004080] = some (.dcopy th0 ⟨30, 31, 128, 16, 0, 1, 0, 0⟩) := by decide +kernel
/-- LDV A1, Q1, n=8192: 0x048 at 54, 25 at 48, 1 at 42, 63 at 36, 0x2000. -/
theorem test_word_ldv : zviDecode th0 [0x121907F000002000] = some (.ldv th0 25 1 63 0 0 0 0 8192) := by decide +kernel
/-- VADD Q3, Q4, Q5, fx=BF16, fy=BF16, fd=BF16, n=64: 0x0C0 at 54, 3 at 48, 4 at 42, 63 at 36, 5 at 30, 1 at 28, 26 and 22, 64. -/
theorem test_word_vadd : zviDecode th0 [0x300313F154400040] = some (.vadd th0 ⟨3, 4, 63, 5, 1, 1, 0, 1, 0, 64⟩) := by decide +kernel
/-- NSEND Q6, C2, n=128: 0x180 at 54, 6 at 48, 34 at 42, 128. -/
theorem test_word_nsend : zviDecode th0 [0x6006880000000080] = some (.nsend th0 6 34 128) := by decide +kernel
/-- A preload of tile 5 with zeros: 0x089 at 54, 63 at 48, 5 at 41. -/
theorem test_word_tload : zviDecode th0 [0x227F0A0000000000] = some (.tload th0 63 5 0 0 0 0 0) := by decide +kernel
/-- R175: a set reserved bit, and an opcode that Table ZVI-1 does not give. -/
theorem test_word_reserved : zviDecode th0 [0x0000000000000001] = none ∧ zviDecode th0 [0x01C0000000000000] = none := by decide +kernel
/-- The table of commands gives no row any bits. -/
theorem test_table_word : decodeTableWord 64 0 = none ∧ (State.reset.withFetchWord 64 0) = State.reset := by decide

/-! The spec's worked examples, and the published vectors of the generator that R138 names. -/

/-- "Worked example: locating registers of core 38" (chapter 19), with R374's shadow copy. -/
theorem test_registers_of_core_38 :
    ((regAt 0x19C5048).map fun x => (x.1.fields.head?.map (·.fld), x.2)) = some (some .CC_CODE_STATUS_STALE, 38) ∧
    ((regAt (writeOffset 0x39C5038)).map fun x => (x.1.fields.head?.map (·.fld), x.2)) = some (some .CC_CODE_WIN_LO_BASE, 38) ∧
    ((regAt 0x1804640).map fun x => (x.1.fields.head?.map (·.fld), x.2)) = some (some .SEQ_MEMBER_FIRST, 22) ∧
    ((regAt 0x104730).map fun x => (x.1.fields.head?.map (·.fld), x.2)) = some (some .ING_RING_CUR, 64 * 3 + 38) ∧
    ((regAt 0x19C2058).map fun x => (x.1.fields.head?.map (·.fld), x.2)) = some (some .TILE_SB_WAIT, 38) := by decide +kernel
/-- The alias example of R242 (chapter 09). -/
theorem test_alias : aliasLinear 0x20000035123 = 0x1A800001123 := by decide
/-- "Worked example: one AdamW element at t = 1" (chapter 05): the BF16 copy of w'. -/
theorem test_adamw : (convRne bf16 false (val32 (Sys2Proof.Machine.vadamw (fun i => [0x3A83126F, 0x3F666666, 0x3DCCCCCD, 0x3F7FBE77, 0x3A83126F, 0x322BCC77, 0x3DCCCCCD,
    0x41200000, 0x447A0000, 0x3F800000].getD i 0) 0x3F000000 0 0 0x3C240000).w)).enc = 0x3EFF := by decide +kernel
/-- "Worked example: locating a draw" (chapter 05): call 3 of lane 5 of core 37. -/
theorem test_draw : vecWord 9 37 5 12 = (philoxRounds 10 9 0 ⟨3, 0, 0, 0x1285⟩).w0 ∧ vrng 1 0 0xC0000000 0 = 0x3F400000 ∧
    druDraw 9 37 5 21 = (philoxRounds 10 9 0 ⟨2, 0, 0, 0x3285⟩).w2 / 2 ^ 16 := by decide +kernel
/-- The known answers of Philox-4x32-10 of its publication: all zeros, and all ones. -/
theorem test_philox : philoxRounds 10 0 0 ⟨0, 0, 0, 0⟩ = ⟨0x6627E8D5, 0xE169C58D, 0xBC57AC4C, 0x9B00DBD8⟩ ∧
    philoxRounds 10 0xFFFFFFFF 0xFFFFFFFF ⟨0xFFFFFFFF, 0xFFFFFFFF, 0xFFFFFFFF, 0xFFFFFFFF⟩ = ⟨0x408F276D, 0x41C83B0E, 0xA20BC7C6, 0x6D5451FD⟩ := by
  decide +kernel
/-- "Worked example: the order of one element" (chapter 11): ((c3 + c0) + c1) + c2, the other order, and the Y step. -/
theorem test_order_of_one_element : redAdd 0 (redAdd 0 (redAdd 0 0x3B80 0x3F80) 0x3B80) 0x3B80 = 0x3F80 ∧
    redAdd 0 (redAdd 0 (redAdd 0 0x3B80 0x3B80) 0x3B80) 0x3F80 = 0x3F82 ∧ redAdd 0 0x3F00 0x3F80 = 0x3FC0 := by decide +kernel
/-- "Worked example: one element forward and back" (chapter 04): the output conversions. -/
theorem test_element_forward_and_back : (convRne e4m3 true (val32 0x3F7B26A8)).enc = 0x38 ∧ (convRne bf16 false (val32 0xBE8E7D7F)).enc = 0xBE8E ∧
    (convRne bf16 false (val32 0x3F800000)).enc = 0x3F80 := by decide +kernel
/-- IDCODE of the TAP (R540). -/
theorem test_idcode : idcode = 0x20832A6B := by decide

/-! Witnesses: a state and operands that meet the hypotheses of each statement, clause by clause. -/

theorem test_witness_ReservedEncodingStops : (Instr.fset th0 1 64 0 0).wf = false := by decide
theorem test_witness_StepRunsFrontCommand : State.reset.pending = [] := rfl
theorem test_witness_StepKeepsInv : (∀ c ∈ (State.reset.pending), c.wf = true) ∧ State.reset.fuses.kindling ≤ 64 ∧ State.reset.fuses.cordwood ≤ 64 := by decide
theorem test_witness_LoopsAndPhases :
    rM.canIssue k0 = true ∧ (rM.ctx k0).loops = [] ∧
    (withLoops [⟨4, 0, 9⟩]).canIssue k0 = true ∧ ((withLoops [⟨4, 0, 9⟩]).ctx k0).loops = [⟨4, 0, 9⟩] ∧
    (withLoops [⟨4, 2, 0⟩]).canIssue k0 = true ∧ ((withLoops [⟨4, 2, 0⟩]).ctx k0).loops = [⟨4, 2, 0⟩] ∧
    (withLoops [⟨4, 2, 1⟩]).canIssue k0 = true ∧ ((withLoops [⟨4, 2, 1⟩]).ctx k0).loops = [⟨4, 2, 1⟩] ∧
    rM.thrSeq k0 = some 0 ∧ rM.thrSeq (threadNum ⟨0, 1, 5, 0⟩) = none ∧
    ((rM.setCtx (threadNum ⟨0, 1, 5, 0⟩) ctx0).onCore 5 fun c => { c with icache := [(0, [0])] }).canIssue (threadNum ⟨0, 1, 5, 0⟩) = true ∧
    (rM.wrs 0 [(.SEQ_WIN_FB_F_LEN, 1)]).window 0 1 = (0, 1) ∧ (rM.wrs 0 [(.SEQ_WIN_FB_F_LEN, 1)]).phaseIndex = 0 ∧
    (rM.wrs 0 [(.SEQ_WIN_FB_F_LEN, 1)]).canIssue k0 = true ∧ rM.window 0 1 = (0, 0) := by decide +kernel
theorem test_witness_WaitingInstructions : rM.canIssue k0 = true ∧ (0xFFFF : BitVec 16) ≠ 0 ∧ (1 : BitVec 1) ≠ 0 ∧ (63 : BitVec 8).toNat < 64 ∧
    rM.flag 0 true 63 < 1 ∧ ¬rM.flag 0 false 255 < 0 := by decide +kernel
theorem test_witness_CtxStart : rM.canIssue k0 = true ∧ k0 - thrCtx k0 + 7 ≠ k0 ∧ rM.ctxLive (k0 - thrCtx k0 + 7) = false ∧
    (rM.setCtx (k0 + 1) ⟨true, .tick, 3, 4, 5, [], []⟩).canIssue k0 = true ∧ (rM.setCtx (k0 + 1) ⟨true, .tick, 3, 4, 5, [], []⟩).ctxLive (k0 + 1) = true := by
  decide +kernel
theorem test_witness_MarkWritesCairn : rM.canIssue k0 = true ∧ rM.tracing = true ∧ rM.typeOn 3 = true ∧
    (rM.buf (srcDie 0)).recs.length < 16 ∧ (rM.buf (srcDie 0)).drops = 0 ∧ (∀ x ∈ rM.dbg.snapQ, x.src ≠ srcDie 0) := by decide +kernel
theorem test_witness_FlagAtIssue : rM.canIssue k0 = true ∧ (63 : BitVec 8).toNat < 64 := by decide +kernel
def o1 : DefOp := ⟨false, 5, .add 3, 4, 6⟩
theorem test_witness_FlagsDeferred : rM.canIssue k0 = true ∧ (63 : BitVec 6) ≠ 0 ∧ (rM.ctx k0).defer.length < 4 ∧
    (let m := rM.setCtx k0 { ctx0 with defer := [o1, o1, o1] }; m.canIssue k0 = true ∧ (m.ctx k0).defer.length < 4 ∧
      (m.ctx k0).defer = [o1, o1, o1] ∧ m.mainUp = true ∧ m.frozen = false ∧ m.afterMet k0 o1 = true) := by decide +kernel
theorem test_witness_EngineCommandIssues : rM.canIssue k0 = true ∧ threadOf (.vadd th0 vf) = some th0 ∧ unitOf (.vadd th0 vf) ≠ 7 ∧
    (Instr.vadd th0 vf).wf = true ∧ (zviEncode (.vadd th0 vf)).isSome = true ∧ 1 ∈ rM.members k0 ∧
    (∀ g ∈ rM.members k0, ((rM.core g).engQ (unitOf (.vadd th0 vf))).length < 16) ∧
    (let i := Instr.dcopy th0 dmf; threadOf i = some th0 ∧ unitOf i = 5 ∧ i.wf = true ∧ ∀ g ∈ rM.members k0, ((rM.core g).engQ 5).length < 512) ∧
    (let m := rM.onCore 1 fun c => c.setEngQ 3 (List.replicate 16 (cm (.vadd th0 vf)));
      unitOf (.vadd th0 vf) = 3 ∧ m.canIssue k0 = true ∧ 1 ∈ m.members k0 ∧ 16 ≤ ((m.core 1).engQ 3).length) := by decide +kernel
theorem test_witness_Words : threadOf (.opu th0 0 1 0 1 0 0 1024) = some th0 ∧
    zviDecode th0 [0x2000040400000400] = some (.opu th0 0 1 0 1 0 0 1024) := by decide +kernel
theorem test_witness_IcacheMissFills : th1.form = 1 ∧ rM.coreRuns 2 = true ∧ (rM.ctx (threadNum th1)).running = true ∧
    (let m := rM.onCore 2 fun c => { c with icache := [(0, [64, 128, 192, 256])] };
      m.coreRuns 2 = true ∧ (m.ctx (threadNum th1)).running = true ∧ (m.core 2).cached (lineOf (m.ctx (threadNum th1)).pc) = false) := by
  decide +kernel

def sd1 : SdefF := ⟨1, 0, 0, 4096, 4, 1, 0, 1, 1, 0, 256, 0, 0, 0, 0⟩
def dsc : StreamDesc := ⟨sd1, 2, true⟩
def srn : Cmd := cm (.srun th0 1 24 3)
theorem test_witness_StreamGenerators :
    (let m := c1 fun c => { c with strQ := [cm (.sdef th0 sd1)] };
      m.unitRuns 1 .str = true ∧ (m.core 1).strQ = [cm (.sdef th0 sd1)] ∧ (slotVals (m.core 1).gens).any (·.uses (descKey k0 1)) = false) ∧
    (let m := c1 fun c => { c with strQ := [srn], desc := [(descKey k0 1, dsc)], gens := [(0, some ⟨srn, 0, 3, 0, 0⟩)] };
      m.unitRuns 1 .str = true ∧ (m.core 1).strQ = [srn] ∧ (3 : BitVec 25) ≠ 0 ∧ (m.core 1).descAt (descKey k0 1) = dsc ∧ dsc.defined = true ∧
      ((List.range 8).find? fun i => ((m.core 1).gen i).isNone) = some 1 ∧
      (m.core 1).gen 0 = some ⟨srn, 0, 3, 0, 0⟩ ∧ okA 24 = true ∧ m.aqRoom 1 24 = true ∧
      ∀ q ∈ slotVals (m.core 1).gens, 0 ≤ q.ord ∨ q.queue ≠ 24) := by decide +kernel
def ae : AddrEnt := ⟨4096, 0⟩
def aeC : AddrEnt := ⟨4096, 1⟩
def lsuM (r : LsuRun) : Mach := c1 fun c => { c with lsu := [(0, some r)], aq := [(0, [ae])], q := [(3, [e1, e2])] }
def ldvR : LsuRun := ⟨cm (.ldv th0 24 3 63 1 0 0 0 2), 0, 0, []⟩
def stvR : LsuRun := ⟨cm (.stv th0 3 24 1 2), 0, 1, []⟩
def pshR : LsuRun := ⟨cm (.ldv th0 24 3 63 1 0 0 0 2), 0, 2, [(3, e1)]⟩
def unpR : LsuRun := ⟨cm (.ldv th0 24 3 25 4 1 0 0 2), 0, 0, []⟩
def ldsR : LsuRun := ⟨cm (.lds th0 24 63 3 4 0 0 2), 0, 0, []⟩
def movR : LsuRun := ⟨cm (.qdup th0 3 4 5 2), 0, 1, []⟩
theorem test_witness_LsuMoves_ldv :
    (let m := lsuM ldvR; let m0 := Lsu.take 1 0 m;
      m.unitRuns 1 .lsu = true ∧ (0 : BitVec 3).toNat ≤ 4 ∧ (m0.core 1).lsuAt 0 = some ldvR ∧ ldvR.started < lsuN ldvR.cmd.ins ∧
      (m0.core 1).lsuPopBusy ldvR = false ∧ (m0.core 1).lsuPushBusy ldvR = false ∧ m.headA 1 24 = some ae ∧ unpacks 0 ae.tag = false ∧
      m.qRoom 1 3 ((m0.core 1).lsuComing 3 + 1) = true ∧ (m.csRead 1 (lineBytes ae false)).2 = false) ∧
    (let m := (lsuM unpR).onCore 1 fun c => { c with aq := [(0, [aeC]), (1, [⟨8192, 1⟩])] }; let m0 := Lsu.take 1 0 m;
      let x := ((m.dropA 1 24).headA 1 25).elim 0 fun x => x.addr.toNat;
      m.headA 1 24 = some aeC ∧ unpacks 1 aeC.tag = true ∧ isMx 4 = true ∧ ((m.dropA 1 24).headA 1 25).isSome = true ∧
      (m0.core 1).lsuAt 0 = some unpR ∧ (m0.core 1).lsuPopBusy unpR = false ∧ (m0.core 1).lsuPushBusy unpR = false ∧
      (m.csRead 1 (lineScales 4 (x % 2 ^ 24) (lineIdx aeC) (aeC.tag == 1))).2 = false ∧ m.qRoom 1 3 ((m0.core 1).lsuComing 3 + packP 4) = true) := by decide +kernel
theorem test_witness_LsuMoves_lds :
    (let m := lsuM ldsR; let m0 := Lsu.take 1 0 m;
      (m0.core 1).lsuAt 0 = some ldsR ∧ (m0.core 1).lsuPopBusy ldsR = false ∧ (m0.core 1).lsuPushBusy ldsR = false ∧
      (Lsu.scaleSide m 1 24 1).isSome = true ∧ (Lsu.scaleSide (m.dropA 1 24) 1 63 1).isSome = true ∧
      ((Lsu.scaleSide m 1 24 1).elim true fun o => (m.csRead 1 o).2) = false ∧
      ((Lsu.scaleSide (m.dropA 1 24) 1 63 1).elim true fun o => (m.csRead 1 o).2) = false ∧
      m.qRoom 1 3 ((m0.core 1).lsuComing 3 + 1) = true) := by decide +kernel
theorem test_witness_LsuMoves :
    (let m := lsuM stvR; let m0 := Lsu.take 1 0 m;
      m.unitRuns 1 .lsu = true ∧ (m0.core 1).lsuAt 0 = some stvR ∧ stvR.started < lsuN stvR.cmd.ins ∧ (m0.core 1).lsuPopBusy stvR = false ∧
      lsuReads stvR.cmd.ins = false ∧ m.headA 1 24 = some ae ∧ m.headQ 1 3 = some e1 ∧ e1.poison = false) ∧
    (let m := lsuM movR; let m0 := Lsu.take 1 0 m;
      (m0.core 1).lsuAt 0 = some movR ∧ movR.started < lsuN movR.cmd.ins ∧ (m0.core 1).lsuPopBusy movR = false ∧ movR.flight = [] ∧
      lsuReads movR.cmd.ins = false ∧ m.headQ 1 3 = some e1) ∧
    (let m := lsuM pshR;
      m.unitRuns 1 .lsu = true ∧ (m.core 1).lsuAt 0 = some pshR ∧ pshR.flight = [(3, e1)] ∧ m.qRoom 1 3 1 = true ∧
      (m.core 1).lsuPushBusy pshR = false) := by decide +kernel
def oi : Instr := .opu th0 0 1 5 0 0 0 2
def os : Instr := .opus th0 0 1 2 5 0 4 4 32
def opd : OpePend := ⟨cm oi 5, 5, 1, e1.bits, e2.bits, 0, true⟩
theorem test_witness_OpeUpdates :
    (let m := c1 fun c => { c with ope := some ⟨cm oi 5, 1, 0⟩, q := [(0, [e1, e2]), (1, [e2])] };
      m.unitRuns 1 .ope = true ∧ Ope.current (m.core 1) = some ⟨cm oi 5, 1, 0⟩ ∧ ((opuOf oi).map (·.qs)) = some 63 ∧ (m.core 1).tileState 5 ≠ 2 ∧
      (m.core 1).tileState 5 ≠ 3 ∧ m.headQ 1 0 = some e1 ∧ (m.dropQ 1 0 1).headQ 1 1 = some e2) ∧
    (let m := c1 fun c => { c with opeQ := [cm os 5], q := [(0, [e1, e2]), (1, [e2]), (2, [e1])] };
      Ope.current (m.core 1) = some ⟨cm os 5, 0, 0⟩ ∧ ((opuOf os).map (·.qs)) = some 2 ∧ (m.core 1).tileState 5 = 0 ∧ m.headQ 1 0 = some e1 ∧
      (m.dropQ 1 0 1).headQ 1 1 = some e2 ∧ ((m.dropQ 1 0 1).dropQ 1 1 1).headQ 1 2 = some e1) ∧
    (let m := c1 fun c => { c with opePipe := [opd], acc := [(5 * 128, 0x3F800000)] };
      m.mainUp = true ∧ (m.core 1).opePipe = [opd] ∧ (opuOf opd.cmd.ins).isSome = true) := by decide +kernel
def drc : Cmd := cm (.tdrain th0 drn) 5
def pre0 : Cmd := cm (.tload th0 63 5 0 0 0 0 0) 5
def pre1 : Cmd := cm (.tload th0 3 5 0 1 1 0 0) 5
def pre3 : Cmd := cm (.tload th0 63 5 0 3 0 0 0x40000000) 5
def epc : Cmd := cm (.epi th0 3 7) 0
theorem test_witness_DruStartsAndPreloads :
    (let m := c1 fun c => { c with druQ := [drc] };
      m.unitRuns 1 .dru = true ∧ (m.core 1).druQ = [drc] ∧ (m.core 1).tileState 5 = 0 ∧ Dru.portBusy (m.core 1) = false) ∧
    (let m := c1 fun c => { c with druQ := [pre0] };
      m.unitRuns 1 .dru = true ∧ (m.core 1).druQ = [pre0] ∧ (m.core 1).tileState 5 = 0 ∧ (m.core 1).pre = none) ∧
    (let m := c1 fun c => { c with druQ := [epc], q := [(3, [e1])] };
      m.unitRuns 1 .dru = true ∧ Dru.popBusy (m.core 1) (nextOrd (m.core 1).druOrds) [3] = false ∧ m.headQ 1 3 = some e1) := by decide +kernel
theorem test_witness_DruStartsAndPreloads_lines :
    (let m := c1 fun c => { c with pre := some ⟨pre0, 0, 127, 0⟩ };
      m.unitRuns 1 .dru = true ∧ Dru.tloadOf pre0.ins = some (63, 0, 0, 0, 0) ∧ Dru.prePops ⟨pre0, 0, 127, 0⟩ = [] ∧
      Dru.popBusy (m.core 1) 0 [] = false) := by decide +kernel
theorem test_witness_DruStartsAndPreloads_bias :
    (let m := c1 fun c => { c with pre := some ⟨pre1, 0, 0, 0⟩, q := [(3, [e1])] };
      m.unitRuns 1 .dru = true ∧ Dru.tloadOf pre1.ins = some (3, 1, 1, 0, 0) ∧ Dru.prePops ⟨pre1, 0, 0, 0⟩ = [3] ∧
      Dru.popBusy (m.core 1) 0 [3] = false ∧ m.headQ 1 3 = some e1) := by decide +kernel
def ei : EpiEnt := ⟨0, 0, false, false, 0, false, 0, false, false, false, 0⟩
def drR : DrainRun := ⟨cm (.tdrain th0 { drn with out := 3 }) 5, 0, false, { drn with out := 3 }, ei, 3, [⟨1, 0, 0⟩, ⟨1, 0, 0⟩, ⟨1, 0, 0⟩], 0⟩
def drP : DrainRun := { drR with pos := 4, lines := [⟨1, 0, 0⟩, ⟨1, 0, 0⟩, ⟨1, 0, 0⟩, ⟨1, 0, 0⟩], pushed := 20 }
theorem test_witness_DrainMoves :
    (let m := c1 fun c => { c with drains := [drR], acc := [(5 * 128 + 1, 0x3F8000003F800000)] };
      m.unitRuns 1 .dru = true ∧ ((m.core 1).drains.find? fun d => decide (d.pos < d.n)) = some drR ∧ Dru.readWaits m 1 drR = false ∧
      Dru.linePops drR = []) ∧
    (let m := c1 fun c => { c with drains := [drP] };
      m.unitRuns 1 .dru = true ∧ (m.core 1).drains = [drP] ∧ Dru.due drP = true ∧ Dru.popWaits (m.core 1) drP = false ∧
      (match Dru.bundle m 1 drP with | some (es, _, _) => (m.pushAll 1 es).isSome | _ => false) = true) := by decide +kernel
def vcR : VecRun := ⟨cm (.vadd th0 vf), 1, none, 0⟩
def vcO : VecRun := ⟨cm (.vsgdm th0 { ofm with v := 63, vo := 63, n := 2 }), 0, none, 0⟩
def vcD : VecRun := ⟨cm (.vrng th0 1 3 0 2), 0, none, 0⟩
def vpd : VecPend := ⟨cm (.vadd th0 vf), 2, e1⟩
theorem test_witness_VecMoves :
    (let m := c1 fun c => { c with vec := some vcR, q := [(3, [e1, e2]), (2, [e2]), (0, [e1, e2]), (1, [e2])] };
      let m0 := Vec.take 1 m; let qs := vecPops vcR.cmd.ins vcR.param.isNone;
      m.unitRuns 1 .vec = true ∧ (m0.core 1).vec = some vcR ∧ Vec.full (m0.core 1) vcR = false ∧ qs ≠ [] ∧
      (∀ q ∈ qs, qs.count q ≤ ((m.core 1).dq q).length) ∧ (∀ e ∈ Vec.heads m 1 qs, e.2.poison = false) ∧ vecDraws vcR.cmd.ins = 0) ∧
    (let m := c1 fun c => { c with vec := some vcO, q := (List.range 24).map fun q => (q, [e1]) };
      let m0 := Vec.take 1 m; let qs := vecPops vcO.cmd.ins vcO.param.isNone;
      (m0.core 1).vec = some vcO ∧ Vec.full (m0.core 1) vcO = false ∧ Vec.takesParam vcO = true ∧
      (∀ q ∈ qs, qs.count q ≤ ((m.core 1).dq q).length) ∧ (∀ e ∈ Vec.heads m 1 qs, e.2.poison = false)) ∧
    (let m := c1 fun c => { c with vecQ := [vcD.cmd] };
      let m0 := Vec.take 1 m;
      (m0.core 1).vec = some vcD ∧ Vec.full (m0.core 1) vcD = false ∧ vecDraws vcD.cmd.ins ≠ 0 ∧ vecPops vcD.cmd.ins true = [] ∧
      (m0.draw 1 0 (vecDraws vcD.cmd.ins)).isSome = true) ∧
    (let m := c1 fun c => { c with vecPipe := [vpd], q := [(2, [e1])] };
      m.unitRuns 1 .vec = true ∧ (m.core 1).vecPipe = [vpd] ∧ isDataQ vpd.dst = true ∧ (m.pushEnd 1 vpd.dst vpd.ent).isSome = true) := by decide +kernel
def nuR : NiuRun := ⟨cm (.nrecv th0 32 3 2), 0, 1, none, 0, 0⟩
def che : ChEnt := ⟨e1, 0, 0, false, false⟩
theorem test_witness_NiuReceives :
    (let m := c1 fun c => { c with niu := [(0, some nuR)], ch := [(0, [che])] };
      m.unitRuns 1 .niu = true ∧ (m.core 1).niuAt 0 = some nuR ∧ (m.core 1).niuQ = [] ∧ (m.core 1).niuBusy nuR = false ∧
      (m.core 1).chan (32 - 32) = [che] ∧ m.qRoom 1 3 1 = true ∧ che.link = 0 ∧ che.org = 0) := by decide +kernel
def t1a : Nat := 0x10000000000
def da1 : AddrEnt := ⟨4096, 0⟩
def da2 : AddrEnt := ⟨0x10000000040, 0⟩
def dm1 : DmaF := ⟨24, 25, 1, 2, 0, 0, 3, 0⟩
def dmR : DmaRun := ⟨cm (.dcopy th0 dm1), 0, 1, some da1, some da2, 0, [], 0⟩
def dmM : Mach := (rM.store 4096 [1, 2, 3]).onCore 1 fun c => { c with dma := [(0, some dmR)] }
/-- A slot whose destination is module 1 of a slice of two, before and after its frames have gone. -/
def da7 : AddrEnt := ⟨BitVec.ofNat 64 (2 ^ 63 + 2 ^ 44 + 0x10000000040), 0⟩
def dmX (moved : Nat) : DmaRun := { dmR with dst := some da7, moved := moved }
def dmXM (moved : Nat) : Mach := ((rM.wr .FAB_SLICE_EX 0 2).store 4096 [1, 2, 3]).onCore 1 fun c => { c with dma := [(0, some (dmX moved))] }
theorem test_witness_DmaMoves :
    (let m := c1 fun c => { c with dmaQ := [cm (.dcopy th0 dmf)], dma := [(0, some dmR)] };
      m.unitRuns 1 .dma = true ∧ (m.core 1).dmaQ = [cm (.dcopy th0 dmf)] ∧ ((List.range 16).find? fun i => ((m.core 1).dmaAt i).isNone) = some 1) ∧
    dmM.unitRuns 1 .dma = true ∧ (dmM.core 1).dmaAt 0 = some dmR ∧ dmaOf dmR.cmd.ins = some dm1 ∧ okA dm1.src = true ∧ okA dm1.dst = true ∧
    (dmM.core 1).dmaBusy dmR = false ∧ dmR.moved ≠ dmaBytes dm1 ∧ dmM.dmaBehind 1 dmR = false ∧ (dmM.side da2.addr.toNat).remote = none ∧
    (match dmM.sourceSide da1.addr.toNat (dmaBytes dm1) true [] [] with
      | some (src, m0) => (m0.side da2.addr.toNat).remote == none && okWith (m0.writeSide 0 (dmM.side da2.addr.toNat).addr false (relayout 0 src))
          fun m1 => (m1.side da2.addr.toNat).remote == none
      | none => false) = true ∧
    rangeOf (dmM.side da2.addr.toNat).addr ≠ .t2 ∧ rangeOf (dmM.side da2.addr.toNat).addr ≠ .packed ∧
    rangeOf (dmM.side da2.addr.toNat).addr ≠ .t2packed := by decide +kernel
theorem test_witness_DmaMoves_remote :
    (dmXM 0).unitRuns 1 .dma = true ∧ ((dmXM 0).core 1).dmaAt 0 = some (dmX 0) ∧ ((dmXM 0).core 1).dmaBusy (dmX 0) = false ∧ (dmXM 0).dmaBehind 1 (dmX 0) = false ∧
    (match (dmXM 0).sourceSide da1.addr.toNat (dmaBytes dm1) true [] [] with
      | some (src, m0) => (m0.side da7.addr.toNat).remote == some 1 &&
          ((m0.memWrite 1 1 (m0.side da7.addr.toNat).addr false (relayout 0 src)).side da7.addr.toNat).remote == some 1
      | none => false) = true ∧
    (let n := dmaBytes dm1; ((dmXM n).core 1).dmaAt 0 = some (dmX n) ∧ ((dmXM n).core 1).dmaBusy (dmX n) = false) := by decide +kernel
def ipR : DmaRun := ⟨cm (.ipull th0 24 1 2 3), 0, 0, none, none, 0, [], 0⟩
def ipM (r : DmaRun) (d : AddrEnt) : Mach :=
  ((rM.wrs 1 [(.ING_RING_BASE_BASE, t1a / 4096), (.ING_RING_CFG_SLOTS, 4), (.ING_RING_CFG_SLOT_4K, 1), (.ING_RING_WR_W, 3), (.ING_RING_BASE_ENABLE, 1)]).wr .FAB_SLICE_EX 0 2 |>.store
    (t1a + 28) (leBytes 4 300)).onCore 1 fun c => { c with dma := [(0, some r)], aq := [(0, [d])] }
def ipOk (d : AddrEnt) (far : Bool) : Bool :=
  let m := ipM ipR d
  let cur := m.rd .ING_RING_CUR (1 * 64 + 1)
  let m0 := m.dropA 1 24
  let slot := m0.ringSlot 1 cur
  let used := m0.word (slot + 28) 4
  let src := m0.readSide slot used
  m.unitRuns 1 .dma && (m.core 1).dmaAt 0 == some ipR && !(m.core 1).dmaBusy ipR && decide (cur < m.rd .ING_RING_WR_W 1) && m.headA 1 24 == some d
    && lowest (m0.sideCauses slot (max 1 used) false false (some 1) ++ m0.sideCauses d.addr.toNat (max 1 used) true false (some 1)) == none
    && okWith (Dma.writeDst 1 d.addr.toNat src.1 src.2) fun m1 => (m1.side d.addr.toNat).remote.isSome == far
theorem test_witness_RemoteFaultAndIpull :
    dmM.mainUp = true ∧ dmM.frozen = false ∧ (dmM.core 1).dmaAt 0 = some dmR ∧ dmR.src.isSome = true ∧ dmM.on .MEM_ADDR_FAULT_VALID 0 = false ∧
    ipOk ⟨8192, 0⟩ false = true ∧ ipOk da7 true = true ∧
    (let r : DmaRun := { ipR with src := some da1, dst := some da7 }; let m := ipM r da7;
      m.unitRuns 1 .dma = true ∧ (m.core 1).dmaAt 0 = some r ∧ (m.core 1).dmaBusy r = false) := by decide +kernel

def ctPk : Nat := 0x40000000005
def pkM : Mach := upM.wrs 0 [(.MEM_PEAT_CFG_PAGES, 4), (.MEM_PEAT_POOL_ENABLE, 1)]
theorem test_witness_ScrubAndRmw :
    (let m := upM.wr .MEM_SCRUB_PERIOD 0 3; let a := (0x10000000040 : BitVec 44).toNat / 64 * 64;
      m.mainUp = true ∧ m.rd .MEM_SCRUB_PERIOD 0 ≠ 0 ∧ rangeOf a = .linear ∧ m.mapped a = true ∧ m.frozen = false ∧
      m.poison.get (fun _ => false) a = false ∧ m.cellError a = 0) ∧
    pkM.mainUp = true ∧ rangeOf ctPk = .packed ∧ pkM.peatOk (ctPk / 4096 * 4096) = true ∧
    okWith ((pkM.pageRead (peatUnit ctPk) (peatPage ctPk)).2.peatPut 0 false (peatUnit ctPk) (peatPage ctPk) (ctPk % 4096)
      (([0] : List Byte).map (·, false))) (fun _ => true) = true ∧
    upM.mainUp = true ∧ upM.peatOk (ctPk / 4096 * 4096) = false ∧ upM.on .MEM_ADDR_FAULT_VALID 0 = false := by decide +kernel
theorem test_witness_ScrubAndRmw_poolEmpty : pkM.mainUp = true ∧ pkM.peatOk (ctPk / 4096 * 4096) = true ∧ pkM.on .MEM_ADDR_FAULT_VALID 0 = false ∧
    fails ((pkM.pageRead (peatUnit ctPk) (peatPage ctPk)).2.peatPut 1 false (peatUnit ctPk) (peatPage ctPk) (ctPk % 4096)
      (([0] : List Byte).map (·, true))) = true := by decide +kernel
theorem test_witness_SpecialWrites : upM.ready = true ∧ upM.stepRunning = false ∧ upM.exact = true ∧ runM.ready = true ∧ runM.stepRunning = true ∧
    (36 : BitVec 6).toNat < 37 ∧ upM.aux.inLimits = true ∧ upM.rd .MEM_STK_STATUS_SPARED_PC 31 = 0x3F ∧
    (((upM.wr .MOD_FENCE 0 0xF0).wr .CORE_TEST_CTRL_RESULT 4 2).fenceBit 4 0).2 = true := by decide +kernel
theorem test_witness_Resets : upM.mayReset = true ∧ upM.aux.reset = none ∧ upM.mainUp = true ∧ upM.aux.dpEnd = none ∧
    (let m : Mach := { mainM with aux := { mainM.aux with reset := some ⟨4000, 5000, false⟩ } };
      m.aux.reset = some ⟨4000, 5000, false⟩ ∧ m.on .MOD_STATUS_PWR_GOOD 0 = true ∧ 5000 ≤ m.time) := by decide +kernel
theorem test_witness_TickGenerator :
    (let m := runM.wrs 0 [(.TICK_NEXT, 5000), (.TICK_CTRL_RUN, 1)];
      m.mainUp = true ∧ m.on .TICK_STATE_GEN_RUNNING 0 = true ∧ m.frozen = false ∧ m.cut = none ∧ m.cutHeld = false ∧ m.tick.deadline = none ∧
      m.tick.sample = none ∧ m.rd .TICK_NEXT 0 ≤ m.time ∧ m.on .TICK_CTRL_RUN 0 = true ∧ m.stepRunning = true) ∧
    (let m := upM.wr .TICK_ORIGIN 0 15000; m.mainUp = true ∧ m.on .TICK_STATE_GEN_RUNNING 0 = false ∧ m.time + 10000 ≤ m.rd .TICK_ORIGIN 0 ∧ m.stepRunning = false) ∧
    (let m := upM.wr .TICK_ORIGIN 0 14999; m.mainUp = true ∧ m.on .TICK_STATE_GEN_RUNNING 0 = false ∧ m.rd .TICK_ORIGIN 0 < m.time + 10000) := by decide +kernel
def smp : WaitSample := ⟨4500, 2000, false, []⟩
def genM : Mach := upM.wrs 0 [(.TICK_STATE_GEN_RUNNING, 1), (.TICK_NEXT, 9000)]
theorem test_witness_DeadlinesAndTimeLock :
    (let m : Mach := { genM with tick := { genM.tick with deadline := some 5000 } };
      m.on .TICK_STATE_GEN_RUNNING 0 = true ∧ m.frozen = false ∧ m.cut = none ∧ m.cutHeld = false ∧ m.rd .TICK_STATE_PHASE 0 = 0 ∧
      m.tick.deadline = some 5000 ∧ 5000 ≤ m.time) ∧
    (let m : Mach := { genM with tick := { genM.tick with sample := some smp } };
      m.on .TICK_STATE_GEN_RUNNING 0 = true ∧ m.frozen = false ∧ m.rd .TICK_STATE_PHASE 0 = 0 ∧ m.tick.sample = some smp ∧ smp.due ≤ m.time ∧
      smp.due < m.rd .TICK_NEXT 0) ∧
    (upM.wr .TICK_SYNC_MASTER 0 1).on .TICK_SYNC_MASTER 0 = true ∧
    (let m := upM.wrs 0 [(.TICK_STATE_TIME_LOCK, 1), (.TICK_TIME, 10000000)];
      m.on .TICK_STATE_TIME_LOCK 0 = true ∧ m.frozen = false ∧ m.tick.lastSync + 10000000 ≤ m.time) ∧
    (upM.wr .TICK_STATE_TIME_HOLD 0 1).on .TICK_STATE_TIME_HOLD 0 = true := by decide +kernel
theorem test_witness_SwapRequested : upM.mainUp = true ∧ upM.tick.swap = none ∧ upM.rd .CFG_SWAP_AT_AT_TICK 0 = 0 ∧
    (let m := upM.wr .CFG_SWAP_AT_AT_TICK 0 2; m.mainUp = true ∧ m.tick.swap = none ∧ m.rd .TICK_NUMBER 0 + 1 < m.rd .CFG_SWAP_AT_AT_TICK 0) ∧
    (let m : Mach := { upM with tick := { upM.tick with swap := some ⟨0, 5, none⟩ } };
      m.tick.swap = some ⟨0, 5, none⟩ ∧ m.on .TICK_STATE_GEN_RUNNING 0 = false ∧ m.frozen = false ∧ m.cut = none ∧ m.cutHeld = false) ∧
    (let m : Mach := { upM.wrS .SEQ_MEMBER_COUNT 0 17 with tick := { upM.tick with swap := some ⟨0, 5, none⟩ } };
      m.tick.swap = some ⟨0, 5, none⟩ ∧ m.swapReasons ≠ []) := by decide +kernel
def h1 : HalfReg := ⟨0x80010, 7 * 2 ^ 32 + 9, 4000⟩
/-- The register of the first: MOD_MODE of BAR0, as the host writes it whole and by halves. -/
theorem test_witness_RegisterAccesses :
    (let off := writeOffset (0x34 : BitVec 26).toNat; off = off) ∧
    upM.takes 0 (writeOffset 0x28) = true ∧ (regAt (writeOffset 0x28)).isSome = true ∧
    ((regAt (writeOffset 0x28)).elim false fun x => x.1.fields.all (fun f => !upM.refusesWrite 0 f.fld) && (x.1.fields.head?.elim false (·.fld.rowless))) = true ∧
    (let m := upM.setHalves 0 (some ⟨0x28, 5, 4000⟩) none;
      m.heldHalf 0 = some ⟨0x28, 5, 4000⟩ ∧ m.time ≤ 4000 + 1000 ∧ m.takes 0 (writeOffset 0x28) = true ∧
      ((regAt (writeOffset 0x28)).elim false fun x => x.1.fields.all fun f => !m.refusesWrite 0 f.fld) = true) ∧
    (upM.setHalves 3 (some h1) none).heldHalf 3 = some h1 ∧
    (let m := upM.setHalves 0 none (some h1); m.captured 0 = some h1 ∧ m.time ≤ h1.time + 1000) := by decide +kernel
def mkD (ty : Nat) (body : List Byte) : Desc :=
  { ring := 0, idx := 0, sqHead := 1, ty := ty, fmt1 := false, noint := false, barrier := false, tag := 5, result := 0, body := padTo 48 body, bad := false,
    busy := false, seq := 0, sent := false, poisoned := false }
def rgM : Mach := upM.wrs 0 [(.HIF_RING_CFG_ENABLE, 1), (.HIF_RING_CFG_LOG, 4), (.HIF_RING_SQ_BASE, 1), (.HIF_RING_CQ_BASE, 2), (.HIF_RING_STATUS_PHASE, 1)]
def withD (m : Mach) (ds : List Desc) : Mach := m.onHif fun h => { h with descs := ds, fetches := 9 }
theorem test_witness_RingControl : rgM.mainUp = true ∧ rgM.on .HIF_RING_CFG_ENABLE 0 = true ∧ (15 : BitVec 32).toNat < rgM.ringLen 0 ∧
    rgM.ringLen 0 ≤ (16 : BitVec 32).toNat ∧ upM.mainUp = true ∧ upM.on .HIF_RING_CFG_ENABLE 255 = false := by decide +kernel
def sqM : Mach := (rgM.onHif fun h => { h with sqTail := [(0, 2)] }).hostWrite 4096 (leBytes 1 10 ++ leBytes 63 0)
def ringBad (m : Mach) : Bool := let a := m.rd .HIF_RING_SQ_BASE 0 * 4096 + m.descBytes 0 * m.rd .HIF_RING_STATUS_SQ_HEAD 0; m.hostPoisoned a || m.hostPoisoned (a + m.descBytes 0 - 1)
theorem test_witness_RingService : sqM.hifUp = true ∧ sqM.ringWants 0 = true ∧ sqM.cqRoom 0 = true ∧ sqM.ringTurn = some 0 ∧ ringBad sqM = false ∧
    typeOk (sqM.on .HIF_RING_CFG_FMT 0) (sqM.readDesc 0 (sqM.rd .HIF_RING_STATUS_SQ_HEAD 0)).ty = true ∧
    (let m := sqM.wr .HIF_RING_STATUS_CQ_TAIL 0 15; m.hifUp = true ∧ m.ringWants 0 = true ∧ m.cqRoom 0 = false) ∧
    (let m : Mach := { sqM with hostPoison := [(64, true)] }; m.hifUp = true ∧ m.ringWants 0 = true ∧ m.cqRoom 0 = true ∧ m.ringTurn = some 0 ∧ ringBad m = true) ∧
    (let m := (rgM.wr .HIF_RING_CFG_COAL_US 0 5).setCoal 0 ⟨2, 3⟩;
      m.mainUp = true ∧ m.rd .HIF_RING_CFG_COAL_US 0 ≠ 0 ∧ (m.coal 0).count ≠ 0 ∧ m.aux.dpEnd = none ∧ m.on .MSIX_MASK (m.rd .HIF_RING_CFG_VECTOR 0) = true ∧
      (m.wr .MSIX_MASK 0 0).on .MSIX_MASK ((m.wr .MSIX_MASK 0 0).rd .HIF_RING_CFG_VECTOR 0) = false) := by decide +kernel
def barM : Mach := (upM.wrs 0 [(.HIF_STATUS_BAR4_EN, 1), (.HIF_BAR4_WIN_BASE, t1a / 2 ^ 21)]).store (t1a + 4096) [7, 7]
def hdmM : Mach := (upM.wrs 0 [(.HIF_STATUS_MODE, 1), (.HIF_STATUS_HDM_EN, 1), (.HIF_HDM_BASE, t1a / 2 ^ 28), (.HIF_HDM_SIZE, 2)]).store (t1a + 4096) [7, 7]
theorem test_witness_HostWindowsAndLink : upM.mainUp = true ∧ Hif.apertureOk (bitsAt (0x10000000000 : BitVec 64).toNat 21 23) = true ∧
    Hif.apertureOk (bitsAt (0 : BitVec 64).toNat 21 23) = false ∧ barM.ready = true ∧ barM.on .HIF_STATUS_BAR4_EN 0 = true ∧
    (let a := barM.rd .HIF_BAR4_WIN_BASE 0 * 2 ^ 21 + 4096; barM.localCauses a 8 false = [] ∧ barM.localCauses a 8 true = [] ∧ okWith ((barM.otherAccess 0).writeAny 1 a ((padTo 8 [1, 2, 3]).map (·, false))) (fun _ => true)) ∧
    hdmM.ready = true ∧ hdmM.on .HIF_STATUS_MODE 0 = true ∧ hdmM.on .HIF_STATUS_HDM_EN 0 = true ∧
    (let o := 2 * 2 ^ 28 - 8; let a := hdmM.rd .HIF_HDM_BASE 0 * 2 ^ 28 + o;
      o + 8 ≤ hdmM.rd .HIF_HDM_SIZE 0 * 2 ^ 28 ∧ hdmM.localCauses a 8 false = [] ∧ hdmM.localCauses a 8 true = [] ∧ barM.localCauses 0xF0000000000 8 true ≠ [] ∧ okWith ((hdmM.otherAccess 0).writeAny 1 a ((padTo 8 [1, 2, 3]).map (·, false))) (fun _ => true)) ∧
    (let m : Mach := { upM with pins := { upM.pins with perstLow := false } };
      m.mainUp = true ∧ m.pins.perstLow = false ∧ 2 < m.rd .MOD_BOOT_STAGE 0 ∧ 4 ≤ (6 : BitVec 3).toNat ∧ (16 : BitVec 5).toNat ∈ [1, 4, 8, 16]) ∧
    hdmM.mainUp = true := by decide +kernel
theorem test_witness_DescriptorsTurnedAway :
    (let m := withD (rgM.wr .MOD_STATUS_READY 0 0) [mkD 2 []]; m.findDesc 0 0 2 = some (mkD 2 []) ∧ m.hifUp = true ∧ m.mayStart (mkD 2 []) = true ∧ m.ready = false) ∧
    (let d : Desc := { mkD 10 [] with bad := true }; let m := withD rgM [d]; m.findDesc 0 0 10 = some d ∧ m.hifUp = true ∧ m.mayStart d = true ∧ m.ready = true) := by
  decide +kernel
def tgM : Mach := rgM.wrs 0 [(.TICK_STATE_GEN_RUNNING, 1), (.TICK_NUMBER, 3)]
def d2 : Desc := mkD 2 (leBytes 8 9)
def d9 : Desc := mkD 9 (leBytes 8 9 ++ [2, 3, 7, 7, 0, 0, 0, 0] ++ leBytes 8 9)
def d9bad : Desc := mkD 9 (leBytes 8 9 ++ [2, 3, 7, 7, 0, 0, 0, 0] ++ leBytes 8 (9 + 196605))
def d5 (t : Nat) : Desc := mkD 5 (leBytes 8 t)
def d6 : Desc := mkD 6 (leBytes 8 4096)
def stq : StepReq := ⟨d2, 6, false, 0, 0, 0, 0, 0, 0, 0, 0, 0⟩
theorem test_witness_DescriptorsAccepted_steps :
    (withD tgM [d2]).Begins 0 0 2 d2 ∧ d2.zero 8 48 = true ∧ (withD tgM [d2]).stepBusy 9 = false ∧ (withD tgM [d2]).tickMissed 9 = false ∧
    (let m : Mach := { withD tgM [d2] with armed := some stq }; m.Begins 0 0 2 d2 ∧ m.stepBusy 9 = true) ∧
    (let d := mkD 2 (leBytes 8 3); (withD tgM [d]).Begins 0 0 2 d ∧ (withD tgM [d]).stepBusy 3 = false ∧ (withD tgM [d]).tickMissed 3 = true) := by
  unfold Mach.Begins; decide +kernel
theorem test_witness_DescriptorsAccepted_replay :
    (withD tgM [d9]).Begins 0 0 9 d9 ∧ d9.zero 12 16 = true ∧ d9.zero 24 48 = true ∧ d9.at_ 8 1 ≤ 2 ∧ d9.at_ 9 1 ≤ 3 ∧ d9.at_ 10 1 / 8 % 2 = 0 ∧ d9.at_ 11 1 ≤ 7 ∧
    (withD tgM [d9]).exact = true ∧ (withD tgM [d9]).cutOutside d9 = false ∧
    (let m := withD (tgM.wr .MOD_MODE_DET 0 1) [d9]; m.Begins 0 0 9 d9 ∧ m.cutOutside d9 = false ∧ m.exact = false) ∧
    (let m := withD tgM [d9bad]; m.Begins 0 0 9 d9bad ∧ d9bad.zero 12 16 = true ∧ d9bad.zero 24 48 = true ∧ d9bad.at_ 10 1 / 8 % 2 = 0 ∧ m.cutOutside d9bad = true) := by
  unfold Mach.Begins; decide +kernel
theorem test_witness_DescriptorsAccepted_swap_ingest :
    (withD tgM [d5 9]).Begins 0 0 5 (d5 9) ∧ (d5 9).zero 8 48 = true ∧ (withD tgM [d5 9]).tick.swap = none ∧ (withD tgM [d5 9]).rd .TICK_NUMBER 0 + 1 < 9 ∧
    (withD tgM [d5 1]).Begins 0 0 5 (d5 1) ∧ 1 < (withD tgM [d5 1]).rd .TICK_NUMBER 0 + 1 ∧
    (let m : Mach := { withD tgM [d5 0] with tick := { tgM.tick with swap := some ⟨0, 1, none⟩ } }; m.Begins 0 0 5 (d5 0) ∧ m.tick.swap.isSome = true) ∧
    (withD tgM [d6]).Begins 0 0 6 d6 ∧ d6.zero 8 48 = true ∧ d6.at_ 0 8 % 64 = 0 ∧ (withD tgM [d6]).ing.jobs.length < 8 ∧
    (let m : Mach := { withD tgM [d6] with ing := { tgM.ing with jobs := List.replicate 8 ⟨d6, 4⟩ } }; m.Begins 0 0 6 d6 ∧ 8 ≤ m.ing.jobs.length) := by
  unfold Mach.Begins; decide +kernel
def d4 : Desc := mkD 4 (leBytes 8 0x8000 ++ leBytes 4 1)
def d10 : Desc := mkD 10 (leBytes 4 0x28 ++ leBytes 4 1 ++ leBytes 8 0x9000)
def cfM : Mach := withD (rgM.hostWrite 0x8000 (leBytes 4 0x28 ++ leBytes 4 0 ++ leBytes 8 5)) [d4]
theorem test_witness_ListsOfRegisters : cfM.Begins 0 0 4 d4 ∧ d4.zero 12 48 = true ∧ d4.at_ 8 4 = 1 ∧ cfM.hostPoisoned (d4.at_ 0 8) = false ∧
    cfM.hostPoisoned (d4.at_ 0 8 + 15) = false ∧ cfM.hostRead (d4.at_ 0 8) 16 = leBytes 4 0x28 ++ leBytes 4 0 ++ leBytes 8 5 ∧
    (regAt (writeOffset 0x28)).isSome = true ∧ cfM.takes 1 (writeOffset 0x28) = true ∧
    ((regAt (writeOffset 0x28)).elim false fun x => x.1.fields.all (fun f => !f.fld.protected && f.fld != .HIF_RING_CQ_BASE) && (x.1.fields.head?.elim false (·.fld.rowless))) = true ∧
    (withD rgM [d10]).Begins 0 0 10 d10 ∧ d10.zero 16 48 = true ∧ d10.at_ 0 4 % 8 = 0 ∧ d10.at_ 4 4 = 1 ∧ d10.at_ 0 4 + 8 ≤ 0x4000000 ∧ d10.result = 0 ∧
    (rgM.rd .HIF_RING_CQ_BASE 0 * 4096 + 16 * rgM.rd .HIF_RING_STATUS_CQ_TAIL 0) + 16 ≤ d10.at_ 8 8 := by unfold Mach.Begins; decide +kernel
def d11 : Desc := mkD 11 (leBytes 8 5 ++ [1])
theorem test_witness_Fences : (withD rgM [d11]).Begins 0 0 11 d11 ∧ d11.at_ 8 1 = 1 ∧ d11.zero 9 16 = true ∧ Hif.fenceWaits (withD rgM [d11]) d11 = false ∧
    (let d : Desc := { d11 with idx := 1, seq := 3 }; let m := withD rgM [{ mkD 4 [] with busy := true }, d];
      m.Begins 0 1 11 d ∧ Hif.fenceWaits m d = true) ∧
    (withD rgM [mkD 12 []]).Begins 0 0 12 (mkD 12 []) ∧ (mkD 12 []).zero 0 48 = true ∧ rgM.aux.reset = none ∧ rgM.aux.dpEnd = none := by
  unfold Mach.Begins; decide +kernel
def d3 : Desc := mkD 3 (leBytes 8 4096 ++ leBytes 8 (t1a + 64) ++ leBytes 4 64)
def d3f : Desc := mkD 3 (leBytes 8 4097 ++ leBytes 8 0xF000000000000 ++ leBytes 4 128)
/-- From and to module 1 of a slice of two. -/
def d3r : Desc := mkD 3 (leBytes 8 (2 ^ 63 + 2 ^ 44 + t1a) ++ leBytes 8 (t1a + 64) ++ leBytes 4 64)
def d3w : Desc := mkD 3 (leBytes 8 4096 ++ leBytes 8 (2 ^ 63 + 2 ^ 44 + t1a) ++ leBytes 4 64)
def dmD (d : Desc) : Mach := withD ((rgM.wr .FAB_SLICE_EX 0 2).store 4096 [1, 2, 3]) [d]
def dmCauses (d : Desc) : List Nat :=
  let c := d.dmaCmd
  (dmD d).sideCauses c.src c.len false (c.layout == 2) none ++ (dmD d).sideCauses c.dst c.len true (c.layout == 1) none
def dmStarts (d : Desc) : Prop := (dmD d).Begins 0 0 3 d ∧ d.dmaCmd.bad = false ∧ d.zero 24 48 = true
/-- The source of a DMA command has come, and its bytes can be written or sent to `far`. -/
def dmMoves (d : Desc) (m0 : Mach) (ack : Bool) (data : List Byte) (far : Option Nat) : Bool :=
  let c := d.dmaCmd
  !Hif.dmaBehind d m0 && match m0.sourceSide c.src c.len ack data (List.replicate c.len false) with
    | some (bs, m2) => (m2.side c.dst).remote == far && (far.isSome || okWith (m2.writeSide 0 (m2.side c.dst).addr (c.flags == 1) (relayout c.layout bs))
        (fun m1 => m1.hif.descs.any (·.seq == d.seq)))
    | none => false
theorem test_witness_DmaDescriptor :
    dmStarts d3 ∧ dmCauses d3 = [] ∧ ((dmD d3).side d3.dmaCmd.src).remote = none ∧ dmMoves d3 ((dmD d3).setBusy d3) false [] none = true ∧
    dmStarts d3w ∧ dmCauses d3w = [] ∧ ((dmD d3w).side d3w.dmaCmd.src).remote = none ∧ dmMoves d3w ((dmD d3w).setBusy d3w) false [] (some 1) = true ∧
    dmStarts d3r ∧ dmCauses d3r = [] ∧ ((dmD d3r).side d3r.dmaCmd.src).remote = some 1 ∧
    dmStarts d3f ∧ (dmD d3f).on .MEM_ADDR_FAULT_VALID 0 = false ∧ (lowest (dmCauses d3f)).isSome = true := by
  unfold dmStarts Mach.Begins; decide +kernel
theorem test_witness_DmaDescriptor_goes :
    (let d : Desc := { d3r with busy := true }; let m := dmD d;
      m.findDesc 0 0 3 = some d ∧ m.hifUp = true ∧ d.sent = false ∧ dmMoves d m true (List.replicate 64 7) none = true) ∧
    (let d : Desc := { d3w with busy := true, sent := true }; let m := dmD d; m.findDesc 0 0 3 = some d ∧ m.hifUp = true ∧ d.sent = true) := by
  decide +kernel
/-! Clauses met by further states. -/

def stepM (w : Wait) : Mach :=
  ((runM.wrs 0 [(.TICK_NEXT, 9000000), (.MOD_MODE_STRETCH_MAX, 2)]).setCtx k0 { ctx0 with wait := w }).setCtx (threadNum th1) { ctx0 with wait := w }
def flagW : Wait := .flag false 5 3
theorem test_witness_DeadlinesAndTimeLock_step :
    (let m : Mach := { stepM .none with tick := { runM.tick with deadline := some 5000 } };
      m.held = false ∧ m.tick.deadline = some 5000 ∧ 5000 ≤ m.time ∧ m.rd .TICK_STATE_PHASE 0 ≠ 0 ∧
      ({ m with tick := { m.tick with deadline := none } } : Mach).settleHalts.releaseBucket.moduleDone = false) ∧
    (let m : Mach := { stepM .none with tick := { runM.tick with sample := some smp } };
      let m1 := ({ m with tick := { m.tick with sample := none } } : Mach).settleHalts;
      m.tick.sample = some smp ∧ smp.due ≤ m.time ∧ smp.due < m.rd .TICK_NEXT 0 ∧ m1.moduleDone = false ∧ smp.cycle = false ∧
      m.rd .TICK_STATE_STRETCH_USED 0 < m.rd .MOD_MODE_STRETCH_MAX 0) ∧
    (let m : Mach := { (stepM .none).wr .TICK_STATE_STRETCH_USED 0 2 with tick := { runM.tick with sample := some smp } };
      smp.due < m.rd .TICK_NEXT 0 ∧ ({ m with tick := { m.tick with sample := none } } : Mach).settleHalts.moduleDone = false ∧
      m.rd .MOD_MODE_STRETCH_MAX 0 ≤ m.rd .TICK_STATE_STRETCH_USED 0) ∧
    (let w : WaitSample := ⟨4500, 2000, true, (stepM flagW).ctxs.map fun kc => (kc.1, kc.2.icount)⟩;
      let m : Mach := { stepM flagW with tick := { runM.tick with sample := some w } };
      let m1 := ({ m with tick := { m.tick with sample := none } } : Mach).settleHalts;
      m1.moduleDone = false ∧ m1.waitCycle = true ∧ m1.ctxs.map (fun kc => (kc.1, kc.2.icount)) = w.icounts) := by decide +kernel
theorem test_witness_DeadlinesAndTimeLock_sync :
    (let m := (mainM.wrs 0 [(.FAB_COORD_NX, 4), (.FAB_SLICE_EX, 4), (.FAB_STATUS_COORD_VALID, 1)]).wr .FAB_LINK_STATE 0 3;
      m.on .TICK_SYNC_MASTER 0 = false ∧ m.parentDir 1 = some 0 ∧ m.ctlLink 0 = some (0, false)) := by decide +kernel
theorem test_witness_TickGenerator_stop :
    (let m := runM.wr .TICK_NEXT 0 5000; m.mainUp = true ∧ m.held = false ∧ m.rd .TICK_NEXT 0 ≤ m.time ∧ m.on .TICK_CTRL_RUN 0 = false ∧
      m.stepRunning = true ∧ m.on .TICK_STATE_TIME_LOCK 0 = false) ∧
    upM.mainUp = true ∧ upM.stepRunning = false ∧ (upM.wr .TICK_STATE_TIME_LOCK 0 1).on .TICK_STATE_TIME_LOCK 0 = true := by decide +kernel
theorem test_witness_SwapRequested_turned_away :
    (let m : Mach := { upM with tick := { upM.tick with swap := some ⟨0, 5, none⟩ } }; m.tick.swap.isSome = true) ∧
    (let m := upM.wrs 0 [(.TICK_NUMBER, 3), (.CFG_SWAP_AT_AT_TICK, 2)];
      m.rd .CFG_SWAP_AT_AT_TICK 0 ≠ 0 ∧ m.rd .CFG_SWAP_AT_AT_TICK 0 < m.rd .TICK_NUMBER 0 + 1) ∧ upM.pathStopped = false := by decide +kernel
theorem test_witness_Resets_in_progress :
    (let m : Mach := { mainM with aux := { mainM.aux with reset := some ⟨4000, 5000, false⟩ } };
      m.aux.inLimits = true ∧ m.pins.pwrEn = true ∧ m.on .MOD_STATUS_PWR_GOOD 0 = true ∧ 4000 / 10 < m.time / 10) ∧
    (let m : Mach := { upM with tick := { upM.tick with swap := some ⟨0, 5, none⟩ } }; m.mainUp = true ∧ m.tick.swap.isSome = true) := by decide +kernel
theorem test_witness_RegisterAccesses_kinds :
    regAt (writeOffset (0x3FFFFF8 : BitVec 26).toNat) = none ∧ upM.reaches 3 = false ∧ (upM.wr .SEC_POLICY_DEBUG_LOCK 0 0).reaches 3 = true ∧
    (let m := upM.setHalves 2 (some ⟨0x28, 5, 4000⟩) none; m.heldHalf 2 = some ⟨0x28, 5, 4000⟩ ∧ m.aux.inLimits = true) := by decide +kernel
theorem test_witness_RingService_waits :
    (let m := (sqM.onHif fun h => { h with sqTail := [(0, 2), (1, 2)] }).wrs 1 [(.HIF_RING_CFG_ENABLE, 1), (.HIF_RING_CFG_LOG, 4), (.HIF_RING_CFG_PRIO, 1)];
      m.hifUp = true ∧ m.ringWants 0 = true ∧ m.ringTurn ≠ some 0) := by decide +kernel
theorem test_witness_ListsOfRegisters_list :
    (let m : Mach := { cfM with hostPoison := [(512, true)] }; m.Begins 0 0 4 d4 ∧ m.hostPoisoned (d4.at_ 0 8 + 16 * 0) = true) ∧
    ((((cfM.setBusy d4).otherAccess 1).configEntry (cfM.hostRead 0x8000 16)).2.hif.descs.any (·.seq == d4.seq)) = true := by
  unfold Mach.Begins; decide +kernel
/-- An image from Tables IMG-1 to IMG-5: its sections one after the other at multiples of 64, with their CRCs. -/
def zimBuild (id : Nat) (ss : List (Nat × List Byte)) : List Byte :=
  let n := ss.length
  let first := (64 + 32 * n + 63) / 64 * 64
  let lay := ss.foldl (fun (a : List (Nat × Nat × List Byte) × Nat) s => (a.1 ++ [(s.1, a.2, s.2)], (a.2 + s.2.length + 63) / 64 * 64)) ([], first)
  let tbl := lay.1.flatMap fun x => leBytes 4 x.1 ++ leBytes 4 (crc32 x.2.2) ++ leBytes 8 x.2.1 ++ leBytes 8 x.2.2.length ++ leBytes 8 0
  let body := lay.1.foldl (fun (a : List Byte) x => a ++ List.replicate (x.2.1 - a.length - 64) 0 ++ x.2.2) tbl
  let h0 := leBytes 4 0x5242485A ++ leBytes 2 2 ++ leBytes 1 2 ++ leBytes 1 0 ++ leBytes 2 n ++ leBytes 2 0
  let h1 := leBytes 8 (64 + body.length) ++ leBytes 8 id ++ leBytes 3 0x010101 ++ leBytes 1 0 ++ leBytes 2 1 ++ leBytes 26 0
  h0 ++ leBytes 4 (crc32 (h0 ++ h1)) ++ h1 ++ body
/-- A small image: one queue record, one group, one stream of one NOP. -/
def img0 : List Byte := zimBuild 7 [(4, leBytes 1 1 ++ leBytes 1 0 ++ leBytes 2 16 ++ leBytes 4 0 ++ leBytes 2 0 ++ [0, 0, 0, 2, 0, 0]),
  (6, leBytes 2 1 ++ leBytes 2 0 ++ leBytes 1 0 ++ leBytes 3 0 ++ leBytes 2 0 ++ leBytes 2 0 ++ leBytes 2 1 ++ leBytes 2 0 ++ leBytes 2 0 ++ leBytes 2 0 ++ leBytes 4 0),
  (1, leBytes 2 0 ++ leBytes 2 0 ++ leBytes 4 0 ++ leBytes 4 1 ++ leBytes 4 0 ++ leBytes 8 0)]
def d1 (n : Nat) : Desc :=
  mkD 1 (leBytes 8 t1a ++ leBytes 4 n ++ leBytes 1 0 ++ leBytes 1 0 ++ leBytes 2 8 ++ leBytes 8 0x9000 ++ leBytes 8 t1a ++ leBytes 8 0x40000000 ++ leBytes 8 0)
def ldM (img : List Byte) : Mach := withD (rgM.store t1a img) [d1 img.length]
def ldOk (m : Mach) (d : Desc) (p : List Byte → Mach → Bool) : Bool :=
  let m0 := (m.setBusy d).fixLayout
  let q := m0.loadReq d
  match m0.readImage q false with
  | (.ok img, m1) => !(decide (24 ≤ img.length) && fieldOf img 16 8 != q.size) && m1.hif.descs.any (·.seq == d.seq) && p img m1
  | _ => false
theorem test_witness_ImageLoads_error :
    (let img := img0.set 256 9; let d := d1 img.length; let m := ldM img;
      m.Begins 0 0 1 d ∧ loadBad d = false ∧ (m.setBusy d).fixLayout.allocBad d ((m.setBusy d).fixLayout.loadReq d).alloc = false ∧
      ldOk m d (fun img _ => fails (zimStage1 img)) = true) := by unfold Mach.Begins; decide +kernel
theorem test_witness_ImageLoads_ok :
    (let d := d1 img0.length; let m := ldM img0;
      m.Begins 0 0 1 d ∧ loadBad d = false ∧ (m.setBusy d).fixLayout.allocBad d ((m.setBusy d).fixLayout.loadReq d).alloc = false ∧
      ldOk m d (fun img m1 => okWith (zimStage1 img) fun ss => m1.sigErrs img ss false == [] &&
        okWith (m1.checkImage img ss ((m.setBusy d).fixLayout.loadReq d).alloc false) fun _ => true) = true) := by unfold Mach.Begins; decide +kernel
def defr (data : List DataRec) : Deferred := ⟨{ d1 64 with busy := true }, ⟨7, []⟩, false, data, [], [(Fld.key .FLAG 3, 9)]⟩
def ldg (data : List DataRec) : Loading := ⟨[⟨true, 3, 0, ⟨0, [0], [], []⟩⟩], [], 0, 8, defr data⟩
theorem test_witness_ImageLoads_rest :
    (let d : Desc := { d1 64 with busy := true }; let m : Mach := { withD rgM [d] with loads := [ldg []] };
      m.findDesc 0 0 1 = some d ∧ m.hifUp = true ∧ m.loads.find? (fun x => x.rest.desc.seq == d.seq) = some (ldg []) ∧
      (∀ t ∈ (ldg []).texts, t.bank = true ∧ m.rd .SEQ_BANK_SEL (t.at_ / 2) ≠ t.at_ % 2) ∧ ((ldg []).texts.map (·.at_)).Nodup ∧
      (∀ f ∈ (ldg []).rest.flags, (Fld.ofKey f.1).1 = .FLAG ∨ (Fld.ofKey f.1).1 = .MFLAG) ∧ m.stepRunning = false ∧ (ldg []).rest.data = []) ∧
    (let d : Desc := { d1 64 with busy := true }; let x := ldg [⟨4096, [1]⟩]; let m : Mach := { withD (rgM.wr .MOD_STATUS_STEP_RUNNING 0 1) [d] with loads := [x] };
      m.findDesc 0 0 1 = some d ∧ m.hifUp = true ∧ m.loads.find? (fun x => x.rest.desc.seq == d.seq) = some x ∧ m.stepRunning = true ∧ x.rest.data ≠ []) ∧
    (let x := defr [⟨4096, [1]⟩]; let m : Mach := { withD rgM [{ d1 64 with busy := true }] with deferred := [x] };
      m.deferred = [x] ∧ m.stepRunning = false ∧ m.hifUp = true ∧ m.pathStopped = false ∧ okWith (({ m with deferred := [] } : Mach).dataWrites x.desc.seq x.data) (fun m2 => m2.fab.memOut.all fun v => v.1 != x.desc.seq)) := by decide +kernel
def d7 (n : Nat) : Desc := mkD 7 (leBytes 8 t1a ++ leBytes 8 n)
def d8 : Desc := mkD 8 (leBytes 8 t1a ++ leBytes 8 64)
theorem test_witness_Checkpoints_busy :
    (let m : Mach := { withD rgM [d7 64] with armed := some stq }; m.stepAny = true ∧ m.Begins 0 0 7 (d7 64) ∧ (d7 64).zero 16 48 = true) ∧
    (let m : Mach := { withD rgM [d8] with armed := some stq }; m.stepAny = true ∧ m.Begins 0 0 8 d8 ∧ d8.zero 16 48 = true) := by
  unfold Mach.Begins; decide +kernel
theorem test_witness_Checkpoints_invalid :
    (let m := withD rgM [d8]; let m0 := m.setBusy d8; let a := (m.side (d8.at_ 0 8)).addr; let rd := m0.readAny a (d8.at_ 8 8);
      m.stepAny = false ∧ badForm (d8.at_ 0 8) = false ∧ (m.side (d8.at_ 0 8)).remote = none ∧ m.Begins 0 0 8 d8 ∧ d8.zero 16 48 = true ∧
      m0.localCauses a (max 1 (d8.at_ 8 8)) false = [] ∧ rd.1.any Prod.snd = false ∧ rd.2 = m0 ∧ m0.ckptOpen (rd.1.map Prod.fst) = none) := by
  unfold Mach.Begins; decide +kernel
def cutM (m : Mach) : Mach := { m with cut := some ⟨[0], 6000, 1⟩, step := some stq }
theorem test_witness_DebugEvents :
    (let m := upM.wrs 0 [(.DBG_FREEZE_CTRL_SRC_EN, 31), (.DBG_FREEZE_TIME, 5000), (.MOD_MODE_TRACE, 3), (.DBG_TRACE_CFG_TRIG, 32)];
      m.mainUp = true ∧ m.rd .MOD_MODE_TRACE 0 = 3 ∧ bitsAt (m.rd .DBG_TRACE_CFG_TRIG 0) 5 1 = 1 ∧ m.frozen = false ∧ m.ready = true ∧ m.pins.scan = 0 ∧ m.freezeOn 0 = true ∧ m.freezeOn 2 = true ∧ m.time ≤ m.rd .DBG_FREEZE_TIME 0) ∧
    (let m := cutM runM; m.mainUp = true ∧ m.frozen = false ∧ m.cut = some ⟨[0], 6000, 1⟩ ∧ m.step = some stq) ∧
    (let m := upM.wrs 0 [(.DBG_FREEZE_CTRL_FROZEN, 1), (.MOD_STATUS_FROZEN, 1)];
      m.mainUp = true ∧ m.ready = true ∧ m.frozen = true ∧ m.stepRunning = false ∧ m.cut = none ∧ m.cutHeld = false) ∧
    (let m := runM.wrs 0 [(.DBG_FREEZE_CTRL_FROZEN, 1), (.MOD_STATUS_FROZEN, 1)]; m.mainUp = true ∧ m.ready = true ∧ m.frozen = true ∧ m.stepRunning = true) ∧
    (let r : TraceRec := ⟨4000, 2, 5, false, false, 4, [1, 2, 3]⟩;
     let m := (upM.wrs 0 [(.MOD_MODE_TRACE, 1), (.MEM_RSV_BASE, 8), (.MEM_RSV_SIZE, 1)]).setBuf 5 ⟨[r, r], 0, 0, false, false⟩;
      m.ready = true ∧ m.mainUp = true ∧ m.tracing = true ∧ m.dbg.snapQ = [] ∧
      ((List.range 69).map fun i => (m.dbg.nextBuf + i) % 69).find? (fun q => !(m.buf q).recs.isEmpty) = some 5 ∧ (m.buf 5).recs = [r, r] ∧
      m.on .DBG_TRACE_STATUS_STOPPED 0 = false ∧ m.traceLen ≠ 0 ∧ m.frozen = false) := by decide +kernel
def fenM : Mach := (upM.wr .MOD_FENCE 0 2).wr .FAB_PORT_CFG_LINK_PORT 35 7
theorem test_witness_Tests : fenM.ready = true ∧ bitsAt (fenM.rd .MOD_FENCE 0) 1 1 = 1 ∧ fenM.on .CORE_TEST_CTRL_BUSY 1 = false ∧ bitsAt (fenM.rd .MOD_FENCE 0) 63 1 = 0 ∧
    (let m := upM.wrs 0 [(.ING_VDEC_FENCE, 2), (.ING_ADEC_FENCE, 0)];
      m.ready = true ∧ m.engineFenced 1 = true ∧ m.engineHolds 1 = false ∧ m.on .ING_ENG_TEST_BUSY 0 = false ∧ m.engineFenced 95 = false) ∧
    fenM.on .FAB_LINK_TEST_BUSY 0 = false ∧ fenM.rd .FAB_PORT_CFG_LINK_PORT 35 = 7 ∧ (fenM.wr .FAB_PORT_CFG_LINK_PORT 0 1).rd .FAB_PORT_CFG_LINK_PORT 0 ≠ 7 ∧
    (let m := fenM.wrs 35 [(.FAB_LINK_STATE, 3), (.FAB_LINK_LEVEL, 4)]; m.linkUp 35 = true ∧ m.rd .FAB_LINK_LEVEL 35 = 4) ∧
    (let m : Mach := { fenM with timers := [(1, some ⟨9000, 1⟩), (64, some ⟨9000, 1⟩), (65, some ⟨9000, 35⟩)] };
      m.mainUp = true ∧ m.frozen = false ∧ m.timer 1 = some ⟨9000, 1⟩ ∧ m.timer 64 = some ⟨9000, 1⟩ ∧ m.timer 65 = some ⟨9000, 35⟩) := by decide +kernel
theorem test_witness_Lasers :
    (let m := upM.wr .FAB_LASER_LSP1_LIGHT 0 1; m.ready = true ∧ m.mainUp = true ∧ m.on (lightFld (1 - 0)) 0 = true ∧ m.on (lightFld 0) 0 = false ∧
      m.on (lightFld 1) 0 = true ∧ m.on (lightFld (1 - 1)) 0 = false) ∧
    (let m := upM.wrs 0 [(.FAB_LASER_LSP0_LIGHT, 1), (.FAB_LASER_LSP1_LIGHT, 1)]; m.mainUp = true ∧ m.on (lightFld 0) 0 = true ∧ m.on (lightFld 1) 0 = true) ∧
    (let m := upM.wr .MOD_STATUS_NO_LIGHT 0 1; m.mainUp = true ∧ m.on .MOD_STATUS_NO_LIGHT 0 = true) := by decide +kernel
def redM : Mach :=
  (runM.wrs 16 [(.CHAN_BIND_KIND, 4)]).wrs 0 [(.RED_BUCKET_SIZE, 1), (.RED_BUCKET_BASE, t1a / 4096 + 1), (.RED_STREAM_CFG_ENABLE, 1), (.RED_BUF_ENABLE, 1), (.MOD_MODE_REDUCE, 1),
    (.RED_STREAM_CFG_BLOCK, 1), (.FAB_COORD_NX, 1), (.FAB_COORD_NY, 1), (.FAB_COORD_NZ, 1), (.FAB_SLICE_EX, 2), (.FAB_SLICE_EY, 1), (.FAB_SLICE_EZ, 1),
    (.FAB_STATUS_COORD_VALID, 1)]
def blk (k n : Nat) : RedBlk :=
  { n := 0, g := 1, k := 0, kind := k, op := 0, need := 1, cnt := n, ents := List.replicate n e1.bits, poison := [], place := [], tick := 0, released := false, bucketed := false,
    started := false, done := false, checked := 0, axes := [], level := 0, gather := false, h := 0, vals := [], members := [] }
def redW (m : Mach) (b : RedBlk) (xs : List RedSeg) : Mach := { m with red := { m.red with blks := [b], arrived := xs } }
def started (m : Mach) (b : RedBlk) : RedBlk :=
  { b with started := true, axes := m.streamAxes b.n, vals := (Reduce.entries b m).1.flatMap fun e => redLanes b e.bits, level := 0, h := 1 }
theorem test_witness_Reduction_accept :
    (let p : VecPend := ⟨cm (.vadd th0 vf), 32, e1⟩; let m := redM.onCore 1 fun c => { c with vecPipe := [p] };
      m.chKind 1 0 = 4 ∧ (m.core 1).vecPipe = [p] ∧ p.dst = 32 + (0 : BitVec 4).toNat ∧ m.unitRuns 1 .vec = true ∧ (m.redAccept 1 0 p.ent).isSome = true) ∧
    (let m := redW redM (blk 0 1) []; Reduce.works m = true ∧ m.redTile = false ∧
      m.red.blks.find? (fun b => b.n == 0 && b.g == 1 && b.kind == 0 && decide (b.need ≤ b.cnt) && !b.released && !b.bucketed) = some (blk 0 1) ∧
      m.bucketBytes (fun _ => true) + 1 * redWidth 0 ≤ m.rd .RED_BUCKET_SIZE 0 * 2 ^ 20 ∧
      (let b := blk 0 1; (Reduce.copyUnits b { b with bucketed := true, place := freeRuns 0 b.units (runsOf (m.red.blks.filter (·.bucketed))) } m).1 = true)) := by decide +kernel
theorem test_witness_Reduction_start :
    (let b := { blk 0 1 with released := true }; let m := redW redM b [];
      Reduce.works m = true ∧ (∀ e ∈ m.red.blks, e.n = 0 → e.g = 1 → e.started = true → e.done = true) ∧
      (m.red.blks.filter fun e => e.n == 0 && e.g == 1).find? (fun b => b.released && !b.started) = some b ∧ m.streamAxes 0 ≠ []) ∧
    (let b := { blk 2 1 with released := true }; let m := redW (redM.wr .FAB_SLICE_EX 0 1) b [];
      Reduce.works m = true ∧ (m.red.blks.filter fun e => e.n == 0 && e.g == 1).find? (fun b => b.released && !b.started) = some b ∧
      m.streamAxes 0 = [] ∧ b.kind ≠ 0) ∧
    (let b := { blk 0 1 with released := true }; let m := redW (redM.wr .FAB_SLICE_EX 0 1) b [];
      Reduce.works m = true ∧ (m.red.blks.filter fun e => e.n == 0 && e.g == 1).find? (fun b => b.released && !b.started) = some b ∧ m.streamAxes 0 = []) := by
  decide +kernel
/-- The block stores its one entry to T1 in a slice without an axis. -/
theorem test_witness_Reduction_results :
    (let b := { blk 0 1 with released := true }; let m0 := (redM.wr .FAB_SLICE_EX 0 1).wr .RED_STREAM_DEST 0 0x100000000; let m := redW m0 b [];
      ((m.putBlk (started m b)).redResults (started m b)).1 = true) := by decide +kernel
theorem test_witness_Reduction_hop :
    (let b := { blk 0 1 with released := true, started := true, axes := [0], h := 1, vals := (blk 0 1).ents.flatMap (redLanes (blk 0 1)) };
     let ring := redM.extent 0; let pos := redM.ringPos redM.myId 0;
     let spr := (redM.spanAt b 0).seg ring ((pos + 2 * ring - 1 - b.h) % ring);
     let x : RedSeg := ⟨0, 1, 0, 0, false, 1, 0, spr.len, List.replicate spr.len 0x3F80, false, []⟩; let m := redW redM b [x];
      Reduce.works m = true ∧ m.red.blks.find? (fun b => b.n == 0 && b.g == 1 && b.started && !b.done) = some b ∧
      m.red.arrived.find? (·.fits b) = some x ∧ x.poison = false ∧ b.gather = false ∧ m.unitRuns b.g .vec = true ∧ b.poisonIn spr = false ∧
      x.vals.length = spr.len ∧ b.level + 1 = b.axes.length) ∧
    (let b := { blk 0 1 with released := true, started := true, gather := true, axes := [0, 1], h := 0, vals := (blk 0 1).ents.flatMap (redLanes (blk 0 1)) };
     let ring := redM.extent 0; let pos := redM.ringPos redM.myId 0;
     let spg := (redM.spanAt b 0).seg ring ((pos + ring - b.h) % ring);
     let x : RedSeg := ⟨0, 1, 0, 0, true, 0, 0, spg.len, List.replicate spg.len 0x3F80, false, []⟩; let m := redW redM b [x];
      Reduce.works m = true ∧ m.red.blks.find? (fun b => b.n == 0 && b.g == 1 && b.started && !b.done) = some b ∧
      m.red.arrived.find? (·.fits b) = some x ∧ b.gather = true ∧ b.kind ≠ 2 ∧ x.vals.length = spg.len ∧ b.h + 1 < ring) := by decide +kernel
def fabM : Mach :=
  ((upM.wrs 0 [(.FAB_LINK_STATE, 3), (.FAB_LINK_LEVEL, 4), (.FAB_LINK_IN_PORT, 1), (.FAB_COORD_NX, 4), (.FAB_COORD_NY, 1), (.FAB_COORD_NZ, 1), (.FAB_SLICE_EX, 4),
    (.FAB_SLICE_EY, 1), (.FAB_SLICE_EZ, 1), (.FAB_STATUS_COORD_VALID, 1), (.MOD_STATUS_GEN, 1), (.MOD_SERIAL, 77)]).wrs 7
    [(.FAB_LINK_STATE, 3), (.FAB_LINK_LEVEL, 3), (.FAB_LINK_IN_PORT, 1)]).wrs 1 [(.FAB_LINK_STATE, 2)]
def hf (cls : BitVec 3) (seq : BitVec 32) : HFrame :=
  { cls := cls, gen := 1, detour := false, seq := seq, dMod := 0, dCore := 3, dEnd := 2, sMod := 1, sCore := 4, flow := 0, credit := 0, payload := [7], poison := false }
def fr (q : Nat) : Frame := ⟨1, 1, false, 1, q, 1, 0, 0, 0, 0, 0, 0, [1], false⟩
def lnM : Mach := fabM.onFab fun b => { b with rxSeq := [(0, 5), (7, 5)], unacked := [(0, [⟨fr 8, 0⟩, ⟨fr 9, 1⟩, ⟨fr 10, 2⟩]), (7, [⟨fr 9, 7⟩])] }
def ingD : Desc := { mkD 6 [] with busy := true }
def raw0 : List Byte := List.replicate 256 0
def it0 : IngItem :=
  { addr := t1a, len := 300, item := 1, srcId := 2, rkey := 6, inMs := 0, durMs := 0, target := 255, container := 3, es := 1, p := 0, k := 0, dest := 0, bytes := [],
    retries := 0, asked := none, failed := false, vEng := 0, aEng := 0, vRes := none, aRes := none, sent := false }
def all300 : List Byte := List.replicate 300 0
def ic : IngCur :=
  { job := ⟨ingD, 4096⟩, raw := raw0, ts := [], rank := 0, size := 1, items := [it0], arrived := [], late := [], orders := [0], k := 0, seg := 0, seq := 0, done := 0, mb := none,
    skipped := false, failedItems := 0, srcErr := false, fetchErr := false, abort := false }
def inI (m : Mach) (c : IngCur) : Mach := { m with ing := { m.ing with cur := some c } }
/-- An item of the job that holds nothing, as it comes in a frame after the mark of its first. -/
def itB : List Byte := ShufItem.bytes ⟨0, 0, 4, 1, []⟩
def us (m : Mach) (k sq : Nat) : List Unacked :=
  ((m.fab.unacked.get (fun _ => []) k).filter fun u => decide (seqDiff u.frame.seq sq < 2 ^ 31)).map fun u => ⟨u.frame, u.resent + 1⟩
theorem test_witness_LinkFrames_data : lnM.mainUp = true ∧ lnM.linkLit 0 = true ∧ lnM.linkState 0 ≠ 2 ∧ lnM.linkState 0 ≠ 9 ∧
    lnM.on .FAB_LINK_IN_PORT 0 = true ∧ lnM.fab.rxSeq.get nat0 0 = 5 ∧ (hf 1 5).seq.toNat = 5 ∧ lnM.myId = (hf 1 5).dMod.toNat ∧ lnM.aux.dpEnd = none ∧
    lnM.genClass 1 = 0 ∧ lnM.fab.flowRx.get nat0 (flowKey 4 1 1) = 0 ∧ lnM.fab.early = [] ∧
    (let m := inI lnM ic; m.ing.cur = some ic ∧ m.linkLit 0 = true ∧ m.genClass 1 = 0 ∧ ic.owns (ShufItem.ofBytes itB) = true ∧
      fieldAt itB 0 8 ≤ itB.length ∧ fieldAt (leBytes 8 1 ++ itB) 0 8 ≠ 0 ∧ ic.holds (m.rd .ING_CFG_SHUF_WINDOW 0) (ShufItem.ofBytes itB).k = true ∧
      (itB.take 20).length < fieldAt (itB.take 20) 0 8) ∧
    1 ≤ seqDiff (hf 1 6).seq.toNat 5 ∧ seqDiff (hf 1 0x80000004).seq.toNat 5 < 2 ^ 31 ∧ 2 ^ 31 ≤ seqDiff (hf 1 0x80000005).seq.toNat 5 ∧
    2 ^ 31 ≤ seqDiff (hf 1 4).seq.toNat 5 := by decide +kernel
theorem test_witness_LinkFrames_control : lnM.fab.wait = [] ∧ (lnM.fab.unacked.get (fun _ => []) 0).any (fun u => u.frame.seq == 9) = true ∧
    (us lnM 0 9).any (fun u => decide (8 ≤ u.resent)) = false ∧ (us lnM 7 9).any (fun u => decide (8 ≤ u.resent)) = true ∧ lnM.linkLit 7 = true ∧
    lnM.rd .FAB_LINK_LEVEL 7 = 3 ∧ 1 ≤ (4 : BitVec 3).toNat ∧ lnM.linkState 0 = 3 ∧ lnM.rd .FAB_LINK_LEVEL 0 = 4 ∧ lnM.on .FAB_LINK_TEST_BUSY 0 = false := by
  decide +kernel
def lsM : Mach := ((fabM.wr .FAB_LINK_STATE 2 8).wr .FAB_LINK_STATE 5 1).wr .FAB_LINK_SPARED 1 4
theorem test_witness_LinkStates : lsM.mainUp = true ∧ lsM.linkLit 0 = true ∧ lsM.linkState 0 = 3 ∧ lsM.linkState 2 = 8 ∧ lsM.linkState 0 ≠ 0 ∧ lsM.linkState 0 ≠ 10 ∧
    lsM.rd .FAB_LINK_SPARED 0 = 31 ∧ (15 : BitVec 5).toNat < 16 ∧ lsM.linkLit 1 = true ∧ lsM.rd .FAB_LINK_SPARED 1 = 4 ∧ lsM.linkState 5 = 1 ∧ (5 : BitVec 3).toNat < 6 ∧
    (let m : Mach := { lsM with aux := { lsM.aux with dpEnd := some 9000 } }; m.mainUp = true ∧ m.aux.dpEnd.isSome = true) := by decide +kernel
def idf : IdentF :=
  { serial := 99, claim := 1, valid := true, dir := 1, link := 0, levelMin := 3, levelMax := 4, fw := 0, collRev := 0, sliceId := 0, nonce := 5, echo := 6 }
def idM : Mach := fabM.onFab fun b => { b with certOk := [(0, 100), (1, 100)], nonce := [(0, 6), (1, 6)] }
theorem test_witness_Identity : idM.mainUp = true ∧ idM.linkLit 0 = true ∧ idM.fab.certOk.get nat0 0 ≠ 0 ∧ idM.fab.certOk.get nat0 0 = 1 + idf.serial.toNat ∧
    idM.linkLit 1 = true ∧ idM.fab.nonce.get nat0 1 = idf.echo.toNat ∧ idM.portPeer 1 99 = false ∧ idf.dir.toNat = dirOpp (1 / 6) := by decide +kernel
def ofs : List Offer := [⟨1, 2, 3, 4, 0, 5, 6, 7⟩, ⟨1, 2, 4, 3, 7, 5, 6, 7⟩, ⟨1, 2, 4, 3, 9, 5, 6, 7⟩]
theorem test_witness_Discovery : upM.ready = true ∧ bitsAt (0x3 : BitVec 64).toNat 1 1 = 1 ∧ bitsAt (0x1 : BitVec 64).toNat 1 1 = 0 ∧
    (let m := fabM.wr .FAB_STATUS_DISC 0 1; m.mainUp = true ∧ m.linkUp 0 = true ∧ m.rd .FAB_STATUS_DISC 0 = 1) ∧
    (let m := fabM.onFab fun b => { b with hold := some 9000, offers := ofs };
      m.fab.hold = some 9000 ∧ (⟨1, 2, 4, 3, 7, 5, 6, 7⟩ : Offer) ∈ m.fab.offers ∧
      ∀ o ∈ m.fab.offers, o = ⟨1, 2, 4, 3, 7, 5, 6, 7⟩ ∨ 3 < o.hops ∨ 3 = o.hops ∧ 7 < o.link) ∧
    (let m := (fabM.wrs 0 [(.FAB_STATUS_DISC, 2), (.FAB_PEER_PEER_ID, 3), (.FAB_PEER_ID_VALID, 1)]).onFab fun b => { b with check := some 9000 };
      m.fab.check = some 9000 ∧ m.linkUp 0 = true ∧ m.wrongClaim 0 = true) := by decide +kernel
def tmM : Mach := fabM.wrs 0 [(.TICK_STATE_GEN_RUNNING, 1), (.TICK_NUMBER, 5), (.TICK_NEXT, 7000)]
theorem test_witness_TimeFrames : tmM.mainUp = true ∧ tmM.linkUp 0 = true ∧ tmM.on .TICK_STATE_GEN_RUNNING 0 = true ∧ -25 ≤ (0xFFFFFFE7 : BitVec 32).toInt ∧
    (25 : BitVec 32).toInt ≤ 25 ∧ tmM.inSlice 1 = true ∧ (5 : BitVec 64).toNat = tmM.rd .TICK_NUMBER 0 ∧ tmM.rd .TICK_STATE_STRETCH_USED 0 < (1 : BitVec 3).toNat ∧
    tmM.rd .TICK_NUMBER 0 < (6 : BitVec 64).toNat ∧ tmM.tick.held.get nat0 6 % 8 < (1 : BitVec 3).toNat ∧ tmM.freezeOn 4 = false ∧ bitsAt (tmM.rd .DBG_TRACE_CFG_TRIG 0) 4 1 = 0 ∧ tmM.frozen = false ∧
    (let m := tmM.wr .DBG_FREEZE_CTRL_SRC_EN 0 16; m.mainUp = true ∧ m.linkUp 0 = true ∧ m.inSlice 1 = true ∧ m.freezeOn 4 = true ∧ m.frozen = false) := by decide +kernel
def igM : Mach := withD rgM [ingD]
def srcE : List Byte := leBytes 8 (t1a + 0x2000) ++ leBytes 8 300 ++ leBytes 8 0 ++ leBytes 8 2 ++ leBytes 12 0 ++ [255, 0, 0, 0]
def jBad : List Byte :=
  ([1, 4, 1, 0] ++ leBytes 4 9 ++ leBytes 8 8 ++ leBytes 8 1 ++ leBytes 8 0 ++ leBytes 8 (t1a + 0x1000) ++ leBytes 4 1 ++ leBytes 4 1 ++ leBytes 16 0 ++ leBytes 2 0 ++ [1, 0] ++
    leBytes 68 0 ++ [255, 255, 255, 255] ++ leBytes 116 0).set 77 4
def jGood : List Byte :=
  [(136, 0), (88, 1), (90, 1), (92, 1), (93, 1), (94, 1), (98, 1), (110, 0xFA), (111, 0x45)].foldl (fun (l : List Byte) (x : Nat × Byte) => l.set x.1 x.2) jBad
def jM (r : List Byte) (a : Nat) : Mach :=
  let m := (((igM.wrs 0 [(.ING_RING_BASE_ENABLE, 1), (.ING_RING_CFG_SLOT_4K, 4), (.ING_RING_CFG_SLOTS, 4)]).store t1a r).store (t1a + 0x1000) srcE).store (t1a + 0x2000) [1, 2]
  { m with ing := { m.ing with jobs := [⟨ingD, a⟩] } }
def noJobs (m : Mach) : Mach := { m with ing := { m.ing with jobs := [] } }
theorem test_witness_IngestJobs_abort :
    (let c := { ic with mb := some ⟨[], 0, none, []⟩ }; let m := inI igM c; m.ready = true ∧ m.ing.cur = some c ∧ c.mb.isSome = true) ∧
    (let m := inI igM ic; m.ready = true ∧ m.ing.cur = some ic ∧ ic.mb = none) ∧ igM.mainUp = true := by decide +kernel
theorem test_witness_IngestJobs_start :
    (let m := jM jGood (2 ^ 45); m.ingRuns = true ∧ m.ing.cur = none ∧ m.ing.jobs = [⟨ingD, 2 ^ 45⟩] ∧
      (match (noJobs m).listRead (2 ^ 45) 256 with | .error (_, m1) => m1.hif.descs.any (·.seq == ingD.seq) | _ => false) = true) ∧
    (let m := jM jBad t1a; m.ingRuns = true ∧ m.ing.cur = none ∧ m.ing.jobs = [⟨ingD, t1a⟩] ∧
      okWith ((noJobs m).listRead t1a 256) (fun x => x.2.jobBad x.1 && x.2.hif.descs.any (·.seq == ingD.seq)) = true) ∧
    (let m := jM jGood t1a; m.ingRuns = true ∧ m.ing.cur = none ∧
      okWith ((noJobs m).listRead t1a 256) (fun x => !x.2.jobBad x.1 && okWith (Ingest.lists x.1 x.2) fun y =>
        (pieces 48 (fieldAt x.1 40 4) y.1).all (sourceOk x.1) && ascending ((pieces 4 (fieldAt x.1 64 2) y.2.2.1).map leNat)) = true) := by decide +kernel
/-- A job with one item at a storage target, one read of which is under way. -/
def far (r n : Nat) : IngItem := { it0 with target := 3, len := 2 ^ 21, bytes := List.replicate n 0, retries := r, asked := some 4000 }
theorem test_witness_IngestJobs_fetch :
    (let m := inI igM ic; m.ingRuns = true ∧ ic.items[0]? = some it0 ∧ it0.fetching = true ∧ m.askReads = m ∧
      okWith (m.listRead (it0.addr + it0.fetched) it0.nextRead) (fun _ => true)) ∧
    (let i := { it0 with addr := 0x100000000000 }; let m := inI igM { ic with items := [i] };
      m.ingRuns = true ∧ i.fetching = true ∧ m.askReads = m ∧ fails (m.listRead (i.addr + i.fetched) i.nextRead) = true) := by decide +kernel
theorem test_witness_IngestJobs_far :
    (let i := far 6 5; let m := inI igM { ic with items := [i] };
      m.ingRuns = true ∧ i.fetching = true ∧ i.target ≠ 255 ∧ i.asked = some 4000 ∧ i.retries < 7 ∧ m.askReads = m) ∧
    (let i := far 7 0; let m := inI igM { ic with items := [i] };
      m.ingRuns = true ∧ i.fetching = true ∧ i.target ≠ 255 ∧ i.asked = some 4000 ∧ 7 ≤ i.retries ∧ m.askReads = m) := by decide +kernel
theorem test_witness_IngestJobs_timeout :
    let m := inI igM { ic with items := [far 7 0] }
    (m.advanceTo (4000 + 4000000)).ingRuns = true ∧ (m.advanceTo (4000 + 4000000)).ing = m.ing := by decide +kernel
def dec : Decoded :=
  { ok := true, codec := 1, start := 0, stop := 9, frames := [], pcm := [], a0 := 0, captions := true, cues := [], interlaced := false, srcW := 4, srcH := 4,
    pictures := 1, concealed := 0, luma := 1 }
def rv : List Byte := ((((((raw0.set 1 3).set 44 5).set 137 255).set 138 255).set 139 255).set 16 3).set 2 1
def rc : List Byte := ((((((raw0.set 1 4).set 44 5).set 137 255).set 138 3).set 139 255).set 16 3).set 2 1
def dit : IngItem := { it0 with bytes := all300, vRes := some dec, aRes := some dec }
def cWith (raw : List Byte) (i : IngItem) : IngCur := { ic with raw := raw, items := [i] }
theorem test_witness_IngestItems_decode :
    (let c := cWith rv it0; let m := inI igM c; m.ingRuns = true ∧ m.engineFenced 0 = false ∧ m.engineHolds 0 = false ∧ m.frozen = false ∧
      c.items.findIdx? (fun it => !it.failed && !it.sent && (jVideo c.raw && it.vEng == 0 && it.vRes.isNone)) = some 0) ∧
    (let c := cWith rv it0; let m := inI igM c; m.engineFenced 95 = false ∧ m.engineHolds 95 = false ∧
      c.items.findIdx? (fun it => !it.failed && !it.sent && (jAudio c.raw && it.aEng == 0 && it.aRes.isNone)) = some 0) ∧
    (let c := cWith rv { it0 with bytes := all300, vEng := 64, aEng := 96 };
      c.items.findIdx? (fun it => it.vEng == 63 + 1 && decide (it.len ≤ it.fetched)) = some 0 ∧
      c.items.findIdx? (fun it => it.aEng == 95 + 1 && decide (it.len ≤ it.fetched)) = some 0) := by decide +kernel
theorem test_witness_IngestItems_send :
    (let c := cWith rc dit; let m := inI igM c; m.ingRuns = true ∧ c.items.findIdx? (!·.sent) = some 0 ∧ c.ready dit = true ∧ c.abort = false ∧ c.done < jMbTotal c.raw ∧
      dit.dest = m.myId ∧ c.holds (m.rd .ING_CFG_SHUF_WINDOW 0) dit.k = true ∧ c.k ≤ dit.k ∧ c.arrived.get (fun _ => none) dit.k = none) ∧
    (let i := { dit with dest := 3 }; let c := cWith rc i; let m := inI igM c; c.ready i = true ∧ i.dest ≠ m.myId) ∧
    (let i := { dit with k := 257 }; let c := cWith rc i; let m := inI igM c; c.ready i = true ∧ i.dest = m.myId ∧
      c.holds (m.rd .ING_CFG_SHUF_WINDOW 0) i.k = false) ∧
    (let c := { ic with raw := rc, arrived := [(0, some ⟨0, 0, 0, 1, []⟩)] };
      c.mb = none ∧ c.done < jMbTotal c.raw ∧ (c.pick c.turns ⟨[], c.late, 0, c.k, c.seg, none, false⟩).isSome = true ∧ (jRing c.raw ≠ 255 ∨ jGroups c.raw ≠ [])) := by
  decide +kernel
def rngM : Mach := igM.wrs 0 [(.ING_RING_BASE_ENABLE, 1), (.ING_RING_BASE_BASE, 2 ^ 28), (.ING_RING_CFG_SLOT_4K, 4), (.ING_RING_CFG_SLOTS, 4)]
def mb0 : MbOut := ⟨List.replicate 8 1, 0, none, [⟨3, 0, 1, 0⟩]⟩
theorem test_witness_IngestItems_ring :
    (let c := { ic with raw := rc, mb := some mb0 }; let m := inI rngM c; let w := m.rd .ING_RING_WR_W 0;
      m.ingRuns = true ∧ c.mb = some mb0 ∧ mb0.ring ≠ 255 ∧ mb0.written = none ∧
      ((m.readers 0).all fun r => decide (w < m.rd .ING_RING_CUR r + m.rd .ING_RING_CFG_SLOTS 0)) = true ∧ m.listCauses (m.ringSlot 0 w) mb0.bytes.length = [] ∧
      okWith (m.writeAny 3 (m.ringSlot 0 w) (mb0.bytes.map (·, false))) (fun _ => true) ∧ mb0.parts.all (fun p => decide (17 + p.size ≤ p.sent)) = false) ∧
    (let m := (rngM.wr .ING_RING_WR_W 0 4).wr .ING_RING_READERS 0 3;
      ((m.readers 0).all fun r => decide (m.rd .ING_RING_WR_W 0 < m.rd .ING_RING_CUR r + m.rd .ING_RING_CFG_SLOTS 0)) = false) ∧
    (let c := { ic with raw := rc, mb := some mb0 }; let m := inI (rngM.wr .ING_RING_BASE_BASE 0 0xFFFFFFFF) c;
      (lowest (m.listCauses (m.ringSlot 0 0) mb0.bytes.length)).isSome = true ∧ m.hif.descs.any (·.seq == c.job.desc.seq) = true) := by decide +kernel
def mcM : Mach :=
  (igM.wrs 0 [(.ING_RING_BASE_ENABLE, 1), (.ING_RING_BASE_BASE, 2 ^ 28), (.ING_RING_CFG_SLOT_4K, 4), (.ING_RING_CFG_SLOTS, 4), (.ING_MC_SKEW_MAX, 2), (.ING_RING_WR_W, 2),
    (.ING_MC_POLICY, 2), (.ING_MC_RING_EN, 1)]).wr .CHAN_BIND_KIND 18 3
def mp0 : McPart := ⟨0, 4352, 1, 3⟩
def mbo : MbOut := ⟨List.replicate 8 1, 0, some 0, [mp0]⟩
def icm : IngCur := { ic with mb := some mbo }
theorem test_witness_Multicast :
    (let m := inI mcM icm; m.ingRuns = true ∧ m.ing.cur = some icm ∧ mbo.parts.find? (·.group == 0) = some mp0 ∧ mp0.sent < 17 + mp0.size ∧
      ¬(m.detachOn 0 = true ∧ mbo.written = none) ∧ (m.attached 0).any (m.endFull 0) = false ∧ m.attached 0 = [18]) ∧
    (let e : ChEnt := ⟨⟨5, false⟩, 0, 0, false, true⟩; let m := inI (mcM.onCore 1 fun x => { x with ch := [(2, [e, e])] }) icm;
      (m.attached 0).any (m.endFull 0) = true ∧ m.chKind 1 2 = 3 ∧ m.chGroup 1 2 = 0) ∧
    (let m0 := inI mcM icm; let m : Mach := { m0 with ing := { m0.ing with full := [(18, some 100)] } };
      m.ing.full.get (fun _ => none) (endKey 1 2) = some 100 ∧ m.chKind 1 2 = 3 ∧ m.chGroup 1 2 = 0 ∧ m.detachOn 0 = true) ∧
    (let m0 := inI (mcM.wr .ING_MC_DET 0 2) icm; let m : Mach := { m0 with ing := { m0.ing with sect := [(sectKey 0 0 0, 1)], feed := [(18, 16)] } };
      m.chKind 1 2 = 3 ∧ bitsAt (m.rd .ING_MC_DET 0) 1 1 = 1 ∧ ((m.core 1).chan 2).all (·.fed) = true ∧ ((m.core 1).chan 2).length < m.rd .ING_MC_SKEW_MAX 0 ∧
      m.rd .ING_RING_CUR (m.rd .ING_MC_RING 0 * 64 + 1) < m.rd .ING_RING_WR_W (m.rd .ING_MC_RING 0) ∧ m.ing.sect.get nat0 (sectKey 0 0 0) ≠ 0 ∧
      m0.ing.sect.get nat0 (sectKey 0 0 0) = 0) := by decide +kernel
/-! Clauses of the frames met by further states. -/

theorem test_witness_LinkStates_timer :
    (let m : Mach := { lsM with aux := { lsM.aux with dpEnd := some 26000 } }; let t := 26000 - 10000 * ((26000 - m.time - 1) / 10000);
      m.mainUp = true ∧ m.time < t ∧ t < 26000) ∧
    (let m : Mach := { lsM with aux := { lsM.aux with dpEnd := some 9000 } }; 9000 ≤ 9000 - 10000 * ((9000 - m.time - 1) / 10000) ∧ m.aux.dpEnd = some 9000) := by
  decide +kernel
theorem test_witness_Identity_timer : idM.aux.inLimits = true ∧
    (((List.range 36).filter idM.linkLit).map fun j => idM.fab.identAt.get nat0 j + 100000000).min? = some 100000000 := by decide +kernel
theorem test_witness_TimeFrames_sync :
    (let m0 := tmM.headerCredit 0 0; m0.linkUp 0 = true ∧ m0.on .TICK_STATE_GEN_RUNNING 0 = true ∧ m0.held = false ∧ m0.tick.ended = false ∧
      m0.tick.past.get nat0 4 < (2 : BitVec 3).toNat ∧ (4 : BitVec 64).toNat < m0.rd .TICK_NUMBER 0 ∧ m0.inSlice 1 = true) ∧
    (let m0 := fabM.headerCredit 0 0; m0.linkUp 0 = true ∧ m0.on .TICK_STATE_GEN_RUNNING 0 = false ∧ m0.tick.locked = false ∧ (3 : BitVec 18).toNat ≠ m0.myId) ∧
    (let m0 := (tmM.wr .DBG_FREEZE_CTRL_FROZEN 0 1).headerCredit 0 0; m0.held = true ∧ m0.tick.ended = false) := by decide +kernel
theorem test_witness_Discovery_frames :
    (let m0 := (fabM.wr .FAB_STATUS_DISC 0 1).headerCredit 0 0; m0.linkUp 0 = true ∧ m0.rd .FAB_STATUS_DISC 0 = 1) := by decide +kernel
def mrec (ty : Nat) (signed : Bool) (body : List Byte) : List Byte :=
  leBytes 1 ty ++ leBytes 1 1 ++ leBytes 2 0 ++ leBytes 4 (24 + bodyBytes ty + if signed then 104 else 0) ++ leBytes 8 0 ++ leBytes 8 5 ++
    padTo (bodyBytes ty) body ++ (if signed then leBytes 2 1 ++ List.replicate 102 0 else [])
def kM : Mach :=
  ((upM.wrs 0 [(.FAB_STATUS_COORD_VALID, 1), (.FAB_COORD_NX, 2), (.FAB_COORD_NY, 1), (.FAB_COORD_NZ, 1), (.SEC_MBOX_STATUS_BUSY, 1),
    (.SEC_SVN_KINDLING_BOOTED, 9), (.SEC_SVN_CORDWOOD_BOOTED, 70)]).wrs 1 [(.SEC_KEY_VALID, 1), (.SEC_KEY_USAGE, 15)]).wr .OPE_REPAIR_FIELD_USED 63 2
def kQ (q : MboxReq) (m : Mach := kM) : Mach := m.onAux fun a => { a with mbox := some q }
def qGrant : MboxReq := ⟨1, mrec 1 true [1, 2, 3, 4, 0, 0, 0, 1, 1, 1]⟩
def qFar : MboxReq := ⟨1, mrec 1 true [1, 2, 3, 4, 9, 0, 0, 1, 1, 1]⟩
def qBare : MboxReq := ⟨1, mrec 1 false [1, 2, 3, 4, 0, 0, 0, 1, 1, 1]⟩
def qPol : MboxReq := ⟨2, mrec 2 true [1, 1, 1, 2, 0xE8, 3]⟩
def qKey : MboxReq := ⟨3, mrec 3 true [7, 15, 0, 0, 0, 0, 0, 0, 9]⟩
def qKeyU : MboxReq := ⟨3, mrec 3 false [1, 15, 0, 0, 0, 0, 0, 0, 9]⟩
def qFuse : MboxReq := ⟨4, mrec 4 false [3, 1, 127]⟩
def qFull : MboxReq := ⟨4, mrec 4 false [63, 0, 0]⟩
def qSvn : MboxReq := ⟨5, mrec 5 false []⟩
theorem test_witness_KindlingRequests_signed : kM.kindling = true ∧ (kQ qGrant).aux.mbox = some qGrant ∧ qBare.ty = 1 ∧ qBare.formed true = false ∧ qGrant.formed true = true ∧
    (kQ qGrant).sigResult qGrant 1 true = 0 ∧ (kQ qGrant).sigResult qGrant 1 false = 2 ∧ (kQ qGrant (kM.wr .MOD_SERIAL 0 1)).sigResult qGrant 1 true = 1 ∧
    ((kQ qGrant).onFlash fun f => { f with rseq := [(1, 5)] }).sigResult qGrant 1 true = 3 ∧ kM.on .FAB_STATUS_COORD_VALID 0 = true := by decide +kernel
theorem test_witness_KindlingRequests_grant :
    (let o := fun i => qGrant.body (4 + i) 1
     (axisFits (o 0) (o 3) (kM.rd .FAB_COORD_NX 0) && axisFits (o 1) (o 4) (kM.rd .FAB_COORD_NY 0) && axisFits (o 2) (o 5) (kM.rd .FAB_COORD_NZ 0)) = true) ∧
    axisFits (qFar.body 4 1) (qFar.body 7 1) (kM.rd .FAB_COORD_NX 0) = false ∧ qFar.formed true = true ∧ (kQ qFar).sigResult qFar 1 true = 0 ∧
    qPol.formed true = true ∧ (kQ qPol).sigResult qPol 2 true = 0 ∧ qPol.body 0 1 = 1 ∧ qPol.body 1 1 = 1 ∧ qPol.body 2 1 = 1 ∧ qPol.body 3 1 = 2 ∧
    qPol.body 4 2 = 1000 := by decide +kernel
theorem test_witness_KindlingRequests_key : qKey.body 0 1 = 7 ∧ qKey.body 1 1 = 15 ∧ qKeyU.body 0 1 = 1 ∧
    (let m := kQ qKey (kM.wr .SEC_STATUS_OWNED 0 1); m.on .SEC_STATUS_OWNED 0 = true ∧ qKey.formed true = true ∧ m.sigResult qKey 3 true = 0) ∧
    kM.on .SEC_STATUS_OWNED 0 = false ∧ qKeyU.formed false = true := by decide +kernel
theorem test_witness_KindlingRequests_fuse : qFuse.formed false = true ∧ qFuse.body 0 1 = 3 ∧ qFuse.body 1 1 = 1 ∧ qFuse.body 2 1 = 127 ∧
    (kQ qFuse).rd .OPE_REPAIR_FIELD_USED 3 < 2 ∧ (st (kQ qFuse)).sparesLeft 3 1 ≠ 0 ∧ qFull.formed false = true ∧ qFull.body 0 1 = 63 ∧
    2 ≤ (kQ qFull).rd .OPE_REPAIR_FIELD_USED 63 ∧ (kQ qFuse).aux.mbox = some qFuse ∧ qSvn.formed false = true ∧ (kQ qSvn).kindling = true := by decide +kernel
def rec0 : List Byte := leBytes 1 6 ++ leBytes 1 1 ++ leBytes 2 0 ++ leBytes 4 32 ++ leBytes 16 0 ++ leBytes 8 0
def cw : Mach := upM.onAux fun a => { a with resident := some ⟨⟨1, 0, true, []⟩, 5⟩, wdog := some 9000 }
def qAct (n : Byte) : MboxReq := ⟨6, rec0.set 24 n⟩
theorem test_witness_CordwoodLife : cw.kindling = true ∧ (qAct 0).formed false = true ∧ (qAct 0).body 0 1 = 0 ∧ (qAct 1).formed false = true ∧ (qAct 1).body 0 1 = 1 ∧
    cw.imgPasses 0 = true ∧ cw.imgPasses 1 = false ∧ cw.aux.restarting = false ∧ cw.mainUp = true ∧ cw.on .SEC_STATUS_CORDWOOD_FAILED 0 = false ∧
    cw.on .MOD_STATUS_CORDWOOD_UP 0 = true ∧ cw.aux.wdog = some 9000 ∧
    ((cw.aux.expiries.filter fun e => decide (9000 < e + 60000000000)) ++ [9000]).length < 4 ∧
    4 ≤ (([1, 2, 3].filter fun e => decide (9000 < e + 60000000000)) ++ [9000]).length := by decide +kernel
theorem test_witness_CordwoodLife_restart : (cw.onAux fun a => { a with restarting := true }).aux.restarting = true ∧ cw.mainUp = true := by decide +kernel
def fi : FlashImg := ⟨2, 0, true, [7]⟩
def mg (n : Nat) : Mach := { upM with mgmt := { upM.mgmt with stage := n }, flash := { upM.flash with patchCopy := some fi } }
theorem test_witness_Management : (mg 0).kindling = true ∧ 1 ≤ (mg 1).mgmt.stage ∧ 2 ≤ (mg 2).mgmt.stage ∧ 3 ≤ (mg 3).mgmt.stage ∧ (mg 2).mgmt.stage < 3 ∧
    1 ≤ (6 : BitVec 8).toNat ∧ (6 : BitVec 8).toNat ≤ 6 ∧ (mg 3).on .MOD_STATUS_CORDWOOD_UP 0 = true ∧ (mg 3).rd .SEC_STATUS_IMAGE 0 = 0 ∧
    ((mg 3).wr .SEC_STATUS_IMAGE 0 1).rd .SEC_STATUS_IMAGE 0 = 1 ∧ (mg 3).flash.patchCopy = some fi ∧ fi.signed = true ∧
    (mg 3).rd .SEC_SVN_KINDLING_FUSED 0 ≤ fi.svn ∧ (mg 3).pins.scan = 0 ∧ ((mg 1).wr .MOD_STATUS_CORDWOOD_UP 0 0).on .MOD_STATUS_CORDWOOD_UP 0 = false ∧
    (mg 3).aux.inLimits = true := by decide +kernel
def stg (n : Nat) : Mach := mainM.wrs 0 [(.MOD_BOOT_STAGE, n)]
theorem test_witness_PowerUp : auxM.aux.inLimits = true ∧ Mach.reset.aux.inLimits = false ∧ 10800 ≤ (10800 : BitVec 16).toNat ∧ (13200 : BitVec 16).toNat ≤ 13200 ∧
    (let m := Mach.reset.onAux fun a => { a with inLimits := true }; m.aux.inLimits = true ∧ m.on .SEC_STATUS_KINDLING_UP 0 = false ∧
      Power.selectImage { m with flash := { m.flash with cordA := none, cordB := none } } = none) ∧
    auxM.mayPower = true ∧ auxM.inStage = false ∧ (stg 8).inStage = true ∧ (stg 8).rd .MOD_BOOT_STAGE 0 = 8 ∧ (stg 1).inStage = true ∧ (stg 2).inStage = true ∧
    (stg 3).inStage = true ∧ (stg 4).inStage = true ∧ (stg 5).inStage = true ∧ (stg 6).inStage = true ∧ (stg 7).inStage = true := by decide +kernel
theorem test_witness_PowerUp_load : ((stg 7).loadCordwood true true).isSome = true ∧ ((stg 7).loadCordwood false false).isNone = true := by decide +kernel
def pn (f : Pins → Pins) (m : Mach := upM) : Mach := { m with pins := f m.pins }
def rst0 : ModReset := ⟨4000, 9000, true⟩
theorem test_witness_PinResets :
    (let m := pn fun p => { p with perstLow := false }; m.pins.scan = 0 ∧ m.aux.reset = none ∧ m.on .MOD_STATUS_PWR_GOOD 0 = true ∧ m.pins.perstLow = false ∧
      m.mayReset = true ∧ m.pins.pwrEn = true) ∧
    (let m := pn (fun p => { p with perstLow := true }) (upM.onAux fun a => { a with reset := some rst0 });
      m.pins.perstLow = true ∧ m.aux.inLimits = true ∧ m.aux.reset = some rst0 ∧ m.on .MOD_STATUS_PWR_GOOD 0 = true) ∧
    (let m := pn fun p => { p with scan := 1 }; m.pins.scan ≠ 0 ∧ m.on .MOD_STATUS_PWR_GOOD 0 = true ∧ m.aux.reset = none ∧ m.pins.pwrEn = true) := by decide +kernel
theorem test_witness_Supplies : Power.monitor upM = true ∧ (40999 : BitVec 16).toNat < 41000 ∧ upM.on .PWR_STATUS_WARN 0 = false ∧ upM.on .MOD_STATUS_DIP_ACTIVE 0 = false ∧
    (upM.wr .MOD_STATUS_DIP_ACTIVE 0 1).on .MOD_STATUS_DIP_ACTIVE 0 = true ∧ (upM.wr .PWR_STATUS_WARN 0 1).on .PWR_STATUS_WARN 0 = true ∧
    (37999 : BitVec 16).toNat < 38000 ∧ upM.aux.reset = none ∧ (upM.onAux fun a => { a with dipEnd := some 6000 }).aux.dipEnd = some 6000 ∧
    upM.aux.inLimits = true ∧ upM.on .MOD_STATUS_PWR_GOOD 0 = true ∧ upM.pins.pwrEn = true ∧ (9 : BitVec 4).toNat < 10 ∧ (36 : BitVec 6).toNat < 37 ∧
    tempTrip 36 ≤ (420 : BitVec 16).toInt ∧ tempTrip 4 ≤ (460 : BitVec 16).toInt := by decide +kernel
theorem test_witness_Supplies_main : upM.mainUp = true ∧
    (let m := (upM.wrs 9 [(.PWR_RAIL_PHASES, 3), (.PWR_RAIL_FAILED, 1)]); (2 : BitVec 4).toNat < m.rd .PWR_RAIL_PHASES 9 ∧ onesOf (m.rd .PWR_RAIL_FAILED 9) = 1 ∧
      bitsAt (m.rd .PWR_RAIL_FAILED 9) 2 1 = 0) ∧ bitsAt upM.aux.droop 3 1 = 0 ∧ bitsAt (upM.onAux fun a => { a with droop := 9 }).aux.droop 3 1 = 1 ∧
    upM.on .PWR_STATUS_REF_LOST 0 = false ∧ tempOn 36 ≤ (380 : BitVec 16).toInt ∧ (List.replicate 37 (359 : BitVec 16)).length = 37 ∧
    ((List.range 37).all fun i => decide (((List.replicate 37 (359 : BitVec 16)).getD i 0).toInt < tempOff i)) = true := by decide +kernel
theorem test_witness_RollbackCounters : (match exec .svnCommit (st (kQ qSvn)) with | .next t => decide (t.fuses.kindling = 9 ∧ t.fuses.cordwood = 64) | _ => false) = true ∧
    (st (kQ qSvn)).fuses.kindling ≤ 64 ∧ (st (kQ qSvn)).fuses.cordwood ≤ 64 := by decide +kernel
/-- A Kindling whose patch in flash passes. -/
def bootM : Mach := { Mach.reset with aux := { Mach.reset.aux with inLimits := true }, flash := { Mach.reset.flash with patchNext := some fi } }
theorem test_witness_RollbackCounters_patch : bootM.on .SEC_STATUS_PATCH_VALID 0 = false ∧
    (match exec .kindlingBootDone (st bootM) with | .next t => t.m.on .SEC_STATUS_PATCH_VALID 0 | _ => false) = true := by decide +kernel
theorem test_witness_RollbackCounters_resident :
    (match exec .activate (st (kQ (qAct 0) cw)) with | .next t => t.m.aux.resident.isSome | _ => false) = true := by decide +kernel
theorem test_witness_DecodeOfEncode : threadOf (.nop th0) = some th0 ∧ threadOf (.opu th1 0 1 0 1 0 0 1024) = some th1 := by decide
theorem test_witness_EncodeOfDecode : zviDecode th1 [0x1041800000000000] = some (.srun th1 0 24 0) := by decide +kernel
end Sys2Proof.Tests
end

/-! NOP, YIELD, LOOP, ENDL and PHASE (R171, R174, R181, R183, R185): each issues and changes at most the context of its own thread. -/
namespace Sys2Proof.Machine

/-! Effects on one context. -/

/-- `m1` is `m` but for context `k`, which has become `c`. -/
structure Mach.OnlyCtx (m m1 : Mach) (k : Nat) (c : Ctx) : Prop where
  ctx_self : m1.ctx k = c
  ctx_ne : ∀ j, j ≠ k → m1.ctx j = m.ctx j
  rest : m1 = { m with ctxs := m1.ctxs }

theorem Mach.OnlyCtx.refl {m : Mach} {k : Nat} {c : Ctx} (hc : m.ctx k = c) : m.OnlyCtx m k c := ⟨hc, fun _ _ => rfl, rfl⟩

theorem Mach.OnlyCtx.onCtx {m : Mach} {k : Nat} {h : Ctx → Ctx} {c : Ctx} (hc : h (m.ctx k) = c) :
    m.OnlyCtx (m.onCtx k h) k c where
  ctx_self := by rw [Mach.ctx_onCtx, if_pos rfl, hc]
  ctx_ne j hj := by rw [Mach.ctx_onCtx, if_neg hj]
  rest := rfl

section
variable {m : Mach} {k : Nat} {c : Ctx} {l : LoopLvl} {rest : List LoopLvl} (hc : m.ctx k = c)
include hc

/-- R181: an ENDL whose loop goes on counts the iteration and returns to the body. -/
theorem endLoop_repeats (hl : c.loops = l :: rest) (hn : l.count = 0 ∨ l.iter + 1 < l.count) :
    m.OnlyCtx (endLoop k m) k { c with pc := l.start, loops := { l with iter := l.iter + 1 } :: rest } :=
  .onCtx (by simp only [hc, hl, if_pos hn])

/-- R181: an ENDL after the last iteration pops the level. -/
theorem endLoop_pops (hl : c.loops = l :: rest) (hn : ¬(l.count = 0 ∨ l.iter + 1 < l.count)) :
    m.OnlyCtx (endLoop k m) k { c with loops := rest } :=
  .onCtx (by simp only [hc, hl, if_neg hn])

/-- An ENDL without a loop level leaves its context: a choice of the model, as Zheber rejects such a stream (R181). -/
theorem endLoop_unmatched (hl : c.loops = []) : m.OnlyCtx (endLoop k m) k c :=
  .onCtx (by simp only [hc, hl])

end

/-! A control instruction whose effect is on its own context. -/

/-- From `m` to `m'` thread `k` has issued one instruction and stands at `pc` with the loop levels `ls`; it runs on, with its pending
flag operations as they were, and no core has changed but by the use of the thread's cache line. -/
def Mach.GoesOnAt (m m' : Mach) (k pc : Nat) (ls : List LoopLvl) : Prop :=
  m.Issued m' k ∧ (∀ g, m'.core g = (m.lineUsed k).core g) ∧ (m'.ctx k).pc = pc ∧ (m'.ctx k).loops = ls ∧
  (m'.ctx k).running = true ∧ (m'.ctx k).defer = (m.ctx k).defer

/-- R177: the context of a thread that has issued one instruction and stands at `pc` with the loop levels `ls`. -/
def Ctx.goneOn (c : Ctx) (now pc : Nat) (ls : List LoopLvl) : Ctx :=
  { c with icount := (c.icount + 1) % 2 ^ 48, pc := pc, wait := .none, since := now, loops := ls }

theorem Mach.ctx_issue_self (m : Mach) (k w : Nat) :
    (m.issue k w).ctx k = (m.ctx k).goneOn m.time ((m.ctx k).pc + w) (m.ctx k).loops := by
  rw [Mach.ctx_issue, if_pos rfl]; rfl

/-- An effect that moves the pc and the loop levels of the issuing context alone. -/
theorem control_goesOnAt {t : ThreadId} {f : Nat → Mach → Mach} {m : Mach} {pc : Nat} {ls : List LoopLvl}
    (hi : m.canIssue (threadNum t) = true)
    (he : (m.issue (threadNum t) 1).OnlyCtx (f (threadNum t) (m.issue (threadNum t) 1)) (threadNum t)
      ((m.ctx (threadNum t)).goneOn m.time pc ls)) :
    m.GoesOnAt (control t f m) (threadNum t) pc ls := by
  rw [control_eq t f m hi]
  generalize threadNum t = k at *
  obtain ⟨hself, hne, hrest⟩ := he
  obtain ⟨-, hpc, hloops, hrun, hdefer, -⟩ := Mach.ctx_issued (f k (m.issue k 1)) k k
  rw [hself] at hpc hloops hrun hdefer
  refine ⟨.of (by rw [hself, Mach.ctx_issue_self]; rfl) hne (fun g i => ?rd) ?mem ?poison ?hurt, fun g => ?core, hpc, hloops,
    hrun.trans (Mach.running_of_canIssue hi), hdefer⟩
  case rd => rw [hrest]; rfl
  case mem => rw [hrest]; exact Mach.mem_issue m k 1
  case poison => rw [hrest]; exact Mach.poison_issue m k 1
  case hurt => rw [hrest, Mach.issue_eq]
  case core => rw [Mach.core_issued, hrest]; exact Mach.core_issue m k 1 g

section
variable {t : ThreadId} {m : Mach} (hi : m.canIssue (threadNum t) = true)
include hi

/-- An instruction without an effect of its own goes on at the next word: NOP (R174) and YIELD (R183). -/
theorem control_noEffect_goesOnAt :
    m.GoesOnAt (control t (fun _ m => m) m) (threadNum t) ((m.ctx (threadNum t)).pc + 1) (m.ctx (threadNum t)).loops :=
  control_goesOnAt hi (.refl (Mach.ctx_issue_self ..))

/-- R181: LOOP pushes a level whose body begins at the next word, with L = 0. -/
theorem loop_goesOnAt (n : BitVec 16) :
    m.GoesOnAt (Control.loop t n m) (threadNum t) ((m.ctx (threadNum t)).pc + 1)
      (⟨(m.ctx (threadNum t)).pc + 1, n.toNat, 0⟩ :: (m.ctx (threadNum t)).loops) :=
  control_goesOnAt hi (.onCtx (by rw [Mach.ctx_issue_self]; rfl))

theorem endl_repeats {l : LoopLvl} {rest : List LoopLvl} (hl : (m.ctx (threadNum t)).loops = l :: rest)
    (hn : l.count = 0 ∨ l.iter + 1 < l.count) :
    m.GoesOnAt (Control.endl t m) (threadNum t) l.start ({ l with iter := l.iter + 1 } :: rest) :=
  control_goesOnAt hi (endLoop_repeats (Mach.ctx_issue_self ..) hl hn)

theorem endl_pops {l : LoopLvl} {rest : List LoopLvl} (hl : (m.ctx (threadNum t)).loops = l :: rest)
    (hn : ¬(l.count = 0 ∨ l.iter + 1 < l.count)) :
    m.GoesOnAt (Control.endl t m) (threadNum t) ((m.ctx (threadNum t)).pc + 1) rest :=
  control_goesOnAt hi (endLoop_pops (Mach.ctx_issue_self ..) hl hn)

theorem endl_unmatched (hl : (m.ctx (threadNum t)).loops = []) :
    m.GoesOnAt (Control.endl t m) (threadNum t) ((m.ctx (threadNum t)).pc + 1) [] :=
  hl ▸ control_goesOnAt hi (endLoop_unmatched (Mach.ctx_issue_self ..) hl)

/-- R185: PHASE goes on at the next word where its test passes, and at its target otherwise. -/
theorem phase_goesOnAt (pset : BitVec 3) (sel : BitVec 2) (target : BitVec 20) :
    m.GoesOnAt (Control.phase t pset sel target m) (threadNum t)
      (if m.phaseTest (threadNum t) pset.toNat sel.toNat then (m.ctx (threadNum t)).pc + 1 else target.toNat)
      (m.ctx (threadNum t)).loops := by
  refine control_goesOnAt hi ?_
  rw [Mach.phaseTest_issue]
  split
  · exact .refl (Mach.ctx_issue_self ..)
  · exact .onCtx (by rw [Mach.ctx_issue_self]; rfl)

end

/-! The test of PHASE. -/

/-- R171, R185: the current phase is of the set, and its tick index lies in the window (OFF, LEN) where SEL asks. -/
def Mach.PhaseAllows (m : Mach) (pset : BitVec 3) (sel : BitVec 2) (w : Nat × Nat) : Prop :=
  m.rd .TICK_STATE_PHASE 0 ≠ 0 ∧ bitsAt pset.toNat (m.rd .TICK_STATE_PHASE 0 - 1) 1 = 1 ∧
  w.1 ≤ m.phaseIndex ∧ m.phaseIndex < w.1 + w.2 ∧
  (sel = 1 → m.phaseIndex = w.1) ∧ (sel = 2 → m.phaseIndex + 1 = w.1 + w.2)

/-- SEL narrows the window to its first tick or to its last. -/
theorem selTest_iff (sel : BitVec 2) (i off len : Nat) :
    (if sel.toNat = 1 then i == off else if sel.toNat = 2 then i + 1 == off + len else true) = true ↔
      (sel = 1 → i = off) ∧ (sel = 2 → i + 1 = off + len) := by
  have hfirst : sel = 1 ↔ sel.toNat = 1 := by bv_omega
  have hlast : sel = 2 ↔ sel.toNat = 2 := by bv_omega
  rw [hfirst, hlast]
  split
  · next h => simp [h]
  · split <;> simp [*]

/-- R171, R185: the test of a thread that has a sequencer. -/
theorem Mach.phaseTest_iff {m : Mach} {k q : Nat} (hq : m.thrSeq k = some q) (pset : BitVec 3) (sel : BitVec 2) :
    m.phaseTest k pset.toNat sel.toNat = true ↔
      m.PhaseAllows pset sel (m.window (thrDie k * 8 + q) (m.rd .TICK_STATE_PHASE 0)) := by
  simp only [Mach.phaseTest, hq, Mach.PhaseAllows, Bool.and_eq_true, decide_eq_true_eq, beq_iff_eq, selTest_iff, and_assoc]

/-- A thread without a sequencer has no window, so that its test fails. -/
theorem Mach.phaseTest_of_noSeq {m : Mach} {k : Nat} (hq : m.thrSeq k = none) (pset sel : Nat) :
    m.phaseTest k pset sel = false := by
  simp only [Mach.phaseTest, hq]

/-! What the dispatcher answers. -/

/-- R185: an empty set and SEL 3 are the reserved encodings of PHASE. -/
theorem wf_phase_iff (t : ThreadId) (pset : BitVec 3) (sel : BitVec 2) (target : BitVec 20) :
    (Instr.phase t pset sel target).wf = true ↔ pset ≠ 0 ∧ sel ≠ 3 := by
  rw [Instr.wf, Bool.and_eq_true, bne_iff_ne, bne_iff_ne]

theorem exec_phase_reserved (t : ThreadId) {pset : BitVec 3} {sel : BitVec 2} (target : BitVec 20) (s : State)
    (h : pset = 0 ∨ sel = 3) : ∃ mn, exec (.phase t pset sel target) s = .refused (.reservedEncoding mn) := by
  refine exec_ill _ s (Bool.eq_false_iff.2 fun hw => ?_)
  obtain ⟨hset, hsel⟩ := (wf_phase_iff t pset sel target).1 hw
  exact h.elim hset hsel

theorem exec_phase (t : ThreadId) {pset : BitVec 3} {sel : BitVec 2} (target : BitVec 20) (s : State) (hset : pset ≠ 0)
    (hsel : sel ≠ 3) : exec (.phase t pset sel target) s = .next (s.lift (Control.phase t pset sel target)) :=
  if_pos ((wf_phase_iff t pset sel target).2 ⟨hset, hsel⟩)

/-- Settles O6: every effect is on the issuing thread's own context (`control_goesOnAt`), and the test of PHASE reads nothing that an
issue writes. That an ENDL without a loop level leaves its context is a choice of the model, not of R181. -/
theorem loopsAndPhases : Obligations.LoopsAndPhases := by
  unfold Obligations.LoopsAndPhases
  constructor
  · intro t n s hi c same
    refine ⟨?nop, ?yield, ?loop, fun l rest hl hn => ?repeats, fun l rest hl h0 hn => ?pops, fun hl => ?unmatched⟩
    case nop => exact does_of_lift rfl (control_noEffect_goesOnAt hi)
    case yield => exact does_of_lift rfl (control_noEffect_goesOnAt hi)
    case loop => exact does_of_lift rfl (loop_goesOnAt hi n)
    case repeats => exact does_of_lift rfl (endl_repeats hi hl hn)
    case pops => exact does_of_lift rfl (endl_pops hi hl (by omega))
    case unmatched => exact does_of_lift rfl (endl_unmatched hi hl)
  · intro t pset sel target s
    refine ⟨exec_phase_reserved t target s, fun hi hset hsel => does_of_lift (exec_phase t target s hset hsel) ?_⟩
    obtain ⟨hissued, hcore, hpc, hloops, -, -⟩ := phase_goesOnAt hi pset sel target
    refine ⟨hissued, hcore, hloops, fun q hq hp => ?passes, fun q hq hp => ?fails, fun hq => ?noSeq⟩
    case passes => rw [hpc, if_pos ((Mach.phaseTest_iff hq pset sel).2 hp)]
    case fails => rw [hpc, if_neg (mt (Mach.phaseTest_iff hq pset sel).1 hp)]
    case noSeq => rw [hpc, Mach.phaseTest_of_noSeq hq, if_neg Bool.false_ne_true]

end Sys2Proof.Machine

/-! CHECKPOINT and RESTORE (R417, R483, R484): a completion's entry, tail and descriptors as the host finds them, the start of a
descriptor's row, and the outcomes of the two rows. -/
namespace Sys2Proof.Machine

/-! Host memory. -/

theorem Mach.hostWrite_cons (m : Mach) (a : Nat) (b : Byte) (bs : List Byte) :
    m.hostWrite a (b :: bs) = (m.hostWrite a [b]).hostWrite (a + 1) bs := by
  have hk : (List.range (b :: bs).length).map (a + ·) = a :: (List.range bs.length).map (a + 1 + ·) := by
    rw [List.length_cons, List.range_succ_eq_map, List.map_cons, List.map_map]
    exact congrArg _ (List.map_congr_left fun i _ => by simp only [Function.comp_apply]; omega)
  simp only [Mach.hostWrite, hk, List.zip_cons_cons]
  rfl

theorem Mach.hostRead_succ (m : Mach) (a n : Nat) : m.hostRead a (n + 1) = NMap.get byte0 m.host a :: m.hostRead (a + 1) n := by
  rw [Mach.hostRead, List.range_succ_eq_map, List.map_cons, List.map_map]
  exact congrArg (List.cons _) (List.map_congr_left fun i _ => congrArg (NMap.get byte0 m.host) (by omega))

/-- A read of what a write has placed in host memory gives the bytes written. -/
theorem Mach.hostRead_hostWrite (m : Mach) (a : Nat) (bs : List Byte) : (m.hostWrite a bs).hostRead a bs.length = bs := by
  induction bs generalizing m a with
  | nil => rfl
  | cons b bs ih =>
    have hb : NMap.get byte0 (m.hostWrite a [b]).host a = b := (NMap.get_set _ _ _ _).trans (if_pos rfl)
    rw [Mach.hostWrite_cons, List.length_cons, Mach.hostRead_succ, ih,
      Mach.host_hostWrite _ _ _ _ (Or.inl (Nat.lt_succ_self a)), hb]

theorem Mach.hostRead_congr {m m' : Mach} (h : m'.host = m.host) (a n : Nat) : m'.hostRead a n = m.hostRead a n := by
  rw [Mach.hostRead, Mach.hostRead, h]

/-! The end of a descriptor. -/

theorem leBytes_length (n v : Nat) : (leBytes n v).length = n := by
  induction n generalizing v with
  | zero => rfl
  | succ n ih => rw [leBytes, List.length_cons, ih]

/-- Table HIF-4: a completion entry has 16 bytes. -/
theorem complBytes_length (d : Desc) (status detail info phase : Nat) : (complBytes d status detail info phase).length = 16 := by
  simp only [complBytes, List.length_append, leBytes_length]

/-- What the host finds after a completion: its memory, the descriptors in progress and the completion tail of ring `r`. -/
def Mach.endView (m : Mach) (r : Nat) : List Host.Cell × List Desc × Nat :=
  (m.host, m.hif.descs, m.rd .HIF_RING_STATUS_CQ_TAIL r)

theorem Mach.endView_wr (m : Mach) {f : Fld} (hf : f ≠ .HIF_RING_STATUS_CQ_TAIL) (i v r : Nat) :
    (m.wr f i v).endView r = m.endView r := by
  rw [Mach.endView, Mach.rd_wr, if_neg fun h => hf h.1.symm]; rfl

theorem Mach.endView_bump (m : Mach) {f : Fld} (hf : f ≠ .HIF_RING_STATUS_CQ_TAIL) (i n r : Nat) :
    (m.bump f i n).endView r = m.endView r := by
  unfold Mach.bump
  split
  · rfl
  · exact m.endView_wr hf i _ r

theorem Mach.endView_signal (m : Mach) (v r : Nat) : (m.signal v).endView r = m.endView r := by
  unfold Mach.signal
  split
  · exact m.endView_wr (by decide) v 1 r
  · rfl

/-- R406: the signal of a completion leaves its entry, the descriptors and the tail. -/
theorem Mach.endView_coalesce (m : Mach) (q : Nat) (noint : Bool) (r : Nat) : (m.coalesce q noint).endView r = m.endView r := by
  unfold Mach.coalesce
  dsimp only
  split
  · rfl
  split
  · exact Mach.endView_signal _ _ r
  · rfl

/-- R404: the tail goes on by one within its ring. -/
theorem Mach.endView_advanceTail (m : Mach) (r : Nat) :
    (m.advanceTail r).endView r =
      (m.host, m.hif.descs, (m.rd .HIF_RING_STATUS_CQ_TAIL r + 1) % m.ringLen r % 2 ^ 16) := by
  have ht (v : Nat) : (m.wr .HIF_RING_STATUS_CQ_TAIL r v).endView r = (m.host, m.hif.descs, v % 2 ^ 16) := by
    rw [Mach.endView, Mach.rd_wr, if_pos ⟨rfl, rfl⟩]; rfl
  unfold Mach.advanceTail
  dsimp only
  split
  · rw [Mach.endView_wr _ (by decide), ht]
  · exact ht _

theorem Mach.writeCompletion_eq (m : Mach) (d : Desc) (e res : List Byte) :
    m.writeCompletion d e res = { m with host := (m.writeCompletion d e res).host } := by
  unfold Mach.writeCompletion
  dsimp only
  split <;> rfl

/-- R405: the entry is written after the result record, so that it stands at the tail. -/
theorem Mach.hostRead_writeCompletion (m : Mach) (d : Desc) (e res : List Byte) :
    (m.writeCompletion d e res).hostRead
      (m.rd .HIF_RING_CQ_BASE d.ring * 4096 + 16 * m.rd .HIF_RING_STATUS_CQ_TAIL d.ring) e.length = e := by
  unfold Mach.writeCompletion
  dsimp only
  split <;> exact Mach.hostRead_hostWrite _ _ e

/-- R404, R405: what the host finds after the completion of a descriptor in progress. -/
theorem Mach.endView_complete {m : Mach} {d : Desc} (hd : m.hif.descs.any (·.seq == d.seq) = true) (status detail info : Nat)
    (res : List Byte) :
    (m.complete d status detail info res).endView d.ring =
      ((m.writeCompletion d (complBytes d status detail info (m.rd .HIF_RING_STATUS_PHASE d.ring)) res).host,
        m.hif.descs.filter (fun e => e.seq != d.seq), (m.rd .HIF_RING_STATUS_CQ_TAIL d.ring + 1) % m.ringLen d.ring % 2 ^ 16) := by
  have hin : ¬ m.hif.descs.all (fun e => e.seq != d.seq) = true := by
    obtain ⟨e, he, heq⟩ := List.any_eq_true.1 hd
    exact fun hall => bne_iff_ne.1 (List.all_eq_true.1 hall e he) (beq_iff_eq.1 heq)
  rw [Mach.complete, if_neg hin]
  dsimp only
  rw [Mach.endView_coalesce, Mach.endView_bump _ (by decide), Mach.writeCompletion_eq]
  have hadv := Mach.endView_advanceTail { m with host := (m.writeCompletion d
    (complBytes d status detail info (m.rd .HIF_RING_STATUS_PHASE d.ring)) res).host } d.ring
  exact congrArg (fun v => (v.1, v.2.1.filter fun e => e.seq != d.seq, v.2.2)) hadv

/-- R404, R405: the completion of a descriptor in progress ends it. -/
theorem Mach.complete_ended {m : Mach} {d : Desc} (hd : m.hif.descs.any (·.seq == d.seq) = true) (status detail info : Nat)
    (res : List Byte) : m.Ended (m.complete d status detail info res) d status detail info := by
  have hview := Mach.endView_complete hd status detail info res
  simp only [Mach.endView, Prod.mk.injEq] at hview
  obtain ⟨hhost, hdescs, htail⟩ := hview
  have hread := m.hostRead_writeCompletion d (complBytes d status detail info (m.rd .HIF_RING_STATUS_PHASE d.ring)) res
  rw [complBytes_length] at hread
  exact ⟨hdescs, (Mach.hostRead_congr hhost _ _).trans hread, htail⟩

theorem Mach.mem_complete (m : Mach) (d : Desc) (status detail info : Nat) (res : List Byte) :
    (m.complete d status detail info res).mem = m.mem := congrArg Still.mem (m.still_complete d status detail info res)

/-- `Mach.Ended` reads the place of the completion in these registers of the machine before it. -/
theorem Mach.Ended.of_wr {m m' : Mach} {d : Desc} {f : Fld} {i v status detail info : Nat}
    (h : (m.wr f i v).Ended m' d status detail info)
    (hf : f ∉ [.HIF_RING_CQ_BASE, .HIF_RING_STATUS_CQ_TAIL, .HIF_RING_STATUS_PHASE, .HIF_RING_CFG_LOG]) :
    m.Ended m' d status detail info := by
  have hrd {g : Fld} (hg : g ∈ [.HIF_RING_CQ_BASE, .HIF_RING_STATUS_CQ_TAIL, .HIF_RING_STATUS_PHASE, .HIF_RING_CFG_LOG]) :
      (m.wr f i v).rd g d.ring = m.rd g d.ring := by
    rw [Mach.rd_wr, if_neg]
    exact fun e => hf (e.1 ▸ hg)
  have hlen : (m.wr f i v).ringLen d.ring = m.ringLen d.ring := congrArg (2 ^ ·) (hrd (by simp))
  obtain ⟨hdescs, hentry, htail⟩ := h
  rw [hrd (by simp), hrd (by simp), hrd (by simp)] at hentry
  rw [hrd (by simp), hlen] at htail
  exact ⟨hdescs, hentry, htail⟩

/-! The start of a descriptor's row. -/

theorem Mach.descs_setBusy (m : Mach) (d : Desc) :
    (m.setBusy d).hif.descs = m.hif.descs.map fun e => if e.seq == d.seq then { e with busy := true } else e := rfl

/-- The descriptors in progress but `d` itself are as they were before its start. -/
theorem Mach.filter_descs_setBusy (m : Mach) (d : Desc) :
    (m.setBusy d).hif.descs.filter (fun e => e.seq != d.seq) = m.hif.descs.filter (fun e => e.seq != d.seq) := by
  rw [Mach.descs_setBusy]
  induction m.hif.descs with
  | nil => rfl
  | cons e es ih =>
    by_cases he : e.seq = d.seq
    · simpa [he] using ih
    · simpa [he] using ih

/-- A descriptor that ends as it starts has ended since before its start. -/
theorem Mach.Ended.of_setBusy {m m' : Mach} {d : Desc} {status detail info : Nat}
    (h : (m.setBusy d).Ended m' d status detail info) : m.Ended m' d status detail info := by
  obtain ⟨hdescs, hentry, htail⟩ := h
  exact ⟨hdescs.trans (m.filter_descs_setBusy d), hentry, htail⟩

section
variable {m : Mach} {r : BitVec 8} {i : BitVec 16} {ty : Nat} {d : Desc} (hb : m.Begins r i ty d)
include hb

/-- A descriptor that has started is in progress. -/
theorem Mach.Begins.inProgress : (m.setBusy d).hif.descs.any (·.seq == d.seq) = true := by
  obtain ⟨hfind, -⟩ := hb
  have hmem : d ∈ m.hif.descs := List.mem_of_find?_eq_some hfind
  rw [Mach.descs_setBusy, List.any_map]
  exact List.any_eq_true.2 ⟨d, hmem, by simp⟩

/-- R403, R16, R442: a well-formed descriptor whose turn has come does what its type asks. -/
theorem Mach.Begins.descRow_eq {bad : Mach → Desc → Bool} (start go : Desc → Mach → Mach) (hbad : bad (m.setBusy d) d = false) :
    m.descRow r.toNat i.toNat ty bad start go = start d (m.setBusy d) := by
  obtain ⟨hfind, hup, hidle, hmay, hform, hready⟩ := hb
  have hserved : (!(m.setBusy d).ready && ty != 10) = false := by
    rcases hready with h | h
    · rw [show (m.setBusy d).ready = true from h]; rfl
    · rw [h, Bool.and_comm]; rfl
  simp [Mach.descRow, hfind, hup, hidle, hmay, hform, hbad, hserved]

/-- R417: CHECKPOINT and RESTORE while a step is armed, running or held. -/
theorem Mach.Begins.stepBusy_ended : m.Ended ((m.setBusy d).complete d 6 0 0 []) d 6 0 0 :=
  .of_setBusy (Mach.complete_ended hb.inProgress 6 0 0 [])

end

/-! CHECKPOINT (R483), by the outcomes of its checks. -/

section
variable {m : Mach} {r : BitVec 8} {i : BitVec 16} {d : Desc} (hb : m.Begins r i 7 d) (hz : d.zero 16 48 = true)
include hb hz

theorem checkpoint_stepBusy (hs : m.stepAny = true) : Ckpt.checkpoint r i m = (m.setBusy d).complete d 6 0 0 [] :=
  (hb.descRow_eq _ _ (by simp [hz])).trans (if_pos hs)

section
variable {ck : List CkptSec × Mach} {bs : List PByte} (hs : (m.setBusy d).stepAny = false) (hform : badForm (d.at_ 0 8) = false)
  (hck : (m.setBusy d).ckptSecs = ck) (hbs : ck.2.ckptBytes ck.1 = bs) (hlocal : (ck.2.side (d.at_ 0 8)).remote = none)
  (hdest : ck.2.destBad (ck.2.side (d.at_ 0 8)).addr bs.length = false)
include hs hform hck hbs hlocal hdest

theorem checkpoint_tooLong (hn : d.at_ 8 8 < bs.length) : Ckpt.checkpoint r i m = ck.2.complete d 0x1E 0 0 [] := by
  refine (hb.descRow_eq _ _ (by simp [hz])).trans ?_
  simp [hs, hck, hbs, hform, hlocal, hdest, hn]

theorem checkpoint_writes {m1 : Mach} (hn : bs.length ≤ d.at_ 8 8)
    (hcauses : ck.2.localCauses (ck.2.side (d.at_ 0 8)).addr bs.length true = [])
    (hw : ck.2.writeAny 4 (ck.2.side (d.at_ 0 8)).addr bs = .ok m1) :
    Ckpt.checkpoint r i m = m1.complete d (if bs.any Prod.snd then 3 else 0) 0 bs.length [] := by
  refine (hb.descRow_eq _ _ (by simp [hz])).trans ?_
  simp [hs, hck, hbs, hform, hlocal, hdest, Nat.not_lt.2 hn, hcauses, lowest, hw]

end

end

/-! RESTORE (R484), by the outcomes of its checks. -/

/-- R484: the tick of the checkpoint becomes that of a generator that stands. -/
def Mach.restoreTick (m : Mach) (t : Nat) : Mach := if m.on .TICK_STATE_GEN_RUNNING 0 then m else m.wr .TICK_NUMBER 0 t

theorem Mach.still_restoreTick (m : Mach) (t : Nat) : (m.restoreTick t).still = m.still := by
  unfold Mach.restoreTick
  split <;> rfl

theorem Mach.hif_restoreTick (m : Mach) (t : Nat) : (m.restoreTick t).hif = m.hif := by
  unfold Mach.restoreTick
  split <;> rfl

theorem Mach.Ended.of_restoreTick {m m' : Mach} {d : Desc} {t status detail info : Nat}
    (h : (m.restoreTick t).Ended m' d status detail info) : m.Ended m' d status detail info := by
  unfold Mach.restoreTick at h
  split at h
  · exact h
  · exact h.of_wr (by decide)

theorem Mach.rd_restoreTick {m : Mach} (hstands : m.on .TICK_STATE_GEN_RUNNING 0 = false) (t : Nat) :
    (m.restoreTick t).rd .TICK_NUMBER 0 = t % 2 ^ 64 := by
  rw [Mach.restoreTick, hstands, if_neg Bool.false_ne_true, Mach.rd_wr, if_pos ⟨rfl, rfl⟩]
  rfl

section
variable {m : Mach} {r : BitVec 8} {i : BitVec 16} {d : Desc} (hb : m.Begins r i 8 d) (hz : d.zero 16 48 = true)
include hb hz

theorem restore_stepBusy (hs : m.stepAny = true) : Ckpt.restore r i m = (m.setBusy d).complete d 6 0 0 [] :=
  (hb.descRow_eq _ _ (by simp [hz])).trans (if_pos hs)

section
variable {a : Nat} {rd : List PByte × Mach} (hs : (m.setBusy d).stepAny = false) (hform : badForm (d.at_ 0 8) = false)
  (hlocal : ((m.setBusy d).side (d.at_ 0 8)).remote = none) (ha : ((m.setBusy d).side (d.at_ 0 8)).addr = a)
  (hcauses : (m.setBusy d).localCauses a (max 1 (d.at_ 8 8)) false = []) (hrd : (m.setBusy d).readAny a (d.at_ 8 8) = rd)
include hs hform hlocal ha hcauses hrd

theorem restore_poisoned (hp : rd.1.any Prod.snd = true) : Ckpt.restore r i m = rd.2.complete d 3 0 0 [] := by
  refine (hb.descRow_eq _ _ (by simp [hz])).trans ?_
  simp only [hs, hform, hlocal, ha, hcauses, lowest, hrd, hp]
  rfl

theorem restore_invalid (hp : rd.1.any Prod.snd = false) (hopen : rd.2.ckptOpen (rd.1.map Prod.fst) = none) :
    Ckpt.restore r i m = rd.2.complete d 0x1F 0 0 [] := by
  refine (hb.descRow_eq _ _ (by simp [hz])).trans ?_
  simp only [hs, hform, hlocal, ha, hcauses, lowest, hrd, hp, hopen]
  rfl

theorem restore_restores {ss : List (Nat × List Byte)} {m1 : Mach} (hp : rd.1.any Prod.snd = false)
    (hopen : rd.2.ckptOpen (rd.1.map Prod.fst) = some ss) (hw : rd.2.emptyData.restoreSecs ss = .ok m1) :
    Ckpt.restore r i m = (m1.restoreTick (fieldOf (rd.1.map Prod.fst) 32 8)).complete d 0 0 (fieldOf (rd.1.map Prod.fst) 32 8) [] := by
  refine (hb.descRow_eq _ _ (by simp [hz])).trans ?_
  simp only [hs, hform, hlocal, ha, hcauses, lowest, hrd, hp, hopen, hw]
  rfl

end

end

/-- R484: a RESTORE that has restored its sections ends with the tick of the checkpoint. -/
theorem Mach.restored_ends {m : Mach} {d : Desc} (hd : m.hif.descs.any (·.seq == d.seq) = true) (t : Nat) :
    let m' := (m.restoreTick t).complete d 0 0 t []
    m.Ended m' d 0 0 t ∧ m'.mem = m.mem ∧ m'.shadow = m.shadow ∧
      (m.on .TICK_STATE_GEN_RUNNING 0 = false → m'.rd .TICK_NUMBER 0 = t % 2 ^ 64) := by
  have hd' : (m.restoreTick t).hif.descs.any (·.seq == d.seq) = true := by rw [Mach.hif_restoreTick]; exact hd
  have hstill := ((m.restoreTick t).still_complete d 0 0 t []).trans (m.still_restoreTick t)
  refine ⟨.of_restoreTick (Mach.complete_ended hd' 0 0 t []), congrArg Still.mem hstill, congrArg Still.shadow hstill, fun hstands => ?_⟩
  rw [Mach.rdAside_complete rfl, Mach.rd_restoreTick hstands]

/-- A descriptor in progress that completes ends, and no memory changes with it. -/
theorem Mach.complete_ends {m : Mach} {d : Desc} (hd : m.hif.descs.any (·.seq == d.seq) = true) (status detail info : Nat) :
    m.Ended (m.complete d status detail info []) d status detail info ∧ (m.complete d status detail info []).mem = m.mem :=
  ⟨Mach.complete_ended hd status detail info [], Mach.mem_complete m d status detail info []⟩

theorem does_checkpoint {r : BitVec 8} {i : BitVec 16} {s : State} {m' : Mach} {P : Mach → Prop}
    (h : Ckpt.checkpoint r i s.m = m') (hp : P m') : Does (.checkpoint r i) s P := does_of_lift rfl (h ▸ hp)

theorem does_restore {r : BitVec 8} {i : BitVec 16} {s : State} {m' : Mach} {P : Mach → Prop}
    (h : Ckpt.restore r i s.m = m') (hp : P m') : Does (.restore r i) s P := does_of_lift rfl (h ▸ hp)

/-- Settles O41: each outcome of the checks completes the descriptor (`checkpoint_…`, `restore_…`), and a completion ends it
(`Mach.complete_ended`). The order of the sections, and what poison and a bad DEST do, are log entry 47. -/
theorem checkpoints : Obligations.Checkpoints := by
  unfold Obligations.Checkpoints
  intro r i d m1 s m0 a n ck b bs rd src holds
  refine ⟨fun hs => ⟨fun hb hz => ?ckptBusy, fun hb hz => ?restoreBusy⟩,
    fun hs hform => ⟨fun hb hz hlocal hdest => ⟨fun hn hd => ?tooLong, fun hn hcauses hw hd => ?writes⟩,
      fun hb hz hlocal hcauses => ⟨fun hp hd => ?poisoned, fun hp hopen hd => ?invalid, fun ss hp hopen hw hd => ?restores⟩⟩⟩
  case ckptBusy => exact does_checkpoint (checkpoint_stepBusy hb hz hs) hb.stepBusy_ended
  case restoreBusy => exact does_restore (restore_stepBusy hb hz hs) hb.stepBusy_ended
  case tooLong =>
    exact does_checkpoint (checkpoint_tooLong hb hz hs hform rfl rfl hlocal hdest hn) (Mach.complete_ends hd ..)
  case writes =>
    exact does_checkpoint (checkpoint_writes hb hz hs hform rfl rfl hlocal hdest hn hcauses hw) (Mach.complete_ends hd ..)
  case poisoned =>
    exact does_restore (restore_poisoned hb hz hs hform hlocal rfl hcauses rfl hp) (Mach.complete_ends hd ..)
  case invalid =>
    exact does_restore (restore_invalid hb hz hs hform hlocal rfl hcauses rfl hp hopen) (Mach.complete_ends hd ..)
  case restores =>
    exact does_restore (restore_restores hb hz hs hform hlocal rfl hcauses rfl hp hopen hw) (Mach.restored_ends hd _)

end Sys2Proof.Machine

/-! Laser units and the loss of links (R342, R363, R510, R511): what a read gives after several writes, the fields of a laser port,
the registers that a link's loss writes, and the outcomes of the four rows. -/
namespace Sys2Proof.Machine

/-! Several fields written at once. -/

/-- Of writes to different fields, each field holds the value of its own write, where that fits it. -/
theorem Mach.rd_wrs_of_mem {m : Mach} {i v : Nat} {fs : List (Fld × Nat)} {f : Fld} (hnodup : (fs.map Prod.fst).Nodup)
    (hmem : (f, v) ∈ fs) (hfits : v < 2 ^ f.width) : (m.wrs i fs).rd f i = v := by
  induction fs generalizing m with
  | nil => cases hmem
  | cons fv fs ih =>
    obtain ⟨hhead, htail⟩ := List.nodup_cons.1 hnodup
    rw [Mach.wrs_cons]
    obtain rfl | hmem := List.mem_cons.1 hmem
    · rw [Mach.rd_wrs_of_notMem _ _ _ _ _ fun x hx => .inl fun e => hhead (List.mem_map.2 ⟨x, hx, e⟩), Mach.rd_wr,
        if_pos ⟨rfl, rfl⟩, Nat.mod_eq_of_lt hfits]
    · exact ih htail hmem

/-- Fields that several writes do not name keep their values. -/
theorem Mach.rd_wrs_of_ne {m : Mach} {i k : Nat} {fs : List (Fld × Nat)} {f : Fld} (h : ∀ fv ∈ fs, f ≠ fv.1) :
    (m.wrs i fs).rd f k = m.rd f k :=
  Mach.rd_wrs_of_notMem fs m f i k fun fv hfv => .inl (h fv hfv).symm

@[simp] theorem Mach.rd_otherAccess (m : Mach) (req : Nat) (f : Fld) (i : Nat) : (m.otherAccess req).rd f i = m.rd f i := rfl
@[simp] theorem Mach.rd_onFab (m : Mach) (g : Fab → Fab) (f : Fld) (i : Nat) : (m.onFab g).rd f i = m.rd f i := rfl

theorem b2n_lt_two (b : Bool) : b2n b < 2 := by cases b <;> decide

/-! The fields of a laser port. -/

/-- The fields that the rows of laser port `n` write, but for its refusal. -/
def laserFlds (n : Nat) : List Fld := [lightFld n, powerFld n, releaseFld n, safeFld n, .FAB_LASER_SINGLE, .MOD_STATUS_NO_LIGHT]

theorem laserFlds_nodup (n : Nat) : (laserFlds n).Nodup := by
  unfold laserFlds lightFld powerFld releaseFld safeFld
  split <;> decide

@[simp] theorem width_lightFld (n : Nat) : (lightFld n).width = 1 := by unfold lightFld; split <;> rfl
@[simp] theorem width_powerFld (n : Nat) : (powerFld n).width = 8 := by unfold powerFld; split <;> rfl
@[simp] theorem width_releaseFld (n : Nat) : (releaseFld n).width = 1 := by unfold releaseFld; split <;> rfl
@[simp] theorem width_safeFld (n : Nat) : (safeFld n).width = 1 := by unfold safeFld; split <;> rfl
@[simp] theorem width_refusedFld (n : Nat) : (refusedFld n).width = 1 := by unfold refusedFld; split <;> rfl

theorem power_fits (p : BitVec 8) (n : Nat) : p.toNat < 2 ^ (powerFld n).width := by rw [width_powerFld]; exact p.isLt

/-- What a field of a laser port holds after the writes that name it. -/
theorem rd_laserWrites (n : Nat) {m : Mach} {v : Nat} {fs : List (Fld × Nat)} {f : Fld} (hfits : v < 2 ^ f.width)
    (hflds : (fs.map Prod.fst).Sublist (laserFlds n) := by simp [laserFlds]) (hmem : (f, v) ∈ fs := by simp) :
    (m.wrs 0 fs).rd f 0 = v :=
  Mach.rd_wrs_of_mem ((laserFlds_nodup n).sublist hflds) hmem hfits

/-- The two ports' LIGHT bits are different. -/
theorem lightFld_partner_ne (n1 : BitVec 1) : lightFld n1.toNat ≠ lightFld (1 - n1.toNat) := by
  obtain h | h : n1.toNat = 0 ∨ n1.toNat = 1 := by omega
  all_goals rw [h]; decide

theorem powerFld_ne_lightFld (n k : Nat) : powerFld n ≠ lightFld k := by
  unfold powerFld lightFld
  split <;> split <;> decide

/-! What the loss of a link writes. -/

/-- The registers that the loss of light and of links writes, besides the state of each link: those of the shared side effects, the
counters of the fabric, and what a link holds of its peer and its port. -/
def Fld.lossAside (f : Fld) : Bool :=
  f.aside || [Fld.FAB_LINK_FAILS, .FAB_DETOURS, .FAB_UNREACHABLE_DROPS, .FAB_LASER_FAILOVERS, .FAB_LINK_REASON, .FAB_LINK_LEVEL,
    .FAB_LINK_IN_PORT, .FAB_LINK_PORT, .FAB_LINK_READY, .FAB_LINK_COLL_MISMATCH].contains f

theorem Fld.ne_of_lossAside {f g : Fld} (h : f.lossAside = false) (hg : g.lossAside = true) : f ≠ g := by
  rintro rfl; rw [h] at hg; exact absurd hg Bool.false_ne_true

theorem Fld.aside_of_lossAside {f : Fld} (h : f.lossAside = false) : f.aside = false := (Bool.or_eq_false_iff.1 h).1

@[simp] theorem Mach.rd_returnCredit (m : Mach) (l cls : Nat) (f : Fld) (i : Nat) : (m.returnCredit l cls).rd f i = m.rd f i := by
  unfold Mach.returnCredit
  dsimp only
  split
  · exact Mach.rd_sendRaw _ _ _ _ _
  · rfl

/-- R364: a lost link gives up its frames and its credits, and no register. -/
@[simp] theorem Mach.rd_reclaim (m : Mach) (k : Nat) (heir : Option Nat) (f : Fld) (i : Nat) : (m.reclaim k heir).rd f i = m.rd f i := by
  unfold Mach.reclaim
  cases heir with
  | some j => rfl
  | none => exact foldl_keep (fun m : Mach => m.rd f i) (fun m e => m.settle (e - 1)) (fun _ _ => rfl) _ m

section
variable {f : Fld} (h : f.lossAside = false) (i : Nat)
include h

theorem Mach.rdLoss_wr (m : Mach) {g : Fld} (hg : g.lossAside = true) (j v : Nat) : (m.wr g j v).rd f i = m.rd f i := by
  rw [Mach.rd_wr, if_neg fun x => Fld.ne_of_lossAside h hg x.1]

theorem Mach.rdLoss_wrs (m : Mach) (j : Nat) (fs : List (Fld × Nat)) (hfs : fs.all (fun fv => fv.1.lossAside) = true) :
    (m.wrs j fs).rd f i = m.rd f i :=
  Mach.rd_wrs_of_ne fun fv hfv => Fld.ne_of_lossAside h (List.all_eq_true.1 hfs fv hfv)

theorem Mach.rdLoss_bump (m : Mach) {g : Fld} (hg : g.lossAside = true) (j n : Nat) : (m.bump g j n).rd f i = m.rd f i :=
  Mach.rd_bump_ne _ _ _ _ fun x => Fld.ne_of_lossAside h hg x.1

theorem Mach.rdLoss_raise (m : Mach) (code sub src a0 a1 : Nat) : (m.raise code sub src a0 a1).rd f i = m.rd f i :=
  Mach.rdAside_raise (Fld.aside_of_lossAside h) i m code sub src a0 a1

/-- A change of a link's state writes that state. -/
theorem Mach.rdLoss_setLink (m : Mach) (k st reason : Nat) :
    (m.setLink k st reason).rd f i = if f = .FAB_LINK_STATE ∧ i = k then st % 2 ^ 4 else m.rd f i := by
  have hwr : ((m.wr .FAB_LINK_STATE k st).wr .FAB_LINK_REASON k reason).rd f i =
      if f = .FAB_LINK_STATE ∧ i = k then st % 2 ^ 4 else m.rd f i := by
    rw [Mach.rdLoss_wr h i _ rfl, Mach.rd_wr]; rfl
  unfold Mach.setLink
  dsimp only
  split
  · rw [Mach.rdAside_trace (Fld.aside_of_lossAside h), hwr]
  · exact hwr

theorem Mach.rdLoss_dropUnreachable (m : Mach) (cls src dest : Nat) : (m.dropUnreachable cls src dest).rd f i = m.rd f i := by
  unfold Mach.dropUnreachable
  dsimp only
  split
  · rw [Mach.rdLoss_raise h, Mach.rdLoss_bump h i _ rfl]
  · exact Mach.rdLoss_bump h i _ rfl _ _

theorem Mach.rdLoss_sendOn (m : Mach) (k : Nat) (x : Frame) : (m.sendOn k x).rd f i = m.rd f i := by
  unfold Mach.sendOn
  dsimp only
  rw [Mach.rdAside_hev (Fld.aside_of_lossAside h), Mach.rd_onFab, Mach.rd_takeOwed]

theorem Mach.rdLoss_tryWaiting (m : Mach) (w : Waiting) : (m.tryWaiting w).rd f i = m.rd f i := by
  have hback (m : Mach) (c : Nat) : (if w.link = 0 then m else m.returnCredit (w.link - 1) c).rd f i = m.rd f i := by
    split
    · rfl
    · exact Mach.rd_returnCredit _ _ _ _ _
  unfold Mach.tryWaiting
  dsimp only
  split
  · have hdrop := (hback _ w.frame.cls).trans (Mach.rdLoss_dropUnreachable h i m w.frame.cls w.frame.sMod w.frame.dMod)
    split <;> exact hdrop
  · split
    · rfl
    · exact (hback _ _).trans (Mach.rdLoss_sendOn h i _ _ _)

/-- What waits for a link leaves with the fabric's frames, and is counted where it is dropped. -/
theorem Mach.rdLoss_flush (m : Mach) : m.flush.rd f i = m.rd f i :=
  foldl_keep (fun m : Mach => m.rd f i) Mach.tryWaiting (fun m w => Mach.rdLoss_tryWaiting h i m w) _ _

theorem Mach.rdLoss_portLost (m : Mach) (d p : Nat) : (m.portLost d p).rd f i = m.rd f i := by
  unfold Mach.portLost
  split
  · rfl
  split
  · rw [Mach.rdLoss_raise h, Mach.rdLoss_bump h i _ rfl]
  · rfl

theorem Mach.rdLoss_linkDown (m : Mach) (k st reason : Nat) :
    (m.linkDown k st reason).rd f i = if f = .FAB_LINK_STATE ∧ i = k then st % 2 ^ 4 else m.rd f i := by
  have hport (c : Bool) (m : Mach) (d p : Nat) : (if c then m.portLost d p else m).rd f i = m.rd f i := by
    cases c
    · rfl
    · exact Mach.rdLoss_portLost h i m d p
  unfold Mach.linkDown
  dsimp only
  rw [Mach.rdLoss_flush h, hport, Mach.rd_reclaim, Mach.rdLoss_wrs h i _ _ _ rfl, Mach.rdLoss_setLink h]

/-- R363: a link that is not DOWN becomes FAILED. -/
theorem Mach.rdLoss_linkFailed (m : Mach) (k : Nat) :
    (m.linkFailed k).rd f i = if f = .FAB_LINK_STATE ∧ i = k ∧ m.linkState i ≠ 0 then 10 else m.rd f i := by
  unfold Mach.linkFailed
  split
  case isTrue hstill =>
    split
    · next hfails =>
      obtain ⟨rfl, rfl, hne⟩ := hfails
      exact hstill.resolve_left hne
    · rfl
  case isFalse hfails =>
    rw [Mach.rdLoss_linkDown h, Mach.rdLoss_raise h, Mach.rdLoss_bump h i _ rfl]
    refine ite_congr (propext (and_congr_right fun _ => (and_iff_left_of_imp ?_).symm)) (fun _ => rfl) fun _ => rfl
    rintro rfl
    exact fun hdown => hfails (.inl hdown)

theorem Mach.rdLoss_foldl_linkFailed (ks : List Nat) (m : Mach) :
    (ks.foldl (fun m k => m.linkFailed k) m).rd f i =
      if f = .FAB_LINK_STATE ∧ i ∈ ks ∧ m.linkState i ≠ 0 then 10 else m.rd f i := by
  induction ks generalizing m with
  | nil => simp
  | cons k ks ih =>
    rw [List.foldl_cons, ih, Mach.linkState, Mach.rdLoss_linkFailed rfl, Mach.rdLoss_linkFailed h]
    by_cases hf : f = .FAB_LINK_STATE
    · subst hf
      by_cases hi : i = k
      · subst hi
        by_cases hdown : m.rd .FAB_LINK_STATE i = 0 <;> simp [Mach.linkState, hdown]
      · simp [Mach.linkState, hi]
    · simp [hf]

theorem Mach.rdLoss_foldl_setLink (ks : List Nat) (st reason : Nat) (m : Mach) :
    (ks.foldl (fun m k => m.setLink k st reason) m).rd f i = if f = .FAB_LINK_STATE ∧ i ∈ ks then st % 2 ^ 4 else m.rd f i := by
  induction ks generalizing m with
  | nil => simp
  | cons k ks ih =>
    rw [List.foldl_cons, ih, Mach.rdLoss_setLink h]
    by_cases hf : f = .FAB_LINK_STATE <;> by_cases hi : i = k <;> simp [hf, hi]

end

/-! A laser port's LIGHT and POWER are none of these registers, nor a link's state. -/

theorem lossAside_lightFld (n : Nat) : (lightFld n).lossAside = false := by unfold lightFld; split <;> rfl
theorem lossAside_powerFld (n : Nat) : (powerFld n).lossAside = false := by unfold powerFld; split <;> rfl

@[simp] theorem lightFld_ne_linkState (n : Nat) : lightFld n ≠ .FAB_LINK_STATE := by unfold lightFld; split <;> decide
@[simp] theorem powerFld_ne_linkState (n : Nat) : powerFld n ≠ .FAB_LINK_STATE := by unfold powerFld; split <;> decide

theorem Mach.linkState_wrs (m : Mach) {fs : List (Fld × Nat)} (h : ∀ fv ∈ fs, fv.1 ≠ .FAB_LINK_STATE) (i k : Nat) :
    (m.wrs i fs).linkState k = m.linkState k :=
  Mach.rd_wrs_of_ne fun fv hfv => (h fv hfv).symm

/-! LASER_RELEASE and LASER_UNIT_PLUGGED (R510, R511). -/

theorem Mach.hostRow_eq {m : Mach} (g : Mach → Mach) (hup : m.mainUp = true) (hready : m.ready = true) :
    m.hostRow g = g (m.otherAccess 0) :=
  if_pos (Bool.and_eq_true_iff.2 ⟨hup, hready⟩)

section
variable {m : Mach} {n1 : BitVec 1}

theorem laserRelease_partnerLit (hup : m.mainUp = true) (hready : m.ready = true) (hpartner : m.on (lightFld (1 - n1.toNat)) 0 = true) :
    m.hostRow (Repair.laserRelease n1) =
      (m.otherAccess 0).wrs 0 [(releaseFld n1.toNat, 1), (safeFld n1.toNat, 1), (.FAB_LASER_SINGLE, 1)] := by
  have hup' : (m.otherAccess 0).mainUp = true := hup
  have hpartner' : (m.otherAccess 0).on (lightFld (1 - n1.toNat)) 0 = true := hpartner
  rw [Mach.hostRow_eq _ hup hready]
  simp only [Repair.laserRelease, hup', hpartner', Bool.not_true, Bool.false_eq_true, if_false, if_true]

theorem laserRelease_partnerDark (hup : m.mainUp = true) (hready : m.ready = true)
    (hpartner : m.on (lightFld (1 - n1.toNat)) 0 = false) :
    m.hostRow (Repair.laserRelease n1) = (m.otherAccess 0).wr (refusedFld n1.toNat) 0 1 := by
  have hup' : (m.otherAccess 0).mainUp = true := hup
  have hpartner' : (m.otherAccess 0).on (lightFld (1 - n1.toNat)) 0 = false := hpartner
  rw [Mach.hostRow_eq _ hup hready]
  simp only [Repair.laserRelease, hup', hpartner', Bool.not_true, Bool.false_eq_true, if_false]

variable {p : BitVec 8} {l : Bool}

theorem laserPlugged_dim (hready : m.ready = true) (hdim : hasLight p.toNat l = false) :
    Repair.laserPlugged n1 p l m = m.wr (powerFld n1.toNat) 0 p.toNat := by
  simp only [Repair.laserPlugged, hready, hdim, Bool.not_true, Bool.not_false, Bool.false_eq_true, if_false, if_true]

theorem laserPlugged_lights (hready : m.ready = true) (hlit : hasLight p.toNat l = true)
    (hfree : m.on (releaseFld n1.toNat) 0 = true ∨ m.on (lightFld n1.toNat) 0 = false) :
    Repair.laserPlugged n1 p l m = m.wrs 0 [(lightFld n1.toNat, 1), (powerFld n1.toNat, p.toNat), (releaseFld n1.toNat, 0),
      (safeFld n1.toNat, 0), (.FAB_LASER_SINGLE, b2n !m.on (lightFld (1 - n1.toNat)) 0)] := by
  have hfree' : (m.on (releaseFld n1.toNat) 0 || !m.on (lightFld n1.toNat) 0) = true := by simpa using hfree
  simp only [Repair.laserPlugged, hready, hlit, hfree', Bool.not_true, Bool.false_eq_true, if_false, if_true]

/-! LASER_UNIT_LOSS (R342, R363). -/

theorem on_partner_of_loss (a b : Nat) :
    (m.wrs 0 [(lightFld n1.toNat, a), (powerFld n1.toNat, b)]).on (lightFld (1 - n1.toNat)) 0 = m.on (lightFld (1 - n1.toNat)) 0 := by
  rw [Mach.on, Mach.on, Mach.rd_wrs_of_ne]
  simp [(lightFld_partner_ne n1).symm, (powerFld_ne_lightFld _ _).symm]

variable (hup : m.mainUp = true) (hlit : m.on (lightFld n1.toNat) 0 = true)
include hup hlit

/-- The partner feeds all carriers; besides, a failover is counted and reported. -/
theorem rdLoss_laserUnitLoss_partnerLit (hpartner : m.on (lightFld (1 - n1.toNat)) 0 = true) {f : Fld} (h : f.lossAside = false)
    (i : Nat) : (Fabric.laserUnitLoss n1 p m).rd f i =
      (m.wrs 0 [(lightFld n1.toNat, 0), (powerFld n1.toNat, p.toNat), (.FAB_LASER_SINGLE, 1)]).rd f i := by
  simp only [Fabric.laserUnitLoss, hup, hlit, hpartner, on_partner_of_loss, Bool.not_true, Bool.false_eq_true, or_self, if_false, if_true]
  split
  · rfl
  · rw [Mach.rdLoss_raise h, Mach.rdLoss_bump h i _ rfl]; rfl

/-- With no light left every link that was not DOWN fails. -/
theorem rdLoss_laserUnitLoss_partnerDark (hpartner : m.on (lightFld (1 - n1.toNat)) 0 = false) {f : Fld} (h : f.lossAside = false)
    (i : Nat) : (Fabric.laserUnitLoss n1 p m).rd f i =
      if f = .FAB_LINK_STATE ∧ i < 36 ∧ m.linkState i ≠ 0 then 10
      else (m.wrs 0 [(lightFld n1.toNat, 0), (powerFld n1.toNat, p.toNat), (.FAB_LASER_SINGLE, 0), (.MOD_STATUS_NO_LIGHT, 1)]).rd f i := by
  simp only [Fabric.laserUnitLoss, hup, hlit, hpartner, on_partner_of_loss, Bool.not_true, Bool.false_eq_true, or_self, if_false]
  rw [Mach.rdLoss_foldl_linkFailed h, Mach.linkState, Mach.rdLoss_raise rfl, Mach.rdLoss_raise h]
  refine ite_congr (propext (and_congr_right fun _ => and_congr List.mem_range (iff_of_eq (congrArg (· ≠ 0) ?_))))
    (fun _ => rfl) fun _ => ?_
  · exact (Mach.linkState_wrs _ (by simp) 0 i).trans (m.linkState_wrs (by simp) 0 i)
  · simp only [Mach.wrs_cons, Mach.wrs_nil]

end

/-! LIGHT_APPEARS (R342). -/

/-- A dark module takes the light, and its links that were DOWN or FAILED train. -/
theorem rdLoss_lightAppears {m : Mach} {p0 p1 : BitVec 8} {l0 l1 : Bool} (hup : m.mainUp = true)
    (hdark : m.on .MOD_STATUS_NO_LIGHT 0 = true) (hlight : hasLight p0.toNat l0 = true ∨ hasLight p1.toNat l1 = true)
    {f : Fld} (h : f.lossAside = false) (i : Nat) : (Fabric.lightAppears p0 p1 l0 l1 m).rd f i =
      if f = .FAB_LINK_STATE ∧ i < 36 ∧ (m.linkState i = 0 ∨ m.linkState i = 10) then 1
      else (m.wrs 0 [(.MOD_STATUS_NO_LIGHT, 0), (lightFld 0, b2n (hasLight p0.toNat l0)), (lightFld 1, b2n (hasLight p1.toNat l1)),
        (powerFld 0, p0.toNat), (powerFld 1, p1.toNat),
        (.FAB_LASER_SINGLE, b2n (hasLight p0.toNat l0 != hasLight p1.toNat l1))]).rd f i := by
  have hlight' : (!hasLight p0.toNat l0 && !hasLight p1.toNat l1) = false := by
    rcases hlight with hlit | hlit <;> simp [hlit]
  simp only [Fabric.lightAppears, hup, hdark, hlight', Bool.not_true, Bool.false_eq_true, or_self, if_false]
  rw [Mach.rdLoss_foldl_setLink h]
  refine ite_congr (propext (and_congr_right fun _ => ?_)) (fun _ => rfl) fun _ => rfl
  rw [List.mem_filter, List.mem_range, m.linkState_wrs (by simp), Bool.or_eq_true, beq_iff_eq, beq_iff_eq]

/-- Settles O44: each row's writes are read back from the lists that its outcome lemma gives (`laserRelease_…`, `laserPlugged_…`), and
behind the side effects of a loss of light by `rdLoss_…`. -/
theorem lasers : Obligations.Lasers := by
  unfold Obligations.Lasers
  intro n1 p p0 p1 l l0 l1 s
  dsimp only
  refine ⟨fun hup hready => ⟨fun hpartner => does_of_lift rfl ?released, fun hpartner => does_of_lift rfl ?refused,
      fun hdim => does_of_lift rfl ?dim, fun hlit hfree => does_of_lift rfl ?plugged⟩,
    fun hup => ⟨fun hlit => does_of_lift rfl ?lost, fun hdark hlight => does_of_lift rfl ?appears⟩⟩
  case released =>
    rw [laserRelease_partnerLit hup hready hpartner]
    exact ⟨rd_laserWrites n1.toNat (by simp), rd_laserWrites n1.toNat (by simp), rd_laserWrites n1.toNat (by decide),
      fun f i hrelease hsafe hsingle => Mach.rd_wrs_of_ne (by simp [hrelease, hsafe, hsingle])⟩
  case refused =>
    rw [laserRelease_partnerDark hup hready hpartner]
    exact ⟨by simp, fun f i hrefused => by simp [hrefused]⟩
  case dim =>
    rw [laserPlugged_dim hready hdim]
    exact ⟨by simpa using p.isLt, fun f i hpower => by simp [hpower]⟩
  case plugged =>
    rw [laserPlugged_lights hready hlit hfree]
    exact ⟨rd_laserWrites n1.toNat (by simp), rd_laserWrites n1.toNat (power_fits p _), rd_laserWrites n1.toNat (by simp),
      rd_laserWrites n1.toNat (by simp), rd_laserWrites n1.toNat (b2n_lt_two _)⟩
  case lost =>
    cases hpartner : s.m.on (lightFld (1 - n1.toNat)) 0 with
    | true =>
      have hread {f : Fld} (h : f.lossAside = false) := rdLoss_laserUnitLoss_partnerLit (p := p) hup hlit hpartner h
      refine ⟨?_, ?_, fun _ => ⟨?_, fun k => ?_⟩, nofun⟩
      · exact (hread (lossAside_lightFld _) 0).trans (rd_laserWrites n1.toNat (by simp))
      · exact (hread (lossAside_powerFld _) 0).trans (rd_laserWrites n1.toNat (power_fits p _))
      · exact (hread rfl 0).trans (rd_laserWrites n1.toNat (by decide))
      · exact (hread rfl k).trans (Mach.linkState_wrs _ (by simp) 0 k)
    | false =>
      have hread {f : Fld} (h : f.lossAside = false) := rdLoss_laserUnitLoss_partnerDark (p := p) hup hlit hpartner h
      refine ⟨?_, ?_, nofun, fun _ => ⟨?_, fun k hk hdown => (hread rfl k).trans (if_pos ⟨rfl, hk, hdown⟩)⟩⟩
      · rw [hread (lossAside_lightFld _), if_neg (by simp)]
        exact rd_laserWrites n1.toNat (by simp)
      · rw [hread (lossAside_powerFld _), if_neg (by simp)]
        exact rd_laserWrites n1.toNat (power_fits p _)
      · rw [hread rfl, if_neg (by simp)]
        exact rd_laserWrites n1.toNat (by decide)
  case appears =>
    have hread {f : Fld} (h : f.lossAside = false) := rdLoss_lightAppears hup hdark hlight h
    have hdiff : [Fld.MOD_STATUS_NO_LIGHT, lightFld 0, lightFld 1, powerFld 0, powerFld 1, .FAB_LASER_SINGLE].Nodup := by decide
    refine ⟨?_, ?_, ?_, fun k => ?_⟩
    · rw [hread rfl, if_neg (by simp)]
      exact Mach.rd_wrs_of_mem hdiff (by simp) (by decide)
    · rw [hread (lossAside_lightFld 0), if_neg (by simp)]
      exact Mach.rd_wrs_of_mem hdiff (by simp) (b2n_lt_two _)
    · rw [hread (lossAside_lightFld 1), if_neg (by simp)]
      exact Mach.rd_wrs_of_mem hdiff (by simp) (b2n_lt_two _)
    · refine (hread rfl k).trans (ite_congr (propext (by simp)) (fun _ => rfl) fun _ => ?_)
      exact Mach.linkState_wrs _ (by simp) 0 k

end Sys2Proof.Machine

/-! The machine after cold reset (R14, R33), the queue of commands, and the invariant of the block (R435). -/
namespace Sys2Proof.Machine

/-! Facts of lists and of if that the core library states in another shape. -/

theorem ite_congr_of_iff {α : Type} {p q : Prop} [Decidable p] [Decidable q] {a b c d : α} (h : p ↔ q) (ha : a = c) (hb : b = d) :
    (if p then a else b) = if q then c else d :=
  ite_congr (propext h) (fun _ => ha) (fun _ => hb)

theorem ite_eq_then_or_else {α : Type} (p : Prop) [Decidable p] (a b : α) : (if p then a else b) = a ∨ (if p then a else b) = b := by
  split
  · exact .inl rfl
  · exact .inr rfl

theorem ite_cases {α : Type} {p : Prop} [Decidable p] {a b c : α} (h : (if p then a else b) = c) : p ∧ a = c ∨ ¬p ∧ b = c := by
  split at h
  next hp => exact .inl ⟨hp, h⟩
  next hp => exact .inr ⟨hp, h⟩

theorem getD_of_lt {α : Type} {l : List α} {i : Nat} (h : i < l.length) {d : α} : l.getD i d = l[i] := by
  rw [List.getD_eq_getElem?_getD, List.getElem?_eq_getElem h, Option.getD_some]

theorem filter_none {α : Type} (l : List α) : l.filter (fun _ => false) = [] := List.filter_eq_nil_iff.mpr fun _ _ => Bool.false_ne_true

theorem foldl_congr_of_mem {α β : Type} {f g : β → α → β} (l : List α) (b : β) (h : ∀ b, ∀ a ∈ l, f b a = g b a) : l.foldl f b = l.foldl g b := by
  induction l generalizing b with
  | nil => rfl
  | cons a l ih =>
    rw [List.foldl_cons, List.foldl_cons, h b a (List.mem_cons_self ..)]
    exact ih _ fun b a ha => h b a (List.mem_cons_of_mem _ ha)

/-! Reset. -/

theorem Mach.rd_reset (f : Fld) (i : Nat) : Mach.reset.rd f i = f.resetVal i := regDefault_key f i

/-- Settles O1: nothing has been written since cold reset, so that every register reads as its reset value. -/
theorem resetLeaves : Obligations.ResetLeaves := by
  unfold Obligations.ResetLeaves
  exact ⟨rfl, rfl, rfl, Mach.rd_reset, fun _ => rfl, Mach.rd_reset _ _, Mach.rd_reset _ _, Mach.rd_reset _ _, Mach.rd_reset _ _,
    fun _ _ => Mach.rd_reset _ _, fun _ => Mach.rd_reset _ _, fun _ => Mach.rd_reset _ _⟩

/-- Settles O2, by the two branches of `step`. -/
theorem stepRunsFrontCommand : Obligations.StepRunsFrontCommand := by
  unfold Obligations.StepRunsFrontCommand
  exact ⟨fun _ _ _ => rfl, fun s hidle => by rw [step, hidle]⟩

/-- Settles O3: the dispatcher's check comes before every meaning. -/
theorem reservedEncodingStops : Obligations.ReservedEncodingStops := by
  unfold Obligations.ReservedEncodingStops
  exact exec_ill

/-- Settles O4: no command waits at reset, and no fuse is blown. -/
theorem resetHasInv : Obligations.ResetHasInv :=
  ⟨fun _ hc => absurd hc List.not_mem_nil, Nat.zero_le _, Nat.zero_le _⟩

/-! The fused rollback counters (R435). -/

/-- A step from `a` leaves the fused counters at `b`: no lower, and within the 64 steps where they were so. -/
def Fuses.RisesTo (a b : Fuses) : Prop :=
  a.le b ∧ (a.kindling ≤ 64 → b.kindling ≤ 64) ∧ (a.cordwood ≤ 64 → b.cordwood ≤ 64)

theorem Fuses.RisesTo.of_eq {a b : Fuses} (hk : b.kindling = a.kindling) (hc : b.cordwood = a.cordwood) : a.RisesTo b :=
  ⟨⟨Nat.le_of_eq hk.symm, Nat.le_of_eq hc.symm⟩, fun h => hk ▸ h, fun h => hc ▸ h⟩

/-- FIELD_FUSE blows field slots (R91) and no rollback counter. -/
theorem fieldFuse_counters (s : State) : (Firm.fieldFuse s).pending = s.pending ∧
    (Firm.fieldFuse s).fuses.kindling = s.fuses.kindling ∧ (Firm.fieldFuse s).fuses.cordwood = s.fuses.cordwood := by
  unfold Firm.fieldFuse
  dsimp only
  repeat' split
  all_goals exact ⟨rfl, rfl, rfl⟩

theorem auxOut_eq (s : State) : (Power.auxOut s).pending = s.pending ∧ (Power.auxOut s).fuses = s.fuses := by
  unfold Power.auxOut
  split <;> exact ⟨rfl, rfl⟩

theorem auxIn_eq (addr : BitVec 3) (mv : BitVec 16) (s : State) :
    (Power.auxIn addr mv s).pending = s.pending ∧ (Power.auxIn addr mv s).fuses = s.fuses := by
  unfold Power.auxIn
  split <;> exact ⟨rfl, rfl⟩

/-- R435: SVN_COMMIT raises each counter to at most 64. -/
theorem svnCommit_rises (s : State) : (Firm.svnCommit s).pending = s.pending ∧ s.fuses.RisesTo (Firm.svnCommit s).fuses := by
  unfold Firm.svnCommit
  split
  · exact ⟨rfl, .of_eq rfl rfl⟩
  · split
    · exact ⟨rfl, .of_eq rfl rfl⟩
    · exact ⟨rfl, ⟨Nat.le_max_left _ _, Nat.le_max_left _ _⟩, fun h => Nat.max_le.mpr ⟨h, Nat.min_le_left _ _⟩,
        fun h => Nat.max_le.mpr ⟨h, Nat.min_le_left _ _⟩⟩

/-- A command that holds no reserved encoding completes, and leaves the queue; but for SVN_COMMIT it leaves the counters too. -/
theorem exec_completes (c : Instr) (s : State) (h : c.wf = true) : ∃ t, exec c s = .next t ∧ t.pending = s.pending ∧
    s.fuses.RisesTo t.fuses ∧
    (c ≠ .svnCommit → t.fuses.kindling = s.fuses.kindling ∧ t.fuses.cordwood = s.fuses.cordwood) := by
  cases hw : Instr.whole c with
  | false =>
    obtain ⟨f, hf⟩ := exec_lifts c s h hw
    exact ⟨_, hf, rfl, .of_eq rfl rfl, fun _ => ⟨rfl, rfl⟩⟩
  | true =>
    cases c with
    | fieldFuse =>
      obtain ⟨hp, hk, hc⟩ := fieldFuse_counters s
      exact ⟨_, rfl, hp, .of_eq hk hc, fun _ => ⟨hk, hc⟩⟩
    | svnCommit =>
      obtain ⟨hp, hr⟩ := svnCommit_rises s
      exact ⟨_, rfl, hp, hr, fun hne => absurd rfl hne⟩
    | aux12OutOfLimits =>
      obtain ⟨hp, hf⟩ := auxOut_eq s
      exact ⟨_, rfl, hp, .of_eq (by rw [hf]) (by rw [hf]), fun _ => by rw [hf]; exact ⟨rfl, rfl⟩⟩
    | aux12InLimits addr mv =>
      obtain ⟨hp, hf⟩ := auxIn_eq addr mv s
      exact ⟨_, rfl, hp, .of_eq (by rw [hf]) (by rw [hf]), fun _ => by rw [hf]; exact ⟨rfl, rfl⟩⟩
    | _ => exact absurd hw Bool.false_ne_true

/-- Settles O5: a step runs the front command, which completes as every well-formed command does (`exec_completes`). -/
theorem stepKeepsInv : Obligations.StepKeepsInv := by
  unfold Obligations.StepKeepsInv
  intro s ⟨hwf, hk, hc⟩
  cases hp : s.pending with
  | nil => exact ⟨s.lift Mach.idle, by rw [step, hp], ⟨hwf, hk, hc⟩, ⟨Nat.le_refl _, Nat.le_refl _⟩, hp⟩
  | cons c rest =>
    rw [hp] at hwf
    obtain ⟨t, ht, hpend, ⟨hle, hk64, hc64⟩, -⟩ := exec_completes c { s with pending := rest } (hwf c List.mem_cons_self)
    refine ⟨t, by rw [step, hp]; exact ht, ⟨fun c' hc' => ?_, hk64 hk, hc64 hc⟩, hle, hpend⟩
    rw [hpend] at hc'
    exact hwf c' (List.mem_cons_of_mem _ hc')

end Sys2Proof.Machine

/-! The words of the ZVI instructions (R174, R175, Tables ZVI-1 to ZVI-9): a field is read back from the word that it is packed into,
and the decoder reads back every instruction. -/
namespace Sys2Proof.Machine

/-! Fields packed into a word. -/

/-- The value that fields make, before it is cut to 64 bits. -/
def fieldSum (fs : List FieldVal) : Nat := (fs.map fun f => f.val * 2 ^ f.lo).sum

theorem toNat_fieldWord (fs : List FieldVal) : (fieldWord fs).toNat = fieldSum fs % 2 ^ 64 := by
  rw [fieldWord, BitVec.toNat_ofNat, ← List.sum_eq_foldl, fieldSum]

theorem fieldWord_reverse (fs : List FieldVal) : fieldWord fs.reverse = fieldWord fs :=
  BitVec.eq_of_toNat_eq (by rw [toNat_fieldWord, toNat_fieldWord, fieldSum, fieldSum, List.map_reverse, List.sum_reverse])

/-- The fields stand below bit `n`, the highest first, and none reaches into the one before it. -/
def Packed : Nat → List FieldVal → Prop
  | _, [] => True
  | n, f :: fs => (f.val + 1) * 2 ^ f.lo ≤ 2 ^ n ∧ Packed f.lo fs

@[simp] theorem packed_nil (n : Nat) : Packed n [] := trivial

@[simp] theorem packed_cons {n w lo : Nat} (v : BitVec w) {fs : List FieldVal} (hn : lo + w ≤ n) :
    Packed n (fld lo v :: fs) ↔ Packed lo fs := by
  refine ⟨And.right, fun hfs => ⟨?_, hfs⟩⟩
  calc (v.toNat + 1) * 2 ^ lo ≤ 2 ^ w * 2 ^ lo := Nat.mul_le_mul_right _ v.isLt
    _ = 2 ^ (lo + w) := by rw [← Nat.pow_add, Nat.add_comm w]
    _ ≤ 2 ^ n := Nat.pow_le_pow_right (by decide) hn

theorem fieldSum_lt {n : Nat} {fs : List FieldVal} (h : Packed n fs) : fieldSum fs < 2 ^ n := by
  induction fs generalizing n with
  | nil => exact Nat.two_pow_pos n
  | cons f fs ih =>
    obtain ⟨hn, hfs⟩ := h
    have hlow := ih hfs
    calc fieldSum (f :: fs) = f.val * 2 ^ f.lo + fieldSum fs := rfl
      _ < (f.val + 1) * 2 ^ f.lo := by rw [Nat.add_mul]; omega
      _ ≤ 2 ^ n := hn

theorem toNat_rdf_fieldWord {lo w : Nat} (fs : List FieldVal) (h : lo + w ≤ 64) :
    (rdf (fieldWord fs) lo w).toNat = fieldSum fs / 2 ^ lo % 2 ^ w := by
  have h64 : (2 : Nat) ^ 64 = 2 ^ lo * 2 ^ (64 - lo) := by rw [← Nat.pow_add]; congr 1; omega
  rw [rdf, BitVec.extractLsb'_toNat, toNat_fieldWord, Nat.shiftRight_eq_div_pow, h64, Nat.mod_mul_right_div_self,
    Nat.mod_mod_of_dvd _ (Nat.pow_dvd_pow 2 (by omega))]

/-- A read below the first field does not see it. -/
@[simp] theorem rdf_fieldWord_cons {lo w hi val : Nat} {fs : List FieldVal} (h : lo + w ≤ hi) (hhi : hi ≤ 64) :
    rdf (fieldWord (⟨hi, val⟩ :: fs)) lo w = rdf (fieldWord fs) lo w := by
  apply BitVec.eq_of_toNat_eq
  rw [toNat_rdf_fieldWord _ (by omega), toNat_rdf_fieldWord _ (by omega)]
  have hf : val * 2 ^ hi = val * 2 ^ (hi - lo - w) * 2 ^ w * 2 ^ lo := by
    rw [Nat.mul_assoc, Nat.mul_assoc, ← Nat.pow_add, ← Nat.pow_add]; congr 2; omega
  show (val * 2 ^ hi + fieldSum fs) / 2 ^ lo % 2 ^ w = _
  rw [hf, Nat.add_comm, Nat.add_mul_div_right _ _ (Nat.two_pow_pos lo), Nat.add_mul_mod_self_right]

@[simp] theorem rdf_fieldWord_below {lo w hi u : Nat} (v : BitVec u) {fs : List FieldVal} (h : lo + w ≤ hi) (hhi : hi ≤ 64) :
    rdf (fieldWord (fld hi v :: fs)) lo w = rdf (fieldWord fs) lo w := rdf_fieldWord_cons h hhi

theorem toNat_rdf_fieldWord_first {lo w val : Nat} {fs : List FieldVal} (h : lo + w ≤ 64) (hval : val < 2 ^ w) (hfs : Packed lo fs) :
    (rdf (fieldWord (⟨lo, val⟩ :: fs)) lo w).toNat = val := by
  rw [toNat_rdf_fieldWord _ h]
  show (val * 2 ^ lo + fieldSum fs) / 2 ^ lo % 2 ^ w = val
  rw [Nat.add_comm, Nat.add_mul_div_right _ _ (Nat.two_pow_pos lo), Nat.div_eq_of_lt (fieldSum_lt hfs), Nat.zero_add,
    Nat.mod_eq_of_lt hval]

/-- A read of the first field gives its value. -/
@[simp] theorem rdf_fieldWord_first {lo w : Nat} (v : BitVec w) {fs : List FieldVal} (h : lo + w ≤ 64) (hfs : Packed lo fs) :
    rdf (fieldWord (fld lo v :: fs)) lo w = v :=
  BitVec.eq_of_toNat_eq (toNat_rdf_fieldWord_first h v.isLt hfs)

/-- The opcode stands above every field of word 0. -/
theorem opcode_fieldWord {op : Nat} {fs : List FieldVal} (hop : op < 1024) (hfs : Packed 54 fs) :
    (rdf (fieldWord (⟨54, op⟩ :: fs)) 54 10).toNat = op :=
  toNat_rdf_fieldWord_first (by decide) hop hfs




/-! The fields of several instructions in common. -/

theorem readVec_fieldWord (op : Nat) (f : VecF) : readVec (fieldWord (⟨54, op⟩ :: vecFields f)) = f := by
  simp [readVec, vecFields]

theorem readDma_fieldWord (op : Nat) (f : DmaF) : readDma (fieldWord (⟨54, op⟩ :: dmaFields f)) = f := by
  simp [readDma, dmaFields]

theorem readDrain_fieldWord (op : Nat) (f : DrainF) :
    readDrain (fieldWord (⟨54, op⟩ :: drainFields f)) (fieldWord (drainFields1 f)) = f := by
  rw [← fieldWord_reverse (drainFields1 f)]
  simp [readDrain, drainFields, drainFields1]

theorem readOpt_fieldWord (op : Nat) (f : OptF) :
    readOpt (fieldWord (⟨54, op⟩ :: optFields f)) (fieldWord (optFields1 f)) = f := by
  rw [← fieldWord_reverse (optFields1 f)]
  simp [readOpt, optFields, optFields1]

theorem fieldWord_whole (v : Word64) : fieldWord [fld 0 v] = v := BitVec.eq_of_toNat_eq (by simp [fieldWord, fld])

theorem readSdef_fieldWord (op : Nat) (t : ThreadId) (d : SdefF) :
    readSdef (fieldWord (⟨54, op⟩ :: word0Fields (.sdef t d)) :: (moreFields (.sdef t d)).map fieldWord) = some d := by
  have hcount01 := fieldWord_reverse [fld 0 d.count0, fld 24 d.count1, fld 48 d.tmod]
  have hcount23 := fieldWord_reverse [fld 0 d.count2, fld 24 d.count3, fld 48 d.tshift]
  simp only [moreFields, List.map_cons, List.map_nil, ← hcount01, ← hcount23]
  simp [readSdef, word0Fields, fieldWord_whole]

/-! The decoder on the words of an instruction. -/

/-- The fields of word 0 stand below the opcode, in every instruction. -/
theorem packed_word0Fields (i : Instr) : Packed 54 (word0Fields i) := by
  cases i <;> simp [word0Fields, vecFields, drainFields, optFields, dmaFields]

theorem opcode_lt {i : Instr} {op : Nat} (h : opcodeOf i = some op) : op < 1024 := by
  cases i <;> cases h <;> decide

/-- The decoder reads back the fields of every instruction from the words that they are packed into. -/
theorem zviRead_words {i : Instr} {t : ThreadId} {op : Nat} (ht : threadOf i = some t) (hop : opcodeOf i = some op) :
    zviRead t (fieldWord (⟨54, op⟩ :: word0Fields i) :: (moreFields i).map fieldWord) = some i := by
  have hread := opcode_fieldWord (opcode_lt hop) (packed_word0Fields i)
  cases i <;> cases ht <;> cases hop
  case sdef.refl.refl =>
    exact (if_pos hread).trans (congrArg (Option.map _) (readSdef_fieldWord ..))
  case' tdrain.refl.refl | tdraing.refl.refl =>
    show decode2 _ _ _ = _
    simp only [decode2, hread]
    exact congrArg _ (congrArg _ (readDrain_fieldWord ..))
  case' vadamw.refl.refl | vlion.refl.refl | vsgdm.refl.refl =>
    show decode2 _ _ _ = _
    simp only [decode2, hread]
    exact congrArg _ (congrArg _ (readOpt_fieldWord ..))
  all_goals
    show decode1 _ _ = _
    simp only [decode1, hread, decodeCtl, decodeVec, decodeEng, Option.orElse_some, Option.orElse_none]
  all_goals simp [word0Fields, readVec_fieldWord, readDma_fieldWord]

theorem opcodeOf_of_threadOf {i : Instr} {t : ThreadId} (h : threadOf i = some t) : ∃ op, opcodeOf i = some op := by
  cases i <;> cases h <;> exact ⟨_, rfl⟩

/-- Settles O13: the encoder gives the words whose fields the decoder reads back (`zviRead_words`), so that its check of the reserved
bits passes too. -/
theorem decodeOfEncode : Obligations.DecodeOfEncode := by
  unfold Obligations.DecodeOfEncode
  intro i t ht
  obtain ⟨op, hop⟩ := opcodeOf_of_threadOf ht
  have henc : zviEncode i = some (fieldWord (⟨54, op⟩ :: word0Fields i) :: (moreFields i).map fieldWord) := by
    rw [zviEncode, hop]; rfl
  exact ⟨_, henc, by rw [zviDecode, zviRead_words ht hop]; exact if_pos henc⟩

/-! The words that the decoder accepts. -/

theorem threadOf_decodeCtl {t : ThreadId} {op : Nat} {v : Word64} {i : Instr} (h : decodeCtl t op v = some i) :
    threadOf i = some t := by
  unfold decodeCtl at h
  split at h <;> cases h <;> rfl

theorem threadOf_decodeVec {t : ThreadId} {op : Nat} {v : Word64} {i : Instr} (h : decodeVec t op v = some i) :
    threadOf i = some t := by
  unfold decodeVec at h
  dsimp only at h
  split at h <;> cases h <;> rfl

theorem threadOf_decodeEng {t : ThreadId} {op : Nat} {v : Word64} {i : Instr} (h : decodeEng t op v = some i) :
    threadOf i = some t := by
  unfold decodeEng at h
  split at h <;> cases h <;> rfl

theorem threadOf_decode1 {t : ThreadId} {v : Word64} {i : Instr} (h : decode1 t v = some i) : threadOf i = some t := by
  unfold decode1 at h
  dsimp only at h
  cases hctl : decodeCtl t (rdf v 54 10).toNat v with
  | some j => rw [hctl] at h; exact threadOf_decodeCtl (hctl.trans h)
  | none =>
    cases hvec : decodeVec t (rdf v 54 10).toNat v with
    | some j => rw [hctl, hvec] at h; exact threadOf_decodeVec (hvec.trans h)
    | none => rw [hctl, hvec] at h; exact threadOf_decodeEng h

theorem threadOf_decode2 {t : ThreadId} {v u : Word64} {i : Instr} (h : decode2 t v u = some i) : threadOf i = some t := by
  unfold decode2 at h
  split at h <;> cases h <;> rfl

/-- The instruction that is read is the reading thread's. -/
theorem threadOf_zviRead {t : ThreadId} {ws : List Word64} {i : Instr} (h : zviRead t ws = some i) : threadOf i = some t := by
  unfold zviRead at h
  split at h
  · exact threadOf_decode1 h
  · exact threadOf_decode2 h
  · split at h
    · obtain ⟨d, -, rfl⟩ := Option.map_eq_some_iff.1 h
      rfl
    · cases h
  · cases h

/-- Settles O14: the decoder accepts words only where they are those of the instruction that it reads. -/
theorem encodeOfDecode : Obligations.EncodeOfDecode := by
  unfold Obligations.EncodeOfDecode
  intro t ws i h
  unfold zviDecode at h
  split at h
  · next j hread =>
    split at h
    · next henc =>
      cases h
      refine ⟨henc, threadOf_zviRead hread, fun hop => ?_⟩
      rw [zviEncode, hop] at henc
      cases henc
    · cases h
  · cases h

end Sys2Proof.Machine

/-! CTXJOIN, HALT, TICKW, DWAIT, FWAIT and CTXSTART (R158, R159, R167, R183, R184, R213): each issues, and its context, or the one that
it starts, is as the instruction says. -/
namespace Sys2Proof.Machine

theorem Mach.rdAside_flag {m m' : Mach} (h : ∀ f i, f.aside = false → m'.rd f i = m.rd f i) (d : Nat) (g : Bool) (n : Nat) :
    m'.flag d g n = m.flag d g n := by
  unfold Mach.flag
  rw [h _ _ rfl, h _ _ rfl]

@[simp] theorem Mach.flag_issue (m : Mach) (k w d : Nat) (g : Bool) (n : Nat) : (m.issue k w).flag d g n = m.flag d g n :=
  Mach.rdAside_flag (fun _ i h => Mach.rdAside_issue h i m k w) d g n

@[simp] theorem Mach.flag_issued (m : Mach) (k d : Nat) (g : Bool) (n : Nat) : (m.issued k).flag d g n = m.flag d g n :=
  Mach.rdAside_flag (fun _ i h => Mach.rdAside_issued h i m k) d g n

/-- What follows an issue leaves a context that waits (R183). -/
theorem Mach.ctx_issued_of_waits {m : Mach} {k : Nat} (h : (m.ctx k).wait ≠ .none) : (m.issued k).ctx k = m.ctx k := by
  have hcut : ∀ m : Mach, (m.cutCheck k).ctx k = m.ctx k := by
    intro m
    unfold Mach.cutCheck
    repeat' split
    all_goals rfl
  rw [Mach.issued, hcut]
  unfold Mach.implicitHalt
  split
  · rw [if_neg]
    simp [h]
  · rfl

section
variable {t : ThreadId} {m : Mach} (hi : m.canIssue (threadNum t) = true)
include hi

/-- A control instruction after whose issue the context waits: R159, R177. -/
theorem control_waitsFor {f : Nat → Mach → Mach} {w : Wait} (hw : w ≠ .none)
    (hf : f (threadNum t) (m.issue (threadNum t) 1) = (m.issue (threadNum t) 1).waitFor (threadNum t) w) :
    m.Issued (control t f m) (threadNum t) ∧ (∀ g, (control t f m).core g = (m.lineUsed (threadNum t)).core g) ∧
    (control t f m).ctx (threadNum t) = { m.ctx (threadNum t) with
      icount := ((m.ctx (threadNum t)).icount + 1) % 2 ^ 48, pc := (m.ctx (threadNum t)).pc + 1, wait := w, since := m.time } := by
  have hctx : ((m.issue (threadNum t) 1).waitFor (threadNum t) w).ctx (threadNum t) = { m.ctx (threadNum t) with
      icount := ((m.ctx (threadNum t)).icount + 1) % 2 ^ 48, pc := (m.ctx (threadNum t)).pc + 1, wait := w, since := m.time } := by
    rw [Mach.waitFor, Mach.ctx_onCtx, if_pos rfl, Mach.ctx_issue_self, Mach.time_issue]; rfl
  rw [control_eq t f m hi, hf]
  refine ⟨Mach.issued_onCtx m (threadNum t) 1 _ fun _ => rfl, fun g => ?_, ?_⟩
  · rw [Mach.core_issued]; exact Mach.core_issue m (threadNum t) 1 g
  · rw [Mach.ctx_issued_of_waits (by rw [hctx]; exact hw), hctx]

end

/-- Where a context waits for nothing, what follows an issue may begin its implicit HALT (R183), and no other wait. -/
theorem Mach.wait_issued {m : Mach} {k : Nat} (h : (m.ctx k).wait = .none) :
    ((m.issued k).ctx k).wait = .none ∨ ((m.issued k).ctx k).wait = .halt := by
  have hcut : ∀ m : Mach, (m.cutCheck k).ctx k = m.ctx k := by
    intro m
    unfold Mach.cutCheck
    repeat' split
    all_goals rfl
  rw [Mach.issued, hcut]
  unfold Mach.implicitHalt
  split
  · split
    · exact .inr (by rw [Mach.ctx_onCtx, if_pos rfl])
    · exact .inl h
  · exact .inl h

/-- R167: after an FWAIT whose count is reached the context does not wait for the flag; else it waits for it. -/
theorem Mach.wait_wakeFlags {m : Mach} {k n th : Nat} {g : Bool} (hw : (m.ctx k).wait = .flag g n th) :
    (m.wakeFlags.ctx k).wait = if th ≤ m.flag (thrDie k) g n then .none else .flag g n th := by
  rw [Mach.ctx_wakeFlags, Mach.woken]
  simp only [hw]
  split
  · rfl
  · exact hw

/-- R167: a context waits after its FWAIT exactly while the count is below the threshold. -/
theorem Mach.wait_fwait_iff {m : Mach} {k n th : Nat} {g : Bool} (hw : (m.ctx k).wait = .flag g n th) :
    ((m.wakeFlags.issued k).ctx k).wait = .flag g n th ↔ m.flag (thrDie k) g n < th := by
  have hwoken := m.wait_wakeFlags hw
  by_cases hmet : th ≤ m.flag (thrDie k) g n
  · rw [if_pos hmet] at hwoken
    refine ⟨fun hflag => ?_, fun hlt => absurd hmet (Nat.not_le.2 hlt)⟩
    obtain h | h := Mach.wait_issued hwoken <;> rw [h] at hflag <;> cases hflag
  · rw [if_neg hmet] at hwoken
    refine ⟨fun _ => Nat.not_le.1 hmet, fun _ => ?_⟩
    rw [Mach.ctx_issued_of_waits (by rw [hwoken]; nofun), hwoken]

theorem wf_flag_iff (g : BitVec 1) (flag : BitVec 8) : wfFlag g flag = true ↔ g = 0 ∨ flag.toNat < 64 := by
  rw [wfFlag, Bool.or_eq_true, beq_iff_eq, decide_eq_true_iff]

/-- Settles O7: an instruction that waits leaves what `control_waitsFor` says; FWAIT wakes its own context where the count is reached. -/
theorem waitingInstructions : Obligations.WaitingInstructions := by
  unfold Obligations.WaitingInstructions
  refine ⟨fun t ctx mask s hi => ⟨?join, ?halt, ?tick, fun hmask => ?dma⟩, fun t g flag thresh s hi hflag => ?fwait⟩
  case join => exact does_of_lift rfl (control_waitsFor hi (by nofun) rfl)
  case halt => exact does_of_lift rfl (control_waitsFor hi (by nofun) rfl)
  case tick => exact does_of_lift rfl (control_waitsFor hi (by nofun) rfl)
  case dma => exact does_of_lift (if_pos (bne_iff_ne.2 hmask)) (control_waitsFor hi (by nofun) (by rw [Mach.ctx_issue_self]; rfl))
  case fwait =>
    refine does_of_lift (if_pos ((wf_flag_iff g flag).2 hflag)) ?_
    rw [Control.fwait, control_eq t _ s.m hi]
    generalize threadNum t = k
    obtain ⟨m1, hm1⟩ : ∃ m1, m1 = (s.m.issue k 1).waitFor k (.flag (g == 1) flag.toNat thresh.toNat) := ⟨_, rfl⟩
    rw [← hm1]
    have hctx : m1.ctx k = { (s.m.ctx k).goneOn s.m.time ((s.m.ctx k).pc + 1) (s.m.ctx k).loops with
        wait := .flag (g == 1) flag.toNat thresh.toNat, since := (s.m.issue k 1).time } := by
      rw [hm1, Mach.waitFor, Mach.ctx_onCtx, if_pos rfl, Mach.ctx_issue_self]
    obtain ⟨hicount, hpc, -⟩ := Mach.ctx_issued m1.wakeFlags k k
    obtain ⟨hic, hp, -⟩ := Mach.woken_keeps m1 k (m1.ctx k)
    have hreads (d : Nat) (g' : Bool) (n : Nat) : m1.flag d g' n = s.m.flag d g' n := by
      rw [hm1]; exact Mach.flag_issue s.m k 1 d g' n
    refine ⟨?_, ?_, ?_, fun d g' n => ?_, fun h => ?_, fun a => ?_⟩
    · rw [Mach.wait_fwait_iff (by rw [hctx]), hreads]
    · rw [hicount, Mach.ctx_wakeFlags, hic, hctx]; rfl
    · rw [hpc, Mach.ctx_wakeFlags, hp, hctx]; rfl
    · rw [Mach.flag_issued]; exact hreads d g' n
    · rw [Mach.core_issued, hm1]; exact Mach.core_issue s.m k 1 h
    · rw [Mach.issued_eq, hm1, Mach.issue_eq]; rfl

/-! CTXSTART (R158, R183). -/

/-- One field written in several instances. -/
theorem Mach.rd_foldl_wr (is : List Nat) (m : Mach) (f f' : Fld) (v : Nat → Nat) (i' : Nat) :
    (is.foldl (fun m i => m.wr f i (v i)) m).rd f' i' = if f' = f ∧ i' ∈ is then v i' % 2 ^ f.width else m.rd f' i' := by
  induction is generalizing m with
  | nil => simp
  | cons j is ih =>
    rw [List.foldl_cons, ih, Mach.rd_wr]
    by_cases hf : f' = f
    · by_cases hj : i' = j <;> simp [hf, hj]
    · simp [hf]

theorem Mach.foldl_wr_eq (is : List Nat) (m : Mach) (f : Fld) (v : Nat → Nat) :
    is.foldl (fun m i => m.wr f i (v i)) m = { m with regs := (is.foldl (fun m i => m.wr f i (v i)) m).regs } := by
  induction is generalizing m with
  | nil => rfl
  | cons j is ih => rw [List.foldl_cons, ih]; rfl

/-- R183: an idle context starts; the module is else as the issue left it. -/
theorem ctxStart_idle {m : Mach} {k ctx target : Nat} (h : m.ctxLive (k - thrCtx k + ctx) = false) :
    ctxStart ctx target k m = m.onCtx (k - thrCtx k + ctx) fun c => c.start m.time target := by
  rw [ctxStart, h]; rfl

theorem ctxStart_live {m : Mach} {k ctx target : Nat} (h : m.ctxLive (k - thrCtx k + ctx) = true) :
    ctxStart ctx target k m = (m.members k).foldl (fun m g => m.wr .CC_STATUS_START_BUSY g 1) m := by
  rw [ctxStart, h]; rfl

/-- A context that has just issued runs. -/
theorem Mach.ctxLive_issue_self {m : Mach} {k : Nat} (h : (m.ctx k).running = true) (w : Nat) : (m.issue k w).ctxLive k = true := by
  unfold Mach.ctxLive
  simp only [Mach.ctx_issue_self]
  show ((m.ctx k).running && _) = true
  rw [h]; rfl

end Sys2Proof.Machine

namespace Sys2Proof
open Machine

/-- Settles O8: the two branches of `ctxStart`, after an issue that keeps what other contexts do (`Mach.ctxLive_issue`). -/
theorem ctxStart : Obligations.CtxStart := by
  unfold Obligations.CtxStart
  intro t ctx target s hi
  dsimp only
  have hrun := Mach.running_of_canIssue hi
  refine ⟨fun hne hidle => does_of_lift rfl ?idle, fun hlive => does_of_lift rfl ?live⟩
  all_goals rw [Control.ctxstart, control_eq t _ s.m hi]
  all_goals generalize threadNum t = k at *
  case idle =>
    generalize hj : k - thrCtx k + ctx.toNat = j at *
    rw [ctxStart_idle (by rw [hj, Mach.ctxLive_issue _ _ _ _ hne]; exact hidle), hj, Mach.time_issue]
    obtain ⟨hicount, hpc, -⟩ := Mach.ctx_issued ((s.m.issue k 1).onCtx j fun c => c.start s.m.time target.toNat) k k
    refine ⟨?_, ?_, ?_, fun l hlk hlj => ?_, fun g => ?_, fun a => ?_⟩
    · rw [Mach.ctx_issued_ne _ _ _ hne, Mach.ctx_onCtx, if_pos rfl, Mach.ctx_issue, if_neg hne]; rfl
    · rw [hicount, Mach.ctx_onCtx, if_neg hne.symm, Mach.ctx_issue_self]; rfl
    · rw [hpc, Mach.ctx_onCtx, if_neg hne.symm, Mach.ctx_issue_self]; rfl
    · rw [Mach.ctx_issued_ne _ _ _ hlk, Mach.ctx_onCtx, if_neg hlj, Mach.ctx_issue, if_neg hlk]
    · rw [Mach.core_issued]; exact Mach.core_issue s.m k 1 g
    · rw [Mach.issued_eq, Mach.issue_eq]; rfl
  case live =>
    have hlive' : (s.m.issue k 1).ctxLive (k - thrCtx k + ctx.toNat) = true := by
      by_cases hself : k - thrCtx k + ctx.toNat = k
      · rw [hself]; exact Mach.ctxLive_issue_self hrun 1
      · rw [Mach.ctxLive_issue _ _ _ _ hself]; exact hlive.resolve_left hself
    rw [ctxStart_live hlive', Mach.members_issue]
    generalize hm1 : (s.m.members k).foldl (fun m g => m.wr .CC_STATUS_START_BUSY g 1) (s.m.issue k 1) = m1
    have hctx (l : Nat) : m1.ctx l = (s.m.issue k 1).ctx l :=
      by rw [← hm1, Mach.foldl_wr_eq _ _ _ fun _ => 1]; rfl
    obtain ⟨hicount, hpc, -⟩ := Mach.ctx_issued m1 k k
    refine ⟨fun g hg => ?_, ?_, ?_, fun l hlk => ?_, fun g => ?_⟩
    · rw [Mach.rd_issued _ _ _ _ (by decide), ← hm1, Mach.rd_foldl_wr _ _ _ _ fun _ => 1, if_pos ⟨rfl, hg⟩]; rfl
    · rw [hicount, hctx, Mach.ctx_issue_self]; rfl
    · rw [hpc, hctx, Mach.ctx_issue_self]; rfl
    · rw [Mach.ctx_issued_ne _ _ _ hlk, hctx, Mach.ctx_issue, if_neg hlk]
    · rw [Mach.core_issued, ← Mach.core_issue s.m k 1 g, ← hm1, Mach.foldl_wr_eq _ _ _ fun _ => 1]; rfl

end Sys2Proof

/-! MARK and its trace record (R186, R480), and the flag instructions at issue and deferred (R160, R167-R169, R180). -/
namespace Sys2Proof.Machine

/-! Trace records. -/

@[simp] theorem Mach.buf_setBuf (m : Mach) (q q' : Nat) (b : TraceBuf) : (m.setBuf q b).buf q' = if q' = q then b else m.buf q' := by
  simp only [Mach.buf, Mach.setBuf, NMap.get_set]

theorem Mach.buf_bump (m : Mach) (f : Fld) (i n q : Nat) : (m.bump f i n).buf q = m.buf q := by rw [Mach.bump_eq]; rfl

/-- A record changes its region's buffer and the count of dropped records alone. -/
theorem Mach.traceRec_setBuf (m : Mach) (r : TraceRec) : ∃ b d, m.traceRec r = (m.setBuf r.src b).bump .DBG_TRACE_DROPPED 0 d :=
  ⟨_, _, rfl⟩

theorem Mach.traceRec_eq (m : Mach) (r : TraceRec) :
    m.traceRec r = { m with regs := (m.traceRec r).regs, dbg := (m.traceRec r).dbg } := by
  obtain ⟨b, d, h⟩ := m.traceRec_setBuf r
  rw [h, Mach.bump_eq]; rfl

/-- A record that finds a place in its region's buffer, where nothing has been dropped, enters it. -/
theorem Mach.recs_traceRec {m : Mach} {r : TraceRec} (hroom : (m.buf r.src).recs.length < 16) (hdrops : (m.buf r.src).drops = 0) :
    ((m.traceRec r).buf r.src).recs =
      (m.buf r.src).recs ++ [{ r with s := (m.buf r.src).stretched, g := (m.buf r.src).gated }] := by
  unfold Mach.traceRec
  have hoffer : (m.buf r.src).offer r =
      (⟨(m.buf r.src).recs ++ [{ r with s := (m.buf r.src).stretched, g := (m.buf r.src).gated }], 0, 0, false, false⟩, 0) := by
    simp [TraceBuf.offer, hdrops, hroom]
  simp only [hoffer, Mach.buf_bump, Mach.buf_setBuf, if_pos]

theorem Mach.buf_traceRec_ne {m : Mach} {r : TraceRec} {q : Nat} (h : q ≠ r.src) : (m.traceRec r).buf q = m.buf q := by
  obtain ⟨b, d, hr⟩ := m.traceRec_setBuf r
  rw [hr, Mach.buf_bump, Mach.buf_setBuf, if_neg h]

theorem Mach.foldl_traceRec_eq (rs : List TraceRec) (m : Mach) :
    rs.foldl Mach.traceRec m = { m with regs := (rs.foldl Mach.traceRec m).regs, dbg := (rs.foldl Mach.traceRec m).dbg } := by
  induction rs generalizing m with
  | nil => rfl
  | cons r rs ih => rw [List.foldl_cons, ih, Mach.traceRec_eq]

theorem Mach.offerPending_eq (m : Mach) (q : Nat) :
    m.offerPending q = { m with regs := (m.offerPending q).regs, dbg := (m.offerPending q).dbg } := by
  unfold Mach.offerPending
  split
  · rfl
  · rw [Mach.foldl_traceRec_eq]

/-- The rest of a snapshot of another region leaves a region's buffer. -/
theorem Mach.buf_offerPending_ne {m : Mach} {q p : Nat} (h : q ≠ p) : (m.offerPending p).buf q = m.buf q := by
  unfold Mach.offerPending
  split
  · rfl
  · generalize hrs : m.dbg.snapQ.filter (·.src == p) = rs
    have hsrc : ∀ r ∈ rs, q ≠ r.src := fun r hr => by
      rw [← hrs] at hr
      rw [beq_iff_eq.1 (List.mem_filter.1 hr).2]; exact h
    show _ = Mach.buf { m with dbg := { m.dbg with snapQ := m.dbg.snapQ.filter (·.src != p) } } q
    generalize ({ m with dbg := { m.dbg with snapQ := m.dbg.snapQ.filter (·.src != p) } } : Mach) = m1
    clear hrs
    induction rs generalizing m1 with
    | nil => rfl
    | cons r rs ih =>
      rw [List.foldl_cons, ih (fun x hx => hsrc x (List.mem_cons_of_mem _ hx)), Mach.buf_traceRec_ne (hsrc r List.mem_cons_self)]

/-- A region of which no snapshot record waits has nothing to offer. -/
theorem Mach.buf_offerPending_of_none {m : Mach} {q : Nat} (h : ∀ x ∈ m.dbg.snapQ, x.src ≠ q) (p : Nat) :
    (m.offerPending q).buf p = m.buf p := by
  have hnone : m.dbg.snapQ.filter (·.src == q) = [] :=
    List.filter_eq_nil_iff.2 fun x hx => by rw [beq_iff_eq]; exact h x hx
  unfold Mach.offerPending
  rw [hnone]
  split <;> rfl

theorem Mach.trace_eq (m : Mach) (q ty : Nat) (p : List Byte) :
    m.trace q ty p = { m with regs := (m.trace q ty p).regs, dbg := (m.trace q ty p).dbg } := by
  unfold Mach.trace
  split
  · rw [Mach.traceRec_eq, Mach.offerPending_eq]
  · rfl

theorem Mach.buf_trace_ne {m : Mach} {q p ty : Nat} {x : List Byte} (h : q ≠ p) : (m.trace p ty x).buf q = m.buf q := by
  unfold Mach.trace
  split
  · rw [Mach.buf_traceRec_ne h, Mach.buf_offerPending_ne h]
  · rfl

/-- R480: an event of an enabled type enters its region's buffer, which has room and has dropped nothing. -/
theorem Mach.recs_trace {m : Mach} {q ty : Nat} {p : List Byte} (hon : m.tracing = true) (hty : m.typeOn ty = true)
    (hroom : (m.buf q).recs.length < 16) (hdrops : (m.buf q).drops = 0) (hsnap : ∀ x ∈ m.dbg.snapQ, x.src ≠ q) :
    ((m.trace q ty p).buf q).recs = (m.buf q).recs ++
      [⟨m.time, m.rd .TICK_NUMBER 0 % 2 ^ 48, q, (m.buf q).stretched, (m.buf q).gated, ty, p⟩] := by
  have hbuf := m.buf_offerPending_of_none hsnap q
  rw [Mach.trace, hon, hty, Bool.true_and, if_pos rfl, ← hbuf]
  rw [← hbuf] at hroom hdrops
  exact Mach.recs_traceRec (r := m.recNow q ty p) hroom hdrops

theorem Mach.trigger_eq (m : Mach) (b : Nat) : m.trigger b = { m with regs := (m.trigger b).regs, dbg := (m.trigger b).dbg } := by
  unfold Mach.trigger
  split
  · rw [Mach.trace_eq]; rfl
  · rfl

theorem Mach.buf_trigger_ne {m : Mach} {q b : Nat} (h : q ≠ srcHub) : (m.trigger b).buf q = m.buf q := by
  unfold Mach.trigger
  split
  · rw [Mach.buf_trace_ne h]; rfl
  · rfl

/-! MARK (R186). -/

/-- The trace region of a thread: its die's, or its core's. -/
def markSrc (k : Nat) : Nat := if thrForm k = 0 then srcDie (thrDie k) else thrDie k * 16 + thrUnit k

theorem threadNum_lt (t : ThreadId) : threadNum t < 1024 := by
  have hdie := t.die.isLt
  have hform := t.form.isLt
  have hunit := t.unit.isLt
  have hctx := t.ctx.isLt
  rw [threadNum]; omega

theorem markSrc_lt (t : ThreadId) : markSrc (threadNum t) < srcHub := by
  have h := threadNum_lt t
  rw [markSrc, srcDie, srcHub, thrDie, thrUnit]
  split <;> omega

/-- The payload of a cairn record: VALUE, ICOUNT, CLASS with the form, and the thread's place. -/
def cairnPayload (cls value k icount : Nat) : List Byte :=
  leBytes 4 value ++ leBytes 6 icount ++ leBytes 1 (cls + 16 * thrForm k) ++ leBytes 1 (thrDie k + 4 * thrCtx k) ++ leBytes 1 (thrUnit k)

theorem mark_cases (cls value k : Nat) (m : Mach) :
    let m1 := m.trace (markSrc k) 3 (cairnPayload cls value k (m.ctx k).icount)
    mark cls value k m = m1.trigger 6 ∨ mark cls value k m = m1 := ite_eq_then_or_else ..

theorem mark_eq (cls value k : Nat) (m : Mach) :
    mark cls value k m = { m with regs := (mark cls value k m).regs, dbg := (mark cls value k m).dbg } := by
  obtain h | h := mark_cases cls value k m
  · rw [h, Mach.trigger_eq, Mach.trace_eq]
  · rw [h, Mach.trace_eq]

/-- MARK's own record enters the buffer of its region; a trigger's is the hub's. -/
theorem buf_mark {cls value k : Nat} (m : Mach) (hsrc : markSrc k < srcHub) :
    (mark cls value k m).buf (markSrc k) = (m.trace (markSrc k) 3 (cairnPayload cls value k (m.ctx k).icount)).buf (markSrc k) := by
  obtain h | h := mark_cases cls value k m
  · rw [h, Mach.buf_trigger_ne (Nat.ne_of_lt hsrc)]
  · rw [h]

theorem Mach.typeOn_issue (m : Mach) (k w ty : Nat) : (m.issue k w).typeOn ty = m.typeOn ty := by
  unfold Mach.typeOn
  rw [Mach.rdAside_issue rfl]

/-- Settles O9: the record that `Mach.recs_trace` says, after an issue that leaves the trace buffers. -/
theorem markWritesCairn : Obligations.MarkWritesCairn := by
  unfold Obligations.MarkWritesCairn
  intro t cls value s hi
  have hsrc := markSrc_lt t
  dsimp only
  intro hon hty hroom hdrops hsnap
  refine does_of_lift rfl ?_
  rw [Control.mark, control_eq t _ s.m hi]
  change (s.m.buf (markSrc (threadNum t))).recs.length < 16 at hroom
  change (s.m.buf (markSrc (threadNum t))).drops = 0 at hdrops
  change ∀ x ∈ s.m.dbg.snapQ, x.src ≠ markSrc (threadNum t) at hsnap
  generalize threadNum t = k at *
  have hdbg : (s.m.issue k 1).dbg = s.m.dbg := by rw [Mach.issue_eq]
  have hbuf (q : Nat) : (s.m.issue k 1).buf q = s.m.buf q := by rw [Mach.buf, hdbg]; rfl
  have hrecs := Mach.recs_trace (m := s.m.issue k 1) (q := markSrc k) (ty := 3)
    (p := cairnPayload cls.toNat value.toNat k ((s.m.issue k 1).ctx k).icount)
    (by rw [Mach.tracing, Mach.rdAside_issue rfl]; exact hon) (by rw [Mach.typeOn_issue]; exact hty)
    (by rw [hbuf]; exact hroom) (by rw [hbuf]; exact hdrops) (by rw [hdbg]; exact hsnap)
  rw [← buf_mark _ hsrc, hbuf, Mach.time_issue, Mach.rdAside_issue rfl, Mach.ctx_issue_self] at hrecs
  obtain ⟨hicount, hpc, -⟩ := Mach.ctx_issued (mark cls.toNat value.toNat k (s.m.issue k 1)) k k
  refine ⟨?_, ?_, ?_, fun g => ?_, fun a => ?_⟩
  · rw [hicount, mark_eq]
    show ((s.m.issue k 1).ctx k).icount = _
    rw [Mach.ctx_issue_self]; rfl
  · rw [hpc, mark_eq]
    show ((s.m.issue k 1).ctx k).pc = _
    rw [Mach.ctx_issue_self]; rfl
  · rw [Mach.issued_eq]; exact hrecs
  · rw [Mach.core_issued, mark_eq]; exact Mach.core_issue s.m k 1 g
  · rw [Mach.issued_eq, mark_eq, Mach.issue_eq]; rfl

/-! The count of a flag after an operation (R167, R168). -/

theorem clamp16_lt (v : Int) : clamp16 v < 2 ^ 16 := by
  unfold clamp16
  split
  · decide
  · split <;> omega

theorem clamp16_of_lt {n : Nat} (h : n < 2 ^ 16) : clamp16 (n : Int) = n := by
  unfold clamp16
  split
  · omega
  · split <;> omega

/-- The register that holds a flag. -/
def flagReg (d : Nat) (g : Bool) (n : Nat) : Fld × Nat := if g then (.MFLAG, n % 64) else (.FLAG, d * 256 + n)

theorem Mach.flag_eq_rd (m : Mach) (d : Nat) (g : Bool) (n : Nat) : m.flag d g n = m.rd (flagReg d g n).1 (flagReg d g n).2 := by
  cases g <;> rfl

theorem width_flagReg (d : Nat) (g : Bool) (n : Nat) : (flagReg d g n).1.width = 16 := by cases g <;> rfl

/-- Two flags of different numbers are held apart. -/
theorem flagReg_ne {d d' n n' : Nat} {g g' : Bool} (h : flagKey d' g' n' ≠ flagKey d g n) : flagReg d' g' n' ≠ flagReg d g n := by
  intro heq
  cases g <;> cases g' <;> simp [flagReg, flagKey] at heq h <;> omega

/-- R167, R168: an operation writes its flag's register and perhaps a count of saturations, and records its setter. -/
theorem Mach.applyFlag_cases (m : Mach) (k : Nat) (o : DefOp) :
    let r := flagReg (thrDie k) o.g o.flag
    let m1 := m.wr r.1 r.2 (clamp16 (o.fn.apply (m.flag (thrDie k) o.g o.flag)))
    let sets (m : Mach) : Mach := { m with setters := m.setters.set (fun _ => none) (flagKey (thrDie k) o.g o.flag) (some ⟨k, o.icount⟩) }
    m.applyFlag k o = sets m1 ∨ ∃ f i, (f = .FLAG_SATURATIONS ∨ f = .MFLAG_SATURATIONS) ∧ m.applyFlag k o = sets (m1.bump f i 1) := by
  obtain ⟨g, flag, fn, after, icount⟩ := o
  unfold Mach.applyFlag
  cases g
  all_goals
    dsimp only
    split
    · exact .inl rfl
  · exact .inr ⟨_, _, .inl rfl, rfl⟩
  · exact .inr ⟨_, _, .inr rfl, rfl⟩

theorem Mach.applyFlag_eq (m : Mach) (k : Nat) (o : DefOp) : m.applyFlag k o =
    { m with regs := (m.applyFlag k o).regs
             setters := m.setters.set (fun _ => none) (flagKey (thrDie k) o.g o.flag) (some ⟨k, o.icount⟩) } := by
  obtain h | ⟨f, i, -, h⟩ := m.applyFlag_cases k o
  · rw [h]; rfl
  · rw [h, Mach.bump_eq]; rfl

theorem Mach.rd_applyFlag (m : Mach) (k : Nat) (o : DefOp) {f : Fld} (i : Nat) (h1 : f ≠ .FLAG_SATURATIONS) (h2 : f ≠ .MFLAG_SATURATIONS) :
    (m.applyFlag k o).rd f i = if (f, i) = flagReg (thrDie k) o.g o.flag
      then clamp16 (o.fn.apply (m.flag (thrDie k) o.g o.flag)) else m.rd f i := by
  have hwrite : (m.applyFlag k o).rd f i = (m.wr (flagReg (thrDie k) o.g o.flag).1 (flagReg (thrDie k) o.g o.flag).2
      (clamp16 (o.fn.apply (m.flag (thrDie k) o.g o.flag)))).rd f i := by
    obtain h | ⟨f', j, hf', h⟩ := m.applyFlag_cases k o
    · rw [h]; rfl
    · rw [h]
      exact Mach.rd_bump_ne _ _ _ _ fun x => hf'.elim (fun e => h1 (x.1.trans e)) fun e => h2 (x.1.trans e)
  rw [hwrite, Mach.rd_wr, width_flagReg, Nat.mod_eq_of_lt (clamp16_lt _)]
  simp only [Prod.ext_iff]

/-- R167: an operation gives its flag its result, held in 0 to 65,535. -/
theorem Mach.flag_flagOp_self (m : Mach) (k : Nat) (o : DefOp) :
    (m.flagOp k o).flag (thrDie k) o.g o.flag = clamp16 (o.fn.apply (m.flag (thrDie k) o.g o.flag)) := by
  rw [Mach.flag_eq_rd, Mach.flagOp, Mach.rd_wakeFlags, Mach.rd_applyFlag, if_pos rfl]
  · cases o.g <;> exact Fld.noConfusion
  · cases o.g <;> exact Fld.noConfusion

theorem Mach.flag_flagOp_ne (m : Mach) (k : Nat) (o : DefOp) {d n : Nat} {g : Bool}
    (h : flagKey d g n ≠ flagKey (thrDie k) o.g o.flag) : (m.flagOp k o).flag d g n = m.flag d g n := by
  rw [Mach.flag_eq_rd, Mach.flagOp, Mach.rd_wakeFlags, Mach.rd_applyFlag, if_neg (flagReg_ne h), Mach.flag_eq_rd]
  · cases g <;> exact Fld.noConfusion
  · cases g <;> exact Fld.noConfusion

theorem Mach.setters_flagOp (m : Mach) (k : Nat) (o : DefOp) :
    (m.flagOp k o).setters.get (fun _ => none) (flagKey (thrDie k) o.g o.flag) = some ⟨k, o.icount⟩ := by
  rw [Mach.flagOp, Mach.applyFlag_eq]
  simp only [Mach.wakeFlags, NMap.get_set_self]

theorem Mach.flagOp_eq (m : Mach) (k : Nat) (o : DefOp) :
    m.flagOp k o = { m with regs := (m.flagOp k o).regs, setters := (m.flagOp k o).setters, ctxs := (m.flagOp k o).ctxs } := by
  rw [Mach.flagOp, Mach.applyFlag_eq]; rfl

@[simp] theorem Mach.core_flagOp (m : Mach) (k : Nat) (o : DefOp) (g : Nat) : (m.flagOp k o).core g = m.core g := by
  rw [Mach.flagOp_eq]; rfl

/-- R167: of a context, an operation changes at most the wait that it ends. -/
theorem Mach.ctx_flagOp (m : Mach) (k : Nat) (o : DefOp) (j : Nat) :
    ((m.flagOp k o).ctx j).icount = (m.ctx j).icount ∧ ((m.flagOp k o).ctx j).pc = (m.ctx j).pc ∧
    ((m.flagOp k o).ctx j).defer = (m.ctx j).defer := by
  have happly : (m.applyFlag k o).ctx j = m.ctx j := by rw [Mach.applyFlag_eq]; rfl
  rw [Mach.flagOp, Mach.ctx_wakeFlags, happly]
  obtain ⟨hicount, hpc, -, -, hdefer⟩ := Mach.woken_keeps (m.applyFlag k o) j (m.ctx j)
  exact ⟨hicount, hpc, hdefer⟩

/-! Flag instructions. -/

section
variable {t : ThreadId} {g : BitVec 1} {flag : BitVec 8} {after : BitVec 6} {fn : FlagFn} {m : Mach}
  (hi : m.canIssue (threadNum t) = true)
include hi

/-- R169, R180: without an AFTER set the operation is applied at issue. -/
theorem flagInstr_now : flagInstr t g flag 0 fn m = ((m.issue (threadNum t) 1).flagOp (threadNum t)
    ⟨g == 1, flag.toNat, fn, 0, ((m.ctx (threadNum t)).icount + 1) % 2 ^ 48⟩).issued (threadNum t) := by
  unfold flagInstr
  rw [if_pos hi, if_neg (by simp)]
  simp only [if_pos, Mach.ctx_issue_self]
  rfl

/-- R169: with one the operation is left pending, the newest. -/
theorem flagInstr_pends (hafter : after ≠ 0) (hroom : (m.ctx (threadNum t)).defer.length < 4) :
    flagInstr t g flag after fn m = ((m.issue (threadNum t) 1).onCtx (threadNum t) fun c => { c with
      defer := c.defer ++ [⟨g == 1, flag.toNat, fn, after.toNat, ((m.ctx (threadNum t)).icount + 1) % 2 ^ 48⟩] }).issued (threadNum t) := by
  unfold flagInstr
  rw [if_pos hi, if_neg fun h => absurd hroom (Nat.not_lt.2 h.2)]
  simp only [if_neg hafter, Mach.ctx_issue_self]
  rfl

/-- R160, R169: a fifth one waits. -/
theorem flagInstr_full (hafter : after ≠ 0) (hfull : 4 ≤ (m.ctx (threadNum t)).defer.length) :
    flagInstr t g flag after fn m =
      ((m.members (threadNum t)).foldl (fun m g => m.stall g .CC_WAIT_FLAG 5) m).stopsFor (threadNum t) .flagq := by
  unfold flagInstr
  rw [if_pos hi, if_pos ⟨hafter, hfull⟩]

end

@[simp] theorem Mach.ctx_stall (m : Mach) (g : Nat) (f : Fld) (c k : Nat) : (m.stall g f c).ctx k = m.ctx k := by
  rw [Mach.stall, Mach.ctx_ev, Mach.ctx_bump]

theorem Mach.ctx_foldl_stall (gs : List Nat) (m : Mach) (f : Fld) (c k : Nat) :
    (gs.foldl (fun m g => m.stall g f c) m).ctx k = m.ctx k := foldl_keep (fun m : Mach => m.ctx k) _ (fun m g => m.ctx_stall g f c k) gs m

theorem Mach.still_foldl_stall (gs : List Nat) (m : Mach) (f : Fld) (c : Nat) :
    (gs.foldl (fun m g => m.stall g f c) m).still = m.still := foldl_keep Mach.still _ (fun m g => m.still_stall g f c) gs m

/-- R160: a context that stops for a place waits for it, and changes in nothing else. -/
theorem Mach.ctx_stopsFor (m : Mach) (k : Nat) (w : Wait) (j : Nat) :
    (m.stopsFor k w).ctx j = if j = k ∧ (m.ctx k).wait ≠ w then { m.ctx k with wait := w, since := m.time } else m.ctx j := by
  unfold Mach.stopsFor
  by_cases h : (m.ctx k).wait = w
  · simp [h]
  · simp [h, Mach.waitFor]

theorem Mach.still_stopsFor (m : Mach) (k : Nat) (w : Wait) : (m.stopsFor k w).still = m.still := by
  unfold Mach.stopsFor
  split
  · rfl
  · exact Mach.still_onCtx _ _ _

/-- Settles O10: the operation is applied to the issue's result (`flagInstr_now`), whose flags are the old ones. -/
theorem flagAtIssue : Obligations.FlagAtIssue := by
  unfold Obligations.FlagAtIssue
  intro t g flag v s hi hflag
  have hwf := (wf_flag_iff g flag).2 hflag
  have hleaves (fn : FlagFn) (n : Nat)
      (hn : clamp16 (fn.apply (s.m.flag (thrDie (threadNum t)) (g == 1) flag.toNat)) = n) :
      let k := threadNum t
      let m := flagInstr t g flag 0 fn s.m
      m.flag (thrDie k) (g == 1) flag.toNat = n ∧
      (∀ d' g' n', flagKey d' g' n' ≠ flagKey (thrDie k) (g == 1) flag.toNat → n' < 256 → (g' = true → n' < 64) →
        m.flag d' g' n' = s.m.flag d' g' n') ∧
      m.setters.get (fun _ => none) (flagKey (thrDie k) (g == 1) flag.toNat) = some ⟨k, ((s.m.ctx k).icount + 1) % 2 ^ 48⟩ ∧
      (m.ctx k).icount = ((s.m.ctx k).icount + 1) % 2 ^ 48 ∧ (m.ctx k).pc = (s.m.ctx k).pc + 1 ∧
      (∀ g, m.core g = (s.m.lineUsed k).core g) ∧ (∀ a, m.byteAt a = s.m.byteAt a) := by
    rw [flagInstr_now hi]
    generalize threadNum t = k at *
    obtain ⟨o, ho⟩ : ∃ o : DefOp, o = ⟨g == 1, flag.toNat, fn, 0, ((s.m.ctx k).icount + 1) % 2 ^ 48⟩ := ⟨_, rfl⟩
    rw [← ho]
    obtain ⟨hicount, hpc, -⟩ := Mach.ctx_issued ((s.m.issue k 1).flagOp k o) k k
    obtain ⟨hic, hp, -⟩ := Mach.ctx_flagOp (s.m.issue k 1) k o k
    subst ho
    refine ⟨?_, fun d' g' n' hne _ _ => ?_, ?_, ?_, ?_, fun h => ?_, fun a => ?_⟩
    · rw [Mach.flag_issued]
      refine ((s.m.issue k 1).flag_flagOp_self k _).trans ?_
      rw [Mach.flag_issue]; exact hn
    · rw [Mach.flag_issued, Mach.flag_flagOp_ne _ _ _ hne, Mach.flag_issue]
    · rw [Mach.issued_eq]; exact (s.m.issue k 1).setters_flagOp k _
    · rw [hicount, hic, Mach.ctx_issue_self]; rfl
    · rw [hpc, hp, Mach.ctx_issue_self]; rfl
    · rw [Mach.core_issued, Mach.core_flagOp]; exact Mach.core_issue s.m k 1 h
    · rw [Mach.issued_eq, Mach.flagOp_eq, Mach.issue_eq]; rfl
  exact ⟨does_of_lift (if_pos hwf) (hleaves (.set v.toNat) _ (clamp16_of_lt v.isLt)),
    does_of_lift (if_pos hwf) (hleaves (.add v.toInt) _ rfl), does_of_lift (if_pos hwf) (hleaves .clr 0 rfl)⟩

/-- Settles O11: `flagInstr_pends` and `flagInstr_full` at issue, and the flag's count after the operation that is applied. -/
theorem flagsDeferred : Obligations.FlagsDeferred := by
  unfold Obligations.FlagsDeferred
  refine ⟨fun t g flag after v s hi hflag hafter => ?issue, fun t o rest s hdefer hup hfrozen hmet => ?apply⟩
  case issue =>
    have hwf := (wf_flag_iff g flag).2 hflag
    dsimp only
    refine ⟨fun hroom => ?pends, fun hfull => ?waits⟩
    case pends =>
      have hpends (fn : FlagFn) :
          let k := threadNum t
          let m := flagInstr t g flag after fn s.m
          s.m.Issued m k ∧
          (m.ctx k).defer = (s.m.ctx k).defer ++ [⟨g == 1, flag.toNat, fn, after.toNat, ((s.m.ctx k).icount + 1) % 2 ^ 48⟩] ∧
          (m.ctx k).pc = (s.m.ctx k).pc + 1 ∧ ∀ g, m.core g = (s.m.lineUsed k).core g := by
        rw [flagInstr_pends hi hafter hroom]
        generalize threadNum t = k at *
        obtain ⟨-, hpc, -, -, hdef, -⟩ := Mach.ctx_issued ((s.m.issue k 1).onCtx k fun c => { c with
          defer := c.defer ++ [⟨g == 1, flag.toNat, fn, after.toNat, ((s.m.ctx k).icount + 1) % 2 ^ 48⟩] }) k k
        refine ⟨Mach.issued_onCtx s.m k 1 _ fun _ => rfl, ?_, ?_, fun h => ?_⟩
        · rw [hdef, Mach.ctx_onCtx, if_pos rfl, Mach.ctx_issue_self]; rfl
        · rw [hpc, Mach.ctx_onCtx, if_pos rfl, Mach.ctx_issue_self]; rfl
        · rw [Mach.core_issued]; exact Mach.core_issue s.m k 1 h
      exact ⟨does_of_lift (if_pos hwf) (hpends _), does_of_lift (if_pos hwf) (hpends _), does_of_lift (if_pos hwf) (hpends _)⟩
    case waits =>
      have hwaits (fn : FlagFn) :
          let k := threadNum t
          let m := flagInstr t g flag after fn s.m
          m.ctx k = { s.m.ctx k with wait := .flagq, since := (m.ctx k).since } ∧ (∀ j, j ≠ k → m.ctx j = s.m.ctx j) ∧
          ∀ g, m.core g = s.m.core g := by
        rw [flagInstr_full hi hafter hfull]
        generalize threadNum t = k at *
        refine ⟨?_, fun j hj => ?_, fun h => ?_⟩
        · simp only [Mach.ctx_stopsFor, Mach.ctx_foldl_stall, true_and]
          split
          · rfl
          · next hw => rw [← Decidable.not_not.1 hw]
        · rw [Mach.ctx_stopsFor, if_neg fun h => hj h.1, Mach.ctx_foldl_stall]
        · exact Mach.core_of_still ((Mach.still_stopsFor _ _ _).trans (Mach.still_foldl_stall _ _ _ _)) h
      exact ⟨does_of_lift (if_pos hwf) (hwaits _), does_of_lift (if_pos hwf) (hwaits _), does_of_lift (if_pos hwf) (hwaits _)⟩
  case apply =>
    have happly : Control.deferredFlagApply t s.m =
        (s.m.onCtx (threadNum t) fun c => { c with defer := rest }).flagOp (threadNum t) o := by
      simp only [Control.deferredFlagApply, hdefer, hup, hfrozen, hmet, Bool.not_false, Bool.and_self, if_true]
    refine does_of_lift rfl ?_
    rw [happly]
    generalize threadNum t = k at *
    obtain ⟨-, -, hdef⟩ := Mach.ctx_flagOp (s.m.onCtx k fun c => { c with defer := rest }) k o k
    refine ⟨?_, Mach.flag_flagOp_self _ k o, fun h => ?_, fun a => ?_⟩
    · rw [hdef, Mach.ctx_onCtx, if_pos rfl]
    · rw [Mach.core_flagOp]; rfl
    · rw [Mach.flagOp_eq]; rfl

end Sys2Proof.Machine

/-! Engine commands (R161, R164, R177), the fill of an instruction-cache line (R166), and the stream engine (R153-R156). -/
namespace Sys2Proof.Machine

/-- The tile that an engine command names at issue (R200). -/
def Mach.cmdTile (m : Mach) (k : Nat) : Instr → Nat
  | .opu _ _ _ tile tinc _ _ _ | .opus _ _ _ _ tile tinc _ _ _ | .tload _ _ tile tinc _ _ _ _ => m.tileAt k tile tinc
  | .tdrain _ f | .tdraing _ f => m.tileAt k f.tile f.tinc
  | _ => 0

/-- How many words an engine command has (Table ZVI-1). -/
def cmdWords : Instr → Nat
  | .sdef .. => 9
  | .tdrain .. | .tdraing .. | .vadamw .. | .vlion .. | .vsgdm .. => 2
  | _ => 1

/-- R161: every instruction of an engine's class is an engine command. -/
theorem exec_engine {i : Instr} {t : ThreadId} (s : State) (ht : threadOf i = some t) (hu : unitOf i ≠ 7) (hwf : i.wf = true) :
    exec i s = .next (s.lift fun m => engine t i (m.cmdTile (threadNum t) i) (cmdWords i) m) := by
  cases i
  all_goals cases ht
  all_goals try exact absurd rfl hu
  all_goals exact if_pos hwf

theorem words_zviEncode {i : Instr} {ws : List Word64} (hu : unitOf i ≠ 7) (h : zviEncode i = some ws) : cmdWords i = ws.length := by
  cases i
  all_goals try exact absurd rfl hu
  all_goals cases h
  all_goals rfl

/-- R164: `f` applied to each core of a list without repetition. -/
theorem Mach.core_foldl_onCore {gs : List Nat} (hnodup : gs.Nodup) (f : Core → Core) (m : Mach) (g : Nat) :
    (gs.foldl (fun m g => m.onCore g f) m).core g = if g ∈ gs then f (m.core g) else m.core g := by
  induction gs generalizing m with
  | nil => rfl
  | cons h gs ih =>
    obtain ⟨hnot, hrest⟩ := List.nodup_cons.1 hnodup
    rw [List.foldl_cons, ih hrest, Mach.core_onCore]
    by_cases hg : g = h
    · subst hg; simp [hnot]
    · simp [hg]

theorem Mach.foldl_onCore_eq (gs : List Nat) (f : Core → Core) (m : Mach) :
    gs.foldl (fun m g => m.onCore g f) m = { m with cores := (gs.foldl (fun m g => m.onCore g f) m).cores } := by
  induction gs generalizing m with
  | nil => rfl
  | cons h gs ih => rw [List.foldl_cons, ih]; rfl

theorem Core.engQ_icache (c : Core) (l : NMap (List Nat)) (u : Nat) : Core.engQ { c with icache := l } u = c.engQ u := by
  unfold Core.engQ; split <;> rfl

theorem Mach.engQ_lineUsed (m : Mach) (k g u : Nat) : ((m.lineUsed k).core g).engQ u = (m.core g).engQ u := by
  rw [Mach.core_lineUsed, Core.engQ_icache]

section
variable {t : ThreadId} {i : Instr} {m : Mach} (hi : m.canIssue (threadNum t) = true) (tile words : Nat)
include hi

/-- R164: an engine command that every member core can take. -/
theorem engine_goes (hroom : ∀ g ∈ m.members (threadNum t), m.engRoom g (unitOf i) = true) :
    engine t i tile words m = (((m.members (threadNum t)).foldl (fun x g => x.onCore g fun c => c.setEngQ (unitOf i) (c.engQ (unitOf i) ++
      [⟨i, threadNum t, ((m.issue (threadNum t) words).ctx (threadNum t)).icount, tile⟩])) (m.issue (threadNum t) words))).issued
      (threadNum t) := by
  have hlack : ((m.members (threadNum t)).filter fun g => !m.engRoom g (unitOf i)) = [] :=
    List.filter_eq_nil_iff.2 fun g hg => by rw [hroom g hg]; decide
  unfold engine
  simp only [if_pos hi, hlack]
  rw [if_pos List.isEmpty_nil]

/-- R160, R164: an engine command that some member core cannot take. -/
theorem engine_stalls {g : Nat} (hg : g ∈ m.members (threadNum t)) (hfull : m.engRoom g (unitOf i) = false) :
    engine t i tile words m = m.engStall (threadNum t) (unitOf i) (m.members (threadNum t))
      ((m.members (threadNum t)).filter fun g => !m.engRoom g (unitOf i)) := by
  unfold engine
  simp only [if_pos hi]
  rw [if_neg]
  rw [List.isEmpty_iff, List.filter_eq_nil_iff]
  exact fun h => h g hg (by rw [hfull]; rfl)

end

/-- R177, R164: what an engine command leaves that every member core takes. -/
theorem engine_issued {t : ThreadId} {i : Instr} {m : Mach} (hi : m.canIssue (threadNum t) = true) (tile words : Nat)
    (hroom : ∀ g ∈ m.members (threadNum t), m.engRoom g (unitOf i) = true) :
    m.Issued (engine t i tile words m) (threadNum t) ∧
    ((engine t i tile words m).ctx (threadNum t)).pc = (m.ctx (threadNum t)).pc + words ∧
    ((engine t i tile words m).ctx (threadNum t)).loops = (m.ctx (threadNum t)).loops ∧
    ∀ g, (engine t i tile words m).core g = if g ∈ m.members (threadNum t) then
      ((m.lineUsed (threadNum t)).core g).setEngQ (unitOf i) ((m.core g).engQ (unitOf i) ++
        [⟨i, threadNum t, ((m.ctx (threadNum t)).icount + 1) % 2 ^ 48, tile⟩])
      else (m.lineUsed (threadNum t)).core g := by
  rw [engine_goes hi tile words hroom]
  have hic : ((m.issue (threadNum t) words).ctx (threadNum t)).icount = ((m.ctx (threadNum t)).icount + 1) % 2 ^ 48 := by
    rw [Mach.ctx_issue_self]; rfl
  rw [← hic]
  generalize threadNum t = k at *
  generalize ((m.issue k words).ctx k).icount = ic at hic ⊢
  obtain ⟨m1, hm1⟩ : ∃ m1, m1 = (m.members k).foldl (fun x g => x.onCore g fun c => c.setEngQ (unitOf i) (c.engQ (unitOf i) ++ [⟨i, k, ic, tile⟩]))
    (m.issue k words) := ⟨_, rfl⟩
  rw [← hm1]
  have hcores : m1 = { m.issue k words with cores := m1.cores } := by
    rw [hm1]; exact Mach.foldl_onCore_eq _ _ _
  have hctx (j : Nat) : m1.ctx j = (m.issue k words).ctx j := by rw [hcores]; rfl
  obtain ⟨-, hpc, hloops, -⟩ := Mach.ctx_issued m1 k k
  refine ⟨Mach.Issued.of (congrArg _ (hctx k)) (fun j _ => hctx j) (fun f i => ?_) ?_ ?_ ?_, ?_, ?_, fun g => ?_⟩
  · rw [hcores]; rfl
  · rw [hcores]; exact Mach.mem_issue m k words
  · rw [hcores]; exact Mach.poison_issue m k words
  · rw [hcores, Mach.issue_eq]
  · rw [hpc, hctx, Mach.ctx_issue_self]; rfl
  · rw [hloops, hctx, Mach.ctx_issue_self]; rfl
  · rw [Mach.core_issued, hm1, Mach.core_foldl_onCore (m.members_nodup k), Mach.core_issue, Mach.engQ_lineUsed]

/-- A fold each of whose steps writes registers alone. -/
theorem Mach.foldl_eq_regs {β : Type} {f : Mach → β → Mach} (h : ∀ m b, f m b = { m with regs := (f m b).regs }) (l : List β) (m : Mach) :
    l.foldl f m = { m with regs := (l.foldl f m).regs } := by
  induction l generalizing m with
  | nil => rfl
  | cons b l ih => rw [List.foldl_cons, ih, h]

theorem Mach.stall_eq (m : Mach) (g : Nat) (f : Fld) (c : Nat) : m.stall g f c = { m with regs := (m.stall g f c).regs } := by
  rw [Mach.stall, Mach.ev_eq, Mach.bump_eq]

/-- R160: a jammed unit's cycle writes counters and LAGGARD, and names the context that it waits for. -/
theorem Mach.engStall_jams (m : Mach) {k u : Nat} (gs lack : List Nat) (hu : u ≠ 5) :
    m.engStall k u gs lack = { m with regs := (m.engStall k u gs lack).regs, jam := NMap.set nat0 m.jam (k / 8) (1 + thrCtx k) } := by
  unfold Mach.engStall
  simp only [if_neg hu]
  rw [Mach.foldl_eq_regs (fun m g => Mach.bump_eq m .CC_STALL_ENGQ g 1)]
  split
  · split
    · rw [Mach.bump_eq]
    · rw [Mach.bump_eq]; rfl
  · rw [Mach.foldl_eq_regs (fun m g => Mach.ev_eq m g 0x13 1)]

/-- R160, R164: what a cycle leaves in which an engine command finds no place. -/
theorem Mach.engStall_keeps (m : Mach) (k u : Nat) (gs lack : List Nat) :
    (∀ j, (m.engStall k u gs lack).ctx j = if j = k ∧ u = 5 ∧ (m.ctx k).wait ≠ .dmaq then
      { m.ctx k with wait := .dmaq, since := m.time } else m.ctx j) ∧
    (m.engStall k u gs lack).jam = (if u = 5 then m.jam else NMap.set nat0 m.jam (k / 8) (1 + thrCtx k)) ∧
    (∀ h, (m.engStall k u gs lack).core h = m.core h) ∧ ∀ a, (m.engStall k u gs lack).byteAt a = m.byteAt a := by
  by_cases hu : u = 5
  · subst hu
    have hstalls := Mach.foldl_eq_regs (fun m g => Mach.stall_eq m g .CC_STALL_DMAQ 3) gs m
    have htime : (gs.foldl (fun m g => m.stall g .CC_STALL_DMAQ 3) m).time = m.time := by
      refine foldl_keep Mach.time _ (fun m g => ?_) gs m
      rw [Mach.time, Mach.stall, Mach.rd_ev _ _ _ _ _ _ (by decide), Mach.rd_bump_ne _ _ _ _ (by rintro ⟨⟨⟩, -⟩)]; rfl
    have hstill : (m.engStall k 5 gs lack).still = m.still := by
      show (Mach.stopsFor _ k .dmaq).still = _
      rw [Mach.still_stopsFor, Mach.still_foldl_stall]
    refine ⟨fun j => ?_, ?_, Mach.core_of_still hstill, Mach.byteAt_of_still hstill⟩
    · show (Mach.stopsFor _ k .dmaq).ctx j = _
      rw [Mach.ctx_stopsFor, Mach.ctx_foldl_stall, Mach.ctx_foldl_stall, htime]
      simp only [true_and]
    · show (Mach.stopsFor _ k .dmaq).jam = _
      have hjam : (gs.foldl (fun m g => m.stall g .CC_STALL_DMAQ 3) m).jam = m.jam := by rw [hstalls]
      unfold Mach.stopsFor
      split <;> exact hjam
  · rw [Mach.engStall_jams m gs lack hu]
    simp only [hu, false_and, and_false, if_false]
    exact ⟨fun _ => rfl, trivial, fun _ => rfl, fun _ => rfl⟩

/-- Settles O12: `engine_issued` where every member core has a place free, `Mach.engStall_keeps` where one has none. -/
theorem engineCommandIssues : Obligations.EngineCommandIssues := by
  unfold Obligations.EngineCommandIssues
  refine ⟨fun i t ws s ht hu hwf hws hi hroom => ?_, fun i t g s ht hu hwf hi hg hfull => does_of_lift (exec_engine s ht hu hwf) ?_⟩
  · rw [← words_zviEncode hu hws]
    refine does_of_lift (exec_engine s ht hu hwf) ?_
    have := engine_issued hi (s.m.cmdTile (threadNum t) i) (cmdWords i) fun g hg => decide_eq_true (hroom g hg)
    unfold Mach.cmdTile at this
    exact this
  · dsimp only
    rw [engine_stalls hi _ _ hg (decide_eq_false (Nat.not_lt.2 hfull))]
    exact Mach.engStall_keeps _ _ _ _ _

/-! ICACHE_MISS_FILL (R166). -/

/-- A counter that stands for no freeze. -/
theorem Mach.bump_of_runs {m : Mach} (h : m.frozen = false) (f : Fld) (i n : Nat) : m.bump f i n = m.wr f i (m.rd f i + n) := by
  rw [Mach.bump, if_neg]
  exact fun h' => Bool.false_ne_true (h.symm.trans h')

theorem Mach.frozen_of_coreRuns {m : Mach} {g : Nat} (h : m.coreRuns g = true) : m.frozen = false := by
  unfold Mach.coreRuns at h
  simp only [Bool.and_eq_true, Bool.not_eq_true'] at h
  exact h.1.1.1.2

theorem Core.icacheWays_useLine (c : Core) (ln l : Nat) : (c.useLine ln).icacheWays l =
    if icacheSet l = icacheSet ln then (ln :: (c.icacheWays ln).filter (· != ln)).take 4 else c.icacheWays l := by
  simp only [Core.useLine, Core.icacheWays, NMap.get_set]

/-- A line that the cache does not hold stands before those of its set. -/
theorem Core.filter_icacheWays {c : Core} {ln : Nat} (h : c.cached ln = false) : (c.icacheWays ln).filter (· != ln) = c.icacheWays ln := by
  rw [List.filter_eq_self]
  intro l hl
  rw [bne_iff_ne]
  rintro rfl
  rw [Core.cached, List.contains_eq_mem, decide_eq_false_iff_not] at h
  exact h hl

/-- Settles O15: a miss is counted, since no freeze holds, and `Core.useLine` then changes one set of one core's cache. -/
theorem icacheMissFills : Obligations.IcacheMissFills := by
  unfold Obligations.IcacheMissFills
  intro t s hform
  dsimp only
  intro hruns hrunning hmiss
  have hthr : thrForm (threadNum t) = 1 := by
    have := t.unit.isLt
    have := t.ctx.isLt
    have hone : (1 : BitVec 1).toNat = 1 := rfl
    rw [thrForm, threadNum, hform, hone]
    omega
  generalize hg : thrDie (threadNum t) * 16 + thrUnit (threadNum t) = g at *
  refine does_of_lift (f := Control.icacheMissFill t) rfl ?_
  have hfill : Control.icacheMissFill t s.m = (s.m.wr .CC_ICACHE_MISS g (s.m.rd .CC_ICACHE_MISS g + 1)).onCore g
      fun c => c.useLine (lineOf (s.m.ctx (threadNum t)).pc) := by
    unfold Control.icacheMissFill
    dsimp only
    rw [hg, if_pos (by rw [hthr, hruns, hrunning, hmiss]; rfl), Mach.bump_of_runs (Mach.frozen_of_coreRuns hruns)]
  rw [hfill]
  generalize lineOf (s.m.ctx (threadNum t)).pc = ln at *
  refine ⟨?_, fun l hl => ?_, ?_, ?_, fun f i hne => ?_, fun h hne => ?_, fun j => rfl, fun a => rfl⟩
  · rw [Mach.core_onCore, if_pos rfl, Core.icacheWays_useLine, if_pos rfl, Mach.core_wr, Core.filter_icacheWays hmiss]
  · rw [Mach.core_onCore, if_pos rfl, Core.icacheWays_useLine, if_neg hl]; rfl
  · rw [Mach.core_onCore, if_pos rfl]; rfl
  · rw [Mach.rd_onCore, Mach.rd_wr, if_pos ⟨rfl, rfl⟩]; rfl
  · rw [Mach.rd_onCore, Mach.rd_wr, if_neg hne]
  · rw [Mach.core_onCore, if_neg hne]; rfl

/-! The stream engine (R153-R156). -/

@[simp] theorem Core.descAt_setDesc (c : Core) (k j : Nat) (d : StreamDesc) : (c.setDesc k d).descAt j = if j = k then d else c.descAt j :=
  NMap.get_set c.desc k j d
@[simp] theorem Core.gen_setGen (c : Core) (i j : Nat) (r : Option GenRun) : (c.setGen i r).gen j = if j = i then r else c.gen j :=
  NMap.get_set c.gens i j r
@[simp] theorem Core.gen_setDesc (c : Core) (k j : Nat) (d : StreamDesc) : (c.setDesc k d).gen j = c.gen j := rfl
@[simp] theorem Core.adq_setAdq (c : Core) (n k : Nat) (l : List AddrEnt) : (c.setAdq n l).adq k = if k = n then l else c.adq k :=
  NMap.get_set c.aq n k l

/-- The head of the stream engine's queue leaves it. -/
theorem Mach.core_popStr {m : Mach} {g : Nat} {cmd : Cmd} {rest : List Cmd} (h : (m.core g).strQ = cmd :: rest) (j : Nat) :
    (m.popEng g 6).core j = if j = g then { m.core g with strQ := rest } else m.core j := by
  rw [Mach.popEng, Mach.core_onCore]
  show (if j = g then { m.core g with strQ := (m.core g).strQ.drop 1 } else _) = _
  rw [h]; rfl

section
variable {g6 : BitVec 6} {m : Mach} {cmd : Cmd} {rest : List Cmd} (hruns : m.unitRuns g6.toNat .str = true)
  (hq : (m.core g6.toNat).strQ = cmd :: rest)
include hruns hq

/-- R153: the SDEF at the head of the queue, which no running SRUN holds up. -/
theorem genStart_sdef {t : ThreadId} {d : SdefF} (hins : cmd.ins = .sdef t d)
    (hfree : ((slotVals (m.core g6.toNat).gens).any (·.uses (descKey cmd.thr d.s.toNat))) = false) :
    Streams.genStart g6 m = (m.popEng g6.toNat 6).onCore g6.toNat fun c => c.setDesc (descKey cmd.thr d.s.toNat) ⟨d, 0, true⟩ := by
  unfold Streams.genStart
  simp only [hruns, hq, hins, hfree]
  rfl

/-- R155, R156: the SRUN at the head of the queue, for which generator `i` is free. -/
theorem genStart_srun {t : ThreadId} {sd : BitVec 4} {a : BitVec 6} {n : BitVec 25} {i : Nat} (hins : cmd.ins = .srun t sd a n)
    (hi : ((List.range 8).find? fun i => ((m.core g6.toNat).gen i).isNone) = some i) :
    Streams.genStart g6 m = Streams.srunStart g6.toNat i cmd sd.toNat n.toNat m := by
  unfold Streams.genStart
  simp only [hruns, hq, hins, hi]
  rfl

end

/-- R155: an SRUN of a defined descriptor takes its `n` addresses. -/
theorem srunStart_defined {m : Mach} {g i s n : Nat} {cmd : Cmd} (hn : n ≠ 0)
    (hdef : ((m.core g).descAt (descKey cmd.thr s)).defined = true) :
    Streams.srunStart g i cmd s n m = (m.popEng g 6).onCore g fun c =>
      (c.setGen i (some ⟨cmd, nextOrd ((slotVals (m.core g).gens).map (·.ord)), n, m.stepTick,
        ((m.core g).descAt (descKey cmd.thr s)).pos⟩)).setDesc (descKey cmd.thr s) { (m.core g).descAt (descKey cmd.thr s) with
          pos := (((m.core g).descAt (descKey cmd.thr s)).pos + n) % sdefTotal ((m.core g).descAt (descKey cmd.thr s)).d } := by
  unfold Streams.srunStart Streams.srunCount
  simp only [if_pos hn, hdef, if_true]

/-- R154, R156: the push of a generator of a defined descriptor. -/
theorem addressPush_defined {m : Mach} {g6 : BitVec 6} {i : BitVec 3} {r : GenRun} {t : ThreadId} {sd : BitVec 4} {a : BitVec 6}
    {n : BitVec 25} (hruns : m.unitRuns g6.toNat .str = true) (hr : (m.core g6.toNat).gen i.toNat = some r)
    (hins : r.cmd.ins = .srun t sd a n) (ha : okA a = true) (hdef : ((m.core g6.toNat).descAt (descKey r.cmd.thr sd.toNat)).defined = true)
    (hroom : m.aqRoom g6.toNat a.toNat = true)
    (hfirst : ∀ q ∈ slotVals (m.core g6.toNat).gens, r.ord ≤ q.ord ∨ q.queue ≠ a.toNat) :
    Streams.addressPush g6 i m = ((m.pushA g6.toNat a.toNat
        ⟨sdefAddr ((m.core g6.toNat).descAt (descKey r.cmd.thr sd.toNat)).d (m.position r.cmd.thr g6.toNat) r.t r.pos,
          ((m.core g6.toNat).descAt (descKey r.cmd.thr sd.toNat)).d.mode⟩).onCore g6.toNat fun c =>
      c.setGen i.toNat (if r.left ≤ 1 then none else some
        { r with left := r.left - 1, pos := (r.pos + 1) % sdefTotal ((m.core g6.toNat).descAt (descKey r.cmd.thr sd.toNat)).d })).ev g6.toNat (0x80 + a.toNat) 1 := by
  have hqueue : r.queue = a.toNat := by rw [GenRun.queue, hins]; rfl
  have haddr : isAddrQ a.toNat = true := by
    rw [okA, Bool.and_eq_true, decide_eq_true_iff, decide_eq_true_iff] at ha
    exact decide_eq_true ha
  have hall : ((slotVals (m.core g6.toNat).gens).all fun q => decide (r.ord ≤ q.ord) || q.queue != a.toNat) = true :=
    List.all_eq_true.2 fun q hq => by simpa using hfirst q hq
  have hnext : Streams.nextAddr g6.toNat r m =
      (⟨sdefAddr ((m.core g6.toNat).descAt (descKey r.cmd.thr sd.toNat)).d (m.position r.cmd.thr g6.toNat) r.t r.pos,
        ((m.core g6.toNat).descAt (descKey r.cmd.thr sd.toNat)).d.mode⟩, m) := by
    unfold Streams.nextAddr
    simp only [hins, srunOf, hdef, if_true]
  unfold Streams.addressPush
  simp only [hr, hqueue, hruns, hall, haddr, hroom, Bool.and_self, if_true, hnext, hins, srunOf, Option.elim_some, hdef]

/-- Settles O16: the stream engine's two starts and a generator's push, read field by field. -/
theorem streamGenerators : Obligations.StreamGenerators := by
  unfold Obligations.StreamGenerators
  refine ⟨fun g6 cmd rest s => ?start, fun g6 i r t sd a n d s => ?push⟩
  case start =>
    dsimp only
    intro hruns hq
    refine ⟨fun t d hins hfree => does_of_lift rfl ?_, fun t sd a n i d hins hn hd hdef hi => does_of_lift rfl ?_⟩
    · rw [genStart_sdef hruns hq hins hfree]
      refine ⟨?_, ?_, fun k hk => ?_, fun i => ?_, fun h hne => ?_, fun f i => rfl, fun a => rfl⟩
      · simp [Mach.core_popStr hq, Core.setDesc]
      · simp
      · simp [Mach.core_popStr hq, hk]; rfl
      · simp [Mach.core_popStr hq]; rfl
      · simp [Mach.core_popStr hq, hne]
    · subst hd
      rw [genStart_srun hruns hq hins hi, srunStart_defined (fun h => hn (BitVec.eq_of_toNat_eq (y := 0) h)) hdef]
      refine ⟨?_, ⟨nextOrd ((slotVals (s.m.core g6.toNat).gens).map (·.ord)), ?_⟩, fun j hj => ?_, ?_, fun h hne => ?_, fun f i => rfl, fun a => rfl⟩
      · simp [Mach.core_popStr hq, Core.setDesc, Core.setGen]
      · simp
      · simp [Mach.core_popStr hq, hj]; rfl
      · simp
      · simp [Mach.core_popStr hq, hne]
  case push =>
    dsimp only
    intro hruns hr hins ha hd hdef hroom hfirst
    subst hd
    refine does_of_lift rfl ?_
    rw [addressPush_defined hruns hr hins ha hdef hroom hfirst]
    simp only [Mach.core_ev, Mach.core_onCore, Mach.pushA, if_true]
    refine ⟨?_, ?_, fun j hj => ?_, fun h hne => ?_, fun f i hf => ?_, fun a => ?_⟩
    · exact (Core.adq_setAdq _ _ _ _).trans (if_pos rfl)
    · exact (Core.gen_setGen _ _ _ _).trans (if_pos rfl)
    · exact (Core.adq_setAdq _ _ _ _).trans (if_neg hj)
    · rw [if_neg hne, if_neg hne]
    · rw [Mach.rd_ev _ _ _ _ _ _ hf]; rfl
    · rw [Mach.ev_eq]; rfl

end Sys2Proof.Machine

/-! The LSU's slots (R76, R80, R188-R194): the take of a command, the start of a line, entry or move, and the push of an entry. -/
namespace Sys2Proof.Machine

@[simp] theorem Mach.still_eccCount (m : Mach) (k : Nat) (b : Bool) : (m.eccCount k b).still = m.still := by
  unfold Mach.eccCount
  dsimp only
  repeat' split
  all_goals simp

@[simp] theorem Mach.still_originCapture (m : Mach) (k a : Nat) : (m.originCapture k a).still = m.still := by
  unfold Mach.originCapture
  split <;> simp

@[simp] theorem Mach.still_eccGranule (m : Mach) (k : Nat) : (m.eccGranule k).still = m.still := by
  unfold Mach.eccGranule Mach.poisonOrigin
  dsimp only
  repeat' split
  all_goals simp

/-- R246: what the codes find in a read writes counters, captures and faults alone. -/
@[simp] theorem Mach.still_eccRead (m : Mach) (ks : List Nat) : (m.eccRead ks).still = m.still := by
  unfold Mach.eccRead
  split
  · rfl
  · exact foldl_keep Mach.still _ (fun m k => m.still_eccGranule k) _ m

@[simp] theorem Mach.still_csCheck (m : Mach) (g : Nat) (os : List Nat) : (m.csCheck g os).still = m.still := m.still_eccRead _

theorem Mach.csRead_of_still {m m' : Mach} (h : m'.still = m.still) (g : Nat) (os : List Nat) : m'.csRead g os = m.csRead g os := by
  unfold Mach.csRead
  simp only [Mach.byteAt_of_still h, Mach.isPoison_of_still h]

@[simp] theorem Mach.csRead_dropA (m : Mach) (g e g' : Nat) (os : List Nat) : (m.dropA g e).csRead g' os = m.csRead g' os := rfl
@[simp] theorem Mach.csRead_ev (m : Mach) (g c n g' : Nat) (os : List Nat) : (m.ev g c n).csRead g' os = m.csRead g' os :=
  Mach.csRead_of_still (m.still_ev g c n) g' os
@[simp] theorem Mach.csRead_csCheck (m : Mach) (g g' : Nat) (os os' : List Nat) : (m.csCheck g os).csRead g' os' = m.csRead g' os' :=
  Mach.csRead_of_still (m.still_csCheck g os) g' os'

@[simp] theorem Core.dq_setDq (c : Core) (n k : Nat) (l : List Ent) : (c.setDq n l).dq k = if k = n then l else c.dq k :=
  NMap.get_set c.q n k l

@[simp] theorem Core.lsuAt_setLsu (c : Core) (i j : Nat) (r : Option LsuRun) : (c.setLsu i r).lsuAt j = if j = i then r else c.lsuAt j :=
  NMap.get_set c.lsu i j r

/-- The slot of a run that has one line, entry or move more behind it: free once its command is done. -/
def LsuRun.slot (r : LsuRun) : Option LsuRun := if lsuN r.cmd.ins ≤ r.started ∧ r.flight = [] then none else some r

@[simp] theorem Lsu.core_put (g s : Nat) (r : LsuRun) (m : Mach) (h : Nat) :
    (Lsu.put g s r m).core h = if h = g then (m.core g).setLsu s r.slot else m.core h := Mach.core_onCore _ _ _ _

/-- R194: a command that its slot takes leaves its queue; nothing else of the module changes. -/
theorem Lsu.take_core (g s : Nat) (m : Mach) :
    Lsu.take g s m = { m with cores := (Lsu.take g s m).cores } ∧
    (Lsu.take g s m).core g = { m.core g with lsuQ := ((Lsu.take g s m).core g).lsuQ, lsu := ((Lsu.take g s m).core g).lsu } ∧
    ∀ h, h ≠ g → (Lsu.take g s m).core h = m.core h := by
  unfold Lsu.take
  dsimp only
  split
  · exact ⟨rfl, rfl, fun _ _ => rfl⟩
  · split
    · refine ⟨rfl, ?_, fun h hne => ?_⟩
      · rw [Mach.core_onCore, if_pos rfl, Mach.popEng, Mach.core_onCore, if_pos rfl]; rfl
      · rw [Mach.core_onCore, if_neg hne, Mach.popEng, Mach.core_onCore, if_neg hne]
    · exact ⟨rfl, rfl, fun _ _ => rfl⟩

@[simp] theorem Mach.adq_dropA (m : Mach) (g e i : Nat) :
    ((m.dropA g e).core g).adq i = if i = e - 24 then ((m.core g).adq (e - 24)).drop 1 else (m.core g).adq i := by
  rw [Mach.dropA, Mach.core_onCore, if_pos rfl]
  exact Core.adq_setAdq _ _ _ _

@[simp] theorem Mach.dq_dropA (m : Mach) (g e q : Nat) : ((m.dropA g e).core g).dq q = (m.core g).dq q := by
  rw [Mach.dropA, Mach.core_onCore, if_pos rfl]; rfl

@[simp] theorem Mach.adq_dropQ (m : Mach) (g n k i : Nat) : ((m.dropQ g n k).core g).adq i = (m.core g).adq i := by
  rw [Mach.dropQ, Mach.core_onCore, if_pos rfl]; rfl

@[simp] theorem Mach.dq_dropQ (m : Mach) (g n k q : Nat) :
    ((m.dropQ g n k).core g).dq q = if q = n then ((m.core g).dq n).drop k else (m.core g).dq q := by
  rw [Mach.dropQ, Mach.core_onCore, if_pos rfl]
  exact Core.dq_setDq _ _ _ _

theorem Mach.core_dropA_ne (m : Mach) {g h : Nat} (hne : h ≠ g) (e : Nat) : (m.dropA g e).core h = m.core h := by
  rw [Mach.dropA, Mach.core_onCore, if_neg hne]

theorem Mach.core_dropQ_ne (m : Mach) {g h : Nat} (hne : h ≠ g) (n k : Nat) : (m.dropQ g n k).core h = m.core h := by
  rw [Mach.dropQ, Mach.core_onCore, if_neg hne]

section
variable (b : Bool) (m : Mach) {g h : Nat} (e : Nat)

theorem Mach.dq_dropA_if (q : Nat) : ((if b = true then m.dropA g e else m).core g).dq q = (m.core g).dq q := by
  cases b
  · rfl
  · exact m.dq_dropA g e q

theorem Mach.core_dropA_if_ne (hne : h ≠ g) : (if b = true then m.dropA g e else m).core h = m.core h := by
  cases b
  · rfl
  · exact m.core_dropA_ne hne e

theorem Mach.byteAt_dropA_if (a : Nat) : (if b = true then m.dropA g e else m).byteAt a = m.byteAt a := by
  cases b <;> rfl

end

/-- The part of the module that the LSU's queue of commands and its slots are not. -/
structure SameQueues (g : Nat) (m m' : Mach) : Prop where
  adq : ∀ i, (m'.core g).adq i = (m.core g).adq i
  dq : ∀ q, (m'.core g).dq q = (m.core g).dq q
  cores : ∀ h, h ≠ g → m'.core h = m.core h
  mem : m'.mem = m.mem
  poison : m'.poison = m.poison
  hurt : m'.hurt = m.hurt
  rd : ∀ f i, m'.rd f i = m.rd f i

theorem Lsu.take_same (g s : Nat) (m : Mach) : SameQueues g m (Lsu.take g s m) := by
  obtain ⟨heq, hcore, hne⟩ := Lsu.take_core g s m
  refine ⟨fun i => ?_, fun q => ?_, hne, ?_, ?_, ?_, fun f i => ?_⟩
  · rw [hcore]; rfl
  · rw [hcore]; rfl
  all_goals rw [heq]
  rfl

section
variable {g : Nat} {m m' : Mach} (h : SameQueues g m m')
include h

theorem SameQueues.headA (e : Nat) : m'.headA g e = m.headA g e := by
  rw [Mach.headA, h.adq]; rfl

theorem SameQueues.headQ (n : Nat) : m'.headQ g n = m.headQ g n := by
  rw [Mach.headQ, h.dq]; rfl

theorem SameQueues.qRoom (n k : Nat) : m'.qRoom g n k = m.qRoom g n k := by
  rw [Mach.qRoom, h.dq, Mach.depth, h.rd]; rfl

theorem SameQueues.csRead (g' : Nat) (os : List Nat) : m'.csRead g' os = m.csRead g' os := by
  unfold Mach.csRead Mach.byteAt Mach.isPoison Mach.cellError
  rw [h.mem, h.poison, h.hurt]

theorem SameQueues.byteAt (a : Nat) : m'.byteAt a = m.byteAt a := by
  rw [Mach.byteAt, h.mem]; rfl

theorem SameQueues.dropA (e : Nat) : SameQueues g (m.dropA g e) (m'.dropA g e) where
  adq i := by rw [Mach.adq_dropA, Mach.adq_dropA, h.adq, h.adq]
  dq q := by rw [Mach.dq_dropA, Mach.dq_dropA, h.dq]
  cores k hk := by rw [Mach.core_dropA_ne _ hk, Mach.core_dropA_ne _ hk, h.cores k hk]
  mem := h.mem
  poison := h.poison
  hurt := h.hurt
  rd := h.rd

theorem SameQueues.dropA_if (b : Bool) (e : Nat) :
    SameQueues g (if b = true then m.dropA g e else m) (if b = true then m'.dropA g e else m') := by
  cases b
  · exact h
  · exact h.dropA e

theorem SameQueues.scaleSide (a n : Nat) : Lsu.scaleSide m' g a n = Lsu.scaleSide m g a n := by
  unfold Lsu.scaleSide
  rw [h.headA]

theorem SameQueues.dropQ (n k : Nat) : SameQueues g (m.dropQ g n k) (m'.dropQ g n k) where
  adq i := by rw [Mach.adq_dropQ, Mach.adq_dropQ, h.adq]
  dq q := by rw [Mach.dq_dropQ, Mach.dq_dropQ, h.dq, h.dq]
  cores j hj := by rw [Mach.core_dropQ_ne _ hj, Mach.core_dropQ_ne _ hj, h.cores j hj]
  mem := h.mem
  poison := h.poison
  hurt := h.hurt
  rd := h.rd

end

/-- A started line, entry or move after what leaves the cores and the memory alone. -/
theorem Lsu.put_effect {g s : Nat} {r : LsuRun} {m m0 m' : Mach} (hq : SameQueues g m m0) (hs : m'.still = m0.still) :
    ((Lsu.put g s r m').core g).lsuAt s = r.slot ∧ (∀ i, ((Lsu.put g s r m').core g).adq i = (m.core g).adq i) ∧
    (∀ q, ((Lsu.put g s r m').core g).dq q = (m.core g).dq q) ∧ (∀ h, h ≠ g → (Lsu.put g s r m').core h = m.core h) ∧
    (∀ a, (Lsu.put g s r m').byteAt a = m.byteAt a) := by
  refine ⟨?_, fun i => ?_, fun q => ?_, fun h hne => ?_, fun a => ?_⟩
  · rw [Lsu.core_put, if_pos rfl, Core.lsuAt_setLsu, if_pos rfl]
  · rw [Lsu.core_put, if_pos rfl, Mach.core_of_still hs]; exact hq.adq i
  · rw [Lsu.core_put, if_pos rfl, Mach.core_of_still hs]; exact hq.dq q
  · rw [Lsu.core_put, if_neg hne, Mach.core_of_still hs, hq.cores h hne]
  · exact (Mach.byteAt_of_still hs a).trans (hq.byteAt a)

/-- R80: what a line's read of an LDV holds for its queue. -/
def ldvEnts (un : Bool) (part fmt : Nat) (line : Slot) (ss : Option (List Nat)) : List Slot :=
  if un then (let us := (unpackLine fmt line ss).map (·.1); if part = 0 then us else (us.drop (part - 1)).take 1) else [line]

theorem map_ldvEnts (part fmt : Nat) (line : Slot) (ss : Option (List Nat)) (q : Nat) :
    (ldvEnts true part fmt line ss).map (fun x => (q, (⟨x, false⟩ : Ent))) =
      (if part = 0 then unpackLine fmt line ss else ((unpackLine fmt line ss).drop (part - 1)).take 1).map fun x => (q, ⟨x.1, false⟩) := by
  unfold ldvEnts
  rw [if_pos rfl]
  dsimp only
  split <;> simp [← List.map_drop, ← List.map_take, Function.comp_def]

/-- R76, R80, R189: a line of an LDV that meets no poison. -/
theorem Lsu.readLine_reads {m : Mach} {g s a q ca fmt pack part : Nat} {r : LsuRun} {w32 : Bool} {e : AddrEnt}
    (hhead : m.headA g a = some e)
    (hcomp : (unpacks pack e.tag && isMx fmt) = true → ((m.dropA g a).headA g ca).isSome = true ∧
      (m.csRead g (lineScales fmt ((((m.dropA g a).headA g ca).elim 0 (·.addr.toNat)) % 2 ^ 24) (lineIdx e) (e.tag == 1))).2 = false)
    (hclean : (m.csRead g (lineBytes e w32)).2 = false)
    (hroom : m.qRoom g q ((m.core g).lsuComing q + if unpacks pack e.tag && part = 0 then packP fmt else 1) = true) :
    ∃ m', m'.still = (if unpacks pack e.tag && isMx fmt then (m.dropA g a).dropA g ca else m.dropA g a).still ∧
      Lsu.readLine g s r a q ca fmt pack part w32 m = Lsu.put g s { r with
        started := r.started + 1
        flight := r.flight ++ (ldvEnts (unpacks pack e.tag) part fmt (slotOfBytes (m.csRead g (lineBytes e w32)).1)
          (if unpacks pack e.tag && isMx fmt then some ((m.csRead g (lineScales fmt ((((m.dropA g a).headA g ca).elim 0 (·.addr.toNat))
            % 2 ^ 24) (lineIdx e) (e.tag == 1))).1.map (·.toNat)) else none)).map fun x => (q, ⟨x, false⟩) } m' := by
  unfold Lsu.readLine
  simp only [hhead, hroom]
  cases hun : unpacks pack e.tag
  case false =>
    simp only [Bool.false_and, Bool.false_eq_true, if_false, Bool.not_true, Mach.csRead_dropA, Mach.csRead_ev, hclean, Bool.or_self, ldvEnts]
    exact ⟨_, by simp, rfl⟩
  case true =>
    rw [map_ldvEnts]
    cases hmx : isMx fmt
    case false =>
      simp only [Bool.false_eq_true, if_false, if_true, Bool.not_true, Mach.csRead_dropA, Mach.csRead_ev, hclean, Bool.or_self,
        Bool.and_false, Bool.false_and]
      exact ⟨_, by simp, rfl⟩
    case true =>
      obtain ⟨hce, hss⟩ := hcomp (by rw [hun, hmx]; rfl)
      have hnone : ((m.dropA g a).headA g ca).isNone = false := by rw [← Option.not_isSome, hce]; rfl
      simp only [Bool.true_and, Bool.false_eq_true, if_false, if_true, Bool.not_true, Mach.csRead_dropA, Mach.csRead_ev, Mach.csRead_csCheck,
        hclean, hss, hnone, Bool.or_self]
      exact ⟨_, by simp, rfl⟩

/-- R191: a scale entry that meets no poison. -/
theorem Lsu.scaleEntry_reads {m : Mach} {g s aa ab q fmt pka pkb : Nat} {r : LsuRun} {oa ob : List Nat}
    (ha : Lsu.scaleSide m g aa (if pka = 1 then 4 * packP fmt else 1) = some oa)
    (hb : Lsu.scaleSide (if isAddrQ aa then m.dropA g aa else m) g ab (if pkb = 1 then 4 * packP fmt else 1) = some ob)
    (hroom : m.qRoom g q ((m.core g).lsuComing q + 1) = true) (hca : (m.csRead g oa).2 = false) (hcb : (m.csRead g ob).2 = false) :
    ∃ m', m'.still = (if isAddrQ ab then (if isAddrQ aa then m.dropA g aa else m).dropA g ab else if isAddrQ aa then m.dropA g aa else m).still ∧
      Lsu.scaleEntry g s r aa ab q fmt pka pkb m = Lsu.put g s { r with
        started := r.started + 1
        flight := r.flight ++ [(q, ⟨slot16 fun l => ((m.csRead g oa).1.getD l 0).toNat + 256 * ((m.csRead g ob).1.getD l 0).toNat, false⟩)] } m' := by
  have hread (os : List Nat) : (if isAddrQ ab then (if isAddrQ aa then m.dropA g aa else m).dropA g ab
      else if isAddrQ aa then m.dropA g aa else m).csRead g os = m.csRead g os := by
    repeat' split
    all_goals rfl
  unfold Lsu.scaleEntry
  simp only [ha, hb, hroom, Bool.not_true, Bool.false_eq_true, if_false, hread, hca, hcb, Bool.or_self]
  exact ⟨_, Mach.still_csCheck _ _ _, rfl⟩

/-- R192: an entry that an STV stores. -/
theorem Lsu.storeLine_stores {m : Mach} {g s q a : Nat} {r : LsuRun} {w32 : Bool} {e : AddrEnt} {d : Ent} (he : m.headA g a = some e)
    (hd : m.headQ g q = some d) (hclean : d.poison = false) :
    Lsu.storeLine g s r q a w32 m = Lsu.put g s { r with started := r.started + 1 }
      (((m.dropA g a).dropQ g q 1).csWrite g ((lineBytes e w32).zip (slotBytes d.bits (lineBytes e w32).length))) := by
  unfold Lsu.storeLine
  simp only [he, hd, hclean, Bool.false_eq_true, if_false]

/-- A byte of the core store that a write does not name. -/
theorem Mach.byteAt_csWrite (m : Mach) {g k : Nat} (os : List Nat) (hk : k ∉ os.map (coreAddr g)) (bs : List Byte) :
    (m.csWrite g (os.zip bs)).byteAt k = m.byteAt k := by
  refine NMap.get_setMany_of_notMem _ _ _ fun kv hkv heq => hk ?_
  obtain ⟨ob, hob, rfl⟩ := List.mem_map.1 hkv
  exact heq ▸ List.mem_map_of_mem (List.of_mem_zip hob).1

/-- R193: an entry that a QMOV or QDUP moves. -/
theorem Lsu.moveEntry_moves {m : Mach} {g s qs : Nat} {ds : List Nat} {r : LsuRun} {d : Ent} (hr : r.flight = [])
    (hd : m.headQ g qs = some d) (hclean : d.poison = false) :
    Lsu.moveEntry g s r qs ds m = Lsu.put g s { r with started := r.started + 1, flight := ds.map (·, d) } (m.dropQ g qs 1) := by
  unfold Lsu.moveEntry
  simp only [hr, hd, hclean, Bool.false_eq_true, if_false, List.nil_append, bne_self_eq_false]

/-- R189, R191-R193: what a slot starts whose command may pop now. -/
def Lsu.starts (g s : Nat) (r : LsuRun) (m : Mach) : Mach :=
  match r.cmd.ins with
  | .ldv _ a q ca fmt pack part w32 _ =>
    Lsu.readLine g s r a.toNat q.toNat ca.toNat fmt.toNat pack.toNat part.toNat (w32 == 1) m
  | .lds _ aa ab q fmt pka pkb _ => Lsu.scaleEntry g s r aa.toNat ab.toNat q.toNat fmt.toNat pka.toNat pkb.toNat m
  | .stv _ q a w32 _ => Lsu.storeLine g s r q.toNat a.toNat (w32 == 1) m
  | .qmov _ qs qd _ => Lsu.moveEntry g s r qs.toNat [qd.toNat] m
  | .qdup _ qs d1 d2 _ => Lsu.moveEntry g s r qs.toNat [d1.toNat, d2.toNat] m
  | _ => m

theorem Lsu.readStart_eq {m : Mach} {g6 : BitVec 6} {sl : BitVec 3} {r : LsuRun} (hruns : m.unitRuns g6.toNat .lsu = true)
    (hsl : sl.toNat ≤ 4) (hr : ((Lsu.take g6.toNat sl.toNat m).core g6.toNat).lsuAt sl.toNat = some r)
    (hleft : r.started < lsuN r.cmd.ins) (hpop : ((Lsu.take g6.toNat sl.toNat m).core g6.toNat).lsuPopBusy r = false)
    (hpush : lsuReads r.cmd.ins = true → ((Lsu.take g6.toNat sl.toNat m).core g6.toNat).lsuPushBusy r = false) :
    Lsu.readStart g6 sl m = Lsu.starts g6.toNat sl.toNat r (Lsu.take g6.toNat sl.toNat m) := by
  have hread : (lsuReads r.cmd.ins && ((Lsu.take g6.toNat sl.toNat m).core g6.toNat).lsuPushBusy r) = false := by
    cases h : lsuReads r.cmd.ins
    · rfl
    · rw [hpush h]; rfl
  unfold Lsu.readStart
  simp only [hruns, hr, hpop, hread, decide_eq_false (Nat.not_lt.2 hsl), decide_eq_false (Nat.not_le.2 hleft), gt_iff_lt,
    Bool.not_true, Bool.or_self, Bool.false_eq_true, if_false]
  rfl

/-- R78: the push of one entry of a slot, with its profile event. -/
def Mach.pushEv (m : Mach) (g : Nat) (e : Nat × Ent) : Mach := (m.pushQ g e.1 e.2).ev g (0x80 + e.1) 1

theorem Mach.dq_pushEv (m : Mach) (g : Nat) (e : Nat × Ent) (q : Nat) :
    ((m.pushEv g e).core g).dq q = if q = e.1 then (m.core g).dq e.1 ++ [e.2] else (m.core g).dq q := by
  rw [Mach.pushEv, Mach.core_ev, Mach.pushQ, Mach.core_onCore, if_pos rfl]
  exact Core.dq_setDq _ _ _ _

/-- R78: entries pushed in order each go to their queue's tail. -/
theorem Mach.dq_foldl_pushEv (es : List (Nat × Ent)) (m : Mach) (g q : Nat) :
    ((es.foldl (·.pushEv g ·) m).core g).dq q = (m.core g).dq q ++ (es.filter fun x => x.1 == q).map (·.2) := by
  induction es generalizing m with
  | nil => simp
  | cons e es ih =>
    rw [List.foldl_cons, ih, Mach.dq_pushEv]
    by_cases h : e.1 = q
    · subst h; simp
    · simp [h, Ne.symm h]

theorem Mach.core_foldl_pushEv_ne (es : List (Nat × Ent)) (m : Mach) {g h : Nat} (hne : h ≠ g) :
    (es.foldl (·.pushEv g ·) m).core h = m.core h :=
  foldl_keep (fun m : Mach => m.core h) _ (fun m e => by rw [Mach.pushEv, Mach.core_ev, Mach.pushQ, Mach.core_onCore, if_neg hne]) es m

theorem Mach.rd_foldl_pushEv (es : List (Nat × Ent)) (m : Mach) (g : Nat) {f : Fld} (hf : f ≠ .PROF_CNT) (i : Nat) :
    (es.foldl (·.pushEv g ·) m).rd f i = m.rd f i :=
  foldl_keep (fun m : Mach => m.rd f i) _ (fun m e => by rw [Mach.pushEv, Mach.rd_ev _ _ _ _ _ _ hf]; rfl) es m

theorem Mach.byteAt_foldl_pushEv (es : List (Nat × Ent)) (m : Mach) (g a : Nat) : (es.foldl (·.pushEv g ·) m).byteAt a = m.byteAt a :=
  foldl_keep (fun m : Mach => m.byteAt a) _ (fun m e => by rw [Mach.pushEv, Mach.ev_eq]; rfl) es m

/-- R78, R193: the oldest entries on their way of a slot, for which their queues have room. -/
theorem Lsu.entryPush_pushes {m : Mach} {g6 : BitVec 6} {sl : BitVec 3} {r : LsuRun} {k : Nat}
    (hk : (match r.cmd.ins with | .qdup .. => 2 | _ => 1) = k) (hruns : m.unitRuns g6.toNat .lsu = true)
    (hr : (m.core g6.toNat).lsuAt sl.toNat = some r) (hes : r.flight.take k ≠ [])
    (hroom : ∀ e ∈ r.flight.take k, m.qRoom g6.toNat e.1 ((r.flight.take k).countP fun x => x.1 == e.1) = true)
    (hpush : (m.core g6.toNat).lsuPushBusy r = false) :
    Lsu.entryPush g6 sl m = Lsu.put g6.toNat sl.toNat { r with flight := r.flight.drop k }
      ((r.flight.take k).foldl (·.pushEv g6.toNat ·) m) := by
  have hempty : (r.flight.take k).isEmpty = false := by rw [Bool.eq_false_iff]; exact fun h => hes (List.isEmpty_iff.1 h)
  have hall := List.all_eq_true.2 hroom
  subst hk
  unfold Lsu.entryPush
  simp only [hr]
  refine if_pos ?_
  rw [Bool.and_eq_true, Bool.and_eq_true, Bool.and_eq_true, Bool.not_eq_true', Bool.not_eq_true']
  exact ⟨⟨⟨hruns, hempty⟩, hall⟩, hpush⟩

/-- Settles O17: the start's effect by the command's kind (`Lsu.readLine_reads`, `Lsu.scaleEntry_reads`, `Lsu.storeLine_stores`,
`Lsu.moveEntry_moves`) on the queues that the take of the command leaves as they were (`Lsu.take_same`), and the push. -/
theorem lsuMoves : Obligations.LsuMoves := by
  unfold Obligations.LsuMoves
  refine ⟨fun g6 sl r e d s => ?start, fun g6 sl r s => ?push⟩
  case push =>
    dsimp only
    intro hruns hr hes hroom hpush
    refine does_of_lift rfl ?_
    rw [Lsu.entryPush_pushes rfl hruns hr hes hroom hpush]
    refine ⟨fun q => ?_, ?_, fun h hne => ?_, fun f i hf => ?_, fun a => ?_⟩
    · rw [Lsu.core_put, if_pos rfl]; exact Mach.dq_foldl_pushEv _ _ _ _
    · rw [Lsu.core_put, if_pos rfl, Core.lsuAt_setLsu, if_pos rfl]; rfl
    · rw [Lsu.core_put, if_neg hne, Mach.core_foldl_pushEv_ne _ _ hne]
    · exact Mach.rd_foldl_pushEv _ _ _ hf i
    · exact Mach.byteAt_foldl_pushEv _ _ _ a
  case start =>
    dsimp only
    intro hruns hsl hr hleft hpop hpush
    have hsame := Lsu.take_same g6.toNat sl.toNat s.m
    have hstart := Lsu.readStart_eq hruns hsl hr hleft hpop hpush
    generalize Lsu.take g6.toNat sl.toNat s.m = m0 at *
    refine ⟨fun t a q ca fmt pack part w32 n hins he hmx hclean hroom => ?ldv, fun t aa ab q fmt pka pkb n oa ob hins ha hb hroom hca hcb => ?lds,
      fun t q a w32 n hins he hd hclean => ?stv, fun t qs ds hins hfl hd hclean => ?mov⟩
    case ldv =>
      have hpart : part.toNat = 0 ↔ part = 0 := ⟨fun h => BitVec.eq_of_toNat_eq h, fun h => by rw [h]; rfl⟩
      refine does_of_lift rfl ?_
      have hread : Lsu.starts g6.toNat sl.toNat r m0 = Lsu.readLine g6.toNat sl.toNat r a.toNat q.toNat ca.toNat fmt.toNat pack.toNat
          part.toNat (w32 == 1) m0 := by
        unfold Lsu.starts
        simp only [hins]
      have hcomp := (hsame.dropA a.toNat).headA ca.toNat
      obtain ⟨m', hstill, heq⟩ := Lsu.readLine_reads (m := m0) (g := g6.toNat) (s := sl.toNat) (a := a.toNat) (q := q.toNat) (ca := ca.toNat)
        (fmt := fmt.toNat) (pack := pack.toNat) (part := part.toNat) (r := r) (w32 := w32 == 1) ((hsame.headA _).trans he)
        (by rw [hcomp, hsame.csRead]; exact hmx) (by rw [hsame.csRead]; exact hclean)
        (by rw [hsame.qRoom]; simpa only [Bool.and_eq_true, decide_eq_true_eq, hpart] using hroom)
      rw [hcomp, hsame.csRead, hsame.csRead] at heq
      rw [hstart, hread, heq]
      obtain ⟨hslot, hadq, hdq, hcores, hbytes⟩ := Lsu.put_effect ((hsame.dropA a.toNat).dropA_if _ ca.toNat) hstill
      refine ⟨hslot.trans ?_, hadq, fun q => (hdq q).trans ?_, fun h hne => (hcores h hne).trans ?_, fun k => (hbytes k).trans ?_⟩
      · simp only [LsuRun.slot, ldvEnts, hpart]
      · rw [Mach.dq_dropA_if, Mach.dq_dropA]
      · rw [Mach.core_dropA_if_ne _ _ _ hne, Mach.core_dropA_ne _ hne]
      · rw [Mach.byteAt_dropA_if]; rfl
    case lds =>
      have hone (x : BitVec 1) : x.toNat = 1 ↔ x = 1 := ⟨fun h => BitVec.eq_of_toNat_eq h, fun h => by rw [h]; rfl⟩
      refine does_of_lift rfl ?_
      have hread : Lsu.starts g6.toNat sl.toNat r m0 = Lsu.scaleEntry g6.toNat sl.toNat r aa.toNat ab.toNat q.toNat fmt.toNat pka.toNat
          pkb.toNat m0 := by
        unfold Lsu.starts
        simp only [hins]
      obtain ⟨m', hstill, heq⟩ := Lsu.scaleEntry_reads (m := m0) (g := g6.toNat) (s := sl.toNat) (aa := aa.toNat) (ab := ab.toNat) (q := q.toNat)
        (fmt := fmt.toNat) (pka := pka.toNat) (pkb := pkb.toNat) (r := r) (oa := oa) (ob := ob)
        (by simp only [hone]; exact (hsame.scaleSide _ _).trans ha)
        (by simp only [hone]; exact ((hsame.dropA_if _ _).scaleSide _ _).trans hb)
        (by rw [hsame.qRoom]; exact hroom) (by rw [hsame.csRead]; exact hca) (by rw [hsame.csRead]; exact hcb)
      rw [hsame.csRead, hsame.csRead] at heq
      rw [hstart, hread, heq]
      obtain ⟨hslot, hadq, hdq, hcores, hbytes⟩ := Lsu.put_effect ((hsame.dropA_if (isAddrQ aa.toNat) aa.toNat).dropA_if _ ab.toNat) hstill
      refine ⟨hslot, hadq, fun q => (hdq q).trans ?_, fun h hne => (hcores h hne).trans ?_, fun k => (hbytes k).trans ?_⟩
      · rw [Mach.dq_dropA_if, Mach.dq_dropA_if]
      · rw [Mach.core_dropA_if_ne _ _ _ hne, Mach.core_dropA_if_ne _ _ _ hne]
      · rw [Mach.byteAt_dropA_if, Mach.byteAt_dropA_if]
    case stv =>
      refine does_of_lift rfl ?_
      have hstore : Lsu.starts g6.toNat sl.toNat r m0 = Lsu.storeLine g6.toNat sl.toNat r q.toNat a.toNat (w32 == 1) m0 := by
        unfold Lsu.starts
        simp only [hins]
      rw [hstart, hstore, Lsu.storeLine_stores ((hsame.headA _).trans he) ((hsame.headQ _).trans hd) hclean]
      have hdrops := (hsame.dropA a.toNat).dropQ q.toNat 1
      refine ⟨?_, fun i => ?_, fun q' => ?_, ?_, fun k hk => ?_, fun h hne => ?_, fun f i => ?_⟩
      · rw [Lsu.core_put, if_pos rfl, Core.lsuAt_setLsu, if_pos rfl]; rfl
      · rw [Lsu.core_put, if_pos rfl]
        exact (hdrops.adq i).trans (Mach.adq_dropQ _ _ _ _ _)
      · rw [Lsu.core_put, if_pos rfl]
        refine (hdrops.dq q').trans ?_
        simp only [Mach.dq_dropQ, Mach.dq_dropA]
      · exact congrArg (NMap.setMany byte0 · _) hsame.mem
      · exact (Mach.byteAt_csWrite _ _ hk _).trans (hsame.byteAt k)
      · rw [Lsu.core_put, if_neg hne]
        refine (hdrops.cores h hne).trans ?_
        rw [Mach.core_dropQ_ne _ hne, Mach.core_dropA_ne _ hne]
      · exact hsame.rd f i
    case mov =>
      refine does_of_lift rfl ?_
      have hmove : Lsu.starts g6.toNat sl.toNat r m0 = Lsu.moveEntry g6.toNat sl.toNat r qs.toNat ds m0 := by
        unfold Lsu.starts
        obtain ⟨qd, n, hins, rfl⟩ | ⟨d1, d2, n, hins, rfl⟩ := hins <;> simp only [hins]
      rw [hstart, hmove, Lsu.moveEntry_moves hfl ((hsame.headQ _).trans hd) hclean]
      obtain ⟨hslot, hadq, hdq, hcores, hbytes⟩ := Lsu.put_effect (s := sl.toNat)
        (r := { r with started := r.started + 1, flight := ds.map (·, d) }) (hsame.dropQ qs.toNat 1) rfl
      refine ⟨hslot, fun i => (hadq i).trans (Mach.adq_dropQ _ _ _ _ _), hdq, fun h hne => (hcores h hne).trans (Mach.core_dropQ_ne _ hne _ _),
        fun f i => hsame.rd f i, hbytes⟩

end Sys2Proof.Machine

/-! The OPE (R63-R72, R83-R88): the issue of an update and its completion. -/
namespace Sys2Proof.Machine

/-- A queue that gives its head and after that the entries of `rest` holds those and one more. -/
theorem Mach.count_le_of_headQ {m : Mach} {g q0 : Nat} {rest : List Nat} {e : Ent} (hhead : m.headQ g q0 = some e)
    (hrest : ∀ q, rest.count q ≤ (((m.dropQ g q0 1).core g).dq q).length) (q : Nat) :
    (q0 :: rest).count q ≤ ((m.core g).dq q).length := by
  have h := hrest q
  have hne : ((m.core g).dq q0).length ≠ 0 := by
    intro h0
    rw [Mach.headQ, List.length_eq_zero_iff.1 h0] at hhead
    cases hhead
  rw [Mach.dq_dropQ] at h
  rw [List.count_cons]
  by_cases hq : q0 = q
  · subst hq
    rw [if_pos rfl, List.length_drop] at h
    rw [if_pos (beq_self_eq_true q0)]
    omega
  · rw [if_neg (Ne.symm hq)] at h
    rw [if_neg (by simpa using hq)]
    exact h

/-- R84: an update whose operands are all present finds no queue short of them. -/
theorem Ope.needs_present {m : Mach} {g : Nat} {f : OpuF} {issued : Nat} {a b : Ent} (ha : m.headQ g f.qa = some a)
    (hb : (m.dropQ g f.qa 1).headQ g f.qb = some b)
    (hs : (isDataQ f.qs && issued % (32 / packP f.fa) == 0) = true → (((m.dropQ g f.qa 1).dropQ g f.qb 1).headQ g f.qs).isSome = true) :
    ((Ope.needs f issued).find? fun q => ((m.core g).dq q).length < (Ope.needs f issued).count q) = none := by
  have hcount : ∀ q, (Ope.needs f issued).count q ≤ ((m.core g).dq q).length := by
    refine Mach.count_le_of_headQ ha (Mach.count_le_of_headQ hb ?_)
    split
    · next h =>
      obtain ⟨e, he⟩ := Option.isSome_iff_exists.1 (hs h)
      exact Mach.count_le_of_headQ he fun q => Nat.zero_le _
    · exact fun q => Nat.zero_le _
  rw [List.find?_eq_none]
  intro q _
  rw [decide_eq_true_iff]
  exact Nat.not_lt.2 (hcount q)

theorem SameQueues.refl (g : Nat) (m : Mach) : SameQueues g m m :=
  ⟨fun _ => rfl, fun _ => rfl, fun _ _ => rfl, rfl, rfl, rfl, fun _ _ => rfl⟩

theorem Mach.popEng_same (m : Mach) (g u : Nat) : SameQueues g m (m.popEng g u) where
  adq i := by rw [Mach.popEng, Mach.core_onCore, if_pos rfl]; unfold Core.setEngQ; split <;> rfl
  dq q := by rw [Mach.popEng, Mach.core_onCore, if_pos rfl]; unfold Core.setEngQ; split <;> rfl
  cores h hne := by rw [Mach.popEng, Mach.core_onCore, if_neg hne]
  mem := rfl
  poison := rfl
  hurt := rfl
  rd _ _ := rfl

theorem Mach.core_dropQ (m : Mach) (g n k : Nat) : (m.dropQ g n k).core g = { m.core g with q := ((m.dropQ g n k).core g).q } := by
  rw [Mach.dropQ, Mach.core_onCore, if_pos rfl]; rfl

/-- What the issue of an update leaves of the module whose queues have given its operands: the update in the pipeline, and counters. -/
theorem Ope.issueUpd_issues {m : Mach} {g : Nat} {r : OpeRun} {f : OpuF} {a b sc : Ent} (ha : m.headQ g f.qa = some a)
    (hb : (m.dropQ g f.qa 1).headQ g f.qb = some b)
    (hs : (if (isDataQ f.qs && r.issued % (32 / packP f.fa) == 0) = true then ((m.dropQ g f.qa 1).dropQ g f.qb 1).headQ g f.qs
      else some ⟨r.scale, false⟩) = some sc)
    (hca : a.poison = false) (hcb : b.poison = false) (hcs : sc.poison = false) :
    ∃ m3 : Mach, SameQueues g (if (isDataQ f.qs && r.issued % (32 / packP f.fa) == 0) = true then ((m.dropQ g f.qa 1).dropQ g f.qb 1).dropQ g f.qs 1
        else (m.dropQ g f.qa 1).dropQ g f.qb 1) m3 ∧
      m3.core g = { m.core g with q := (m3.core g).q, opeQ := if (m.core g).ope.isNone = true then (m.core g).opeQ.drop 1 else (m.core g).opeQ } ∧
      (Ope.issueUpd g r f m).still = (m3.onCore g fun c => { c with
        opePipe := c.opePipe ++ [⟨r.cmd, r.cmd.tile, r.issued, a.bits, b.bits, sc.bits, decide (f.n ≤ r.issued + 1)⟩]
        ope := if f.n ≤ r.issued + 1 then none else some { r with issued := r.issued + 1, scale := sc.bits } }).still := by
  generalize hscaled : (isDataQ f.qs && r.issued % (32 / packP f.fa) == 0) = scaled at *
  have hneeds : decide (2 < (Ope.needs f r.issued).length) = scaled := by
    unfold Ope.needs
    simp only [hscaled]
    cases scaled <;> rfl
  obtain ⟨m0, hm0⟩ : ∃ m0, m0 = if (m.core g).ope.isNone = true then m.popEng g 1 else m := ⟨_, rfl⟩
  have hsame : SameQueues g m m0 := by
    rw [hm0]
    split
    · exact m.popEng_same g 1
    · exact SameQueues.refl g m
  have hcore : m0.core g = { m.core g with opeQ := if (m.core g).ope.isNone = true then (m.core g).opeQ.drop 1 else (m.core g).opeQ } := by
    rw [hm0]
    split
    · rw [Mach.popEng, Mach.core_onCore, if_pos rfl]; rfl
    · rfl
  have ha0 := (hsame.headQ f.qa).trans ha
  have hb0 := ((hsame.dropQ f.qa 1).headQ f.qb).trans hb
  have hdrop2 := (hsame.dropQ f.qa 1).dropQ f.qb 1
  have hs0 : (if scaled = true then ((m0.dropQ g f.qa 1).dropQ g f.qb 1).headQ g f.qs else some ⟨r.scale, false⟩) = some sc := by
    rw [hdrop2.headQ]; exact hs
  have hsD : (if scaled = true then (((m0.dropQ g f.qa 1).dropQ g f.qb 1).headQ g f.qs).getD ⟨0, false⟩ else ⟨r.scale, false⟩) = sc := by
    cases scaled
    · exact Option.some.inj hs0
    · exact Option.getD_eq_iff.2 (.inl hs0)
  refine ⟨if scaled = true then ((m0.dropQ g f.qa 1).dropQ g f.qb 1).dropQ g f.qs 1 else (m0.dropQ g f.qa 1).dropQ g f.qb 1, ?_, ?_, ?_⟩
  · cases scaled
    · exact hdrop2
    · exact hdrop2.dropQ f.qs 1
  · cases scaled
    · simp only [Bool.false_eq_true, if_false]
      rw [Mach.core_dropQ, Mach.core_dropQ, hcore]
    · simp only [if_true]
      rw [Mach.core_dropQ, Mach.core_dropQ, Mach.core_dropQ, hcore]
  · unfold Ope.issueUpd
    simp only [← hm0, ha0, hb0, hneeds, Option.getD_some, hsD, hca, hcb, hcs, Bool.or_self, Bool.false_eq_true, if_false, decide_eq_true_eq]
    repeat' split
    all_goals simp

/-- R84, R88: an update whose tile allows it and whose operands are present issues. -/
theorem Ope.updateIssue_eq {m : Mach} {g6 : BitVec 6} {r : OpeRun} {f : OpuF} (hruns : m.unitRuns g6.toNat .ope = true)
    (hr : Ope.current (m.core g6.toNat) = some r) (hf : opuOf r.cmd.ins = some f) (hdrain : (m.core g6.toNat).tileState r.cmd.tile ≠ 2)
    (hpre : (m.core g6.toNat).tileState r.cmd.tile ≠ 3)
    (hall : ((Ope.needs f r.issued).find? fun q => ((m.core g6.toNat).dq q).length < (Ope.needs f r.issued).count q) = none) :
    Ope.updateIssue g6 m = Ope.issueUpd g6.toNat r f m := by
  unfold Ope.updateIssue
  simp only [hruns, Bool.not_true, Bool.false_eq_true, if_false, hr, hf, hdrain, hpre, hall]

/-! The completion of an update. -/

theorem Core.accRow_setAccRow (c : Core) (t i : Nat) (x : Slot) (t' i' : Nat) :
    (c.setAccRow t i x).accRow t' i' = if t' % 128 = t % 128 ∧ i' % 128 = i % 128 then x else c.accRow t' i' := by
  refine (NMap.get_set c.acc _ _ x).trans ?_
  have h : t' % 128 * 128 + i' % 128 = t % 128 * 128 + i % 128 ↔ t' % 128 = t % 128 ∧ i' % 128 = i % 128 := by omega
  simp only [h]
  rfl

/-- The rows of a tile after every row of one is written. -/
theorem Core.accRow_setTile (c : Core) (t : Nat) (f : Nat → Slot) (t' j : Nat) :
    (c.setTile t f).accRow t' j = if t' % 128 = t % 128 then f (j % 128) else c.accRow t' j := by
  have hrange : ∀ n, n ≤ 128 → ((List.range n).foldl (fun c i => c.setAccRow t i (f i)) c).accRow t' j =
      if t' % 128 = t % 128 ∧ j % 128 < n then f (j % 128) else c.accRow t' j := by
    intro n
    induction n with
    | zero => intro _; simp
    | succ n ih =>
      intro hn
      rw [List.range_succ, List.foldl_append, List.foldl_cons, List.foldl_nil, Core.accRow_setAccRow, ih (by omega), Nat.mod_eq_of_lt (a := n) hn]
      by_cases hj : j % 128 = n
      · subst hj
        by_cases ht : t' % 128 = t % 128 <;> simp [ht]
      · have hlt : j % 128 < n + 1 ↔ j % 128 < n := by omega
        simp [hj, hlt]
  refine (hrange 128 (Nat.le_refl _)).trans ?_
  have hlt : j % 128 < 128 := Nat.mod_lt _ (by decide)
  simp [hlt]

theorem Core.setTile_eq (c : Core) (t : Nat) (f : Nat → Slot) : c.setTile t f = { c with acc := (c.setTile t f).acc } := by
  unfold Core.setTile
  generalize List.range 128 = l
  induction l generalizing c with
  | nil => rfl
  | cons i l ih => rw [List.foldl_cons, ih]; rfl

theorem Core.dq_setTile (c : Core) (t : Nat) (f : Nat → Slot) (q : Nat) : (c.setTile t f).dq q = c.dq q :=
  foldl_keep (fun c : Core => c.dq q) (fun c i => c.setAccRow t i (f i)) (fun _ _ => rfl) _ c

/-- R98, R99: non-finite events write registers, the trace and the logs alone. -/
@[simp] theorem Mach.still_nonfinite (m : Mach) (g : Nat) (es : List NfEvent) (src tile pos : Nat) (cmd : Cmd) :
    (m.nonfinite g es src tile pos cmd).still = m.still := by
  unfold Mach.nonfinite
  dsimp only
  split
  · simp
  · split <;> simp

theorem Ope.getD_updRows {c : Core} {f : OpuF} {p : OpePend} {i : Nat} (hi : i < 128) :
    (Ope.updRows c f p).getD i slot0 = Ope.updRow f p
      ((List.range 128).map fun j => scaledElems f.fb (lane16 p.b j) (lane16 p.sc j / 256)) i (c.accRow p.tile i) := by
  unfold Ope.updRows
  rw [getD_of_lt (by simpa using hi), List.getElem_map, List.getElem_range]

/-- R67, R83: what the completion of the oldest update leaves. -/
theorem Ope.updateComplete_still {m : Mach} {g6 : BitVec 6} {p : OpePend} {rest : List OpePend} {f : OpuF} (hup : m.mainUp = true)
    (hp : (m.core g6.toNat).opePipe = p :: rest) (hf : opuOf p.cmd.ins = some f) :
    (Ope.updateComplete g6 m).still = (m.onCore g6.toNat fun c => ({ c with opePipe := rest }).setTile p.tile
      fun i => (Ope.updRows (m.core g6.toNat) f p).getD i slot0).still := by
  unfold Ope.updateComplete
  simp only [hp, hf, hup, Bool.not_true, Bool.false_eq_true, if_false, Mach.still_nonfinite]

/-- Settles O18: the issue by `Ope.issueUpd_issues`, the completion by the rows of `Core.accRow_setTile`. -/
theorem opeUpdates : Obligations.OpeUpdates := by
  unfold Obligations.OpeUpdates
  refine ⟨fun g6 r f a b sc s => ?issue, fun g6 p rest f s => ?complete⟩
  case issue =>
    dsimp only
    intro hruns hr hf hdrain hpre ha hb hsc hca hcb hcs
    refine does_of_lift rfl ?_
    obtain ⟨m3, hsame, hcore, hstill⟩ := Ope.issueUpd_issues ha hb hsc hca hcb hcs
    rw [Ope.updateIssue_eq hruns hr hf hdrain hpre (Ope.needs_present ha hb fun h => by rw [if_pos h] at hsc; rw [hsc]; rfl)]
    have hg := (Mach.core_of_still hstill g6.toNat).trans (Mach.core_onCore _ _ _ _)
    rw [if_pos rfl, hcore] at hg
    refine ⟨by rw [hg], by rw [hg], by rw [hg], fun q => ?_, by rw [hg], fun h hne => ?_, fun x => ?_⟩
    · rw [hg]
      exact (congrArg (fun c : Core => c.dq q) hcore).symm.trans (hsame.dq q)
    · rw [Mach.core_of_still hstill, Mach.core_onCore, if_neg hne, hsame.cores h hne]
      split
      · rw [Mach.core_dropQ_ne _ hne, Mach.core_dropQ_ne _ hne, Mach.core_dropQ_ne _ hne]
      · rw [Mach.core_dropQ_ne _ hne, Mach.core_dropQ_ne _ hne]
    · rw [Mach.byteAt_of_still hstill]
      refine (hsame.byteAt x).trans ?_
      split <;> rfl
  case complete =>
    dsimp only
    intro hup hp hf
    refine does_of_lift rfl ?_
    have hstill := Ope.updateComplete_still hup hp hf
    have hg := (Mach.core_of_still hstill g6.toNat).trans (Mach.core_onCore _ _ _ _)
    rw [if_pos rfl] at hg
    refine ⟨?_, fun i hi => ?_, fun t i ht => ?_, fun q => ?_, fun h hne => ?_, fun x => ?_⟩
    · rw [hg, Core.setTile_eq]
    · rw [hg, Core.accRow_setTile, if_pos rfl, Nat.mod_eq_of_lt hi, Ope.getD_updRows hi]
    · rw [hg, Core.accRow_setTile, if_neg ht]; rfl
    · rw [hg, Core.dq_setTile]; rfl
    · rw [Mach.core_of_still hstill, Mach.core_onCore, if_neg hne]
    · rw [Mach.byteAt_of_still hstill]; rfl

end Sys2Proof.Machine

/-! Lanes of an entry (R68): reads after writes; and the DRU's starts and preloads (R88, R89, R100-R102, R109). -/
namespace Sys2Proof.Machine

theorem bitsAt_lt (n lo w : Nat) : bitsAt n lo w < 2 ^ w := Nat.mod_lt _ (Nat.two_pow_pos w)

theorem packLanes_lt (w : Nat) (vs : List Nat) : packLanes w vs < 2 ^ (w * vs.length) := by
  induction vs with
  | nil => exact Nat.one_pos
  | cons v vs ih =>
    have hv : v % 2 ^ w < 2 ^ w := Nat.mod_lt _ (Nat.two_pow_pos w)
    rw [packLanes, List.length_cons, Nat.mul_add_one, Nat.add_comm (w * _), Nat.pow_add]
    calc v % 2 ^ w + 2 ^ w * packLanes w vs < 2 ^ w + 2 ^ w * packLanes w vs := Nat.add_lt_add_right hv _
      _ = 2 ^ w * (packLanes w vs + 1) := by rw [Nat.mul_add_one, Nat.add_comm]
      _ ≤ 2 ^ w * 2 ^ (w * vs.length) := Nat.mul_le_mul_left _ ih

theorem bitsAt_packLanes (w : Nat) (vs : List Nat) (l : Nat) : bitsAt (packLanes w vs) (w * l) w = vs.getD l 0 % 2 ^ w := by
  induction vs generalizing l with
  | nil => simp [packLanes, bitsAt]
  | cons v vs ih =>
    have hv : v % 2 ^ w < 2 ^ w := Nat.mod_lt _ (Nat.two_pow_pos w)
    cases l with
    | zero => simp [packLanes, bitsAt]
    | succ l =>
      rw [List.getD_cons_succ, ← ih l, packLanes, bitsAt, bitsAt, Nat.mul_add_one, Nat.add_comm (w * l), Nat.pow_add, ← Nat.div_div_eq_div_mul,
        Nat.add_mul_div_left _ _ (Nat.two_pow_pos w), Nat.div_eq_of_lt hv, Nat.zero_add]

theorem packLanes_congr {w : Nat} {f g : Nat → Nat} (ls : List Nat) (h : ∀ l ∈ ls, f l % 2 ^ w = g l % 2 ^ w) :
    packLanes w (ls.map f) = packLanes w (ls.map g) := by
  induction ls with
  | nil => rfl
  | cons l ls ih =>
    rw [List.map_cons, List.map_cons, packLanes, packLanes, h l List.mem_cons_self, ih fun x hx => h x (List.mem_cons_of_mem _ hx)]

theorem slot32_congr {f g : Nat → Nat} (h : ∀ l, l < 128 → f l % 2 ^ 32 = g l % 2 ^ 32) : slot32 f = slot32 g := by
  unfold slot32
  rw [packLanes_congr _ fun l hl => h l (List.mem_range.1 hl)]

theorem toNat_ofNat_of_lt {k n : Nat} (h : n < 2 ^ k) : (BitVec.ofNat k n).toNat = n := by
  rw [BitVec.toNat_ofNat, Nat.mod_eq_of_lt h]

theorem lane32_slot32 (f : Nat → Nat) {l : Nat} (h : l < 128) : lane32 (slot32 f) l = f l % 2 ^ 32 := by
  have hlen : 32 * ((List.range 128).map f).length = 4096 := by rw [List.length_map, List.length_range]
  have hlt := packLanes_lt 32 ((List.range 128).map f)
  rw [hlen] at hlt
  rw [lane32, slot32, toNat_ofNat_of_lt hlt, bitsAt_packLanes, getD_of_lt (by rw [List.length_map, List.length_range]; exact h),
    List.getElem_map, List.getElem_range]

/-- The three parts of a number about a bit field. -/
theorem split_bitsAt (n lo w : Nat) : n = n % 2 ^ lo + bitsAt n lo w * 2 ^ lo + n / 2 ^ (lo + w) * 2 ^ (lo + w) := by
  have h1 := Nat.div_add_mod n (2 ^ lo)
  have h2 := Nat.div_add_mod (n / 2 ^ lo) (2 ^ w)
  rw [Nat.div_div_eq_div_mul, ← Nat.pow_add] at h2
  calc n = 2 ^ lo * (n / 2 ^ lo) + n % 2 ^ lo := h1.symm
    _ = 2 ^ lo * (2 ^ w * (n / 2 ^ (lo + w)) + bitsAt n lo w) + n % 2 ^ lo := by rw [bitsAt, h2]
    _ = _ := by rw [Nat.pow_add, Nat.mul_add]; ac_rfl

theorem putBits_eq (n lo w v : Nat) : putBits n lo w v = n % 2 ^ lo + v % 2 ^ w * 2 ^ lo + n / 2 ^ (lo + w) * 2 ^ (lo + w) := by
  have h := split_bitsAt n lo w
  rw [putBits]
  omega

theorem bitsAt_putBits_same (n lo w v : Nat) : bitsAt (putBits n lo w v) lo w = v % 2 ^ w := by
  have h1 : n % 2 ^ lo < 2 ^ lo := Nat.mod_lt _ (Nat.two_pow_pos lo)
  rw [putBits_eq, bitsAt, Nat.pow_add, show n % 2 ^ lo + v % 2 ^ w * 2 ^ lo + n / (2 ^ lo * 2 ^ w) * (2 ^ lo * 2 ^ w) =
    n % 2 ^ lo + 2 ^ lo * (v % 2 ^ w + 2 ^ w * (n / (2 ^ lo * 2 ^ w))) by rw [Nat.mul_add]; ac_rfl, Nat.add_mul_div_left _ _ (Nat.two_pow_pos lo),
    Nat.div_eq_of_lt h1, Nat.zero_add, Nat.add_mul_mod_self_left, Nat.mod_mod]

theorem putBits_mod_low (n lo w v : Nat) : putBits n lo w v % 2 ^ lo = n % 2 ^ lo := by
  rw [putBits_eq, Nat.pow_add, show n % 2 ^ lo + v % 2 ^ w * 2 ^ lo + n / (2 ^ lo * 2 ^ w) * (2 ^ lo * 2 ^ w) =
    n % 2 ^ lo + 2 ^ lo * (v % 2 ^ w + 2 ^ w * (n / (2 ^ lo * 2 ^ w))) by rw [Nat.mul_add]; ac_rfl, Nat.add_mul_mod_self_left, Nat.mod_mod]

theorem putBits_div_high (n lo w v : Nat) : putBits n lo w v / 2 ^ (lo + w) = n / 2 ^ (lo + w) := by
  have h1 : n % 2 ^ lo < 2 ^ lo := Nat.mod_lt _ (Nat.two_pow_pos lo)
  have h2 : v % 2 ^ w < 2 ^ w := Nat.mod_lt _ (Nat.two_pow_pos w)
  have hlt : n % 2 ^ lo + v % 2 ^ w * 2 ^ lo < 2 ^ (lo + w) := by
    rw [Nat.pow_add]
    calc n % 2 ^ lo + v % 2 ^ w * 2 ^ lo < 2 ^ lo + v % 2 ^ w * 2 ^ lo := Nat.add_lt_add_right h1 _
      _ = 2 ^ lo * (v % 2 ^ w + 1) := by rw [Nat.mul_add, Nat.mul_one]; ac_rfl
      _ ≤ 2 ^ lo * 2 ^ w := Nat.mul_le_mul_left _ h2
  rw [putBits_eq, Nat.add_mul_div_right _ _ (Nat.two_pow_pos _), Nat.div_eq_of_lt hlt, Nat.zero_add]

/-- A field that a written one does not touch keeps its bits. -/
theorem bitsAt_putBits_ne (n : Nat) {lo w lo' w' : Nat} (v : Nat) (h : lo' + w' ≤ lo ∨ lo + w ≤ lo') :
    bitsAt (putBits n lo w v) lo' w' = bitsAt n lo' w' := by
  obtain h | h := h
  · have hlow (x : Nat) : bitsAt x lo' w' = bitsAt (x % 2 ^ lo) lo' w' := by
      have hsub : 2 ^ lo = 2 ^ lo' * 2 ^ (lo - lo') := by rw [← Nat.pow_add]; congr 1; omega
      have hdvd : 2 ^ w' ∣ 2 ^ (lo - lo') := Nat.pow_dvd_pow 2 (by omega)
      rw [bitsAt, bitsAt, hsub, Nat.mod_mul_right_div_self, Nat.mod_mod_of_dvd _ hdvd]
    rw [hlow, putBits_mod_low, ← hlow]
  · have hhigh (x : Nat) : bitsAt x lo' w' = x / 2 ^ (lo + w) / 2 ^ (lo' - (lo + w)) % 2 ^ w' := by
      rw [bitsAt, Nat.div_div_eq_div_mul, ← Nat.pow_add]
      congr 3
      omega
    rw [hhigh, putBits_div_high, ← hhigh]

theorem putBits_lt {n lo w v k : Nat} (hn : n < 2 ^ k) (h : lo + w ≤ k) : putBits n lo w v < 2 ^ k := by
  have hdiv : putBits n lo w v / 2 ^ (lo + w) < 2 ^ (k - (lo + w)) := by
    rw [putBits_div_high, Nat.div_lt_iff_lt_mul (Nat.two_pow_pos _), ← Nat.pow_add]
    rwa [Nat.sub_add_cancel h]
  rwa [Nat.div_lt_iff_lt_mul (Nat.two_pow_pos _), ← Nat.pow_add, Nat.sub_add_cancel h] at hdiv

theorem putBits_toNat_lt {k : Nat} (s : BitVec k) {lo w v : Nat} (h : lo + w ≤ k) : putBits s.toNat lo w v < 2 ^ k := putBits_lt s.isLt h

theorem lane32_setLane32 (s : Slot) {j : Nat} (hj : j < 128) (v l : Nat) : lane32 (setLane32 s j v) l = if l = j then v % 2 ^ 32 else lane32 s l := by
  have hle : 32 * j + 32 ≤ 4096 := by omega
  rw [lane32, setLane32, toNat_ofNat_of_lt (putBits_toNat_lt s hle)]
  split
  · next h => subst h; exact bitsAt_putBits_same _ _ _ _
  · exact bitsAt_putBits_ne _ _ (by omega)

/-! Lines of a tile (R103). -/

theorem Dru.tileLine_setTileLine (c : Core) (t : Nat) (col : Bool) {k j : Nat} (hk : k < 128) (hj : j < 128) (x : Slot) :
    Dru.tileLine (Dru.setTileLine c t col k x) t col j = if j = k then (if col then slot32 (lane32 x) else x) else Dru.tileLine c t col j := by
  unfold Dru.tileLine Dru.setTileLine
  cases col
  case false =>
    simp only [Bool.false_eq_true, if_false, Core.accRow_setAccRow, true_and, Nat.mod_eq_of_lt hk, Nat.mod_eq_of_lt hj]
  case true =>
    simp only [if_true]
    split
    · next h =>
      subst h
      refine slot32_congr fun i hi => ?_
      rw [Core.accRow_setTile, if_pos rfl, lane32_setLane32 _ hk, if_pos rfl, Nat.mod_mod, Nat.mod_eq_of_lt hi]
    · next h =>
      refine slot32_congr fun i hi => ?_
      rw [Core.accRow_setTile, if_pos rfl, lane32_setLane32 _ hk, if_neg h, Nat.mod_eq_of_lt hi]

theorem Dru.accRow_setTileLine {c : Core} {t t' : Nat} (h : t' % 128 ≠ t % 128) (col : Bool) (k : Nat) (x : Slot) (i : Nat) :
    (Dru.setTileLine c t col k x).accRow t' i = c.accRow t' i := by
  unfold Dru.setTileLine
  split
  · rw [Core.accRow_setTile, if_neg h]
  · rw [Core.accRow_setAccRow, if_neg fun h' => h h'.1]

theorem Dru.setTileLine_eq (c : Core) (t : Nat) (col : Bool) (k : Nat) (x : Slot) :
    Dru.setTileLine c t col k x = { c with acc := (Dru.setTileLine c t col k x).acc } := by
  unfold Dru.setTileLine
  split
  · exact Core.setTile_eq _ _ _
  · rfl

theorem Dru.dq_setTileLine (c : Core) (t : Nat) (col : Bool) (k : Nat) (x : Slot) (q : Nat) : (Dru.setTileLine c t col k x).dq q = c.dq q := by
  unfold Dru.setTileLine
  split
  · exact Core.dq_setTile _ _ _ _
  · rfl

/-! The starts of drains and preloads, and EPI (R88, R89, R109). -/

theorem Mach.core_popEng (m : Mach) (g u h : Nat) :
    (m.popEng g u).core h = if h = g then (m.core g).setEngQ u (((m.core g).engQ u).drop 1) else m.core h := Mach.core_onCore _ _ _ _

theorem Mach.core_popDru {m : Mach} {g : Nat} {cmd : Cmd} {rest : List Cmd} (h : (m.core g).druQ = cmd :: rest) :
    (m.popEng g 2).core g = { m.core g with druQ := rest } := by
  rw [Mach.core_popEng, if_pos rfl]
  show { m.core g with druQ := (m.core g).druQ.drop 1 } = _
  rw [h]; rfl

@[simp] theorem Mach.rd_popEng (m : Mach) (g u : Nat) (f : Fld) (i : Nat) : (m.popEng g u).rd f i = m.rd f i := rfl

/-- R88, R89: a drain of an idle tile that finds the line port free. -/
theorem Dru.begin_starts {m : Mach} {g : Nat} {cmd : Cmd} (grad : Bool) (f : DrainF) (htile : (m.core g).tileState cmd.tile = 0)
    (hport : Dru.portBusy (m.core g) = false) :
    ∃ m', m' = (if Dru.missing grad f (m.epi g f.epi.toNat) = true then (m.wr .EPI_STATUS_OPERAND_MISSING g 1).wr .EPI_STATUS_LAST_ENTRY g f.epi.toNat
        else m) ∧
      Dru.begin g cmd grad f m = ((m'.wrs g [(.DRU_STATUS_DRAIN_TILE, cmd.tile), (.DRU_STATUS_DRAIN_EPI, f.epi.toNat)]).popEng g 2).onCore g
        fun c => { c with drains := c.drains ++ [⟨cmd, nextOrd c.druOrds, grad, f, m.epi g f.epi.toNat, 0, [], 0⟩] } := by
  refine ⟨_, rfl, ?_⟩
  unfold Dru.begin
  simp only [htile, hport, ne_eq, not_true_eq_false, if_false, Bool.false_eq_true]

/-- R109: what an entry's word fields read back as. -/
def EpiEnt.Fits (x : EpiEnt) : Prop := x.act < 16 ∧ x.ofmt < 16 ∧ x.rfmt < 4 ∧ x.zfmt < 4 ∧ x.scale < 2 ^ 32

theorem EpiEnt.fits_legal_ofWords (lo hi : Nat) : (EpiEnt.ofWords lo hi).legal.1.Fits := by
  have hact := bitsAt_lt lo 0 4
  have hofmt := bitsAt_lt lo 4 4
  have hrfmt := bitsAt_lt lo 10 2
  have hzfmt := bitsAt_lt lo 13 2
  refine ⟨?_, ?_, ?_, ?_, bitsAt_lt hi 0 32⟩
  all_goals
    dsimp only [EpiEnt.legal, EpiEnt.ofWords]
    split <;> omega

theorem b2n_beq_one (b : Bool) : (b2n b == 1) = b := by cases b <;> rfl

/-- The fields of an epilogue entry, with their registers. -/
def EpiEnt.fields (x : EpiEnt) : List (Fld × Nat) :=
  [(.EPI_ENTRY_LO_ACT, x.act), (.EPI_ENTRY_LO_OFMT, x.ofmt), (.EPI_ENTRY_LO_SCALE_EN, b2n x.scaleEn), (.EPI_ENTRY_LO_RESID_EN, b2n x.residEn),
    (.EPI_ENTRY_LO_RFMT, x.rfmt), (.EPI_ENTRY_LO_ZOUT_EN, b2n x.zoutEn), (.EPI_ENTRY_LO_ZFMT, x.zfmt), (.EPI_ENTRY_LO_AMAX_EN, b2n x.amaxEn),
    (.EPI_ENTRY_LO_ROUND, b2n x.round), (.EPI_ENTRY_LO_SAT, b2n x.sat), (.EPI_ENTRY_HI_SCALE, x.scale)]

/-- R109: an epilogue entry reads back as it was written. -/
theorem Mach.epi_setEpi_self (m : Mach) (g e : Nat) {x : EpiEnt} (h : x.Fits) : (m.setEpi g e x).epi g e = x := by
  obtain ⟨hact, hofmt, hrfmt, hzfmt, hscale⟩ := h
  have hnodup : (x.fields.map Prod.fst).Nodup :=
    (by decide : [Fld.EPI_ENTRY_LO_ACT, .EPI_ENTRY_LO_OFMT, .EPI_ENTRY_LO_SCALE_EN, .EPI_ENTRY_LO_RESID_EN, .EPI_ENTRY_LO_RFMT,
      .EPI_ENTRY_LO_ZOUT_EN, .EPI_ENTRY_LO_ZFMT, .EPI_ENTRY_LO_AMAX_EN, .EPI_ENTRY_LO_ROUND, .EPI_ENTRY_LO_SAT, .EPI_ENTRY_HI_SCALE].Nodup)
  have hrd (f : Fld) (v : Nat) (hmem : (f, v) ∈ x.fields) (hfits : v < 2 ^ f.width) : (m.setEpi g e x).rd f (g * 32 + e) = v :=
    Mach.rd_wrs_of_mem hnodup hmem hfits
  have hon (f : Fld) (b : Bool) (hmem : (f, b2n b) ∈ x.fields) (hw : f.width = 1) : (m.setEpi g e x).on f (g * 32 + e) = b := by
    rw [Mach.on, hrd f _ hmem (by rw [hw]; exact b2n_lt_two b), b2n_beq_one]
  unfold EpiEnt.fields at hrd hon
  unfold Mach.epi
  dsimp only
  rw [hrd .EPI_ENTRY_LO_ACT x.act (by simp) hact, hrd .EPI_ENTRY_LO_OFMT x.ofmt (by simp) hofmt, hon .EPI_ENTRY_LO_SCALE_EN x.scaleEn (by simp) rfl,
    hon .EPI_ENTRY_LO_RESID_EN x.residEn (by simp) rfl, hrd .EPI_ENTRY_LO_RFMT x.rfmt (by simp) hrfmt,
    hon .EPI_ENTRY_LO_ZOUT_EN x.zoutEn (by simp) rfl, hrd .EPI_ENTRY_LO_ZFMT x.zfmt (by simp) hzfmt,
    hon .EPI_ENTRY_LO_AMAX_EN x.amaxEn (by simp) rfl, hon .EPI_ENTRY_LO_ROUND x.round (by simp) rfl, hon .EPI_ENTRY_LO_SAT x.sat (by simp) rfl,
    hrd .EPI_ENTRY_HI_SCALE x.scale (by simp) hscale]

theorem Mach.epi_setEpi_ne (m : Mach) {g e e' : Nat} (h : e' ≠ e) (x : EpiEnt) : (m.setEpi g e x).epi g e' = m.epi g e' := by
  have hne : ¬ g * 32 + e' = g * 32 + e := fun h' => h (Nat.add_left_cancel h')
  unfold Mach.epi Mach.setEpi
  simp only [Mach.wrs_cons, Mach.wrs_nil, Mach.rd_wr, Mach.on_wr, hne, and_false, if_false]

/-- The two registers in which a DRU reports an entry. -/
theorem Mach.epi_wr_status (m : Mach) {f : Fld} (hf : f = .EPI_STATUS_RESERVED_SEEN ∨ f = .EPI_STATUS_LAST_ENTRY) (i v g e : Nat) :
    (m.wr f i v).epi g e = m.epi g e := by
  unfold Mach.epi
  obtain rfl | rfl := hf <;> simp only [Mach.rd_wr, Mach.on_wr, reduceCtorEq, false_and, if_false]

theorem Mach.epiWrite_eq (m : Mach) (g e : Nat) (d : Slot) :
    m.epiWrite g e d = { m with regs := (m.epiWrite g e d).regs } := by
  unfold Mach.epiWrite
  dsimp only
  split <;> rfl

theorem Mach.epi_epiWrite (m : Mach) (g e e' : Nat) (d : Slot) : (m.epiWrite g e d).epi g e' =
    if e' = e then (EpiEnt.ofWords (bitsAt d.toNat 0 64) (bitsAt d.toNat 64 64)).legal.1 else m.epi g e' := by
  have hset : (m.epiWrite g e d).epi g e' = (m.setEpi g e (EpiEnt.ofWords (bitsAt d.toNat 0 64) (bitsAt d.toNat 64 64)).legal.1).epi g e' := by
    unfold Mach.epiWrite
    dsimp only
    split
    · rw [Mach.epi_wr_status _ (.inr rfl), Mach.epi_wr_status _ (.inl rfl)]
    · rfl
  rw [hset]
  split
  · next h => subst h; exact Mach.epi_setEpi_self _ _ _ (EpiEnt.fits_legal_ofWords _ _)
  · next h => exact Mach.epi_setEpi_ne _ h _

/-- R109: an EPI whose entry no older command still pops and no poison marks. -/
theorem Dru.epiExec_writes {m : Mach} {g q e : Nat} {d : Ent} (hpop : Dru.popBusy (m.core g) (nextOrd (m.core g).druOrds) [q] = false)
    (hd : m.headQ g q = some d) (hclean : d.poison = false) :
    Dru.epiExec g q e m = ((m.dropQ g q 1).popEng g 2).epiWrite g e d.bits := by
  unfold Dru.epiExec
  simp only [hpop, hd, hclean, Bool.false_eq_true, if_false]

/-! Preload lines (R100-R102). -/

/-- R100-R102: a preload's next line, whose entry, where it pops one, is present. -/
theorem Dru.preloadLineWrite_still {m : Mach} {g6 : BitVec 6} {r : PreRun} {q mode ax sfmt cc : Nat} {e : Ent}
    (hruns : m.unitRuns g6.toNat .dru = true) (hr : (m.core g6.toNat).pre = some r) (hins : Dru.tloadOf r.cmd.ins = some (q, mode, ax, sfmt, cc))
    (hpop : Dru.popBusy (m.core g6.toNat) r.ord (Dru.prePops r) = false)
    (he : Dru.prePops r ≠ [] → m.headQ g6.toNat q = some e ∧ e.poison = false) :
    ∃ e' : Ent, (Dru.prePops r ≠ [] → e' = e) ∧
    (Dru.preloadLineWrite g6 m).still = ((if Dru.prePops r = [] then m else m.dropQ g6.toNat q 1).onCore g6.toNat fun c =>
      { Dru.setTileLine c r.cmd.tile (mode == 2 && ax == 1) r.line
          (Dru.preLine (m.core g6.toNat) r.cmd.tile mode ax sfmt cc r.line e'.bits (if Dru.prePops r = [] then r.bias else e.bits)) with
        pre := if r.line = 127 then none else some { r with line := r.line + 1, bias := if Dru.prePops r = [] then r.bias else e.bits } }).still := by
  have hline (m' : Mach) (h : ∀ t i, (m'.core g6.toNat).accRow t i = (m.core g6.toNat).accRow t i) (x bias : Slot) :
      Dru.preLine (m'.core g6.toNat) r.cmd.tile mode ax sfmt cc r.line x bias = Dru.preLine (m.core g6.toNat) r.cmd.tile mode ax sfmt cc r.line x bias := by
    unfold Dru.preLine
    simp only [h]
  unfold Dru.preloadLineWrite
  simp only [hr, hins, hruns, hpop, Bool.not_true, Bool.or_self, Bool.false_eq_true, if_false]
  by_cases hpops : Dru.prePops r = []
  · refine ⟨⟨0, false⟩, fun h => absurd hpops h, ?_⟩
    simp only [hpops, List.isEmpty_nil, Bool.not_true, Bool.false_eq_true, if_false, if_true, Mach.still_nonfinite]
  · obtain ⟨hhead, hclean⟩ := he hpops
    have hempty : (Dru.prePops r).isEmpty = false := by rw [Bool.eq_false_iff]; exact fun h => hpops (List.isEmpty_iff.1 h)
    refine ⟨e, fun _ => rfl, ?_⟩
    simp only [hpops, hempty, Bool.not_false, if_true, if_false, hhead, hclean, Bool.false_eq_true, Mach.still_nonfinite]
    rw [hline _ fun t i => by rw [Mach.core_dropQ]; rfl]

/-- R100, R101: a column is written in MODE 2 alone, whose lanes it keeps. -/
theorem Dru.slot32_preLine {c : Core} {tile mode ax sfmt cc u : Nat} {e bias : Slot} (h : (mode == 2 && ax == 1) = true) :
    slot32 (lane32 (Dru.preLine c tile mode ax sfmt cc u e bias)) = Dru.preLine c tile mode ax sfmt cc u e bias := by
  rw [Bool.and_eq_true, beq_iff_eq] at h
  rw [h.1]
  exact slot32_congr fun l hl => by rw [Dru.preLine, lane32_slot32 _ hl, Nat.mod_mod]

/-- R100, R101: only in MODE 2 is a line the lanes of the entry popped for it. -/
theorem Dru.preLine_congr {c : Core} {tile mode ax sfmt cc u : Nat} {e e' bias : Slot} (h : mode = 2 → e' = e) :
    Dru.preLine c tile mode ax sfmt cc u e' bias = Dru.preLine c tile mode ax sfmt cc u e bias := by
  by_cases hmode : mode = 2
  · rw [h hmode]
  · unfold Dru.preLine
    split
    · rfl
    · exact absurd rfl hmode
    · rfl
    · rfl

theorem Dru.prePops_ne_nil {r : PreRun} {q ax sfmt cc : Nat} (h : Dru.tloadOf r.cmd.ins = some (q, 2, ax, sfmt, cc)) : Dru.prePops r ≠ [] := by
  unfold Dru.prePops
  rw [h]
  simp

/-- Settles O19: the starts by their equations (`Dru.begin_starts`, `Dru.epiExec_writes`), a preload line by
`Dru.preloadLineWrite_still` and the reads of a written line. -/
theorem druStartsAndPreloads : Obligations.DruStartsAndPreloads := by
  unfold Obligations.DruStartsAndPreloads
  refine ⟨fun g6 cmd rest s => ?start, fun g6 r q mode ax sfmt cc e s => ?line⟩
  case start =>
    dsimp only
    intro hruns hq
    refine ⟨fun t f grad hins htile hport => does_of_lift (f := Dru.drainStart g6) rfl ?_,
      fun t q tile tinc mode ax sfmt c hins htile hpre => does_of_lift (f := Dru.preloadStart g6) rfl ?_,
      fun t q e d hins hpop hd hclean => does_of_lift (f := Dru.drainStart g6) rfl ?_⟩
    · have hstart : Dru.drainStart g6 s.m = Dru.begin g6.toNat cmd grad f s.m := by
        unfold Dru.drainStart
        cases grad <;> simp only [hruns, hq, hins] <;> rfl
      obtain ⟨m', hm', heq⟩ := Dru.begin_starts grad f htile hport
      have hcores : m' = { s.m with regs := m'.regs } := by rw [hm']; split <;> rfl
      have hq' : ((m'.wrs g6.toNat [(.DRU_STATUS_DRAIN_TILE, cmd.tile), (.DRU_STATUS_DRAIN_EPI, f.epi.toNat)]).core g6.toNat).druQ =
          cmd :: rest := by rw [hcores]; exact hq
      have hcore := Mach.core_popDru hq'
      have hold (h : Nat) : (m'.wrs g6.toNat [(.DRU_STATUS_DRAIN_TILE, cmd.tile), (.DRU_STATUS_DRAIN_EPI, f.epi.toNat)]).core h = s.m.core h := by
        rw [hcores]; rfl
      rw [hstart, heq]
      simp only [Mach.core_onCore, hcore, hold, if_true, Mach.rd_onCore, Mach.rd_popEng]
      refine ⟨trivial, rfl, ?_, ?_, fun h => ?_, trivial, fun h hne => ?_, fun a => ?_⟩
      · rw [Mach.wrs_cons, Mach.wrs_cons, Mach.wrs_nil, Mach.rd_wr, if_neg (by rintro ⟨⟨⟩, -⟩), Mach.rd_wr, if_pos ⟨rfl, rfl⟩]; rfl
      · rw [Mach.wrs_cons, Mach.wrs_cons, Mach.wrs_nil, Mach.rd_wr, if_pos ⟨rfl, rfl⟩]
        exact Nat.mod_eq_of_lt f.epi.isLt
      · rw [hm', if_pos h]
        simp only [Mach.wrs_cons, Mach.wrs_nil, Mach.rd_wr, reduceCtorEq, false_and, if_false, and_self, if_true]
        rfl
      · rw [if_neg hne, Mach.core_popEng, if_neg hne, hold]
      · rw [hcores]; rfl
    · have hstart : Dru.preloadStart g6 s.m = ((s.m.popEng g6.toNat 2).onCore g6.toNat fun c =>
          { c with pre := some ⟨cmd, nextOrd c.druOrds, 0, 0⟩ }).wr .DRU_STATUS_PRELOAD_TILE g6.toNat cmd.tile := by
        unfold Dru.preloadStart
        simp only [hruns, hq, hins, htile, hpre]
        rfl
      have hcore := Mach.core_popDru hq
      rw [hstart]
      simp only [Mach.core_wr, Mach.core_onCore, hcore, if_true, Mach.rd_wr, and_self]
      refine ⟨trivial, rfl, rfl, trivial, fun h hne => ?_, fun a => rfl⟩
      rw [if_neg hne, Mach.core_popEng, if_neg hne]
    · have hstart : Dru.drainStart g6 s.m = Dru.epiExec g6.toNat q.toNat e.toNat s.m := by
        unfold Dru.drainStart
        simp only [hruns, hq, hins]
        rfl
      have hcore := Mach.core_popDru (m := s.m.dropQ g6.toNat q.toNat 1) (by rw [Mach.core_dropQ]; exact hq)
      have hcores (h : Nat) : (((s.m.dropQ g6.toNat q.toNat 1).popEng g6.toNat 2).epiWrite g6.toNat e.toNat d.bits).core h =
          ((s.m.dropQ g6.toNat q.toNat 1).popEng g6.toNat 2).core h := by
        rw [Mach.epiWrite_eq]; rfl
      rw [hstart, Dru.epiExec_writes hpop hd hclean]
      refine ⟨?_, ?_, fun e' _ hne => ?_, fun q' => ?_, ?_, fun h hne => ?_, fun a => ?_⟩
      · rw [hcores, hcore]
      · rw [Mach.epi_epiWrite, if_pos rfl]
      · rw [Mach.epi_epiWrite, if_neg hne]; rfl
      · rw [hcores, hcore]; rfl
      · rw [hcores, hcore, Mach.core_dropQ]
      · rw [hcores, Mach.core_popEng, if_neg hne, Mach.core_dropQ_ne _ hne]
      · rw [Mach.epiWrite_eq]; rfl
  case line =>
    dsimp only
    intro hruns hr hins hline hpop he
    refine does_of_lift rfl ?_
    obtain ⟨e', he', hstill⟩ := Dru.preloadLineWrite_still hruns hr hins hpop he
    have hg := (Mach.core_of_still hstill g6.toNat).trans (Mach.core_onCore _ _ _ _)
    rw [if_pos rfl] at hg
    have hrow (t i : Nat) : ((if Dru.prePops r = [] then s.m else s.m.dropQ g6.toNat q 1).core g6.toNat).accRow t i =
        (s.m.core g6.toNat).accRow t i := by
      split
      · rfl
      · rw [Mach.core_dropQ]; rfl
    have hlines (col : Bool) (k : Nat) : Dru.tileLine ((if Dru.prePops r = [] then s.m else s.m.dropQ g6.toNat q 1).core g6.toNat) r.cmd.tile col k =
        Dru.tileLine (s.m.core g6.toNat) r.cmd.tile col k := by
      unfold Dru.tileLine
      simp only [hrow]
    refine ⟨?_, fun k hk hne => ?_, fun t i ht => ?_, ?_, fun q' => ?_, fun h hne => ?_, fun x => ?_⟩
    · rw [hg]
      refine (Dru.tileLine_setTileLine _ _ _ hline hline _).trans ?_
      have hcol (col : Bool) (x : Slot) (h : col = true → slot32 (lane32 x) = x) : (if col = true then slot32 (lane32 x) else x) = x := by
        split
        · next hc => exact h hc
        · rfl
      rw [if_pos rfl, hcol _ _ Dru.slot32_preLine]
      exact Dru.preLine_congr fun h => congrArg Ent.bits (he' (Dru.prePops_ne_nil (h ▸ hins)))
    · rw [hg]
      refine (Dru.tileLine_setTileLine _ _ _ hline hk _).trans ?_
      rw [if_neg hne, hlines]
    · rw [hg]
      exact (Dru.accRow_setTileLine ht _ _ _ _).trans (hrow t i)
    · rw [hg]
    · rw [hg]
      exact Dru.dq_setTileLine _ _ _ _ _ _
    · rw [Mach.core_of_still hstill, Mach.core_onCore, if_neg hne]
      split
      · rfl
      · rw [Mach.core_dropQ_ne _ hne]
    · rw [Mach.byteAt_of_still hstill]
      show Mach.byteAt (if _ then _ else _) x = _
      split <;> rfl

end Sys2Proof.Machine

/-! DRAIN_ENTRY_PUSH and VEC_RESULT_PUSH: a push that raises a fault with the freeze enabled stops the counters before what it
pushed is counted (R370, R468, R473, R474). -/
namespace Sys2Proof.Machine

/-- A running step whose FATAL_STEP faults freeze the module; channel end 0 of core 0, in the given state, sends to module 1, all of whose
links are gone. -/
def unreachablePeer (f : Core → Core) : State :=
  ⟨[], ⟨[], 0, 0⟩, (Mach.reset.wrs 0 [(.MOD_STATUS_PWR_GOOD, 1), (.MOD_STATUS_STEP_RUNNING, 1), (.CHAN_BIND_KIND, 1), (.CHAN_BIND_PEER_MODULE, 1),
    (.FAB_COORD_NX, 2), (.FAB_SLICE_EX, 2), (.FAB_LINK_STATE, 6), (.DBG_FREEZE_FAULT_CLASS, 4), (.DBG_FREEZE_CTRL_SRC_EN, 8)]).onCore 0 f⟩

/-- One line whose lane 0 overflows in BF16, read and not yet pushed: its entry goes to channel end 0. -/
def overflowDrain : DrainRun :=
  { cmd := ⟨.nop ⟨0, 0, 0, 0⟩, 0, 0, 0⟩, ord := 0, grad := false, pos := 1, lines := [⟨0x7F7FFFFF, 0, 0⟩], pushed := 0
    f := { tile := 0, tinc := 0, epi := 0, order := 0, zafter := 0, first := 0, nlines := 1, res := 63, zq := 63, out := 32, amax := 63, scl := 63 }
    epi := ⟨0, 0, false, false, 0, false, 0, false, false, false, 0⟩ }

def drainToGone : State := unreachablePeer fun c => { c with drains := [overflowDrain] }

/-- The overflow counter after the push: the freeze of the push's own fault holds it. -/
theorem overflow_not_counted : (match exec (.drainEntryPush 0) drainToGone with | .next t => t.m.rd .DRU_OUT_OVERFLOW 0 | _ => 1) = 0 := by
  decide +kernel

theorem overflowDrain_bundle : (Dru.bundle drainToGone.m 0 overflowDrain).map (·.2.1) = some 1 := by decide +kernel

theorem overflowDrain_pushes : ((Dru.bundle drainToGone.m 0 overflowDrain).bind fun x => x.2.2.pushAll 0 x.1).isSome = true := by
  decide +kernel

/-- Refutes O20: where the push goes to an unreachable module, its fault (R370) freezes the module before the overflows are counted, so that
DRU_OUT_OVERFLOW stands (R474). -/
theorem not_drainMoves : ¬ Obligations.DrainMoves := by
  unfold Obligations.DrainMoves
  rintro ⟨-, hpush⟩
  obtain ⟨⟨es, lost, m1⟩, hbundle, hlost⟩ := Option.map_eq_some_iff.1 overflowDrain_bundle
  obtain ⟨m2, hm2⟩ := Option.isSome_iff_exists.1 overflowDrain_pushes
  rw [hbundle] at hm2
  obtain ⟨t, hnext, -, -, -, -, hcount, -⟩ := hpush 0 overflowDrain [] es lost m1 m2 drainToGone (by decide +kernel) (by decide +kernel)
    (by decide +kernel) (by decide +kernel) hbundle hm2
  have hzero := overflow_not_counted
  rw [hnext] at hzero
  have hold : drainToGone.m.rd .DRU_OUT_OVERFLOW 0 = 0 := by decide +kernel
  change t.m.rd .DRU_OUT_OVERFLOW 0 = 0 at hzero
  change t.m.rd .DRU_OUT_OVERFLOW 0 = (drainToGone.m.rd .DRU_OUT_OVERFLOW 0 + lost) % 2 ^ 48 at hcount
  change lost = 1 at hlost
  rw [hzero, hold, hlost] at hcount
  exact absurd hcount (by decide)

/-- A VEC result for channel end 0. -/
def resultPend : VecPend := ⟨⟨.nop ⟨0, 0, 0, 0⟩, 0, 0, 0⟩, 32, ⟨0, false⟩⟩

def resultToGone : State := unreachablePeer fun c => { c with vecPipe := [resultPend] }

/-- The entry counter after the push: the freeze of the push's own fault holds it. -/
theorem result_not_counted : (match exec (.vecResultPush 0) resultToGone with | .next t => t.m.rd .VEC_ENTRIES 0 | _ => 1) = 0 := by
  decide +kernel

/-- Refutes O21: a result pushed to an unreachable module raises a fault (R370) that freezes the module before the result is counted, so that
VEC_ENTRIES stands (R474). -/
theorem not_vecMoves : ¬ Obligations.VecMoves := by
  unfold Obligations.VecMoves
  intro h
  have hpushes : (resultToGone.m.pushEnd 0 resultPend.dst resultPend.ent).isSome = true := by decide +kernel
  obtain ⟨m1, hm1⟩ := Option.isSome_iff_exists.1 hpushes
  obtain ⟨t, hnext, -, -, -, -, hcount, -⟩ := (h 0 resultToGone (by decide +kernel)).2 resultPend [] m1 (by decide +kernel) hm1
  have hzero := result_not_counted
  rw [hnext] at hzero
  have hold : resultToGone.m.rd .VEC_ENTRIES 0 = 0 := by decide +kernel
  change t.m.rd .VEC_ENTRIES 0 = 0 at hzero
  change t.m.rd .VEC_ENTRIES 0 = (resultToGone.m.rd .VEC_ENTRIES 0 + 1) % 2 ^ 48 at hcount
  rw [hzero, hold] at hcount
  exact absurd hcount (by decide)

end Sys2Proof.Machine

/-! The passing of time (R56, R474): which registers its counts write, and what else of the module it leaves as it was. -/
namespace Sys2Proof.Machine

/-! The setters of the AUX domain's records. -/

section
variable (m : Mach) (f : Fld) (i : Nat)

@[simp] theorem Mach.rd_onAux (g : Aux → Aux) : (m.onAux g).rd f i = m.rd f i := rfl
@[simp] theorem Mach.rd_onFlash (g : Flash → Flash) : (m.onFlash g).rd f i = m.rd f i := rfl
@[simp] theorem Mach.rd_onPins (g : Pins → Pins) : (m.onPins g).rd f i = m.rd f i := rfl
@[simp] theorem Mach.on_onAux (g : Aux → Aux) : (m.onAux g).on f i = m.on f i := rfl
@[simp] theorem Mach.on_onFlash (g : Flash → Flash) : (m.onFlash g).on f i = m.on f i := rfl
@[simp] theorem Mach.on_onPins (g : Pins → Pins) : (m.onPins g).on f i = m.on f i := rfl
@[simp] theorem Mach.on_onFab (g : Fab → Fab) : (m.onFab g).on f i = m.on f i := rfl
@[simp] theorem Mach.aux_onAux (g : Aux → Aux) : (m.onAux g).aux = g m.aux := rfl
@[simp] theorem Mach.aux_onFlash (g : Flash → Flash) : (m.onFlash g).aux = m.aux := rfl
@[simp] theorem Mach.aux_onPins (g : Pins → Pins) : (m.onPins g).aux = m.aux := rfl
@[simp] theorem Mach.aux_onFab (g : Fab → Fab) : (m.onFab g).aux = m.aux := rfl
@[simp] theorem Mach.pins_onAux (g : Aux → Aux) : (m.onAux g).pins = m.pins := rfl
@[simp] theorem Mach.pins_onPins (g : Pins → Pins) : (m.onPins g).pins = g m.pins := rfl
@[simp] theorem Mach.flash_onFlash (g : Flash → Flash) : (m.onFlash g).flash = g m.flash := rfl

theorem Mach.wrs_eq (fs : List (Fld × Nat)) : m.wrs i fs = { m with regs := (m.wrs i fs).regs } :=
  Mach.foldl_eq_regs (fun _ _ => rfl) fs m

@[simp] theorem Mach.aux_wrs (fs : List (Fld × Nat)) : (m.wrs i fs).aux = m.aux := by rw [Mach.wrs_eq]

end

/-- The registers that count time or cycles, and the positions of the lane generators, whose calls go on under FAST (R142). -/
def Fld.ofTime : Fld → Bool
  | .TICK_TIME | .TICK_HUB_CYCLE | .CORE_CYCLE | .DIE_CYCLE | .HIF_CQ_WAIT_CYCLES | .CC_WAIT_TICK | .CC_WAIT_FLAG | .CC_WAIT_DMA
  | .VEC_RNG_POS_VEC_LO_POS | .VEC_RNG_POS_VEC_HI_POS | .VEC_RNG_POS_DRU_LO_POS | .VEC_RNG_POS_DRU_HI_POS => true
  | _ => false

/-- The module but for what the passing of time writes: registers, cores, contexts, the host's side, the clock dividers and the end
of a data-path reset. -/
def Mach.lasting (m : Mach) : Mach :=
  { m with
    regs := [], cores := [], ctxs := [], free := 0, host := []
    hif := { m.hif with descs := [], coal := [], sent := [] }
    tick := { m.tick with quarters := 0, holdNs := 0, slew := 0, slewFrac := 0 }
    aux := { m.aux with dpEnd := none } }

/-- From `m` to `m'` time has passed: register fields that no clock counts, and the lasting part of the module, are as they were. -/
structure Mach.Lasts (m m' : Mach) : Prop where
  rd : ∀ f i, f.aside = false → f.ofTime = false → m'.rd f i = m.rd f i
  lasting : m'.lasting = m.lasting

namespace Mach.Lasts

variable {m m' m'' : Mach}

theorem refl (m : Mach) : m.Lasts m := ⟨fun _ _ _ _ => rfl, rfl⟩

theorem trans (h : m.Lasts m') (h' : m'.Lasts m'') : m.Lasts m'' :=
  ⟨fun f i ha ht => (h'.rd f i ha ht).trans (h.rd f i ha ht), h'.lasting.trans h.lasting⟩

/-- Only what the passing of time may write changes, and no register. -/
theorem of_lasting (hr : m'.regs = m.regs) (hl : m'.lasting = m.lasting) : m.Lasts m' :=
  ⟨fun f i _ _ => by simp only [Mach.rd, hr], hl⟩

theorem foldl {α : Type} {f : Mach → α → Mach} (h : ∀ (m : Mach) a, m.Lasts (f m a)) (l : List α) (m : Mach) : m.Lasts (l.foldl f m) := by
  induction l generalizing m with
  | nil => exact .refl m
  | cons a l ih => exact (h m a).trans (ih _)

theorem ite {c : Prop} [Decidable c] {a b : Mach} (ha : m.Lasts a) (hb : m.Lasts b) : m.Lasts (if c then a else b) := by
  split
  · exact ha
  · exact hb

theorem flash (h : m.Lasts m') : m'.flash = m.flash := (congrArg Mach.flash h.lasting : m'.lasting.flash = _)
theorem fab (h : m.Lasts m') : m'.fab = m.fab := (congrArg Mach.fab h.lasting : m'.lasting.fab = _)
theorem pins (h : m.Lasts m') : m'.pins = m.pins := (congrArg Mach.pins h.lasting : m'.lasting.pins = _)
theorem ing (h : m.Lasts m') : m'.ing = m.ing := (congrArg Mach.ing h.lasting : m'.lasting.ing = _)
theorem mem (h : m.Lasts m') : m'.mem = m.mem := (congrArg Mach.mem h.lasting : m'.lasting.mem = _)
theorem aux (h : m.Lasts m') : { m'.aux with dpEnd := none } = { m.aux with dpEnd := none } := (congrArg Mach.aux h.lasting : m'.lasting.aux = _)

theorem resident (h : m.Lasts m') : m'.aux.resident = m.aux.resident :=
  (congrArg (fun m : Mach => m.aux.resident) h.lasting : m'.lasting.aux.resident = m.lasting.aux.resident)

theorem on (h : m.Lasts m') (f : Fld) (i : Nat) (ha : f.aside = false) (ht : f.ofTime = false) : m'.on f i = m.on f i := by
  rw [Mach.on, h.rd f i ha ht]; rfl

end Mach.Lasts

theorem Mach.lasts_wr (m : Mach) {f : Fld} (hf : f.ofTime = true) (i v : Nat) : m.Lasts (m.wr f i v) where
  rd f' i' _ ht := by rw [Mach.rd_wr, if_neg]; rintro ⟨rfl, -⟩; rw [hf] at ht; exact absurd ht.symm Bool.false_ne_true
  lasting := rfl

theorem Mach.bump_lasting (m : Mach) (f : Fld) (i n : Nat) : (m.bump f i n).lasting = m.lasting := by rw [Mach.bump_eq]; rfl

theorem Mach.lasts_bump (m : Mach) {f : Fld} (hf : f.ofTime = true) (i n : Nat) : m.Lasts (m.bump f i n) where
  rd f' i' _ ht := Mach.rd_bump_ne _ _ _ _ (by rintro ⟨rfl, -⟩; rw [hf] at ht; exact absurd ht.symm Bool.false_ne_true)
  lasting := m.bump_lasting f i n

theorem Mach.lasts_ev (m : Mach) (g code n : Nat) : m.Lasts (m.ev g code n) where
  rd f i ha _ := Mach.rdAside_ev ha i m g code n
  lasting := by rw [Mach.ev_eq]; rfl

theorem Mach.hev_eq (m : Mach) (b code n : Nat) : m.hev b code n = { m with regs := (m.hev b code n).regs } := by
  unfold Mach.hev
  split
  · refine Mach.foldl_eq_regs (fun m i => ?_) _ m
    split
    · exact Mach.bump_eq _ _ _ _
    · rfl
  · rfl

theorem Mach.lasts_hev (m : Mach) (b code n : Nat) : m.Lasts (m.hev b code n) where
  rd f i ha _ := Mach.rdAside_hev ha i m b code n
  lasting := by rw [Mach.hev_eq]; rfl

theorem Mach.lasts_signal (m : Mach) (v : Nat) : m.Lasts (m.signal v) where
  rd f i ha _ := Mach.rdAside_signal ha i m v
  lasting := by unfold Mach.signal; split <;> rfl

/-- A completion writes the host's side and its ring (R405). -/
theorem Mach.lasts_complete (m : Mach) (d : Desc) (st de inf : Nat) (res : List Byte) : m.Lasts (m.complete d st de inf res) where
  rd f i ha _ := Mach.rdAside_complete ha i m d st de inf res
  lasting := by
    have hsignal : ∀ (m : Mach) v, (m.signal v).lasting = m.lasting := fun m v => (m.lasts_signal v).lasting
    have hcoal : ∀ (m : Mach) r b, (m.coalesce r b).lasting = m.lasting := by
      intro m r b
      unfold Mach.coalesce
      dsimp only
      split
      · rfl
      · split
        · exact hsignal _ _
        · rfl
    have htail : ∀ (m : Mach) r, (m.advanceTail r).lasting = m.lasting := by
      intro m r
      unfold Mach.advanceTail
      dsimp only
      split <;> rfl
    have hwrite : ∀ (m : Mach) e, (m.writeCompletion d e res).lasting = m.lasting := by
      intro m e
      unfold Mach.writeCompletion
      dsimp only
      split <;> rfl
    unfold Mach.complete
    split
    · rfl
    · dsimp only
      rw [hcoal, (Mach.bump_lasting _ _ _ _)]
      exact (htail _ _).trans (hwrite _ _)

theorem Mach.lasts_coreCycles (n : Nat) (m : Mach) (g : Nat) : m.Lasts (m.coreCycles n g) := by
  have hpos : ∀ (m : Mach) (s p : Nat), m.Lasts (m.setRngPos g s p) := by
    intro m s p
    unfold Mach.setRngPos
    split <;> exact (m.lasts_wr rfl g _).trans (Mach.lasts_wr _ rfl g _)
  unfold Mach.coreCycles
  refine .ite ?_ (.refl m)
  refine .ite ((m.lasts_wr rfl g _).trans (Mach.lasts_ev _ g 1 n)) ?_
  refine ((m.lasts_wr rfl g _).trans (Mach.lasts_ev _ g 1 n)).trans ((((hpos _ 0 _).trans (hpos _ 1 _))).trans (.of_lasting rfl rfl))

theorem Mach.lasts_waitCycles (n : Nat) (m : Mach) (k : Nat) : m.Lasts (m.waitCycles n k) := by
  have hcount : ∀ (f : Fld) (c : Nat), f.ofTime = true → m.Lasts
      ((m.members k).foldl (fun m g => if m.coreRuns g then (m.bump f g n).ev g (0x10 + c) n else m) m) := fun f c hf =>
    .foldl (fun m g => .ite ((m.lasts_bump hf g n).trans (Mach.lasts_ev _ _ _ _)) (.refl m)) _ m
  unfold Mach.waitCycles
  dsimp only
  split
  · exact hcount .CC_WAIT_TICK 4 rfl
  · exact hcount .CC_WAIT_FLAG 5 rfl
  · exact .ite (.refl m) (hcount .CC_WAIT_DMA 6 rfl)
  · exact .refl m

theorem Mach.lasts_stretched (m : Mach) (d n : Nat) : m.Lasts (m.stretched d n).2 := by
  unfold Mach.stretched
  split
  · exact .of_lasting rfl rfl
  · exact .refl m

theorem Mach.lasts_clockDie (n : Nat) (m : Mach) (d : Nat) : m.Lasts (m.clockDie n d) := by
  unfold Mach.clockDie
  have hs := m.lasts_stretched d n
  generalize m.stretched d n = r at hs
  obtain ⟨k, m'⟩ := r
  refine hs.trans ?_
  dsimp only [Mach.addTo]
  exact ((Mach.Lasts.foldl (Mach.lasts_coreCycles k) _ m').trans (Mach.lasts_wr _ (f := .DIE_CYCLE) rfl d _)).trans
    (.foldl (Mach.lasts_waitCycles k) _ _)

theorem Mach.lasts_settleHalts (m : Mach) : m.Lasts m.settleHalts := by
  unfold Mach.settleHalts
  refine .foldl (fun m kc => ?_) _ m
  split
  · exact .ite (.of_lasting rfl rfl) (.refl m)
  · exact .refl m

theorem Mach.lasts_dpFinish (m : Mach) : m.Lasts m.dpFinish := by
  unfold Mach.dpFinish
  split
  · exact .refl m
  · refine .ite (.refl m) ?_
    dsimp only
    refine Mach.Lasts.trans ?_ (.foldl (fun m d => m.lasts_complete d 0 0 0 []) _ _)
    exact .of_lasting rfl rfl

theorem Mach.lasts_slewed (m : Mach) (n : Nat) : m.Lasts (m.slewed n).2 := by
  unfold Mach.slewed
  split
  · exact .refl m
  · exact .of_lasting rfl rfl

theorem Mach.lasts_passing (m : Mach) (n k : Nat) : m.Lasts (m.passing n k) := by
  unfold Mach.passing
  dsimp only
  generalize hcounted : (if m.aux.inLimits = true then m.wr .TICK_TIME 0 (m.time + k) else m) = m1
  have h1 : m.Lasts m1 := hcounted ▸ .ite (m.lasts_wr rfl 0 _) (.refl m)
  generalize hsettled : Mach.settleHalts _ = m2
  have h2 : m1.Lasts m2 := by
    rw [← hsettled]
    refine Mach.Lasts.trans ?_ (Mach.lasts_settleHalts _)
    exact .of_lasting rfl rfl
  refine h1.trans (h2.trans (.trans (.ite ?_ (.refl _)) (Mach.lasts_dpFinish _)))
  generalize hhub : List.foldl (fun m b => m.hev b 1 n) (m2.addTo .TICK_HUB_CYCLE 0 n) _ = m3
  have h3 : m2.Lasts m3 := hhub ▸ (Mach.lasts_wr _ rfl 0 _).trans (.foldl (fun m b => m.lasts_hev b 1 n) _ _)
  generalize hcredit : (if m3.creditWaits = true then m3.hev 0 0x18 n else m3) = m4
  have h4 : m3.Lasts m4 := hcredit ▸ .ite (Mach.lasts_hev _ 0 0x18 n) (.refl _)
  have h5 := m4.lasts_bump (f := .HIF_CQ_WAIT_CYCLES) rfl 0 (n * m4.cqWaits)
  refine h3.trans (h4.trans (h5.trans (Mach.Lasts.trans ?_ (.foldl (Mach.lasts_clockDie _) _ _))))
  exact .of_lasting rfl rfl

theorem Mach.lasts_advanceTo (m : Mach) (t : Nat) : m.Lasts (m.advanceTo t) := by
  unfold Mach.advanceTo
  refine .ite ?_ (.refl m)
  dsimp only
  exact (m.lasts_slewed _).trans (Mach.lasts_passing _ _ _)

theorem Mach.lasts_elapse (m : Mach) (n : Nat) : m.Lasts (m.elapse n) := by
  unfold Mach.elapse
  dsimp only
  exact (m.lasts_slewed _).trans (Mach.lasts_passing _ _ _)

end Sys2Proof.Machine

/-! Rollback (R428, R430, R434, R435): which Kindling patch runs, and which Cordwood image is the resident one. -/
namespace Sys2Proof.Machine

theorem Mach.aux_of_still {m m' : Mach} (h : m'.still = m.still) : m'.aux = m.aux := congrArg Still.aux h
theorem Mach.flash_of_still {m m' : Mach} (h : m'.still = m.still) : m'.flash = m.flash := congrArg Still.flash h

/-- R428: the patch that runs is the one in flash, signed, and not below the fused counter. -/
theorem bootPatch_patch (m : Mach) (hoff : m.on .SEC_STATUS_PATCH_VALID 0 = false)
    (hon : (Power.bootPatch m).on .SEC_STATUS_PATCH_VALID 0 = true) :
    ∃ x, (Power.bootPatch m).flash.patch = some x ∧ x.signed = true ∧ m.rd .SEC_SVN_KINDLING_FUSED 0 ≤ x.svn := by
  unfold Power.bootPatch at hon ⊢
  dsimp only at hon ⊢
  generalize hm : (m.onFlash fun f => { f with patch := f.patchNext.orElse fun _ => f.patch, patchNext := none }) = m1 at hon ⊢
  have hrd : ∀ f i, m1.rd f i = m.rd f i := fun f i => by rw [← hm]; rfl
  split at hon
  next x hx =>
    obtain ⟨hpatch, hpass⟩ := Option.filter_eq_some_iff.mp hx
    rw [Bool.and_eq_true, decide_eq_true_eq, hrd] at hpass
    exact ⟨x, hpatch, hpass.1, hpass.2⟩
  next =>
    rw [Mach.on_wr, if_neg (by rintro ⟨⟨⟩, -⟩)] at hon
    have : m.on .SEC_STATUS_PATCH_VALID 0 = true := hon.symm ▸ (by simp only [Mach.on, Mach.fresh, ← hrd]; rfl)
    rw [hoff] at this
    exact absurd this Bool.false_ne_true

/-- The policy and the keys that Kindling takes from flash leave the patch. -/
theorem setKey_keeps (m : Mach) (n u : Nat) (k : List Byte) :
    (m.setKey n u k).flash = m.flash ∧ (m.setKey n u k).on .SEC_STATUS_PATCH_VALID 0 = m.on .SEC_STATUS_PATCH_VALID 0 := by
  refine ⟨rfl, ?_⟩
  unfold Mach.setKey
  simp only [Mach.wrs_cons, Mach.wrs_nil, Mach.on_wr, reduceCtorEq, false_and, if_false]

theorem kindlingDone_patch (m : Mach) (hoff : m.on .SEC_STATUS_PATCH_VALID 0 = false)
    (hon : (Power.kindlingDone m).on .SEC_STATUS_PATCH_VALID 0 = true) :
    ∃ x, (Power.kindlingDone m).flash.patch = some x ∧ x.signed = true ∧ m.rd .SEC_SVN_KINDLING_FUSED 0 ≤ x.svn := by
  unfold Power.kindlingDone at hon ⊢
  split
  next hdone => rw [if_pos hdone, hoff] at hon; exact absurd hon Bool.false_ne_true
  next hdone =>
    rw [if_neg hdone] at hon
    dsimp only at hon ⊢
    have hpatch := bootPatch_patch m hoff
    generalize Power.bootPatch m = m1 at hon hpatch ⊢
    generalize hm2 : m1.flash.policy.elim m1 m1.applyPolicy = m2 at hon ⊢
    have h2 : m2.flash = m1.flash ∧ m2.on .SEC_STATUS_PATCH_VALID 0 = m1.on .SEC_STATUS_PATCH_VALID 0 := by
      rw [← hm2]
      cases m1.flash.policy with
      | none => exact ⟨rfl, rfl⟩
      | some p =>
        refine ⟨rfl, ?_⟩
        unfold Option.elim Mach.applyPolicy Mach.repmode
        simp only [Mach.wrs_cons, Mach.wrs_nil, Mach.on_wr, reduceCtorEq, false_and, if_false]
    generalize hm3 : m2.flash.keys.foldl _ m2 = m3 at hon ⊢
    have h3 : m3.flash = m2.flash ∧ m3.on .SEC_STATUS_PATCH_VALID 0 = m2.on .SEC_STATUS_PATCH_VALID 0 := by
      rw [← hm3]
      exact ⟨foldl_keep Mach.flash _ (fun m nk => (setKey_keeps m _ _ _).1) _ _,
        foldl_keep (fun m => Mach.on m .SEC_STATUS_PATCH_VALID 0) _ (fun m nk => (setKey_keeps m _ _ _).2) _ _⟩
    have hlast : ∀ m4 : Mach, m4.flash = m3.flash → m4.on .SEC_STATUS_PATCH_VALID 0 = m3.on .SEC_STATUS_PATCH_VALID 0 →
        m4.on .SEC_STATUS_PATCH_VALID 0 = true →
        ∃ x, m4.flash.patch = some x ∧ x.signed = true ∧ m.rd .SEC_SVN_KINDLING_FUSED 0 ≤ x.svn := by
      intro m4 hf hv hon
      rw [hv, h3.2, h2.2] at hon
      rw [hf, h3.1, h2.1]
      exact hpatch hon
    have hup : ∀ f g, (((m3.onAux f).wr .SEC_STATUS_KINDLING_UP 0 1).onPins g).on .SEC_STATUS_PATCH_VALID 0
        = m3.on .SEC_STATUS_PATCH_VALID 0 := fun f g => by
      change ((m3.onAux f).wr .SEC_STATUS_KINDLING_UP 0 1).on _ _ = _
      rw [Mach.on_wr, if_neg (by rintro ⟨⟨⟩, -⟩)]
      rfl
    split
    next hnone =>
      rw [if_pos hnone] at hon
      exact hlast _ rfl (by simp only [Mach.wrs_cons, Mach.wrs_nil, Mach.on_wr, reduceCtorEq, false_and, if_false, hup]) hon
    next hsome =>
      rw [if_neg hsome] at hon
      exact hlast _ rfl (hup _ _) hon

/-! Cordwood's resident image. -/

/-- From `m` to `m'` the resident image has stayed, or is one that Kindling's key signed and the fused counter admits. -/
def Mach.Admits (m m' : Mach) : Prop :=
  ∀ r, m'.aux.resident = some r →
    m.aux.resident = some r ∨ r.img.signed = true ∧ m.rd .SEC_SVN_CORDWOOD_FUSED 0 ≤ r.img.svn

theorem Mach.Admits.of_keeps {m m' : Mach} (h : m'.aux.resident = m.aux.resident) : m.Admits m' := fun _ hr => .inl (h ▸ hr)

theorem Mach.Admits.trans {m m' m'' : Mach} (h : m.Admits m')
    (hrd : m'.rd .SEC_SVN_CORDWOOD_FUSED 0 = m.rd .SEC_SVN_CORDWOOD_FUSED 0) (h' : m'.Admits m'') : m.Admits m'' :=
  fun r hr => (h' r hr).elim (h r) fun hok => .inr (hrd ▸ hok)

/-- R429: an image that passes its conditions. -/
theorem Mach.admits_putCordwood (m : Mach) (i : Nat) (b : Bool) (h : m.imgPasses i = true) : m.Admits (m.putCordwood i b) := by
  unfold Mach.imgPasses at h
  unfold Mach.putCordwood
  cases hx : m.cordImg i with
  | none => exact .of_keeps rfl
  | some x =>
    rw [hx, Option.elim, Bool.and_eq_true, decide_eq_true_eq] at h
    intro r hr
    obtain rfl := Option.some_inj.mp (hr : some _ = some r)
    exact .inr h

theorem Mach.admits_loadCordwood (m m' : Mach) (a b : Bool) (h : m.loadCordwood a b = some m') : m.Admits m' := by
  unfold Mach.loadCordwood at h
  split at h
  · exact nomatch h
  · obtain ⟨hok, h⟩ | ⟨-, h⟩ := ite_cases h
    · obtain rfl := Option.some.inj h
      exact m.admits_putCordwood _ _ (Bool.and_eq_true_iff.mp hok).1
    · obtain ⟨hok, h⟩ | ⟨-, h⟩ := ite_cases h
      · obtain rfl := Option.some.inj h
        exact m.admits_putCordwood _ _ (Bool.and_eq_true_iff.mp hok).1
      · exact nomatch h

theorem Mach.aux_cordwoodStops (m : Mach) : m.cordwoodStops.aux = m.aux := by
  unfold Mach.cordwoodStops
  dsimp only
  generalize hm : Mach.abortDescs _ _ = m1
  have h1 : m1.aux = m.aux := by rw [← hm, Mach.aux_of_still (Mach.still_abortDescs _ _)]
  generalize List.range 32 = l
  have h2 : (l.foldl (fun m i => m.wr .SEQ_BANK_LOAD_BUSY i 0) m1).aux = m.aux :=
    (foldl_keep Mach.aux (fun m i => m.wr .SEQ_BANK_LOAD_BUSY i 0) (fun _ _ => rfl) l m1).trans h1
  split <;> exact h2

theorem Mach.resident_restartCordwood (m : Mach) : m.restartCordwood.aux.resident = m.aux.resident := by
  unfold Mach.restartCordwood
  rw [Mach.aux_of_still (Mach.still_event _ _), ← m.aux_cordwoodStops]
  generalize m.cordwoodStops = m1
  rfl

theorem Mach.rdAside_endJob {f : Fld} (ha : f.aside = false) (i : Nat) (m : Mach) (c : IngCur) (st de : Nat) :
    (m.endJob c st de).rd f i = m.rd f i := Mach.rdAside_complete ha i _ _ _ _ _ _

theorem Mach.rdAside_abortDescs {f : Fld} (ha : f.aside = false) (i : Nat) (m : Mach) (ds : List Desc) :
    (m.abortDescs ds).rd f i = m.rd f i := by
  refine foldl_keep (fun m : Mach => m.rd f i) _ (fun m d => ?_) ds m
  split
  · exact Mach.rdAside_endJob ha i m _ _ _
  · exact Mach.rdAside_complete ha i m _ _ _ _ _

theorem Mach.rd_cordwoodStops (m : Mach) {f : Fld} {i : Nat} (ha : f.aside = false) (hb : f ≠ .SEQ_BANK_LOAD_BUSY) (hd : f ≠ .FAB_STATUS_DISC) :
    m.cordwoodStops.rd f i = m.rd f i := by
  unfold Mach.cordwoodStops
  dsimp only
  generalize hm : Mach.abortDescs _ _ = m1
  have h1 : m1.rd f i = m.rd f i := by
    rw [← hm, Mach.rdAside_abortDescs ha]
    rfl
  generalize List.range 32 = l
  have h2 : (l.foldl (fun m i => m.wr .SEQ_BANK_LOAD_BUSY i 0) m1).rd f i = m.rd f i :=
    (foldl_keep (fun m : Mach => m.rd f i) _ (fun m j => (Mach.rd_wr ..).trans (if_neg fun h => hb h.1)) _ _).trans h1
  split
  · refine Eq.trans ?_ h2
    exact (Mach.rd_wr _ .FAB_STATUS_DISC f 0 i 0).trans (if_neg fun h => hd h.1)
  · exact h2

theorem Mach.rd_restartCordwood (m : Mach) {f : Fld} {i : Nat} (ha : f.aside = false) (hb : f ≠ .SEQ_BANK_LOAD_BUSY) (hd : f ≠ .FAB_STATUS_DISC)
    (he : f ≠ .HIF_EVT_CORDWOOD_RESTART) (hu : f ≠ .MOD_STATUS_CORDWOOD_UP) : m.restartCordwood.rd f i = m.rd f i := by
  have hstops := m.rd_cordwoodStops (i := i) ha hb hd
  unfold Mach.restartCordwood Mach.event
  generalize m.cordwoodStops = m1 at hstops
  dsimp only
  have h3 : ∀ g, (((m1.wr .MOD_STATUS_CORDWOOD_UP 0 0).onAux g).wr .HIF_EVT_CORDWOOD_RESTART 0 1).rd f i = m.rd f i := fun g => by
    rw [Mach.rd_wr, if_neg fun h => he h.1, Mach.rd_onAux, Mach.rd_wr, if_neg fun h => hu h.1, hstops]
  split
  · rw [Mach.rdAside_signal ha]; exact h3 _
  · exact h3 _

theorem Mach.aux_bootFail (m : Mach) (c : Nat) : (m.bootFail c).aux = m.aux := Mach.aux_of_still (Mach.still_raise _ _ _ _ _ _)

/-- ACTIVATE makes an image resident that passes R429's conditions (R434). -/
theorem activate_admits (m : Mach) : m.Admits (Firm.activate m) := by
  unfold Firm.activate
  split
  · exact .of_keeps rfl
  · dsimp only
    split
    · exact .of_keeps rfl
    · split
      · exact .of_keeps rfl
      next hok =>
        generalize MboxReq.body _ 0 1 = i at hok ⊢
        have hpass : m.imgPasses i = true := by
          refine Decidable.byContradiction fun hno => ?_
          rw [Bool.not_eq_true] at hno
          exact hok (by simp only [hno, Bool.not_false, Bool.true_or])
        intro r hr
        refine m.admits_putCordwood i false hpass r ?_
        have hkeep := Mach.resident_restartCordwood ((m.putCordwood i false).onAux fun a => { a with selected := some i })
        rw [Mach.aux_onAux] at hkeep
        generalize Mach.restartCordwood _ = m1 at hr hkeep
        exact hkeep.symm.trans hr

/-- The work of a stage loads a Cordwood image at stage 7 alone (R430, R441). -/
theorem stageDone_admits (m : Mach) (o : BootOut) : m.Admits (m.stageDone o) := by
  have hready : m.becomeReady.aux = m.aux := by
    unfold Mach.becomeReady
    dsimp only
    split
    · exact Mach.aux_of_still (Mach.still_event _ _)
    · rfl
  have htune : (m.tuneUp o).aux = m.aux := by
    unfold Mach.tuneUp
    dsimp only
    split
    · exact Mach.aux_of_still (Mach.still_raise _ _ _ _ _ _)
    · exact foldl_keep Mach.aux _ (fun m k => Mach.aux_of_still (m.still_setLink k 1 0)) _ _
  have hstacks : ∀ bad, (m.stacksUp bad).aux = m.aux := fun bad => foldl_keep Mach.aux _ (fun m n => m.aux_wrs n _) _ _
  unfold Mach.stageDone
  dsimp only
  split
  · split
    · exact .of_keeps rfl
    · exact .of_keeps (by rw [Mach.aux_bootFail])
  · split
    · exact .of_keeps (by rw [Mach.wr_aux, hstacks])
    · exact .of_keeps (by rw [Mach.aux_bootFail, hstacks])
  · exact .of_keeps (by rw [Mach.wr_aux, htune])
  · split
    · exact .of_keeps rfl
    · exact .of_keeps (by rw [Mach.aux_bootFail])
  · split
    next m' hload => exact m.admits_loadCordwood m' _ _ hload
    next => exact .of_keeps (by rw [Mach.aux_bootFail])
  · exact .of_keeps (by rw [hready])
  · exact .of_keeps rfl

/-- Time that passes brings no image. -/
theorem Mach.admits_advanceTo (m : Mach) (t : Nat) : m.Admits (m.advanceTo t) :=
  .of_keeps (m.lasts_advanceTo t).resident

theorem stageEnd_admits (us : BitVec 22) (o : BootOut) (m : Mach) : m.Admits (Power.stageEnd us o m) := by
  unfold Power.stageEnd
  split
  · exact .of_keeps rfl
  · exact (m.admits_advanceTo _).trans ((m.lasts_advanceTo _).rd _ _ rfl rfl) (stageDone_admits _ o)


theorem watchdogExpiry_admits (h a b : Bool) (m : Mach) : m.Admits (Firm.watchdogExpiry h a b m) := by
  have hfail : ∀ m : Mach, (Firm.cordwoodFails m).aux = m.aux := by
    intro m
    unfold Firm.cordwoodFails
    dsimp only
    rw [Mach.aux_of_still (Mach.still_event _ _), Mach.aux_of_still (Mach.still_faultTrace _ _ _ _)]
    rw [Mach.logFatal, Mach.aux_of_still (Mach.still_logFault _ _), Mach.aux_wrs, Mach.aux_cordwoodStops]
  unfold Firm.watchdogExpiry
  split
  · exact .of_keeps rfl
  next t _ =>
    split
    · exact .of_keeps rfl
    · refine (m.admits_advanceTo t).trans ((m.lasts_advanceTo t).rd _ _ rfl rfl) ?_
      generalize m.advanceTo t = m1
      dsimp only
      generalize hm2 : (m1.wr .MOD_STATUS_CORDWOOD_UP 0 0).onAux _ = m2
      have h2 : m1.Admits m2 := .of_keeps (by rw [← hm2]; rfl)
      have hrd2 : m2.rd .SEC_SVN_CORDWOOD_FUSED 0 = m1.rd .SEC_SVN_CORDWOOD_FUSED 0 := by
        rw [← hm2, Mach.rd_onAux, Mach.rd_wr, if_neg (by rintro ⟨⟨⟩, -⟩)]
      refine h2.trans hrd2 ?_
      split
      · exact .of_keeps (by rw [hfail])
      · generalize hm3 : Mach.raise _ 0x48 0 srcHub 0 0 = m3
        have h3 : m2.Admits m3 := .of_keeps (by
          rw [← hm3, Mach.aux_of_still (Mach.still_raise _ _ _ _ _ _), Mach.resident_restartCordwood,
            Mach.aux_of_still (Mach.still_bump _ _ _ _)])
        have hrd3 : m3.rd .SEC_SVN_CORDWOOD_FUSED 0 = m2.rd .SEC_SVN_CORDWOOD_FUSED 0 := by
          rw [← hm3, Mach.rdAside_raise rfl, Mach.rd_restartCordwood _ rfl (by decide) (by decide) (by decide) (by decide),
             Mach.rd_bump_ne _ _ _ _ (by rintro ⟨⟨⟩, -⟩)]
        refine h3.trans hrd3 ?_
        split
        · exact .of_keeps rfl
        · split
          next m' hload => exact m3.admits_loadCordwood m' _ _ hload
          next => intro r hr; rw [Mach.aux_bootFail] at hr; exact nomatch hr

/-- Settles O60: the fused counters by `exec_completes`; a patch and a resident image by R428's and R429's conditions. -/
theorem rollbackCounters : Obligations.RollbackCounters := by
  unfold Obligations.RollbackCounters
  intro c us o hashOk a b s t ht
  have hwf : c.wf = true := by
    refine Decidable.byContradiction fun hno => ?_
    obtain ⟨mn, hill⟩ := exec_ill c s (Bool.not_eq_true _ ▸ hno)
    rw [ht] at hill
    exact nomatch hill
  obtain ⟨t', ht', -, hrise, hkeep⟩ := exec_completes c s hwf
  obtain rfl : t' = t := by rw [ht] at ht'; exact (Host.Outcome.next.inj ht').symm
  obtain ⟨hle, hk, hc⟩ := hrise
  refine ⟨hkeep, fun h1 h2 => ⟨hle, hk h1, hc h2⟩, ?_, ?_⟩
  · rintro rfl hoff hon
    obtain rfl := Host.Outcome.next.inj ht
    exact kindlingDone_patch s.m hoff hon
  · rintro (rfl | rfl | rfl) <;> obtain rfl := Host.Outcome.next.inj ht
    · exact activate_admits s.m
    · exact stageEnd_admits us o s.m
    · exact watchdogExpiry_admits hashOk a b s.m

end Sys2Proof.Machine

/-! The tick generator (R35, R39, R42, R59), the time lock (R58) and swap requests (R376, R377). -/
namespace Sys2Proof.Machine

/-! An access of another kind (R17, R518) discards the halves that its requester holds, and nothing else. -/

section
variable (m : Mach) (req : Nat)

@[simp] theorem Mach.rdS_otherAccess (f : Fld) (i : Nat) : (m.otherAccess req).rdS f i = m.rdS f i := rfl
@[simp] theorem Mach.on_otherAccess (f : Fld) (i : Nat) : (m.otherAccess req).on f i = m.on f i := rfl
@[simp] theorem Mach.mainUp_otherAccess : (m.otherAccess req).mainUp = m.mainUp := rfl
@[simp] theorem Mach.time_otherAccess : (m.otherAccess req).time = m.time := rfl
@[simp] theorem Mach.core_otherAccess (g : Nat) : (m.otherAccess req).core g = m.core g := rfl
@[simp] theorem Mach.still_otherAccess : (m.otherAccess req).still = m.still := rfl

end

/-! The boundary (Table TICK-1): after action 2 nothing writes TICK_NUMBER. -/

/-- The fields that the actions after the tick's advance write, beside those of the shared side effects. -/
def Fld.ofBoundary : Fld → Bool
  | .MOD_STATUS_STEP_RUNNING | .TICK_STATE_PHASE | .TICK_STATE_PHASE_LEFT | .TICK_STATE_STRETCH_USED | .TICK_NEXT | .TICK_STRETCHES
  | .DBG_CUT_REACHED | .DBG_CUT_SETTLED | .TICK_STATE_HELD => true
  | _ => false

section
variable {f : Fld} (ha : f.aside = false) (hb : f.ofBoundary = false) (i : Nat)
include hb

theorem Mach.rdBoundary_wr (m : Mach) {g : Fld} (hg : g.ofBoundary = true) (j v : Nat) : (m.wr g j v).rd f i = m.rd f i := by
  rw [Mach.rd_wr, if_neg]
  rintro ⟨rfl, -⟩
  rw [hb] at hg
  exact absurd hg Bool.false_ne_true

theorem Mach.rdBoundary_wrs (m : Mach) (j : Nat) (fs : List (Fld × Nat)) (hf : fs.all (fun x => x.1.ofBoundary) = true) :
    (m.wrs j fs).rd f i = m.rd f i := by
  induction fs generalizing m with
  | nil => rfl
  | cons x fs ih =>
    rw [List.all_cons, Bool.and_eq_true] at hf
    exact (ih _ hf.2).trans (Mach.rdBoundary_wr hb i m hf.1 j x.2)

theorem Mach.rd_beginStep (m : Mach) (s : StepReq) (t : Nat) : (m.beginStep s t).rd f i = m.rd f i := by
  have hgroups : ∀ m : Mach, m.startGroups.rd f i = m.rd f i := by
    intro m
    unfold Mach.startGroups
    generalize List.range 32 = l
    refine foldl_keep (fun m : Mach => m.rd f i) _ (fun m j => ?_) l m
    dsimp only
    split
    · rfl
    · split
      · rfl
      · apply foldl_keep (fun m : Mach => m.rd f i)
        exact fun _ _ => rfl
  unfold Mach.beginStep
  dsimp only
  rw [hgroups, Mach.rdBoundary_wrs hb i _ _ _ rfl]
  apply foldl_keep (fun m : Mach => m.rd f i)
  exact fun _ _ => rfl

include ha

theorem Mach.rd_takeArmed (m : Mach) (t : Nat) (sw : Option (Nat × Nat)) : (m.takeArmed t sw).rd f i = m.rd f i := by
  have hend : ∀ (d : Desc) (st de : Nat), (({ m with armed := none } : Mach).complete d st de 0 []).rd f i = m.rd f i :=
    fun d st de => Mach.rdAside_complete ha i _ d st de 0 []
  unfold Mach.takeArmed
  dsimp only
  split
  · rfl
  · split
    · rfl
    · split
      · exact hend _ _ _
      · split
        · exact hend _ _ _
        · split
          · exact hend _ _ _
          · split
            · exact hend _ _ _
            · exact Mach.rd_beginStep hb i m _ t

theorem Mach.rd_stretchTo (m : Mach) (s origin src : Nat) : (m.stretchTo s origin src).rd f i = m.rd f i := by
  unfold Mach.stretchTo
  dsimp only
  refine (foldl_keep (fun m : Mach => m.rd f i) _ (fun m j => ?_) _ _).trans ?_
  · rw [Mach.rdAside_trace ha, Mach.rd_bump_ne]
    rintro ⟨rfl, -⟩
    exact absurd hb (Bool.false_ne_true ·.symm)
  · change (Mach.wr (Mach.wr m _ _ _) _ _ _).rd f i = _
    rw [Mach.rdBoundary_wr hb i _ rfl, Mach.rdBoundary_wr hb i _ rfl]

theorem Mach.rd_newTick (m : Mach) (t : Nat) : (m.newTick t).rd f i = m.rd f i := by
  unfold Mach.newTick
  dsimp only
  rw [Mach.rd_stretchTo ha hb, Mach.rdBoundary_wr hb i _ rfl, Mach.rdBoundary_wr hb i _ rfl]
  rfl

omit hb in
theorem Mach.rdAside_fires (m : Mach) (b : Nat) : (m.fires b).rd f i = m.rd f i := by
  unfold Mach.fires
  dsimp only
  split
  · rfl
  · split
    · rw [Mach.rdAside_freeze ha, Mach.rdAside_trigger ha]
    · exact Mach.rdAside_trigger ha i m b

theorem Mach.rd_tickCut (m : Mach) (t : Nat) : (m.tickCut t).rd f i = m.rd f i := by
  unfold Mach.tickCut Mach.cutReached
  dsimp only
  split
  · split
    · rw [Mach.rdBoundary_wrs hb i _ _ _ rfl, Mach.rdAside_complete ha]
      change (Mach.freeze _ 7).rd f i = _
      rw [Mach.rdAside_freeze ha, Mach.rdAside_trace ha, Mach.rdBoundary_wrs hb i _ _ _ rfl]
    · rfl
  · rfl

theorem Mach.rd_finishStep (m : Mach) (t : Nat) (s : StepReq) : (m.finishStep t s).rd f i = m.rd f i := by
  unfold Mach.finishStep
  rw [Mach.rdBoundary_wr hb i _ rfl, Mach.rdAside_complete ha]

end

theorem Mach.rd_snapCounters (m : Mach) (f : Fld) (i : Nat) : m.snapCounters.rd f i = m.rd f i := by
  unfold Mach.snapCounters
  dsimp only
  generalize List.range 1024 = cs
  generalize List.range 160 = hs
  repeat' split
  all_goals rfl

theorem Mach.rd_releaseTickw (m : Mach) (f : Fld) (i : Nat) : m.releaseTickw.rd f i = m.rd f i := by
  unfold Mach.releaseTickw
  refine foldl_keep (fun m : Mach => m.rd f i) _ (fun m kc => ?_) _ m
  unfold Mach.implicitHalt
  split
  · split <;> rfl
  · rfl

/-- R39: the boundary that begins tick `t` writes it to TICK_NUMBER. -/
theorem Mach.number_boundaryActions (m : Mach) (t : Nat) : (m.boundaryActions t).rd .TICK_NUMBER 0 = t % 2 ^ 64 := by
  unfold Mach.boundaryActions
  dsimp only
  generalize Mach.advancePhase _ = r
  obtain ⟨ended, m1⟩ := r
  dsimp only
  have hnumber : (m1.wr .TICK_NUMBER 0 t).rd .TICK_NUMBER 0 = t % 2 ^ 64 := by rw [Mach.rd_wr, if_pos ⟨rfl, rfl⟩]; rfl
  have hfires : ∀ m : Mach, (if (m.rd .DBG_FREEZE_TICK 0 == t) = true then m.fires 1 else m).rd .TICK_NUMBER 0 = m.rd .TICK_NUMBER 0 := by
    intro m
    split
    · exact Mach.rdAside_fires rfl 0 m 1
    · rfl
  have hrelease : ∀ m : Mach, (if m.held = true then m else m.releaseTickw).rd .TICK_NUMBER 0 = m.rd .TICK_NUMBER 0 := by
    intro m
    split
    · rfl
    · exact m.rd_releaseTickw _ _
  have hfinish : ∀ m : Mach, (ended.elim m (m.finishStep t)).rd .TICK_NUMBER 0 = m.rd .TICK_NUMBER 0 := by
    intro m
    cases ended with
    | none => rfl
    | some s => exact Mach.rd_finishStep rfl rfl 0 m t s
  rw [hfinish, hrelease, Mach.rd_tickCut rfl rfl, hfires, Mach.rd_snapCounters, Mach.rdAside_trace rfl, Mach.rd_newTick rfl rfl,
    Mach.rd_takeArmed rfl rfl, hnumber]

theorem Mach.advanceTo_of_le {m : Mach} {t : Nat} (h : t ≤ m.time) : m.advanceTo t = m := by
  rw [Mach.advanceTo, if_neg (by omega)]

/-- With neither a deadline nor a check to come, the boundary falls at once. -/
theorem boundary_eq {m : Mach} (hgen : m.on .TICK_STATE_GEN_RUNNING 0 = true) (hheld : m.held = false) (hdead : m.tick.deadline = none)
    (hsample : m.tick.sample = none) (htime : m.rd .TICK_NEXT 0 ≤ m.time) :
    Tick.boundary m = if m.on .TICK_CTRL_RUN 0 then m.boundaryActions (m.rd .TICK_NUMBER 0 + 1)
      else ({ m with tick := { m.tick with deadline := none, ended := true } } : Mach).wrs 0 [(.TICK_STATE_GEN_RUNNING, 0), (.TICK_NEXT, 0)] := by
  have hdue : m.deadlineNow.secondSample = m := by
    rw [Mach.deadlineNow, hdead, Mach.secondSample, hsample]
  have habandon : (m.advanceTo (m.rd .TICK_NEXT 0)).abandonCheck = m := by
    rw [Mach.advanceTo_of_le htime, Mach.abandonCheck, hsample]
  have hnow : ∀ b : Bool, b = false → (if b = true then m else m.boundaryNow) = m.boundaryNow := fun b hb => by
    rw [hb, if_neg Bool.false_ne_true]
  unfold Tick.boundary
  rw [hgen, hheld, hdue, if_neg (by decide)]
  dsimp only
  rw [hnow _ (by rw [hdead]; rfl), Mach.boundaryNow]
  dsimp only
  rw [habandon, hheld, if_neg Bool.false_ne_true]

/-- R35, R59: the branches of a write of RUN = 1, which reads what the write of SOLO leaves. -/
theorem run_eq {m : Mach} (hup : m.mainUp = true) (solo : Bool) : Tick.run solo m =
    if m.on .TICK_STATE_TIME_LOCK 0 = false ∧ solo = false then m.wr .TICK_CTRL_SOLO 0 (b2n solo)
    else if m.on .TICK_STATE_GEN_RUNNING 0 then (m.wr .TICK_CTRL_SOLO 0 (b2n solo)).wr .TICK_CTRL_RUN 0 1
    else if m.rd .TICK_ORIGIN 0 < m.time + 10000 then (m.wr .TICK_CTRL_SOLO 0 (b2n solo)).wr .TICK_CTRL_ORIGIN_LATE 0 1
    else (m.wr .TICK_CTRL_SOLO 0 (b2n solo)).wrs 0 [(.TICK_CTRL_RUN, 1), (.TICK_STATE_GEN_RUNNING, 1), (.TICK_NEXT, m.rd .TICK_ORIGIN 0)] := by
  have hlock : (m.wr .TICK_CTRL_SOLO 0 (b2n solo)).on .TICK_STATE_TIME_LOCK 0 = m.on .TICK_STATE_TIME_LOCK 0 := by
    rw [Mach.on_wr, if_neg (by rintro ⟨⟨⟩, -⟩)]
  have hgen : (m.wr .TICK_CTRL_SOLO 0 (b2n solo)).on .TICK_STATE_GEN_RUNNING 0 = m.on .TICK_STATE_GEN_RUNNING 0 := by
    rw [Mach.on_wr, if_neg (by rintro ⟨⟨⟩, -⟩)]
  have horigin : (m.wr .TICK_CTRL_SOLO 0 (b2n solo)).rd .TICK_ORIGIN 0 = m.rd .TICK_ORIGIN 0 := by
    rw [Mach.rd_wr, if_neg (by rintro ⟨⟨⟩, -⟩)]
  have htime : (m.wr .TICK_CTRL_SOLO 0 (b2n solo)).time = m.time := by
    rw [Mach.time, Mach.rd_wr, if_neg (by rintro ⟨⟨⟩, -⟩)]; rfl
  unfold Tick.run
  rw [hup, if_neg (by decide)]
  dsimp only
  rw [hlock, hgen, horigin, htime]
  simp only [Bool.and_eq_true, Bool.not_eq_true']

/-- Settles O28: the boundary by `boundary_eq`, and each branch of a write of RUN. -/
theorem tickGenerator : Obligations.TickGenerator := by
  unfold Obligations.TickGenerator
  intro solo s hup
  have hrun {P : Mach → Prop} (h : P (Tick.run solo (s.m.otherAccess 0))) : Does (.tickRun solo) s P :=
    does_of_lift (f := fun m => Tick.run solo (m.otherAccess 0)) rfl h
  have hmay : s.m.on .TICK_STATE_TIME_LOCK 0 = true ∨ solo = true →
      ¬((s.m.otherAccess 0).on .TICK_STATE_TIME_LOCK 0 = false ∧ solo = false) := by
    rintro h ⟨hl, hs⟩
    rw [Mach.on_otherAccess] at hl
    rw [hl, hs] at h
    exact h.elim Bool.false_ne_true Bool.false_ne_true
  refine ⟨fun hgen hheld hdead hsample htime => ⟨fun hrun => ?_, fun hstop => ?_⟩, fun hgen hfar may => hrun ?_,
    fun hgen hnear may => hrun ?_, fun hlock => ?_, fun hgen may => hrun ?_, fun hstep => ?_, fun hstep => ?_⟩
  · refine does_of_lift (f := Tick.boundary) rfl ?_
    rw [boundary_eq hgen hheld hdead hsample htime, if_pos hrun]
    exact Mach.number_boundaryActions _ _
  · refine does_of_lift (f := Tick.boundary) rfl ?_
    rw [boundary_eq hgen hheld hdead hsample htime, if_neg (by rw [hstop]; exact Bool.false_ne_true)]
    simp only [Mach.wrs_cons, Mach.wrs_nil, Mach.rd_wr, reduceCtorEq, false_and, if_false, and_self, if_true]
    exact ⟨rfl, rfl, rfl, fun _ => rfl⟩
  · rw [run_eq (m := s.m.otherAccess 0) hup, if_neg (hmay may), Mach.on_otherAccess, hgen, if_neg Bool.false_ne_true, Mach.rd_otherAccess, Mach.time_otherAccess,
      if_neg (by omega)]
    simp only [Mach.wrs_cons, Mach.wrs_nil, Mach.rd_wr, reduceCtorEq, false_and, if_false, and_self, if_true, Mach.rd_otherAccess]
    exact ⟨rfl, rfl, rfl, by cases solo <;> rfl, trivial, fun _ => rfl⟩
  · rw [run_eq (m := s.m.otherAccess 0) hup, if_neg (hmay may), Mach.on_otherAccess, hgen, if_neg Bool.false_ne_true, Mach.rd_otherAccess, Mach.time_otherAccess,
      if_pos hnear]
    refine ⟨by rw [Mach.rd_wr, if_pos ⟨rfl, rfl⟩]; rfl, fun f i hl hs => ?_⟩
    rw [Mach.rd_wr, if_neg (hl ·.1), Mach.rd_wr, if_neg (hs ·.1), Mach.rd_otherAccess]
  · refine does_of_lift (f := fun m => Tick.run false (m.otherAccess 0)) rfl fun f i hs => ?_
    rw [run_eq (m := s.m.otherAccess 0) hup, if_pos ⟨hlock, rfl⟩, Mach.rd_wr, if_neg (hs ·.1), Mach.rd_otherAccess]
  · rw [run_eq (m := s.m.otherAccess 0) hup, if_neg (hmay may), Mach.on_otherAccess, hgen, if_pos rfl]
    refine ⟨by rw [Mach.rd_wr, if_pos ⟨rfl, rfl⟩]; rfl, fun f i hr hs => ?_⟩
    rw [Mach.rd_wr, if_neg (hr ·.1), Mach.rd_wr, if_neg (hs ·.1), Mach.rd_otherAccess]
  · refine does_of_lift (f := fun m => Tick.stop (m.otherAccess 0)) rfl ?_
    have hstop : Tick.stop (s.m.otherAccess 0) = (s.m.otherAccess 0).wr .TICK_CTRL_RUN 0 0 := by
      rw [Tick.stop, Mach.mainUp_otherAccess, hup, Mach.stepRunning, Mach.on_otherAccess, if_neg]
      rw [Mach.stepRunning] at hstep
      rw [hstep]
      decide
    rw [hstop]
    exact ⟨by rw [Mach.rd_wr, if_pos ⟨rfl, rfl⟩]; rfl, fun f i hne => by rw [Mach.rd_wr, if_neg hne, Mach.rd_otherAccess]⟩
  · refine does_of_lift (f := fun m => Tick.stop (m.otherAccess 0)) rfl fun f i => ?_
    rw [Tick.stop, if_pos, Mach.rd_otherAccess]
    rw [Mach.stepRunning] at hstep
    rw [Mach.stepRunning, Mach.on_otherAccess, hstep, Bool.or_true]

/-! The time lock: what R58 counts stands still while the module is frozen (R474). -/

/-- A frozen module whose last exchange was 20 ms ago. -/
def frozenLocked : State :=
  { State.reset with m := Mach.reset.wrs 0 [(.TICK_STATE_TIME_LOCK, 1), (.DBG_FREEZE_CTRL_FROZEN, 1), (.TICK_TIME, 20000000)] }

/-- Refutes O29: while a freeze holds, the counter of R58's lost locks stands still, as every counter does. -/
theorem not_deadlinesAndTimeLock : ¬ Obligations.DeadlinesAndTimeLock := by
  unfold Obligations.DeadlinesAndTimeLock
  rintro ⟨-, h⟩
  obtain ⟨-, -, htimeout, -⟩ := h 0 frozenLocked
  obtain ⟨t, ht, -, -, -, hcount⟩ := htimeout (by decide +kernel) (by decide +kernel)
  obtain rfl := Host.Outcome.next.inj ht
  revert hcount
  decide +kernel

/-! Swap requests. -/

/-- R379: the record of a swap; its descriptor's completion writes the host's side. -/
theorem Mach.recordSwap_keeps (m : Mach) (w : SwapReq) (st : Nat) (rs : List Nat) (t : Nat) :
    (m.recordSwap w st rs t).tick.swap = none ∧ (∀ g, (m.recordSwap w st rs t).core g = m.core g) ∧
    (m.recordSwap w st rs t).rd .MOD_STATUS_SWAP_PENDING 0 = 0 ∧ (m.recordSwap w st rs t).rd .CFG_SWAP_RESULT_VALID 0 = 1 ∧
    (m.recordSwap w st rs t).rd .CFG_SWAP_RESULT_STATUS 0 = st % 16 := by
  unfold Mach.recordSwap
  dsimp only
  generalize hbits : ((rs.map fun c => 2 ^ (c - 1)).foldl (· + ·) 0) = bits
  generalize hm1 : m.wrs 0 _ = m1
  have hcore : ∀ g, m1.core g = m.core g := fun g => by rw [← hm1]; exact Mach.core_of_still (Mach.still_wrs _ _ _) g
  have hpend : m1.rd .MOD_STATUS_SWAP_PENDING 0 = 0 := by
    rw [← hm1]; simp only [Mach.wrs_cons, Mach.wrs_nil, Mach.rd_wr, and_self, if_true]; rfl
  have hvalid : m1.rd .CFG_SWAP_RESULT_VALID 0 = 1 := by
    rw [← hm1]; simp only [Mach.wrs_cons, Mach.wrs_nil, Mach.rd_wr, reduceCtorEq, false_and, if_false, and_self, if_true]; rfl
  have hstatus : m1.rd .CFG_SWAP_RESULT_STATUS 0 = st % 16 := by
    rw [← hm1]; simp only [Mach.wrs_cons, Mach.wrs_nil, Mach.rd_wr, reduceCtorEq, false_and, if_false, and_self, if_true]; rfl
  generalize hm2 : m1.trace _ _ _ = m2
  have hrd2 : ∀ f, f.aside = false → m2.rd f 0 = m1.rd f 0 := fun f hf => by rw [← hm2, Mach.rdAside_trace hf]
  have hcore2 : ∀ g, m2.core g = m.core g := fun g => by rw [← hm2, Mach.core_of_still (Mach.still_trace _ _ _ _), hcore]
  cases w.desc with
  | none =>
    exact ⟨rfl, hcore2, (hrd2 _ rfl).trans hpend, (hrd2 _ rfl).trans hvalid, (hrd2 _ rfl).trans hstatus⟩
  | some d =>
    refine ⟨?_, fun g => ?_, ?_, ?_, ?_⟩
    · exact congrArg (fun x : Still => x.tick.swap) (Mach.still_complete _ _ _ _ _ _)
    · rw [Mach.core_of_still (Mach.still_complete _ _ _ _ _ _)]; exact hcore2 g
    · rw [Mach.rdAside_complete rfl]; exact (hrd2 _ rfl).trans hpend
    · rw [Mach.rdAside_complete rfl]; exact (hrd2 _ rfl).trans hvalid
    · rw [Mach.rdAside_complete rfl]; exact (hrd2 _ rfl).trans hstatus

/-- R376, R377: whether a request comes too late. -/
def Mach.swapLate (m : Mach) (t : Nat) : Prop :=
  t ≠ 0 ∧ (t < m.rd .TICK_NUMBER 0 + 1 ∨
    t = m.rd .TICK_NUMBER 0 + 1 ∧ m.on .TICK_STATE_GEN_RUNNING 0 = true ∧ m.rd .TICK_NEXT 0 < m.time + 1000)

theorem Mach.requestSwap_pends {m : Mach} {t : Nat} (d : Option Desc) (hfree : m.tick.swap = none) (hlate : ¬m.swapLate t) :
    m.requestSwap t d = ({ m with tick := { m.tick with swap := some ⟨t, m.time, d⟩ } } : Mach).wr .MOD_STATUS_SWAP_PENDING 0 1 := by
  unfold Mach.requestSwap
  dsimp only
  rw [Mach.swapLate] at hlate
  rw [hfree, if_neg (by decide), if_neg hlate]

/-- Settles O30, by `Mach.requestSwap_pends` and `Mach.recordSwap_keeps`. -/
theorem swapRequested : Obligations.SwapRequested := by
  unfold Obligations.SwapRequested
  intro w s
  refine ⟨fun hup hfree hlate => ?_, fun hturned => ?_, fun hw hzero hgen hheld hpath => ?_⟩
  · refine does_of_lift (f := fun m => Swap.swapRequest (m.otherAccess 0)) rfl ?_
    have heq := Mach.requestSwap_pends (m := s.m.otherAccess 0) (t := s.m.rd .CFG_SWAP_AT_AT_TICK 0) none hfree hlate
    rw [Swap.swapRequest, Mach.mainUp_otherAccess, if_pos hup, Mach.rd_otherAccess, heq]
    exact ⟨rfl, by rw [Mach.rd_wr, if_pos ⟨rfl, rfl⟩]; rfl, fun f i hne => by rw [Mach.rd_wr, if_neg hne]; rfl, fun _ _ => rfl, fun _ => rfl⟩
  · refine does_of_lift (f := fun m => Swap.swapRequest (m.otherAccess 0)) rfl ?_
    have hkeep : Swap.swapRequest (s.m.otherAccess 0) = s.m.otherAccess 0 := by
      unfold Swap.swapRequest Mach.requestSwap
      dsimp only
      split
      · split
        · rfl
        next hsome => exact if_pos (hturned.resolve_left hsome)
      · rfl
    rw [hkeep]
    exact ⟨rfl, fun _ _ => rfl⟩
  · refine does_of_lift (f := Swap.idleApply) rfl ?_
    rw [Mach.held, Bool.or_eq_false_iff, Bool.or_eq_false_iff] at hheld
    obtain ⟨⟨hfrozen, hcut⟩, hcutHeld⟩ := hheld
    have hdecide : Swap.idleApply s.m = (s.m.decideSwap w (s.m.rd .TICK_NUMBER 0)).2 := by
      rw [Swap.idleApply, hw]
      refine if_pos ⟨hzero, by rw [hpath]; rfl, by rw [hgen]; rfl, by rw [hfrozen]; rfl, Option.isSome_eq_false_iff.mp hcut, by rw [hcutHeld]; rfl⟩
    rw [hdecide, Mach.decideSwap]
    cases s.m.swapReasons with
    | nil =>
      obtain ⟨hswap, -, hpend, hvalid, hstatus⟩ := s.m.applySwap.recordSwap_keeps w 0 [] (s.m.rd .TICK_NUMBER 0)
      exact ⟨hswap, hpend, hvalid, hstatus, fun h => absurd rfl h⟩
    | cons c cs =>
      obtain ⟨hswap, hcore, hpend, hvalid, hstatus⟩ := s.m.recordSwap_keeps w c (c :: cs) (s.m.rd .TICK_NUMBER 0)
      exact ⟨hswap, hpend, hvalid, hstatus, fun _ => hcore⟩

end Sys2Proof.Machine

/-! Module resets and data-path resets (R33, R445-R447, R534, R535, Table BOOT-5), and the pins that begin them. -/
namespace Sys2Proof.Machine

/-- A table of which the numbers that `p` admits are kept. -/
theorem NMap.get_filter_key {α : Type} {d : Nat → α} (p : Nat → Bool) (m : NMap α) (k : Nat) :
    NMap.get d (m.filter fun kv => p kv.1) k = if p k then NMap.get d m k else d k := by
  induction m with
  | nil => exact (ite_self _).symm
  | cons x m ih =>
    obtain ⟨k', v⟩ := x
    rw [List.filter_cons, NMap.get_cons]
    by_cases hk : k = k'
    · subst hk
      cases hp : p k with
      | true => rw [if_pos rfl, if_pos rfl, NMap.get_cons, if_pos rfl, if_pos rfl]
      | false => rw [if_neg Bool.false_ne_true, if_neg Bool.false_ne_true, ih, hp, if_neg Bool.false_ne_true]
    · rw [if_neg hk]
      split
      · rw [NMap.get_cons, if_neg hk, ih]
      · exact ih

/-- What holds of every value listed, and of what unlisted numbers read as, holds of what is read. -/
theorem NMap.get_of_forall {α : Type} {d : Nat → α} {P : α → Prop} (m : NMap α) (k : Nat) (hd : P (d k)) (h : ∀ kv ∈ m, P kv.2) :
    P (NMap.get d m k) := by
  induction m with
  | nil => exact hd
  | cons x m ih =>
    obtain ⟨k', v⟩ := x
    rw [NMap.get_cons]
    split
    · exact h _ List.mem_cons_self
    · exact ih fun kv hkv => h kv (List.mem_cons_of_mem _ hkv)

/-- The fields that `p` does not keep return to their reset values. -/
theorem Mach.rd_filter (p : Fld → Nat → Bool) (m m' : Mach)
    (h : m'.regs = m.regs.filter fun kv => p (Fld.ofKey kv.1).1 (Fld.ofKey kv.1).2) (f : Fld) (i : Nat) :
    m'.rd f i = if p f i then m.rd f i else f.resetVal i := by
  rw [Mach.rd, h, NMap.get_filter_key fun k => p (Fld.ofKey k).1 (Fld.ofKey k).2]
  rw [Fld.ofKey_key, regDefault_key]
  rfl

/-! A module reset. -/

theorem Mach.rd_clearMain (m : Mach) (f : Fld) (i : Nat) (hf : f ≠ .TICK_STATE_TIME_HOLD) :
    m.clearMain.rd f i = if f.keptByModule then m.rd f i else f.resetVal i := by
  unfold Mach.clearMain
  dsimp only
  split
  · exact Mach.rd_filter (fun f _ => f.keptByModule) m _ rfl f i
  · rw [Mach.rd_wr, if_neg (hf ·.1)]
    exact Mach.rd_filter (fun f _ => f.keptByModule) m _ rfl f i

/-- What Table BOOT-5 clears and keeps beside the registers. -/
theorem Mach.clearMain_keeps (m : Mach) : m.clearMain.mem = [] ∧ m.clearMain.cores = [] ∧ m.clearMain.ctxs = [] ∧
    m.clearMain.flash = m.flash ∧ m.clearMain.pins = m.pins ∧ m.clearMain.fab.out = m.fab.out := by
  unfold Mach.clearMain
  dsimp only
  split <;> exact ⟨rfl, rfl, rfl, rfl, rfl, rfl⟩

theorem Mach.setRails_eq (m : Mach) (v : Nat) : m.setRails v = { m with regs := (m.setRails v).regs } := by
  unfold Mach.setRails
  generalize List.range 10 = l
  rw [Mach.foldl_eq_regs fun _ _ => rfl]
  rfl

theorem Mach.rd_setRails (m : Mach) (v : Nat) (f : Fld) (i : Nat) (hf : f ≠ .PWR_RAIL_GOOD) :
    (m.setRails v).rd f i = if f = .MOD_STATUS_PWR_GOOD ∧ i = 0 then v % 2 else m.rd f i := by
  unfold Mach.setRails
  generalize List.range 10 = l
  refine (foldl_keep (fun m : Mach => m.rd f i) (fun m n => m.wr .PWR_RAIL_GOOD n v) (fun m n => ?_) l _).trans ?_
  · rw [Mach.rd_wr, if_neg (hf ·.1)]
  · rw [Mach.rd_wr]
    rfl

/-- From `m` to `m'` a module reset of a cause has begun, due at a TIME and held by PERST_N or not: the main domain is empty, and
of the registers those hold their values that Table BOOT-5 keeps. -/
structure Mach.ResetBegun (m m' : Mach) (cause due : Nat) (perst : Bool) : Prop where
  reset : m'.aux.reset = some ⟨m.time, due, perst⟩
  causeField : m'.rd .MOD_RESET_CAUSE_CAUSE 0 = cause % 16
  count : m'.rd .MOD_RESET_CAUSE_COUNT 0 = (m.rd .MOD_RESET_CAUSE_COUNT 0 + 1) % 2 ^ Fld.width .MOD_RESET_CAUSE_COUNT
  mem : m'.mem = []
  cores : m'.cores = []
  ctxs : m'.ctxs = []
  flash : m'.flash = m.flash
  pins : m'.pins = m.pins
  ready : m'.rd .MOD_STATUS_READY 0 = 0
  good : m'.rd .MOD_STATUS_PWR_GOOD 0 = if cause ≤ 2 ∧ m.on .MOD_STATUS_PWR_GOOD 0 = true then 1 else 0
  flags : ∀ n, m'.rd .FLAG n = 0
  time : m'.rd .TICK_TIME 0 = m.rd .TICK_TIME 0
  out : m'.fab.out = if cause ≤ 2 ∧ m.on .MOD_STATUS_PWR_GOOD 0 = true then (m.sendCtlAll 0x30 []).fab.out else m.fab.out

theorem Mach.foldl_eq_fab {β : Type} {f : Mach → β → Mach} (h : ∀ m b, f m b = { m with fab := (f m b).fab }) (l : List β) (m : Mach) :
    l.foldl f m = { m with fab := (l.foldl f m).fab } := by
  induction l generalizing m with
  | nil => rfl
  | cons b l ih => rw [List.foldl_cons, ih, h]

theorem Mach.takeOwed_eq (m : Mach) (k : Nat) : (m.takeOwed k).2 = { m with fab := (m.takeOwed k).2.fab } := by
  unfold Mach.takeOwed
  generalize [1, 2, 3, 4] = cs
  split <;> rfl

theorem Mach.sendRaw_eq (m : Mach) (k : Nat) (f : Frame) : m.sendRaw k f = { m with fab := (m.sendRaw k f).fab } := by
  unfold Mach.sendRaw
  rw [Mach.takeOwed_eq]
  rfl

theorem Mach.sendCtlAll_eq (m : Mach) (ty : Nat) (p : List Byte) : m.sendCtlAll ty p = { m with fab := (m.sendCtlAll ty p).fab } :=
  Mach.foldl_eq_fab (fun m k => m.sendRaw_eq k _) _ m

/-- R534: a reset of cause 1 or 2 leaves the regulators on and the boot stage at 1. -/
def Mach.railsAfter (m : Mach) (stay : Prop) [Decidable stay] : Mach := if stay then (m.setRails 1).wr .MOD_BOOT_STAGE 0 1 else m

theorem Mach.railsAfter_eq (m : Mach) (stay : Prop) [Decidable stay] :
    m.railsAfter stay = { m with regs := (m.railsAfter stay).regs } := by
  unfold Mach.railsAfter
  split
  · have h := m.setRails_eq 1
    generalize m.setRails 1 = m1 at h
    rw [h]
    rfl
  · rfl

theorem Mach.rd_railsAfter (m : Mach) (stay : Prop) [Decidable stay] (f : Fld) (i : Nat) (hr : f ≠ .PWR_RAIL_GOOD)
    (hb : f ≠ .MOD_BOOT_STAGE) : (m.railsAfter stay).rd f i = if stay ∧ f = .MOD_STATUS_PWR_GOOD ∧ i = 0 then 1 else m.rd f i := by
  unfold Mach.railsAfter
  split
  next h =>
    rw [Mach.rd_wr, if_neg (hb ·.1), Mach.rd_setRails _ _ _ _ hr]
    simp only [h, true_and]
  next h => rw [if_neg (h ·.1)]

theorem Mach.startReset_begins (m : Mach) (cause due : Nat) (perst : Bool) : m.ResetBegun (m.startReset cause due perst) cause due perst := by
  unfold Mach.startReset
  dsimp only
  generalize hm1 : (if cause ≤ 2 ∧ m.on .MOD_STATUS_PWR_GOOD 0 = true then m.sendCtlAll 0x30 [] else m) = m1
  have h1 : m1 = { m with fab := m1.fab } := by
    rw [← hm1]
    split
    · exact m.sendCtlAll_eq _ _
    · rfl
  have hout : m1.fab.out = if cause ≤ 2 ∧ m.on .MOD_STATUS_PWR_GOOD 0 = true then (m.sendCtlAll 0x30 []).fab.out else m.fab.out := by
    rw [← hm1]
    split <;> rfl
  have hrd1 : ∀ f i, m1.rd f i = m.rd f i := fun f i => by rw [h1]; rfl
  have htime1 : m1.time = m.time := hrd1 _ _
  have hflash1 : m1.flash = m.flash := by rw [h1]
  have hpins1 : m1.pins = m.pins := by rw [h1]
  obtain ⟨hmem, hcores, hctxs, hflash, hpins, houtc⟩ := m1.clearMain_keeps
  have hrd2 : ∀ f i, f ≠ .TICK_STATE_TIME_HOLD →
      ({ m1.clearMain with aux := { m1.clearMain.aux with reset := some ⟨m1.time, due, perst⟩ } } : Mach).rd f i =
        if f.keptByModule then m.rd f i else f.resetVal i := fun f i hf => by
    rw [← hrd1, ← m1.rd_clearMain f i hf]
    rfl
  generalize hm2 : ({ m1.clearMain with aux := { m1.clearMain.aux with reset := some ⟨m1.time, due, perst⟩ } } : Mach) = m2 at hrd2 ⊢
  change m.ResetBegun (Mach.railsAfter (m2.wrs 0 _) _) cause due perst
  have hrest := Mach.railsAfter_eq (m2.wrs 0 [(.MOD_RESET_CAUSE_CAUSE, cause),
    (.MOD_RESET_CAUSE_COUNT, m2.rd .MOD_RESET_CAUSE_COUNT 0 + 1), (.HIF_STATUS_BAR4_EN, m2.rd .SEC_POLICY_BAR4 0),
    (.SEC_STATUS_CORDWOOD_FAILED, 0)]) (cause ≤ 2 ∧ m.on .MOD_STATUS_PWR_GOOD 0 = true)
  constructor
  case reset => rw [hrest, Mach.wrs_eq, ← hm2, htime1]
  case mem => rw [hrest, Mach.wrs_eq, ← hm2]; exact hmem
  case cores => rw [hrest, Mach.wrs_eq, ← hm2]; exact hcores
  case ctxs => rw [hrest, Mach.wrs_eq, ← hm2]; exact hctxs
  case flash => rw [hrest, Mach.wrs_eq, ← hm2]; exact hflash.trans hflash1
  case pins => rw [hrest, Mach.wrs_eq, ← hm2]; exact hpins.trans hpins1
  case out => rw [hrest, Mach.wrs_eq, ← hm2]; exact houtc.trans hout
  all_goals
    simp only [Mach.rd_railsAfter, Mach.wrs_cons, Mach.wrs_nil, Mach.rd_wr, reduceCtorEq, false_and,
      and_false, if_false, and_self, and_true, if_true, hrd2, ne_eq, not_false_eq_true]
  case flags => exact fun _ => rfl
  all_goals rfl

/-- Of the reset triggers, the first begins a reset (R535). -/
theorem Mach.trigReset_begins {m : Mach} (h : m.aux.reset = none) (cause due : Nat) (perst : Bool) :
    m.ResetBegun (m.trigReset cause due perst) cause due perst := by
  rw [Mach.trigReset, h]
  exact m.startReset_begins cause due perst

/-- R535: a trigger of the same rank that comes in a later ref cycle moves the end of the reset alone. -/
theorem Mach.trigReset_extends {m : Mach} {r : ModReset} (h : m.aux.reset = some r) (hlater : r.start / 10 < m.time / 10) (due : Nat) :
    m.trigReset 2 due false = { m with aux := { m.aux with reset := some { r with due := max r.due due } } } := by
  rw [Mach.trigReset, h]
  dsimp only
  rw [if_neg (show ¬(3 ≤ 2) by decide), if_neg, Bool.or_false]
  rintro ⟨heq, -⟩
  exact absurd heq (Nat.ne_of_lt hlater)

/-! A data-path reset that ends a pending swap: CFG_SWAP_TICK has 64 bits, and holds the whole tick number. -/

/-- A module that is up, in tick 2^48, with a swap pending. -/
def lateTick : State :=
  { State.reset with m := { Mach.reset.wrs 0 [(.MOD_STATUS_PWR_GOOD, 1), (.TICK_NUMBER, 2 ^ 48)] with
                            tick := { TickGen.reset with swap := some ⟨0, 0, none⟩ } } }

/-- Refutes O27: CFG_SWAP_TICK of a swap that a data-path reset ends in tick 2^48 is 2^48, and not its remainder. -/
theorem not_resets : ¬ Obligations.Resets := by
  unfold Obligations.Resets
  intro h
  obtain ⟨-, -, -, hdp⟩ := h lateTick
  obtain ⟨t, ht, -, -, -, -, -, -, -, hswap, -⟩ := hdp (by decide +kernel) rfl
  obtain rfl := Host.Outcome.next.inj ht
  have htick := (hswap rfl).2
  revert htick
  decide +kernel

/-! Resets by pins. -/

/-- A reset trigger leaves the pins. -/
theorem Mach.pins_trigReset (m : Mach) (cause due : Nat) (perst : Bool) : (m.trigReset cause due perst).pins = m.pins := by
  cases h : m.aux.reset with
  | none => exact (Mach.trigReset_begins h cause due perst).pins
  | some r =>
    have hrails : ∀ (m : Mach) v, (m.setRails v).pins = m.pins := fun m v => by rw [Mach.setRails_eq]
    rw [Mach.trigReset, h]
    dsimp only
    generalize hm1 : (if 3 ≤ cause then _ else _ : Mach) = m1
    have h1 : m1.pins = m.pins := by
      rw [← hm1]
      split
      · rw [Mach.wr_pins, hrails]
      · rfl
    split
    · rw [Mach.wr_pins, h1]
    · exact h1

/-- PWR_EN low: what follows its reset writes the boot stage, and clears a failed boot and the trip's pin (R440, R466, R537). -/
theorem powerOff_after {m : Mach} (hgood : m.on .MOD_STATUS_PWR_GOOD 0 = true) (hreset : m.aux.reset = none) :
    ∃ m', m.ResetBegun m' 4 m.time m.pins.perstLow ∧ Power.powerOff m = ((m'.onPins fun p => { p with thermTrip := false }).onAux fun a =>
      { a with failWait := false }).wrs 0 [(.MOD_BOOT_STAGE, 0), (.MOD_BOOT_FAIL_CAUSE, 0)] := by
  refine ⟨_, Mach.trigReset_begins hreset 4 m.time m.pins.perstLow, ?_⟩
  rw [Power.powerOff, hgood, Bool.true_or, if_pos rfl]

theorem Mach.pins_wrs (m : Mach) (i : Nat) (fs : List (Fld × Nat)) : (m.wrs i fs).pins = m.pins := by rw [Mach.wrs_eq]

theorem powerOff_scan (m : Mach) : (Power.powerOff m).pins.scan = m.pins.scan := by
  unfold Power.powerOff
  dsimp only
  rw [Mach.pins_wrs]
  change (if _ then _ else m : Mach).pins.scan = _
  split
  · rw [Mach.pins_trigReset]
  · rfl

/-- R445, R534: where no PERST_N holds it and the regulators are on, a reset ends, and bring-up runs from then. -/
theorem Mach.endReset_ends {m : Mach} {r : ModReset} (hr : m.aux.reset = some r) (hp : r.perst = false)
    (hgood : m.on .MOD_STATUS_PWR_GOOD 0 = true) : m.endReset.aux.reset = none ∧ m.endReset.rd .MOD_BOOT_STAGE 0 = 1 ∧
    m.endReset.rd .MOD_BOOT_FAIL_CAUSE 0 = 0 := by
  rw [Mach.endReset, hr]
  dsimp only
  rw [hp, hgood, if_neg (by decide)]
  generalize m.advanceTo r.due = m1
  unfold Mach.bringUp
  refine ⟨by rw [Mach.aux_wrs], ?_, ?_⟩ <;>
    simp only [Mach.wrs_cons, Mach.wrs_nil, Mach.rd_wr, reduceCtorEq, false_and, if_false, and_self, if_true] <;> rfl

theorem Mach.endReset_pins (m : Mach) : m.endReset.pins = m.pins := by
  unfold Mach.endReset
  split
  · rfl
  · split
    · rfl
    · dsimp only
      rw [Mach.bringUp, Mach.pins_wrs]
      exact (m.lasts_advanceTo _).pins

/-- Settles O58: each pin's trigger begins the reset of `Mach.startReset_begins`; PERST_N's rise ends it. -/
theorem pinResets : Obligations.PinResets := by
  unfold Obligations.PinResets
  intro cxl r s
  have hgoes : ∀ {m m' : Mach} {cause due : Nat} {held : Bool}, m.ResetBegun m' cause due held → cause < 8 → m.time = s.m.time →
      m.flash = s.m.flash → m.on .MOD_STATUS_PWR_GOOD 0 = true →
      m'.aux.reset = some ⟨s.m.time, due, held⟩ ∧ m'.rd .MOD_RESET_CAUSE_CAUSE 0 = cause ∧ m'.mem = [] ∧ m'.cores = [] ∧ m'.ctxs = [] ∧
      m'.rd .MOD_STATUS_READY 0 = 0 ∧ m'.flash = s.m.flash ∧ m'.rd .MOD_STATUS_PWR_GOOD 0 = (if cause ≤ 2 then 1 else 0) := by
    intro m m' cause due held h hcause htime hflash hgood
    refine ⟨htime ▸ h.reset, h.causeField.trans (Nat.mod_eq_of_lt (by omega)), h.mem, h.cores, h.ctxs, h.ready, h.flash.trans hflash, ?_⟩
    rw [h.good, hgood]
    simp only [and_true]
  refine ⟨fun hscan hreset hgood => ⟨fun hhigh hmay => ?_, fun hen => ?_⟩, fun hscan hlow hlim => ?_, fun hscan => ⟨fun hgood hreset hen => ?_, ?_⟩⟩
  · have heq : Power.perstAssert s.m = (s.m.onPins fun p => { p with perstLow := true }).trigReset 1 s.m.time true := by
      rw [Power.perstAssert, hhigh, if_neg Bool.false_ne_true]
      dsimp only
      rw [Mach.on_onPins, hgood, Bool.true_or, Bool.and_true]
      refine if_pos ?_
      rw [Bool.and_eq_true]
      exact ⟨by rw [Mach.pinsLive, Mach.pins_onPins, hscan]; rfl, hmay⟩
    have hbegun := Mach.trigReset_begins (m := s.m.onPins fun p => { p with perstLow := true }) hreset 1 s.m.time true
    refine ⟨does_of_lift (f := Power.perstAssert) rfl ?_, does_of_lift (f := Power.perstAssert) rfl ?_⟩
    · rw [heq]
      exact hgoes hbegun (by decide) rfl rfl hgood
    · rw [heq, Mach.pins_trigReset]
      rfl
  · obtain ⟨m', hbegun, heq⟩ := powerOff_after (m := s.m.onPins fun p => { p with pwrEn := false }) hgood hreset
    have hfall : Power.pwrEnFall s.m = Power.powerOff (s.m.onPins fun p => { p with pwrEn := false }) := by
      rw [Power.pwrEnFall, hen, if_neg (by decide)]
      exact if_pos (by rw [Mach.pinsLive, Mach.pins_onPins, hscan]; rfl)
    obtain ⟨hr, hcause, hmem, hcores, hctxs, hready, hflash, hgood'⟩ := hgoes hbegun (by decide) rfl rfl hgood
    refine ⟨does_of_lift (f := Power.pwrEnFall) rfl ?_, does_of_lift (f := Power.pwrEnFall) rfl ?_⟩
    · rw [hfall, heq]
      simp only [Mach.wrs_cons, Mach.wrs_nil, Mach.rd_wr, reduceCtorEq, false_and, if_false]
      exact ⟨hr, hcause, hmem, hcores, hctxs, hready, hflash, hgood'⟩
    · rw [hfall, heq, Mach.pins_wrs]
      refine ⟨congrArg Pins.pwrEn hbegun.pins, ?_⟩
      simp only [Mach.wrs_cons, Mach.wrs_nil, Mach.rd_wr, reduceCtorEq, false_and, if_false, and_self, if_true]
      rfl
  · refine does_of_lift (f := Power.perstDeassert cxl) rfl ?_
    have heq : Power.perstDeassert cxl s.m = Power.perstHigh cxl (s.m.onPins fun p => { p with perstLow := false }) := by
      rw [Power.perstDeassert, hlow, if_neg (by decide)]
      refine if_pos ?_
      rw [Bool.and_eq_true]
      exact ⟨by rw [Mach.pinsLive, Mach.pins_onPins, hscan]; rfl, hlim⟩
    rw [heq, Power.perstHigh]
    generalize hm1 : Mach.onAux _ _ = m1
    have hpins1 : m1.pins.perstLow = false ∧ m1.pins.cxlSel = cxl := by rw [← hm1]; exact ⟨rfl, rfl⟩
    have hreset1 : m1.aux.reset = s.m.aux.reset.map fun r => { r with perst := false } := by rw [← hm1]; rfl
    have hgood1 : m1.on .MOD_STATUS_PWR_GOOD 0 = s.m.on .MOD_STATUS_PWR_GOOD 0 := by rw [← hm1]; rfl
    have hpins := m1.endReset_pins
    refine ⟨(congrArg Pins.perstLow hpins).trans hpins1.1, (congrArg Pins.cxlSel hpins).trans hpins1.2, fun hr hgood => ?_⟩
    rw [hr] at hreset1
    obtain ⟨hnone, hstage, -⟩ := Mach.endReset_ends hreset1 rfl (hgood1.trans hgood)
    exact ⟨hnone, hstage⟩
  · have heq : Power.leaveScan s.m = (s.m.onPins fun p => { p with scan := 0 }).trigReset 2 (s.m.time + 100000) s.m.pins.perstLow := by
      rw [Power.leaveScan, if_neg hscan]
      dsimp only
      rw [Mach.on_onPins, hgood, Bool.true_or]
      exact if_pos hen
    refine does_of_lift (f := Power.leaveScan) rfl ?_
    rw [heq]
    exact hgoes (Mach.trigReset_begins (m := s.m.onPins fun p => { p with scan := 0 }) hreset 2 _ _) (by decide) rfl rfl hgood
  · refine does_of_lift (f := Power.leaveScan) rfl ?_
    rw [Power.leaveScan, if_neg hscan]
    dsimp only
    split
    · rw [Mach.pins_trigReset]; rfl
    · split
      · exact powerOff_scan _
      · rfl

end Sys2Proof.Machine

/-! Power-up and bring-up (R428, R429, R439-R444, R451, R533). -/
namespace Sys2Proof.Machine

/-- R443, R429: a bring-up that fails is shown with its cause. -/
theorem Mach.rd_bootFail (m : Mach) (c : Nat) : (m.bootFail c).rd .MOD_BOOT_STAGE 0 = 15 ∧ (m.bootFail c).rd .MOD_BOOT_FAIL_CAUSE 0 = c % 16 := by
  unfold Mach.bootFail
  rw [Mach.rdAside_raise rfl, Mach.rdAside_raise rfl]
  simp only [Mach.wrs_cons, Mach.wrs_nil, Mach.rd_wr, reduceCtorEq, false_and, if_false, and_self, if_true]
  exact ⟨rfl, rfl⟩

/-! Kindling's boot. -/

/-- What image selection depends on (R429): Cordwood's copies and the fused counter. -/
theorem selectImage_congr {m m' : Mach} (ha : m'.flash.cordA = m.flash.cordA) (hb : m'.flash.cordB = m.flash.cordB)
    (hf : m'.rd .SEC_SVN_CORDWOOD_FUSED 0 = m.rd .SEC_SVN_CORDWOOD_FUSED 0) : Power.selectImage m' = Power.selectImage m := by
  unfold Power.selectImage Mach.imgPasses Mach.cordImg
  rw [ha, hb, hf]

/-- From `m` to `m'` Kindling has taken something from flash: Cordwood's copies, the fused counter, the AUX records and the pins stand. -/
structure Mach.TakesFlash (m m' : Mach) : Prop where
  cordA : m'.flash.cordA = m.flash.cordA
  cordB : m'.flash.cordB = m.flash.cordB
  fused : m'.rd .SEC_SVN_CORDWOOD_FUSED 0 = m.rd .SEC_SVN_CORDWOOD_FUSED 0
  aux : m'.aux = m.aux
  pins : m'.pins = m.pins

namespace Mach.TakesFlash

variable {m m' m'' : Mach}

theorem trans (h : Mach.TakesFlash m m') (h' : Mach.TakesFlash m' m'') : Mach.TakesFlash m m'' :=
  ⟨h'.cordA.trans h.cordA, h'.cordB.trans h.cordB, h'.fused.trans h.fused, h'.aux.trans h.aux, h'.pins.trans h.pins⟩

theorem selectImage (h : Mach.TakesFlash m m') : Power.selectImage m' = Power.selectImage m := selectImage_congr h.cordA h.cordB h.fused

theorem bootPatch (m : Mach) : Mach.TakesFlash m (Power.bootPatch m) := by
  unfold Power.bootPatch
  dsimp only
  split
  · refine ⟨rfl, rfl, ?_, rfl, rfl⟩
    simp only [Mach.wrs_cons, Mach.wrs_nil, Mach.rd_wr, reduceCtorEq, false_and, if_false]
    rfl
  · refine ⟨rfl, rfl, ?_, rfl, rfl⟩
    rw [Mach.rd_wr, if_neg (by rintro ⟨⟨⟩, -⟩)]
    rfl

theorem applyPolicy (m : Mach) (p : List Nat) : Mach.TakesFlash m (m.applyPolicy p) := by
  refine ⟨rfl, rfl, ?_, rfl, rfl⟩
  unfold Mach.applyPolicy Mach.repmode
  simp only [Mach.wrs_cons, Mach.wrs_nil, Mach.rd_wr, reduceCtorEq, false_and, if_false]

theorem setKey (m : Mach) (n u : Nat) (k : List Byte) : Mach.TakesFlash m (m.setKey n u k) := by
  refine ⟨rfl, rfl, ?_, rfl, rfl⟩
  unfold Mach.setKey
  simp only [Mach.wrs_cons, Mach.wrs_nil, Mach.rd_wr, reduceCtorEq, false_and, if_false]

theorem foldl {α : Type} {f : Mach → α → Mach} (h : ∀ (m : Mach) a, Mach.TakesFlash m (f m a)) (l : List α) (m : Mach) :
    Mach.TakesFlash m (l.foldl f m) := by
  induction l generalizing m with
  | nil => exact ⟨rfl, rfl, rfl, rfl, rfl⟩
  | cons a l ih => exact (h m a).trans (ih _)

end Mach.TakesFlash

/-- R439, R531: what Kindling's boot leaves. -/
theorem kindlingDone_boots {m : Mach} (hlim : m.aux.inLimits = true) (hdown : m.on .SEC_STATUS_KINDLING_UP 0 = false) :
    (Power.kindlingDone m).rd .SEC_STATUS_KINDLING_UP 0 = 1 ∧ (Power.kindlingDone m).aux.selected = Power.selectImage m ∧
    (Power.kindlingDone m).aux.inLimits = true ∧ (Power.kindlingDone m).pins = { m.pins with clkreq := true } ∧
    (Power.selectImage m = none → (Power.kindlingDone m).rd .MOD_BOOT_STAGE 0 = 15 ∧ (Power.kindlingDone m).rd .MOD_BOOT_FAIL_CAUSE 0 = 5) := by
  unfold Power.kindlingDone
  rw [hlim, hdown, if_neg (by decide)]
  dsimp only
  have h1 := Mach.TakesFlash.bootPatch m
  generalize Power.bootPatch m = m1 at h1 ⊢
  generalize hm2 : m1.flash.policy.elim m1 m1.applyPolicy = m2
  have h2 : Mach.TakesFlash m m2 := by
    refine h1.trans ?_
    rw [← hm2]
    cases m1.flash.policy with
    | none => exact ⟨rfl, rfl, rfl, rfl, rfl⟩
    | some p => exact .applyPolicy m1 p
  generalize hm3 : m2.flash.keys.foldl _ m2 = m3
  have h3 : Mach.TakesFlash m m3 := h2.trans (hm3 ▸ .foldl (fun m nk => .setKey m _ _ _) _ _)
  generalize hm4 : (((m3.onAux fun a => { a with selected := Power.selectImage m3 }).wr .SEC_STATUS_KINDLING_UP 0 1).onPins
    fun p => { p with clkreq := true }) = m4
  have hup : m4.rd .SEC_STATUS_KINDLING_UP 0 = 1 := by rw [← hm4, Mach.rd_onPins, Mach.rd_wr, if_pos ⟨rfl, rfl⟩]; rfl
  have haux : m4.aux = { m.aux with selected := Power.selectImage m } := by
    rw [← hm4, Mach.aux_onPins, Mach.wr_aux, Mach.aux_onAux, h3.aux, h3.selectImage]
  have hpins : m4.pins = { m.pins with clkreq := true } := by
    rw [← hm4, Mach.pins_onPins, Mach.wr_pins, Mach.pins_onAux, h3.pins]
  have hselect : Power.selectImage m4 = Power.selectImage m := by
    rw [← h3.selectImage, ← hm4]
    refine selectImage_congr rfl rfl ?_
    rw [Mach.rd_onPins, Mach.rd_wr, if_neg (by rintro ⟨⟨⟩, -⟩), Mach.rd_onAux]
  rw [hselect]
  split
  next hnone =>
    refine ⟨?_, by rw [Mach.aux_wrs, haux], by rw [Mach.aux_wrs, haux]; exact hlim, by rw [Mach.pins_wrs, hpins], fun _ => ?_⟩
    · simp only [Mach.wrs_cons, Mach.wrs_nil, Mach.rd_wr, reduceCtorEq, false_and, if_false, hup]
    · simp only [Mach.wrs_cons, Mach.wrs_nil, Mach.rd_wr, reduceCtorEq, false_and, if_false, and_self, if_true]
      exact ⟨rfl, rfl⟩
  next hsome =>
    refine ⟨hup, by rw [haux], by rw [haux]; exact hlim, hpins, fun hnone => absurd ?_ hsome⟩
    rw [hnone]
    rfl

/-! AUX power. -/

/-- R451, R446: the loss of AUX power leaves what was fused at manufacture and what has no power. -/
theorem auxOut_resets {s : State} (h : s.m.aux.inLimits = true) (f : Fld) (i : Nat) :
    (Power.auxOut s).m.rd f i = if f.manufactured i then s.m.rd f i else f.resetVal i := by
  unfold Power.auxOut
  rw [h, if_neg (by decide)]
  exact Mach.rd_filter Fld.manufactured s.m _ rfl f i

/-- The fused values as the registers show them (R91, R435). -/
theorem showFuses_shows (f : Fuses) (m : Mach) : (Power.showFuses f m).aux = m.aux ∧ (Power.showFuses f m).pins = m.pins ∧
    (Power.showFuses f m).rd .PWR_VIN_AUX_MV 0 = m.rd .PWR_VIN_AUX_MV 0 ∧
    (Power.showFuses f m).rd .SEC_SVN_KINDLING_FUSED 0 = f.kindling % 256 ∧ (Power.showFuses f m).rd .SEC_SVN_CORDWOOD_FUSED 0 = f.cordwood % 256 := by
  have hslot : ∀ (m : Mach) (kv : Nat × Nat) g, g = .PWR_VIN_AUX_MV ∨ g = .SEC_SVN_KINDLING_FUSED ∨ g = .SEC_SVN_CORDWOOD_FUSED →
      (m.showSlot (kv.1 / 2) (kv.1 % 2) kv.2).rd g 0 = m.rd g 0 := by
    intro m kv g hg
    unfold Mach.showSlot
    dsimp only
    rcases hg with rfl | rfl | rfl <;> split <;>
      simp only [Mach.wrs_cons, Mach.wrs_nil, Mach.rd_wr, reduceCtorEq, false_and, if_false]
  have hrest : ∀ (m : Mach) (kv : Nat × Nat), (m.showSlot (kv.1 / 2) (kv.1 % 2) kv.2).aux = m.aux ∧
      (m.showSlot (kv.1 / 2) (kv.1 % 2) kv.2).pins = m.pins := by
    intro m kv
    unfold Mach.showSlot
    dsimp only
    split <;> exact ⟨rfl, rfl⟩
  unfold Power.showFuses
  refine ⟨(foldl_keep Mach.aux _ (fun m kv => (hrest m kv).1) _ _).trans rfl, (foldl_keep Mach.pins _ (fun m kv => (hrest m kv).2) _ _).trans rfl,
    (foldl_keep (fun m : Mach => m.rd .PWR_VIN_AUX_MV 0) _ (fun m kv => hslot m kv _ (by simp)) _ _).trans ?_,
    (foldl_keep (fun m : Mach => m.rd .SEC_SVN_KINDLING_FUSED 0) _ (fun m kv => hslot m kv _ (by simp)) _ _).trans ?_,
    (foldl_keep (fun m : Mach => m.rd .SEC_SVN_CORDWOOD_FUSED 0) _ (fun m kv => hslot m kv _ (by simp)) _ _).trans ?_⟩ <;>
    simp only [Mach.wrs_cons, Mach.wrs_nil, Mach.rd_wr, reduceCtorEq, false_and, if_false, and_self, if_true] <;> rfl

/-! The stages of bring-up. -/

theorem Mach.imgPasses_of_lasts {m m' : Mach} (h : m.Lasts m') (i : Nat) : m'.imgPasses i = m.imgPasses i := by
  rw [Mach.imgPasses, Mach.imgPasses, Mach.cordImg, Mach.cordImg, h.flash, h.rd _ _ rfl rfl]

/-- Whether Kindling finds an image to load does not change while time passes. -/
theorem Mach.loadCordwood_of_lasts {m m' : Mach} (h : m.Lasts m') (a b : Bool) :
    (m'.loadCordwood a b).isSome = (m.loadCordwood a b).isSome := by
  have hsel : m'.aux.selected = m.aux.selected :=
    (congrArg (fun m : Mach => m.aux.selected) h.lasting : m'.lasting.aux.selected = m.lasting.aux.selected)
  unfold Mach.loadCordwood
  rw [hsel]
  cases m.aux.selected with
  | none => rfl
  | some i =>
    have hfound : ∀ (x y : Bool) (p q p' q' : Mach),
        (if x then some p else if y then some q else none).isSome = (if x then some p' else if y then some q' else none).isSome := by
      intro x y p q p' q'
      cases x
      · cases y <;> rfl
      · rfl
    simp only [Mach.imgPasses_of_lasts h]
    exact hfound _ _ _ _ _ _

/-- R441: a stage ends at its time, or at its maximum, with what it found. -/
theorem stageEnd_eq {m : Mach} (h : m.inStage = true) (us : BitVec 22) (o : BootOut) :
    ∃ m', m.Lasts m' ∧ Power.stageEnd us o m = m'.stageDone o := by
  rw [Power.stageEnd, h, if_neg (by decide)]
  exact ⟨_, m.lasts_advanceTo _, rfl⟩

theorem Mach.rd_tuneUp (m : Mach) (o : BootOut) : (m.tuneUp o).rd .MOD_BOOT_STAGE 0 = m.rd .MOD_BOOT_STAGE 0 := by
  have hlink : ∀ (m : Mach) k, (m.setLink k 1 0).rd .MOD_BOOT_STAGE 0 = m.rd .MOD_BOOT_STAGE 0 := by
    intro m k
    unfold Mach.setLink
    dsimp only
    split
    · rw [Mach.rdAside_trace rfl, Mach.rd_wr, if_neg (by rintro ⟨⟨⟩, -⟩), Mach.rd_wr, if_neg (by rintro ⟨⟨⟩, -⟩)]
    · rw [Mach.rd_wr, if_neg (by rintro ⟨⟨⟩, -⟩), Mach.rd_wr, if_neg (by rintro ⟨⟨⟩, -⟩)]
  unfold Mach.tuneUp
  dsimp only
  generalize hm1 : m.wrs 0 _ = m1
  have h1 : m1.rd .MOD_BOOT_STAGE 0 = m.rd .MOD_BOOT_STAGE 0 := by
    rw [← hm1]; simp only [Mach.wrs_cons, Mach.wrs_nil, Mach.rd_wr, reduceCtorEq, false_and, if_false]
  split
  · rw [Mach.rdAside_raise rfl, Mach.rd_wr, if_neg (by rintro ⟨⟨⟩, -⟩), h1]
  · exact (foldl_keep (fun m : Mach => m.rd .MOD_BOOT_STAGE 0) _ (fun m k => hlink m k) _ _).trans h1

theorem Mach.rd_stacksUp (m : Mach) (bad : Nat) : (m.stacksUp bad).rd .MOD_BOOT_STAGE 0 = m.rd .MOD_BOOT_STAGE 0 := by
  refine foldl_keep (fun m : Mach => m.rd .MOD_BOOT_STAGE 0) _ (fun m n => ?_) _ _
  simp only [Mach.wrs_cons, Mach.wrs_nil, Mach.rd_wr, reduceCtorEq, false_and, if_false]

theorem Mach.rd_putCordwood (m : Mach) (i : Nat) (b : Bool) : (m.putCordwood i b).rd .MOD_BOOT_STAGE 0 = m.rd .MOD_BOOT_STAGE 0 := by
  unfold Mach.putCordwood
  split
  · rfl
  · simp only [Mach.wrs_cons, Mach.wrs_nil, Mach.rd_wr, reduceCtorEq, false_and, if_false, Mach.rd_onAux]

theorem Mach.rd_loadCordwood {m m' : Mach} {a b : Bool} (h : m.loadCordwood a b = some m') :
    m'.rd .MOD_BOOT_STAGE 0 = m.rd .MOD_BOOT_STAGE 0 := by
  unfold Mach.loadCordwood at h
  split at h
  · exact nomatch h
  · obtain ⟨-, h⟩ | ⟨-, h⟩ := ite_cases h
    · obtain rfl := Option.some.inj h
      exact m.rd_putCordwood _ _
    · obtain ⟨-, h⟩ | ⟨-, h⟩ := ite_cases h
      · obtain rfl := Option.some.inj h
        exact m.rd_putCordwood _ _
      · exact nomatch h

@[simp] theorem Mach.rd_kick (m : Mach) (f : Fld) (i : Nat) : m.kick.rd f i = m.rd f i := rfl

/-- R441: after a stage that succeeds comes the next. -/
def Mach.nextStage (m : Mach) : Mach := m.wr .MOD_BOOT_STAGE 0 (m.rd .MOD_BOOT_STAGE 0 + 1)

theorem Mach.rd_nextStage {m : Mach} {n : Nat} (h : m.rd .MOD_BOOT_STAGE 0 = n) (hn : n < 15) :
    m.nextStage.rd .MOD_BOOT_STAGE 0 = n + 1 := by
  rw [Mach.nextStage, Mach.rd_wr, if_pos ⟨rfl, rfl⟩, h]
  exact Nat.mod_eq_of_lt (by change n + 1 < 2 ^ 4; omega)

/-- R444: READY. -/
theorem Mach.rd_becomeReady (m : Mach) : m.becomeReady.rd .MOD_STATUS_READY 0 = 1 ∧ m.becomeReady.rd .MOD_BOOT_STAGE 0 = 9 := by
  unfold Mach.becomeReady Mach.reAvail Mach.repmode
  dsimp only
  split
  · rw [Mach.rdAside_event rfl _ _ rfl, Mach.rdAside_event rfl _ _ rfl]
    simp only [Mach.wrs_cons, Mach.wrs_nil, Mach.rd_wr, reduceCtorEq, false_and, if_false, and_self, if_true]
    exact ⟨rfl, rfl⟩
  · simp only [Mach.wrs_cons, Mach.wrs_nil, Mach.rd_wr, reduceCtorEq, false_and, if_false, and_self, if_true]
    exact ⟨rfl, rfl⟩

/-- R440, R441, R534: the regulators are on, and bring-up is at stage 1, where a PERST_N that is low holds it. -/
theorem pwrGood_up {m : Mach} (hmay : m.mayPower = true) :
    (Power.pwrGood m).rd .MOD_STATUS_PWR_GOOD 0 = 1 ∧ (∀ n, n < 10 → (Power.pwrGood m).rd .PWR_RAIL_GOOD n = 1) ∧
    (Power.pwrGood m).rd .MOD_BOOT_STAGE 0 = 1 ∧ (Power.pwrGood m).aux.base = m.time ∧
    (Power.pwrGood m).aux.reset = if m.pins.perstLow then some ⟨m.time, m.time, true⟩ else none := by
  have hrest := m.setRails_eq 1
  have hrd0 := m.rd_setRails 1
  have hrail0 : ∀ n, n < 10 → (m.setRails 1).rd .PWR_RAIL_GOOD n = 1 := fun n hn => by
    rw [Mach.setRails, Mach.rd_foldl_wr, if_pos ⟨rfl, List.mem_range.mpr hn⟩]
    rfl
  rw [Power.pwrGood, hmay, if_neg (by decide)]
  generalize m.setRails 1 = m0 at *
  have htime0 : m0.time = m.time := (hrd0 .TICK_TIME 0 (by decide)).trans (if_neg (by rintro ⟨⟨⟩, -⟩))
  have haux0 : m0.aux = m.aux := by rw [hrest]
  have hpins0 : m0.pins = m.pins := by rw [hrest]
  have hrd {f : Fld} {i v : Nat} : f ≠ .HIF_STATUS_BAR4_EN → f ≠ .MOD_BOOT_STAGE → f ≠ .MOD_BOOT_FAIL_CAUSE → f ≠ .MOD_BOOT_READY_MS →
      ((m0.onAux fun a => { a with reset := none }).bringUp.wr .HIF_STATUS_BAR4_EN 0 v).rd f i = m0.rd f i := by
    intro h1 h2 h3 h4
    simp only [Mach.bringUp, Mach.wrs_cons, Mach.wrs_nil, Mach.rd_wr, h1, h2, h3, h4, false_and, if_false]
    rfl
  have hstage : ∀ v, ((m0.onAux fun a => { a with reset := none }).bringUp.wr .HIF_STATUS_BAR4_EN 0 v).rd .MOD_BOOT_STAGE 0 = 1 := by
    intro v
    simp only [Mach.bringUp, Mach.wrs_cons, Mach.wrs_nil, Mach.rd_wr, reduceCtorEq, false_and, if_false, and_self, if_true]
    rfl
  have haux : ∀ v, ((m0.onAux fun a => { a with reset := none }).bringUp.wr .HIF_STATUS_BAR4_EN 0 v).aux
      = { m.aux with reset := none, base := m.time } := by
    intro v
    rw [Mach.wr_aux, Mach.bringUp, Mach.aux_wrs, Mach.aux_onAux, haux0, ← htime0]
    rfl
  have hpins : ∀ v, ((m0.onAux fun a => { a with reset := none }).bringUp.wr .HIF_STATUS_BAR4_EN 0 v).pins = m.pins := by
    intro v
    rw [Mach.wr_pins, Mach.bringUp, Mach.pins_wrs, ← hpins0]
    rfl
  have hgood0 : m0.rd .MOD_STATUS_PWR_GOOD 0 = 1 := (hrd0 _ 0 (by decide)).trans (if_pos ⟨rfl, rfl⟩)
  dsimp only
  generalize hm1 : Mach.wr (Mach.bringUp _) .HIF_STATUS_BAR4_EN 0 _ = m1
  have hgood1 : m1.rd .MOD_STATUS_PWR_GOOD 0 = 1 := by rw [← hm1, hrd (by decide) (by decide) (by decide) (by decide), hgood0]
  have hrail1 : ∀ n, n < 10 → m1.rd .PWR_RAIL_GOOD n = 1 := fun n hn => by
    rw [← hm1, hrd (by decide) (by decide) (by decide) (by decide), hrail0 n hn]
  have htime1 : m1.time = m.time := by rw [← hm1, ← htime0]; exact hrd (by decide) (by decide) (by decide) (by decide)
  have hstage1 : m1.rd .MOD_BOOT_STAGE 0 = 1 := by rw [← hm1]; exact hstage _
  have haux1 : m1.aux = { m.aux with reset := none, base := m.time } := by rw [← hm1]; exact haux _
  have hpins1 : m1.pins = m.pins := by rw [← hm1]; exact hpins _
  rw [hpins1]
  split
  · exact ⟨hgood1, hrail1, hstage1, by rw [Mach.aux_onAux, haux1], by rw [Mach.aux_onAux, htime1]⟩
  · exact ⟨hgood1, hrail1, hstage1, by rw [haux1], by rw [haux1]⟩

/-- Settles O57: AUX power, Kindling's boot, the regulators, and the work of each stage. -/
theorem powerUp : Obligations.PowerUp := by
  unfold Obligations.PowerUp
  intro addr mv us o s
  have hgoes {P : Mach → Prop} (hin : s.m.inStage = true) (h : ∀ m, s.m.Lasts m → P (m.stageDone o)) : Does (.bringupStageEnd us o) s P := by
    obtain ⟨m', hlasts, heq⟩ := stageEnd_eq hin us o
    refine does_of_lift (f := Power.stageEnd us o) rfl ?_
    rw [heq]
    exact h m' hlasts
  have hstage {m : Mach} (h : s.m.Lasts m) : m.rd .MOD_BOOT_STAGE 0 = s.m.rd .MOD_BOOT_STAGE 0 := h.rd _ _ rfl rfl
  refine ⟨fun hlim => ?_, fun hlim hlow hhigh => ?_, fun hlim hdown => ?_, ?_, fun hmay => ?_, fun hin => ⟨?_, ?_, ?_, ?_, ?_, ?_, ?_⟩, fun hin hmay => ?_⟩
  · refine ⟨Power.auxOut s, rfl, (auxOut_eq s).1, (auxOut_eq s).2, ?_, auxOut_resets hlim, ?_⟩
    all_goals
      unfold Power.auxOut
      rw [hlim, if_neg (by decide)]
    · rfl
    · exact ⟨rfl, rfl, rfl, rfl⟩
  · have heq : Power.auxIn addr mv s = s.lift fun m => Power.showFuses s.fuses (((m.onAux fun a => { a with inLimits := true }).onPins fun p =>
        { p with sampledAddr := addr.toNat }).wr .PWR_VIN_AUX_MV 0 mv.toNat) := by
      rw [Power.auxIn, hlim, if_neg]
      rw [Bool.false_or, decide_eq_true_eq]
      omega
    refine ⟨_, congrArg Host.Outcome.next heq, rfl, rfl, ?_⟩
    obtain ⟨haux, hpins, hmv, hk, hc⟩ := showFuses_shows s.fuses (((s.m.onAux fun a => { a with inLimits := true }).onPins fun p =>
        { p with sampledAddr := addr.toNat }).wr .PWR_VIN_AUX_MV 0 mv.toNat)
    refine ⟨congrArg Aux.inLimits haux, congrArg Pins.sampledAddr hpins, hmv.trans ?_, hk, hc⟩
    rw [Mach.rd_wr, if_pos ⟨rfl, rfl⟩]
    exact Nat.mod_eq_of_lt mv.isLt
  · obtain ⟨hup, hsel, hlim', hpins, hnone⟩ := kindlingDone_boots hlim hdown
    refine does_of_lift (f := Power.kindlingDone) rfl ⟨hup, hsel, fun hscan => ?_, hnone⟩
    rw [Mach.pinOut, hlim', hpins]
    dsimp only
    rw [hscan]
    rfl
  · refine does_of_lift (f := Power.pwrEnRise) rfl ?_
    unfold Power.pwrEnRise
    dsimp only
    split
    next hlive => exact ⟨rfl, fun _ => rfl, fun _ _ => rfl⟩
    next hdead => exact ⟨rfl, fun hscan => absurd (by rw [Mach.pinsLive, Mach.pins_onPins, hscan]; rfl) hdead, fun _ _ => rfl⟩
  · refine does_of_lift (f := Power.pwrGood) rfl ?_
    exact pwrGood_up hmay
  · intro hst
    refine hgoes hin fun m hl => ?_
    rcases hst with hst | hst | hst
    all_goals rw [hst, Mach.stageDone, hstage hl, hst]
    · exact Mach.rd_nextStage ((hstage hl).trans hst) (by decide)
    · exact Mach.rd_nextStage ((m.rd_tuneUp o).trans ((hstage hl).trans hst)) (by decide)
    · exact Mach.rd_nextStage ((hstage hl).trans hst) (by decide)
  · intro hst
    refine ⟨fun hp => hgoes hin fun m hl => ?_, fun hp => hgoes hin fun m hl => ?_⟩ <;> rw [Mach.stageDone, hstage hl, hst] <;> dsimp only
    · rw [if_pos hp]
      refine Mach.rd_nextStage ?_ (by decide)
      rw [Mach.rd_wr, if_neg (by rintro ⟨⟨⟩, -⟩), hstage hl, hst]
    · have hno (m1 m2 : Mach) : (if o.pll = true then m1 else m2) = m2 := if_neg (by rw [hp]; exact Bool.false_ne_true)
      rw [hno]
      exact m.rd_bootFail 2
  · intro hst
    refine ⟨fun hp => hgoes hin fun m hl => ?_, fun hp => hgoes hin fun m hl => ?_⟩ <;> rw [Mach.stageDone, hstage hl, hst] <;> dsimp only
    · rw [if_pos hp]
      exact Mach.rd_nextStage ((m.rd_stacksUp 0).trans ((hstage hl).trans hst)) (by decide)
    · rw [if_neg hp]
      exact Mach.rd_bootFail _ 3
  · intro hst
    refine ⟨fun hp => hgoes hin fun m hl => ?_, fun hp => hgoes hin fun m hl => ?_⟩ <;> rw [Mach.stageDone, hstage hl, hst] <;> dsimp only
    · rw [if_pos hp]
      exact ⟨Mach.rd_nextStage ((hstage hl).trans hst) (by decide), rfl⟩
    · have hno (m1 m2 : Mach) : (if o.hubOk = true then m1 else m2) = m2 := if_neg (by rw [hp]; exact Bool.false_ne_true)
      rw [hno]
      exact m.rd_bootFail 4
  · intro hst
    refine ⟨fun hp => hgoes hin fun m hl => ?_, fun hp => hgoes hin fun m hl => ?_⟩ <;> rw [Mach.stageDone, hstage hl, hst] <;> dsimp only
    · rw [← Mach.loadCordwood_of_lasts hl] at hp
      obtain ⟨m', hload⟩ := Option.isSome_iff_exists.mp hp
      rw [hload]
      refine ⟨?_, ?_, rfl⟩
      · refine Mach.rd_nextStage ?_ (by decide)
        rw [Mach.rd_kick, Mach.rd_wr, if_neg (by rintro ⟨⟨⟩, -⟩), Mach.rd_loadCordwood hload, hstage hl, hst]
      · change (Mach.nextStage (Mach.kick (m'.wr .MOD_STATUS_CORDWOOD_UP 0 1))).rd .MOD_STATUS_CORDWOOD_UP 0 = 1
        rw [Mach.nextStage, Mach.rd_wr, if_neg (by rintro ⟨⟨⟩, -⟩), Mach.rd_kick, Mach.rd_wr, if_pos ⟨rfl, rfl⟩]
        rfl
    · have hnone : m.loadCordwood o.loadA o.loadB = none := by
        rw [← Option.not_isSome_iff_eq_none, Mach.loadCordwood_of_lasts hl, hp]
        exact Bool.false_ne_true
      rw [hnone]
      exact m.rd_bootFail 5
  · intro hst
    refine hgoes hin fun m hl => ?_
    rw [Mach.stageDone, hstage hl, hst]
    exact m.rd_becomeReady
  · refine does_of_lift (f := Power.stageTimeout) rfl ?_
    rw [Power.stageTimeout, if_pos hin]
    exact Mach.rd_bootFail _ 6
  · refine does_of_lift (f := Power.stageTimeout) rfl ?_
    rw [Power.stageTimeout, if_neg (by rw [hin]; exact Bool.false_ne_true), if_pos hmay]
    exact Mach.rd_bootFail _ 1

end Sys2Proof.Machine

/-! Supplies, clocks and temperatures (R452-R466). -/
namespace Sys2Proof.Machine

/-- A reset that switches the main domain off, with its entry in the fault log (R455, R458, R466). -/
theorem Mach.powerLost_facts {m : Mach} (h : m.aux.reset = none) {cause : Nat} (h3 : 3 ≤ cause) (h8 : cause < 8) (code arg0 : Nat) :
    (m.powerLost cause code arg0).aux.reset = some ⟨m.time, m.time, m.pins.perstLow⟩ ∧
    (m.powerLost cause code arg0).rd .MOD_RESET_CAUSE_CAUSE 0 = cause ∧ (m.powerLost cause code arg0).rd .MOD_STATUS_PWR_GOOD 0 = 0 ∧
    (m.powerLost cause code arg0).rd .MOD_STATUS_READY 0 = 0 ∧ (m.powerLost cause code arg0).mem = [] ∧
    (m.powerLost cause code arg0).flash = m.flash ∧ (m.powerLost cause code arg0).aux.powerTaken = true := by
  have hb := Mach.trigReset_begins h cause m.time m.pins.perstLow
  unfold Mach.powerLost Mach.logFatal
  generalize m.trigReset cause m.time m.pins.perstLow = m1 at hb
  generalize hm2 : m1.logFault _ = m2
  have hstill : m2.still = m1.still := by rw [← hm2]; exact Mach.still_logFault _ _
  have hrd : ∀ f, f.aside = false → m2.rd f 0 = m1.rd f 0 := fun f hf => by rw [← hm2]; exact Mach.rdAside_logFault hf 0 _ _
  refine ⟨?_, ?_, ?_, ?_, ?_, ?_, rfl⟩
  · rw [Mach.aux_onAux, Mach.aux_of_still hstill]; exact hb.reset
  · rw [Mach.rd_onAux, hrd _ rfl, hb.causeField]; exact Nat.mod_eq_of_lt (by omega)
  · rw [Mach.rd_onAux, hrd _ rfl, hb.good, if_neg (by omega)]
  · rw [Mach.rd_onAux, hrd _ rfl, hb.ready]
  · exact (congrArg Still.mem hstill).trans hb.mem
  · exact (Mach.flash_of_still hstill).trans hb.flash

/-! Sensor readings (R465). -/

theorem Mach.rd_setTemp (m : Mach) (n i : Nat) (t : BitVec 16) (f : Fld) (hf : f ≠ .PWR_TEMP_MAX) :
    (m.setTemp n t).rd f i = if f = .PWR_TEMP_TEMP ∧ i = n then t.toNat else m.rd f i := by
  unfold Mach.setTemp
  simp only [Mach.wrs_cons, Mach.wrs_nil, Mach.rd_wr, hf, false_and, if_false]
  have hfit : t.toNat % 2 ^ Fld.width .PWR_TEMP_TEMP = t.toNat := Nat.mod_eq_of_lt t.isLt
  rw [hfit]

/-- Each sensor holds the reading that is listed for it. -/
theorem Mach.rd_foldl_setTemp {ts : List (Nat × BitVec 16)} (hnodup : (ts.map Prod.fst).Nodup) (m : Mach) {i : Nat} {t : BitVec 16}
    (hmem : (i, t) ∈ ts) : (ts.foldl (fun m (nt : Nat × BitVec 16) => m.setTemp nt.1 nt.2) m).rd .PWR_TEMP_TEMP i = t.toNat := by
  induction ts generalizing m with
  | nil => exact absurd hmem List.not_mem_nil
  | cons x ts ih =>
    rw [List.map_cons, List.nodup_cons] at hnodup
    rw [List.foldl_cons]
    obtain heq | hrest := List.mem_cons.mp hmem
    · subst heq
      have hkeep : ∀ (ts : List (Nat × BitVec 16)) (m : Mach), i ∉ ts.map Prod.fst →
          (ts.foldl (fun m (nt : Nat × BitVec 16) => m.setTemp nt.1 nt.2) m).rd .PWR_TEMP_TEMP i = m.rd .PWR_TEMP_TEMP i := by
        intro ts
        induction ts with
        | nil => exact fun _ _ => rfl
        | cons y ts ih =>
          intro m hno
          rw [List.map_cons, List.mem_cons, not_or] at hno
          rw [List.foldl_cons, ih _ hno.2, Mach.rd_setTemp _ _ _ _ _ (by decide), if_neg (hno.1 ·.2)]
      rw [hkeep ts _ hnodup.1, Mach.rd_setTemp _ _ _ _ _ (by decide), if_pos ⟨rfl, rfl⟩]
    · exact ih hnodup.2 _ hrest

/-- The readings of `n` sensors in their order. -/
theorem mem_zip_range {α : Type} {n i : Nat} {l : List α} {t : α} (hl : l.length = n) (d : α) :
    (i, t) ∈ (List.range n).zip l ↔ i < n ∧ l.getD i d = t := by
  rw [List.mem_iff_getElem]
  constructor
  · rintro ⟨k, hk, heq⟩
    rw [List.length_zip, List.length_range, hl, Nat.min_self] at hk
    rw [List.getElem_zip, List.getElem_range, Prod.mk.injEq] at heq
    obtain ⟨rfl, rfl⟩ := heq
    exact ⟨hk, getD_of_lt (by omega)⟩
  · rintro ⟨hi, rfl⟩
    refine ⟨i, by rw [List.length_zip, List.length_range, hl, Nat.min_self]; exact hi, ?_⟩
    rw [List.getElem_zip, List.getElem_range, getD_of_lt (by omega)]

/-- R452, R453: WARN begins a dip, at PMODE 2. -/
theorem warnTrip_begins {m : Mach} (hmon : Power.monitor m = true) {mv : BitVec 16} (hv : mv.toNat < 41000) (hw : m.on .PWR_STATUS_WARN 0 = false)
    (hd : m.on .MOD_STATUS_DIP_ACTIVE 0 = false) :
    (Power.warnTrip mv m).rd .PWR_STATUS_WARN 0 = 1 ∧ (Power.warnTrip mv m).rd .PWR_VIN_VIN_MV 0 = mv.toNat ∧
    (Power.warnTrip mv m).rd .MOD_STATUS_DIP_ACTIVE 0 = 1 ∧ (Power.warnTrip mv m).rd .PWR_DIP_MIN_MV 0 = mv.toNat ∧
    (Power.warnTrip mv m).rd .PWR_DIP_VALID 0 = 1 ∧ (Power.warnTrip mv m).rd .MOD_STATUS_PMODE_EFF 0 = 2 := by
  have hfit : mv.toNat % 2 ^ 16 = mv.toNat := Nat.mod_eq_of_lt mv.isLt
  unfold Power.warnTrip
  rw [hmon, hw, if_neg (by simp only [Bool.not_true, Bool.false_or, Bool.or_false, decide_eq_true_eq]; omega)]
  dsimp only
  generalize hm1 : m.wrs 0 [(.PWR_STATUS_WARN, 1), (.PWR_VIN_VIN_MV, mv.toNat)] = m1
  have hd1 : m1.on .MOD_STATUS_DIP_ACTIVE 0 = false := by
    rw [← hm1]; simp only [Mach.wrs_cons, Mach.wrs_nil, Mach.on_wr, reduceCtorEq, false_and, if_false, hd]
  rw [hd1, if_neg Bool.false_ne_true]
  generalize hm2 : m1.wrs 0 _ = m2
  have hdip : m2.on .MOD_STATUS_DIP_ACTIVE 0 = true := by
    rw [← hm2]; simp only [Mach.wrs_cons, Mach.wrs_nil, Mach.on_wr, reduceCtorEq, false_and, if_false, and_self, if_true]; rfl
  have hmode : m2.pmodeNow = 2 := by rw [Mach.pmodeNow, hdip, Bool.or_true, if_pos rfl]
  have hrest : ∀ f : Fld, f.aside = false → f ≠ .PWR_DIP_EVENTS → f ≠ .MOD_STATUS_PMODE_EFF → ∀ p,
      (((m2.repmode).bump .PWR_DIP_EVENTS 0 1).trace srcHub 8 p).rd f 0 = m2.rd f 0 := by
    intro f ha he hp p
    rw [Mach.rdAside_trace ha, Mach.rd_bump_ne _ _ _ _ (he ·.1), Mach.repmode, Mach.rd_wr, if_neg (hp ·.1)]
  refine ⟨?_, ?_, ?_, ?_, ?_, ?_⟩
  · rw [hrest _ rfl (by decide) (by decide), ← hm2, ← hm1]
    simp only [Mach.wrs_cons, Mach.wrs_nil, Mach.rd_wr, reduceCtorEq, false_and, if_false, and_self, if_true]
    rfl
  · rw [hrest _ rfl (by decide) (by decide), ← hm2, ← hm1]
    simp only [Mach.wrs_cons, Mach.wrs_nil, Mach.rd_wr, reduceCtorEq, false_and, if_false, and_self, if_true]
    exact hfit
  · rw [hrest _ rfl (by decide) (by decide)]
    exact beq_iff_eq.mp hdip
  · rw [hrest _ rfl (by decide) (by decide), ← hm2]
    simp only [Mach.wrs_cons, Mach.wrs_nil, Mach.rd_wr, reduceCtorEq, false_and, if_false, and_self, if_true]
    exact hfit
  · rw [hrest _ rfl (by decide) (by decide), ← hm2]
    simp only [Mach.wrs_cons, Mach.wrs_nil, Mach.rd_wr, reduceCtorEq, false_and, if_false, and_self, if_true]
    rfl
  · rw [Mach.rdAside_trace rfl, Mach.rd_bump_ne _ _ _ _ (by rintro ⟨⟨⟩, -⟩), Mach.repmode, Mach.rd_wr, if_pos ⟨rfl, rfl⟩, hmode]
    rfl

/-- R453: a second WARN in a dip holds its end back. -/
theorem warnTrip_again {m : Mach} (hmon : Power.monitor m = true) {mv : BitVec 16} (hv : mv.toNat < 41000) (hw : m.on .PWR_STATUS_WARN 0 = false)
    (hd : m.on .MOD_STATUS_DIP_ACTIVE 0 = true) :
    (Power.warnTrip mv m).rd .PWR_STATUS_WARN 0 = 1 ∧ (Power.warnTrip mv m).aux.dipEnd = none ∧
    (Power.warnTrip mv m).rd .PWR_DIP_MIN_MV 0 = min mv.toNat (m.rd .PWR_DIP_MIN_MV 0) % 2 ^ 16 := by
  unfold Power.warnTrip
  rw [hmon, hw, if_neg (by simp only [Bool.not_true, Bool.false_or, Bool.or_false, decide_eq_true_eq]; omega)]
  dsimp only
  rw [if_pos (by simp only [Mach.wrs_cons, Mach.wrs_nil, Mach.on_wr, reduceCtorEq, false_and, if_false, hd])]
  simp only [Mach.wrs_cons, Mach.wrs_nil, Mach.rd_wr, reduceCtorEq, false_and, if_false, and_self, if_true, Mach.rd_onAux]
  exact ⟨rfl, rfl, rfl⟩

theorem Mach.aux_markStretched (m : Mach) (d : Nat) : (m.markStretched d).aux = m.aux := by
  unfold Mach.markStretched
  generalize (List.range 16).map (16 * d + ·) ++ [srcDie d] = rs
  apply foldl_keep Mach.aux
  exact fun _ _ => rfl

/-- Settles O59: each event's registers and records; the resets by `Mach.powerLost_facts`. -/
theorem supplies : Obligations.Supplies := by
  unfold Obligations.Supplies
  intro mv rail phase d2 n6 temp temps t s
  refine ⟨fun hmon => ⟨fun hv hw => ⟨fun hd => ?_, fun hd => ?_⟩, fun hw => ?_, fun hv hreset => ?_⟩, fun ht => ?_, fun hlim => ⟨?_, ?_⟩,
    fun hgood hen hreset => ⟨fun hrail => ?_, fun hn htrip => ?_⟩, fun hup => ⟨fun hrail hphase hold => ?_, fun hdroop => ?_, fun href => ?_,
      fun hn hon => ?_, fun hlen hcool => ?_⟩, fun hdroop => ?_⟩
  · exact does_of_lift (f := Power.warnTrip mv) rfl (warnTrip_begins hmon hv hw hd)
  · exact does_of_lift (f := Power.warnTrip mv) rfl (warnTrip_again hmon hv hw hd)
  · refine does_of_lift (f := Power.warnClear mv) rfl ?_
    unfold Power.warnClear
    rw [hmon, hw, if_neg (by decide)]
    dsimp only
    generalize hm1 : s.m.wrs 0 _ = m1
    have hwarn : m1.rd .PWR_STATUS_WARN 0 = 0 := by
      rw [← hm1]; simp only [Mach.wrs_cons, Mach.wrs_nil, Mach.rd_wr, reduceCtorEq, false_and, if_false, and_self, if_true]; rfl
    have htime : m1.time = s.m.time := by
      rw [← hm1, Mach.time]; simp only [Mach.wrs_cons, Mach.wrs_nil, Mach.rd_wr, reduceCtorEq, false_and, if_false]; rfl
    have hdip : m1.on .MOD_STATUS_DIP_ACTIVE 0 = s.m.on .MOD_STATUS_DIP_ACTIVE 0 := by
      rw [← hm1]; simp only [Mach.wrs_cons, Mach.wrs_nil, Mach.on_wr, reduceCtorEq, false_and, if_false]
    split
    · exact ⟨hwarn, fun _ => by rw [Mach.aux_onAux, htime]⟩
    next hno => exact ⟨hwarn, fun h => absurd (hdip.trans h) hno⟩
  · refine does_of_lift (f := Power.resetTrip mv) rfl ?_
    unfold Power.resetTrip
    rw [hmon, if_neg (by simp only [Bool.not_true, Bool.false_or, decide_eq_true_eq]; omega)]
    dsimp only
    generalize (if s.m.on .MOD_STATUS_DIP_ACTIVE 0 = true then min mv.toNat (s.m.rd .PWR_DIP_MIN_MV 0) else mv.toNat) = low
    obtain ⟨hr, hcause, hgood, hready, hmem, hflash, htaken⟩ := Mach.powerLost_facts hreset (by decide) (by decide : 3 < 8) 0x22 low
    generalize s.m.powerLost 3 0x22 low = m1 at *
    simp only [Mach.wrs_cons, Mach.wrs_nil, Mach.rd_wr, reduceCtorEq, false_and, if_false, and_self, if_true, Mach.rd_onAux]
    exact ⟨⟨hr, hcause, hgood, hready, hmem, hflash, htaken⟩, rfl, rfl⟩
  · refine does_of_lift (f := Power.dipEnd) rfl ?_
    rw [Power.dipEnd, ht]
    dsimp only
    generalize hm1 : (s.m.advanceTo t).onAux _ = m1
    have h1 : m1.aux.dipEnd = none := by rw [← hm1]; rfl
    refine ⟨?_, ?_⟩
    · rw [Mach.aux_of_still (Mach.still_raise _ _ _ _ _ _), Mach.aux_of_still (Mach.still_trace _ _ _ _), Mach.repmode, Mach.wr_aux, Mach.wr_aux, h1]
    · rw [Mach.rdAside_raise rfl, Mach.rdAside_trace rfl, Mach.repmode, Mach.rd_wr, if_neg (by rintro ⟨⟨⟩, -⟩), Mach.rd_wr, if_pos ⟨rfl, rfl⟩]
      rfl
  · refine does_of_lift (f := Power.failRestart) rfl ?_
    rw [Power.failRestart, hlim, if_neg (by decide)]
    refine ⟨by rw [Mach.rd_wr, if_pos ⟨rfl, rfl⟩]; rfl, ?_⟩
    rw [Mach.wr_aux]
    cases hen : s.m.pins.pwrEn with
    | true => rw [if_pos rfl, Mach.aux_onAux, Bool.not_true, Bool.and_false]
    | false => rw [if_neg Bool.false_ne_true, Bool.not_false, Bool.and_true]
  · refine does_of_lift (f := Power.refReturn) rfl ?_
    rw [Power.refReturn, if_pos hlim, Mach.rd_wr, if_pos ⟨rfl, rfl⟩]
    rfl
  · refine does_of_lift (f := Power.railOut rail) rfl ?_
    unfold Power.railOut
    rw [hgood, hen, if_neg (by simp only [Bool.not_true, Bool.false_or, Bool.or_false, decide_eq_true_eq]; omega)]
    have hlost := Mach.powerLost_facts hreset (by decide) (by decide : 3 < 8) 0x22 (s.m.rd .PWR_DIP_MIN_MV 0)
    generalize s.m.powerLost 3 0x22 _ = m1 at *
    exact ⟨hlost, rfl⟩
  · refine does_of_lift (f := Power.thermalTrip n6 temp) rfl ?_
    unfold Power.thermalTrip
    dsimp only
    rw [hgood, hen, if_neg (by simp only [Bool.not_true, Bool.false_or, Bool.or_false, Bool.or_eq_true, decide_eq_true_eq]; omega)]
    have hlost := Mach.powerLost_facts hreset (by decide) (by decide : 5 < 8) 0x23 n6.toNat
    generalize s.m.powerLost 5 0x23 _ = m1 at *
    exact ⟨hlost, rfl, rfl⟩
  · refine does_of_lift (f := Power.phaseFail rail phase) rfl ?_
    unfold Power.phaseFail
    dsimp only
    rw [hup, if_neg (by
      rw [hold]
      simp only [Bool.not_true, Bool.false_or, Bool.or_eq_true, decide_eq_true_eq]
      exact fun h => h.elim (fun h => by omega) (fun h => absurd h (by decide)))]
    generalize hm1 : Mach.raise _ 0x46 _ srcHub 0 _ = m1
    have h1 : m1.rd .PWR_RAIL_FAILED rail.toNat = (s.m.rd .PWR_RAIL_FAILED rail.toNat ||| 2 ^ phase.toNat) % 2 ^ 13 := by
      rw [← hm1, Mach.rdAside_raise rfl, Mach.rd_bump_ne _ _ _ _ (by rintro ⟨⟨⟩, -⟩), Mach.rd_wr, if_pos ⟨rfl, rfl⟩]
      rfl
    split
    · refine ⟨?_, fun _ => ?_⟩
      · rw [Mach.rdAside_raise rfl, Mach.rdAside_event rfl _ _ rfl, Mach.rd_wr, if_neg (by rintro ⟨⟨⟩, -⟩), h1]
      · rw [Mach.rdAside_raise rfl, Mach.rdAside_event rfl _ _ rfl, Mach.rd_wr, if_pos ⟨rfl, rfl⟩]
        rfl
    next hno => exact ⟨h1, fun h => absurd h hno⟩
  · refine does_of_lift (f := Power.droop d2) rfl ?_
    unfold Power.droop
    dsimp only
    rw [hup, hdroop, if_neg (by decide), Mach.aux_of_still (Mach.still_bump _ _ _ _)]
    rw [Mach.aux_markStretched, Mach.aux_onAux]
  · refine does_of_lift (f := Power.refLost) rfl ?_
    rw [Power.refLost, hup, href, if_neg (by decide)]
    generalize hm1 : (s.m.wr .PWR_STATUS_REF_LOST 0 1).event .HIF_EVT_ALERT = m1
    have h1 : m1.rd .PWR_STATUS_REF_LOST 0 = 1 := by
      rw [← hm1, Mach.rdAside_event rfl _ _ rfl, Mach.rd_wr, if_pos ⟨rfl, rfl⟩]; rfl
    unfold Mach.unlock
    split
    · refine ⟨by rw [Mach.rd_bump_ne _ _ _ _ (by rintro ⟨⟨⟩, -⟩), Mach.rd_wr, if_neg (by rintro ⟨⟨⟩, -⟩), h1], ?_⟩
      rw [Mach.on, Mach.rd_bump_ne _ _ _ _ (by rintro ⟨⟨⟩, -⟩), Mach.rd_wr, if_pos ⟨rfl, rfl⟩]
      rfl
    next hoff => exact ⟨h1, Bool.not_eq_true _ ▸ hoff⟩
  · refine does_of_lift (f := Power.throttleOn n6 temp) rfl ?_
    unfold Power.throttleOn
    dsimp only
    rw [hup, if_neg (by simp only [Bool.not_true, Bool.false_or, Bool.or_eq_true, decide_eq_true_eq]; omega)]
    have htemp : (s.m.setTemp n6.toNat temp).rd .PWR_TEMP_TEMP n6.toNat = temp.toNat := by
      rw [Mach.rd_setTemp _ _ _ _ _ (by decide), if_pos ⟨rfl, rfl⟩]
    split
    next hthr => exact ⟨beq_iff_eq.mp hthr, htemp⟩
    · refine ⟨?_, ?_⟩
      · rw [Mach.rdAside_raise rfl, Mach.rd_bump_ne _ _ _ _ (by rintro ⟨⟨⟩, -⟩), Mach.repmode, Mach.rd_wr, if_neg (by rintro ⟨⟨⟩, -⟩), Mach.rd_wr,
          if_pos ⟨rfl, rfl⟩]
        rfl
      · rw [Mach.rdAside_raise rfl, Mach.rd_bump_ne _ _ _ _ (by rintro ⟨⟨⟩, -⟩), Mach.repmode, Mach.rd_wr, if_neg (by rintro ⟨⟨⟩, -⟩), Mach.rd_wr,
          if_neg (by rintro ⟨⟨⟩, -⟩), htemp]
  · refine does_of_lift (f := Power.throttleOff temps) rfl ?_
    have hzip : ∀ i t, (i, t) ∈ (List.range 37).zip temps ↔ i < 37 ∧ temps.getD i 0 = t := fun i t => mem_zip_range hlen 0
    have hlen' : ((List.range 37).zip temps).length = 37 := by rw [List.length_zip, List.length_range, hlen, Nat.min_self]
    have hnodup : (((List.range 37).zip temps).map Prod.fst).Nodup := by
      rw [List.map_fst_zip (Nat.le_of_eq (by rw [List.length_range, hlen]))]
      exact List.nodup_range
    unfold Power.throttleOff
    dsimp only
    generalize (List.range 37).zip temps = ts at *
    have hall : (ts.any fun (nt : Nat × BitVec 16) => decide (tempOff nt.1 ≤ nt.2.toInt)) = false := by
      rw [List.any_eq_false]
      rintro ⟨i, t⟩ hmem
      obtain ⟨hi, rfl⟩ := (hzip i t).mp hmem
      rw [decide_eq_true_eq]
      exact Int.not_le.mpr (hcool i hi)
    rw [hup, hall, hlen', if_neg (by decide)]
    refine ⟨?_, fun i hi => ?_⟩
    · rw [Mach.repmode, Mach.rd_wr, if_neg (by rintro ⟨⟨⟩, -⟩), Mach.rd_wr, if_pos ⟨rfl, rfl⟩]
      rfl
    · rw [Mach.repmode, Mach.rd_wr, if_neg (by rintro ⟨⟨⟩, -⟩), Mach.rd_wr, if_neg (by rintro ⟨⟨⟩, -⟩)]
      exact Mach.rd_foldl_setTemp hnodup _ ((hzip i _).mpr ⟨hi, rfl⟩)
  · refine does_of_lift (f := Power.droopEnd d2) rfl ?_
    rw [Power.droopEnd, hdroop, if_pos (by decide), Mach.aux_onAux]

end Sys2Proof.Machine

/-! Requests to Kindling (R91, R358, R426, R427, R435). -/
namespace Sys2Proof.Machine

/-- The fields that an answer to a request writes (R426). -/
def mboxStatus : List Fld := [.SEC_MBOX_STATUS_BUSY, .SEC_MBOX_STATUS_RESULT, .SEC_MBOX_STATUS_SEQ]

/-- From a state whose SEQ was `seq`, a request has been answered with a result. -/
def Mach.Answered (m : Mach) (seq r : Nat) : Prop :=
  m.aux.mbox = none ∧ m.rd .SEC_MBOX_STATUS_BUSY 0 = 0 ∧ m.rd .SEC_MBOX_STATUS_RESULT 0 = r ∧
    m.rd .SEC_MBOX_STATUS_SEQ 0 = (seq + 1) % 2 ^ Fld.width .SEC_MBOX_STATUS_SEQ

theorem Mach.answer_answers (m : Mach) (r : Nat) : (m.answer r).Answered (m.rd .SEC_MBOX_STATUS_SEQ 0) (r % 16) := by
  unfold Mach.answer Mach.Answered
  rw [Mach.aux_wrs]
  simp only [Mach.wrs_cons, Mach.wrs_nil, Mach.rd_wr, reduceCtorEq, false_and, if_false, and_self, if_true]
  exact ⟨rfl, rfl, rfl, trivial⟩

theorem Mach.rd_answer (m : Mach) (r : Nat) {f : Fld} (hf : f ∉ mboxStatus) (i : Nat) : (m.answer r).rd f i = m.rd f i := by
  simp only [mboxStatus, List.mem_cons, List.not_mem_nil, or_false, not_or] at hf
  obtain ⟨hb, hr, hs⟩ := hf
  simp only [Mach.answer, Mach.wrs_cons, Mach.wrs_nil, Mach.rd_wr, hb, hr, hs, false_and, if_false, Mach.rd_onAux]

theorem Mach.rdS_answer (m : Mach) (r : Nat) (f : Fld) (i : Nat) : (m.answer r).rdS f i = m.rdS f i := rfl
theorem Mach.flash_answer (m : Mach) (r : Nat) : (m.answer r).flash = m.flash := rfl

theorem Mach.request_eq {m : Mach} {q : MboxReq} {ty : Nat} (hk : m.kindling = true) (hq : m.aux.mbox = some q) (hty : q.ty = ty) :
    m.request ty = some q := by
  rw [Mach.request, hk, if_pos rfl, hq, Option.filter_some, hty, beq_self_eq_true, if_pos rfl]

section
variable {m : Mach} {q : MboxReq} {ty usage : Nat} {sig : Bool} (hk : m.kindling = true) (hq : m.aux.mbox = some q) (hty : q.ty = ty)
include hk hq hty

/-- R427: a signed request of bad form. -/
theorem Mach.signedReq_unformed (hf : q.formed true = false) (f : MboxReq → Mach → Nat × Mach) :
    m.signedReq ty usage sig f = m.answer resBad := by
  rw [Mach.signedReq, Mach.request_eq hk hq hty]
  exact if_pos (by rw [hf]; rfl)

/-- R427: a signed request whose conditions fail. -/
theorem Mach.signedReq_refused (hf : q.formed true = true) (hs : m.sigResult q usage sig ≠ 0) (f : MboxReq → Mach → Nat × Mach) :
    m.signedReq ty usage sig f = m.answer (m.sigResult q usage sig) := by
  rw [Mach.signedReq, Mach.request_eq hk hq hty]
  exact (if_neg (by rw [hf]; decide)).trans (if_pos hs)

/-- R427: a signed request whose conditions hold. -/
theorem Mach.signedReq_served (hf : q.formed true = true) (hs : m.sigResult q usage sig = 0) (f : MboxReq → Mach → Nat × Mach) :
    m.signedReq ty usage sig f = (f q (m.acceptSeq q)).2.answer (f q (m.acceptSeq q)).1 := by
  rw [Mach.signedReq, Mach.request_eq hk hq hty]
  exact (if_neg (by rw [hf]; decide)).trans (if_neg (not_not_intro hs))

end

/-- FIELD_FUSE shows the slot that it blows (R91). -/
theorem Mach.showSlot_shows (m : Mach) (g i v : Nat) :
    (m.showSlot g i v).rd .OPE_REPAIR_FIELD_USED g = (m.rd .OPE_REPAIR_FIELD_USED g + 1) % 4 ∧
    (m.showSlot g i v).rd .SEC_MBOX_STATUS_SEQ 0 = m.rd .SEC_MBOX_STATUS_SEQ 0 := by
  unfold Mach.showSlot
  dsimp only
  split <;> simp only [Mach.wrs_cons, Mach.wrs_nil, Mach.rd_wr, reduceCtorEq, false_and, if_false, and_self, if_true] <;> exact ⟨rfl, trivial⟩

/-- Table BOOT-2: a key slot is written, or cleared by a key of zeros. -/
theorem Mach.setKey_writes (m : Mach) (n u : Nat) (k : List Byte) (hu : u ≤ 15) :
    (m.setKey n u k).rd .SEC_KEY_VALID n = b2n !(k.all (· == 0)) ∧
    (m.setKey n u k).rd .SEC_KEY_USAGE n = (if k.all (· == 0) then 0 else u) ∧
    (∀ i, i ≠ n → (m.setKey n u k).rd .SEC_KEY_VALID i = m.rd .SEC_KEY_VALID i) ∧
    (m.setKey n u k).rd .SEC_MBOX_STATUS_SEQ 0 = m.rd .SEC_MBOX_STATUS_SEQ 0 := by
  unfold Mach.setKey
  simp only [Mach.wrs_cons, Mach.wrs_nil, Mach.rd_wr, reduceCtorEq, false_and, if_false, and_self, if_true, true_and]
  refine ⟨?_, ?_, fun i hi => if_neg hi, trivial⟩
  · cases k.all (· == 0) <;> rfl
  · split
    · rfl
    · exact Nat.mod_eq_of_lt (Nat.lt_of_le_of_lt hu (by decide))

/-- KEY: what it does to the slot that it names (R427). -/
def Mach.writeKey (m : Mach) (q : MboxReq) : Mach :=
  (m.setKey (q.body 0 1) (q.body 1 1) ((q.bytes.drop 32).take 96)).onFlash fun x => { x with
    usages := NMap.set (fun _ => 0) x.usages (q.body 0 1) (if ((q.bytes.drop 32).take 96).all (· == 0) then 0 else q.body 1 1)
    keys := NMap.set (fun _ => []) x.keys (q.body 0 1) (if ((q.bytes.drop 32).take 96).all (· == 0) then [] else (q.bytes.drop 32).take 96) }

/-- A KEY request that holds the form and the conditions of its case is served. -/
theorem key_served {m : Mach} {q : MboxReq} {sig : Bool} (hk : m.kindling = true) (hq : m.aux.mbox = some q) (hty : q.ty = 3)
    (h1 : 1 ≤ q.body 0 1) (h7 : q.body 0 1 ≤ 7) (hu : q.body 1 1 ≤ 15)
    (h : m.on .SEC_STATUS_OWNED 0 = true ∧ q.formed true = true ∧ m.sigResult q 3 sig = 0 ∨
      m.on .SEC_STATUS_OWNED 0 = false ∧ q.formed false = true) :
    ∃ m0 : Mach, Firm.key sig m = (m0.writeKey q).answer 0 ∧ ∀ f i, m0.rd f i = m.rd f i := by
  have hslot : ¬(q.body 0 1 = 0 ∨ 7 < q.body 0 1 ∨ 15 < q.body 1 1) := by omega
  unfold Firm.key
  dsimp only
  obtain ⟨hown, hform, hsig⟩ | ⟨hown, hform⟩ := h
  · refine ⟨m.acceptSeq q, ?_, fun _ _ => rfl⟩
    rw [hown, if_pos rfl, Mach.signedReq_served hk hq hty hform hsig, if_neg hslot]
    rfl
  · refine ⟨m, ?_, fun _ _ => rfl⟩
    rw [hown, if_neg Bool.false_ne_true, Mach.request_eq hk hq hty]
    dsimp only
    rw [if_pos hform, if_neg hslot]
    rfl

/-- R91: FIELD_FUSE blows the core's next field slot. -/
theorem fieldFuse_blows {s : State} {q : MboxReq} {slot v : Nat} (hk : s.m.kindling = true) (hq : s.m.aux.mbox = some q) (hty : q.ty = 4)
    (hok : (!q.formed false || decide (63 < q.body 0 1 ∨ 1 < q.body 1 1 ∨ 127 < q.body 2 1)) = false)
    (hused : s.m.rd .OPE_REPAIR_FIELD_USED (q.body 0 1) < 2) (hspare : s.sparesLeft (q.body 0 1) (q.body 1 1) ≠ 0)
    (hslot : 2 * q.body 0 1 + s.m.rd .OPE_REPAIR_FIELD_USED (q.body 0 1) = slot) (hv : 256 + 128 * q.body 1 1 + q.body 2 1 = v) :
    Firm.fieldFuse s = ⟨s.pending, { s.fuses with slots := NMap.set (fun _ => 0) s.fuses.slots slot v },
      { ((s.m.showSlot (q.body 0 1) (s.m.rd .OPE_REPAIR_FIELD_USED (q.body 0 1)) v).wr .OPE_REPAIR_FIELD_PENDING (q.body 0 1) 1).answer resOk with
        newSlots := slot :: s.m.newSlots }⟩ := by
  subst hslot hv
  rw [Firm.fieldFuse, Mach.request_eq hk hq hty]
  dsimp only
  rw [hok, if_neg Bool.false_ne_true, if_neg (by omega)]

/-- R358: the shadow slice of a grant. -/
def grantFields (q : MboxReq) : List (Fld × Nat) :=
  [(.FAB_SLICE_OX, q.body 4 1), (.FAB_SLICE_OY, q.body 5 1), (.FAB_SLICE_OZ, q.body 6 1), (.FAB_SLICE_EX, q.body 7 1),
    (.FAB_SLICE_EY, q.body 8 1), (.FAB_SLICE_EZ, q.body 9 1), (.FAB_SLICE_ID, q.body 0 4)]

/-- Settles O54: Kindling's answers (`Mach.answer_answers`), and what each request that is served writes besides. -/
theorem kindlingRequests : Obligations.KindlingRequests := by
  unfold Obligations.KindlingRequests
  intro sig q s hk hq
  have honly : ∀ {r : Nat} {m : Mach}, m = s.m.answer r → r < 16 → m.Answered (s.m.rd .SEC_MBOX_STATUS_SEQ 0) r ∧
      (∀ f i, f ∉ mboxStatus → m.rd f i = s.m.rd f i) ∧ (∀ f i, m.rdS f i = s.m.rdS f i) ∧ m.flash = s.m.flash := by
    rintro r m rfl hr
    have h := s.m.answer_answers r
    rw [Nat.mod_eq_of_lt hr] at h
    exact ⟨h, fun f i hf => s.m.rd_answer r hf i, fun _ _ => rfl, rfl⟩
  have hserved : ∀ {m0 m : Mach}, m = m0.answer 0 → m0.rd .SEC_MBOX_STATUS_SEQ 0 = s.m.rd .SEC_MBOX_STATUS_SEQ 0 →
      m.Answered (s.m.rd .SEC_MBOX_STATUS_SEQ 0) 0 := by
    rintro m0 m rfl hseq
    exact hseq ▸ m0.answer_answers 0
  have hresult : ∀ u, s.m.sigResult q u sig < 16 := by
    intro u
    unfold Mach.sigResult
    dsimp only
    split
    · decide
    · split
      · decide
      · split <;> decide
  refine ⟨?_, ?_, ?_, ?_, ?_, ?_, ?_⟩
  · intro ty u c hc hty
    have hsame : ∃ f, exec c s = .next (s.lift fun m => m.signedReq ty u sig f) := by
      simp only [List.mem_cons, Prod.mk.injEq, List.not_mem_nil, or_false] at hc
      obtain ⟨rfl, rfl, rfl⟩ | ⟨rfl, rfl, rfl⟩ := hc
      · exact ⟨_, rfl⟩
      · exact ⟨_, rfl⟩
    obtain ⟨f, hf⟩ := hsame
    refine ⟨fun hform => does_of_lift hf (honly (Mach.signedReq_unformed hk hq hty hform f) (by decide)), fun hform hsig => ?_⟩
    rw [Nat.mod_eq_of_lt (hresult u)]
    exact does_of_lift hf (honly (Mach.signedReq_refused hk hq hty hform hsig f) (hresult u))
  · rintro hty ⟨hform, hsig⟩ hvalid hfits
    have heq : Firm.sliceGrant sig s.m = ((grantFields q).foldl (fun m (fv : Fld × Nat) => m.wrS fv.1 0 fv.2) (s.m.acceptSeq q)).answer 0 := by
      rw [Firm.sliceGrant, Mach.signedReq_served hk hq hty hform hsig]
      have hok : (!(s.m.acceptSeq q).on .FAB_STATUS_COORD_VALID 0 || !(axisFits (q.body 4 1) (q.body 7 1) ((s.m.acceptSeq q).rd .FAB_COORD_NX 0) &&
          axisFits (q.body 5 1) (q.body 8 1) ((s.m.acceptSeq q).rd .FAB_COORD_NY 0) &&
          axisFits (q.body 6 1) (q.body 9 1) ((s.m.acceptSeq q).rd .FAB_COORD_NZ 0))) = false := by
        rw [Bool.or_eq_false_iff, Bool.not_eq_false', Bool.not_eq_false']
        exact ⟨hvalid, hfits⟩
      dsimp only
      rw [hok]
      rfl
    refine does_of_lift (f := Firm.sliceGrant sig) rfl ?_
    rw [heq]
    refine ⟨hserved rfl rfl, ?_⟩
    simp only [Mach.rdS_answer, grantFields, List.foldl_cons, List.foldl_nil, Mach.rdS_wrS, reduceCtorEq, false_and, if_false, and_self, if_true]
    refine ⟨rfl, rfl, rfl, rfl, rfl, rfl, rfl, fun f i hf => (Mach.rd_answer _ 0 hf i).trans rfl, ?_⟩
    rw [Mach.flash_answer]
    exact (NMap.get_set ..).trans (if_pos hty.symm)
  · rintro hty ⟨hform, hsig⟩ hno
    have heq : Firm.sliceGrant sig s.m = (s.m.acceptSeq q).answer 4 := by
      rw [Firm.sliceGrant, Mach.signedReq_served hk hq hty hform hsig]
      have hbad : (!(s.m.acceptSeq q).on .FAB_STATUS_COORD_VALID 0 || !(axisFits (q.body 4 1) (q.body 7 1) ((s.m.acceptSeq q).rd .FAB_COORD_NX 0) &&
          axisFits (q.body 5 1) (q.body 8 1) ((s.m.acceptSeq q).rd .FAB_COORD_NY 0) &&
          axisFits (q.body 6 1) (q.body 9 1) ((s.m.acceptSeq q).rd .FAB_COORD_NZ 0))) = true := by
        rw [Bool.or_eq_true, Bool.not_eq_true', Bool.not_eq_true']
        exact hno
      dsimp only
      rw [hbad]
      rfl
    refine does_of_lift (f := Firm.sliceGrant sig) rfl ?_
    rw [heq]
    exact ⟨(s.m.acceptSeq q).answer_answers 4, fun _ _ => rfl⟩
  · rintro hty ⟨hform, hsig⟩ h0 h1 h2 h3 h4 h5
    refine does_of_lift (f := Firm.policy sig) rfl ?_
    rw [Firm.policy, Mach.signedReq_served hk hq hty hform hsig]
    dsimp only
    rw [if_neg (by simp; omega)]
    dsimp only
    generalize hm1 : Mach.onAux _ _ = m1
    have hrd : ∀ f i, m1.rd f i = ((s.m.acceptSeq q).applyPolicy [q.body 0 1, q.body 1 1, q.body 2 1, q.body 3 1, q.body 4 2]).rd f i := by
      intro f i; rw [← hm1]; rfl
    have hpolicy : m1.flash.policy = some [q.body 0 1, q.body 1 1, q.body 2 1, q.body 3 1, q.body 4 2] := by rw [← hm1]; rfl
    have hout : ∀ f, f ∉ mboxStatus → (m1.answer resOk).rd f 0 = m1.rd f 0 := fun f hf => m1.rd_answer resOk hf 0
    refine ⟨hserved rfl ?_, ?_, ?_, ?_, ?_, ?_, hpolicy⟩
    · rw [hrd, Mach.applyPolicy, Mach.repmode]
      simp only [Mach.wrs_cons, Mach.wrs_nil, Mach.rd_wr, reduceCtorEq, false_and, if_false]
      rfl
    all_goals
      rw [hout _ (by decide), hrd, Mach.applyPolicy, Mach.repmode]
      simp only [Mach.wrs_cons, Mach.wrs_nil, Mach.rd_wr, reduceCtorEq, false_and, if_false, and_self, if_true, List.getD_cons_zero, List.getD_cons_succ]
      exact Nat.mod_eq_of_lt (Nat.lt_of_le_of_lt ‹_› (by decide))
  · intro hty h1 h7 hu h
    obtain ⟨m0, heq, hrd0⟩ := key_served (sig := sig) hk hq hty h1 h7 hu (h.imp_left fun ⟨ho, hf, hs⟩ => ⟨ho, hf, hs⟩)
    obtain ⟨hvalid, husage, hothers, hseq⟩ := m0.setKey_writes (q.body 0 1) (q.body 1 1) ((q.bytes.drop 32).take 96) hu
    refine does_of_lift (f := Firm.key sig) rfl ?_
    rw [heq]
    refine ⟨hserved rfl (hseq.trans (hrd0 _ _)), ?_, ?_, fun i hi => ?_, ?_⟩
    · rw [Mach.rd_answer _ _ (by decide)]; exact hvalid
    · rw [Mach.rd_answer _ _ (by decide)]; exact husage
    · rw [Mach.rd_answer _ _ (by decide)]; exact (hothers i hi).trans (hrd0 _ _)
    · rw [Mach.flash_answer]
      exact NMap.get_set_self _ _ _
  · intro hty hform hn hkind hidx
    have hok : (!q.formed false || decide (63 < q.body 0 1 ∨ 1 < q.body 1 1 ∨ 127 < q.body 2 1)) = false := by
      rw [hform, Bool.not_true, Bool.false_or, decide_eq_false_iff_not]
      omega
    refine ⟨fun hused hspare => ?_, fun hno => ?_⟩
    · have heq := fieldFuse_blows hk hq hty hok hused hspare rfl rfl
      obtain ⟨hshown, hseq⟩ := s.m.showSlot_shows (q.body 0 1) (s.m.rd .OPE_REPAIR_FIELD_USED (q.body 0 1)) (256 + 128 * q.body 1 1 + q.body 2 1)
      generalize hm1 : s.m.showSlot _ _ _ = m1 at heq hshown hseq
      have hseq' : (m1.wr .OPE_REPAIR_FIELD_PENDING (q.body 0 1) 1).rd .SEC_MBOX_STATUS_SEQ 0 = s.m.rd .SEC_MBOX_STATUS_SEQ 0 := by
        rw [Mach.rd_wr, if_neg (by rintro ⟨⟨⟩, -⟩), hseq]
      have hanswer : ((m1.wr .OPE_REPAIR_FIELD_PENDING (q.body 0 1) 1).answer resOk).Answered (s.m.rd .SEC_MBOX_STATUS_SEQ 0) 0 :=
        hserved rfl hseq'
      have hnext : ((m1.wr .OPE_REPAIR_FIELD_PENDING (q.body 0 1) 1).answer resOk).rd .OPE_REPAIR_FIELD_USED (q.body 0 1)
          = s.m.rd .OPE_REPAIR_FIELD_USED (q.body 0 1) + 1 := by
        rw [Mach.rd_answer _ _ (by decide), Mach.rd_wr, if_neg (by rintro ⟨⟨⟩, -⟩), hshown]
        exact Nat.mod_eq_of_lt (by omega)
      have hpend : ((m1.wr .OPE_REPAIR_FIELD_PENDING (q.body 0 1) 1).answer resOk).rd .OPE_REPAIR_FIELD_PENDING (q.body 0 1) = 1 := by
        rw [Mach.rd_answer _ _ (by decide), Mach.rd_wr, if_pos ⟨rfl, rfl⟩]
        rfl
      generalize (m1.wr .OPE_REPAIR_FIELD_PENDING (q.body 0 1) 1).answer resOk = m2 at heq hanswer hnext hpend
      exact ⟨_, congrArg Host.Outcome.next heq, rfl, hanswer, NMap.get_set_self _ _ _, fun i hi => NMap.get_set_ne _ _ hi, rfl, rfl, hnext, hpend⟩
    · refine ⟨s.lift fun m => m.answer resRefused, ?_, rfl, rfl, honly rfl (by decide)⟩
      refine congrArg Host.Outcome.next ?_
      rw [Firm.fieldFuse, Mach.request_eq hk hq hty]
      dsimp only
      rw [hok, if_neg Bool.false_ne_true, if_pos hno]
  · intro hty hform
    have heq : Firm.svnCommit s = { s with
        fuses := { s.fuses with kindling := max s.fuses.kindling (min 64 (s.m.rd .SEC_SVN_KINDLING_BOOTED 0))
                                cordwood := max s.fuses.cordwood (min 64 (s.m.rd .SEC_SVN_CORDWOOD_BOOTED 0)) }
        m := (s.m.wrs 0 [(.SEC_SVN_KINDLING_FUSED, max s.fuses.kindling (min 64 (s.m.rd .SEC_SVN_KINDLING_BOOTED 0))),
          (.SEC_SVN_CORDWOOD_FUSED, max s.fuses.cordwood (min 64 (s.m.rd .SEC_SVN_CORDWOOD_BOOTED 0)))]).answer resOk } := by
      rw [Firm.svnCommit, Mach.request_eq hk hq hty]
      dsimp only
      rw [hform, if_neg (by decide)]
    refine ⟨_, congrArg Host.Outcome.next heq, rfl, hserved rfl ?_, rfl, rfl, rfl, ?_, ?_⟩
    · simp only [Mach.wrs_cons, Mach.wrs_nil, Mach.rd_wr, reduceCtorEq, false_and, if_false]
    · rw [Mach.rd_answer _ _ (by decide)]
      simp only [Mach.wrs_cons, Mach.wrs_nil, Mach.rd_wr, reduceCtorEq, false_and, if_false, and_self, if_true]
      rfl
    · rw [Mach.rd_answer _ _ (by decide)]
      simp only [Mach.wrs_cons, Mach.wrs_nil, Mach.rd_wr, reduceCtorEq, false_and, if_false, and_self, if_true]
      rfl

end Sys2Proof.Machine

/-! The life of Cordwood (R421, R434, R436-R438), and the management interfaces (R429, R432, R434, R538, R539, R541). -/
namespace Sys2Proof.Machine

/-! What a trace record, an event and a log entry leave: any register field but those that they name. -/

theorem Mach.rd_traceRec_of_ne {f : Fld} (hf : f ≠ .DBG_TRACE_DROPPED) (i : Nat) (m : Mach) (r : TraceRec) : (m.traceRec r).rd f i = m.rd f i :=
  Mach.rd_bump_ne _ _ _ _ fun h => hf h.1

theorem Mach.rd_trace_of_ne {f : Fld} (hf : f ≠ .DBG_TRACE_DROPPED) (i : Nat) (m : Mach) (q ty : Nat) (p : List Byte) :
    (m.trace q ty p).rd f i = m.rd f i := by
  have hpending : (m.offerPending q).rd f i = m.rd f i := by
    unfold Mach.offerPending
    split
    · rfl
    · exact foldl_keep (fun m : Mach => m.rd f i) _ (fun m r => m.rd_traceRec_of_ne hf i r) _ _
  unfold Mach.trace
  split
  · rw [Mach.rd_traceRec_of_ne hf, hpending]
  · rfl

theorem Mach.rd_signal_of_ne {f : Fld} (hf : f ≠ .MSIX_PBA) (i : Nat) (m : Mach) (v : Nat) : (m.signal v).rd f i = m.rd f i := by
  unfold Mach.signal
  split
  · exact (Mach.rd_wr ..).trans (if_neg fun h => hf h.1)
  · rfl

theorem Mach.rd_event_of_ne {f g : Fld} (hf : f ≠ .MSIX_PBA) (hg : f ≠ g) (i : Nat) (m : Mach) : (m.event g).rd f i = m.rd f i := by
  have hwr : (m.wr g 0 1).rd f i = m.rd f i := (Mach.rd_wr ..).trans (if_neg fun h => hg h.1)
  unfold Mach.event
  dsimp only
  split
  · rw [Mach.rd_signal_of_ne hf, hwr]
  · exact hwr

/-- The event's own bit. -/
theorem Mach.rd_event_self {g : Fld} (hg : g ≠ .MSIX_PBA) (m : Mach) : (m.event g).rd g 0 = 1 % 2 ^ g.width := by
  have hwr : (m.wr g 0 1).rd g 0 = 1 % 2 ^ g.width := (Mach.rd_wr ..).trans (if_pos ⟨rfl, rfl⟩)
  unfold Mach.event
  dsimp only
  split
  · rw [Mach.rd_signal_of_ne hg, hwr]
  · exact hwr

/-- The fields that a log entry writes. -/
def logFields : List Fld := [.MOD_FLT_STATUS_WPTR, .MOD_FLT_STATUS_TOTAL, .HIF_EVT_FAULT_LOG, .MSIX_PBA]

theorem Mach.rd_logFault_of_ne {f : Fld} (hf : f ∉ logFields) (i : Nat) (m : Mach) (e : FaultEnt) : (m.logFault e).rd f i = m.rd f i := by
  simp only [logFields, List.mem_cons, List.not_mem_nil, or_false, not_or] at hf
  obtain ⟨hw, ht, he, hp⟩ := hf
  unfold Mach.logFault
  rw [Mach.rd_event_of_ne hp he, Mach.rd_wr, if_neg fun h => ht h.1, Mach.rd_wr, if_neg fun h => hw h.1]
  rfl

/-! The running step: what ends no step leaves it. -/

theorem Mach.step_of_lasts {m m' : Mach} (h : m.Lasts m') : m'.step = m.step := (congrArg Mach.step h.lasting : m'.lasting.step = m.lasting.step)

theorem Mach.step_event (m : Mach) (f : Fld) : (m.event f).step = m.step := by
  unfold Mach.event
  dsimp only
  split
  · rw [Mach.step_of_lasts (Mach.lasts_signal _ _)]; rfl
  · rfl

theorem Mach.step_logFault (m : Mach) (e : FaultEnt) : (m.logFault e).step = m.step := Mach.step_event _ _

theorem Mach.step_complete (m : Mach) (d : Desc) (st de inf : Nat) (res : List Byte) : (m.complete d st de inf res).step = m.step :=
  Mach.step_of_lasts (m.lasts_complete d st de inf res)

theorem Mach.step_endJob (m : Mach) (c : IngCur) (st de : Nat) : (m.endJob c st de).step = m.step := by rw [Mach.endJob, Mach.step_complete]

theorem Mach.step_abortDescs (m : Mach) (ds : List Desc) : (m.abortDescs ds).step = m.step := by
  apply foldl_keep Mach.step
  intro m d
  split
  · rw [Mach.step_endJob]
  · rw [Mach.step_complete]

theorem Mach.step_cordwoodStops (m : Mach) : m.cordwoodStops.step = m.step := by
  unfold Mach.cordwoodStops
  dsimp only
  generalize hm : Mach.abortDescs _ _ = m1
  have h1 : m1.step = m.step := by rw [← hm, Mach.step_abortDescs]
  generalize List.range 32 = l
  have h2 : (l.foldl (fun m i => m.wr .SEQ_BANK_LOAD_BUSY i 0) m1).step = m.step :=
    (foldl_keep Mach.step (fun m i => m.wr .SEQ_BANK_LOAD_BUSY i 0) (fun _ _ => rfl) l m1).trans h1
  split <;> exact h2

/-- R421, R436: what a restart of Cordwood leaves. -/
theorem Mach.restartCordwood_restarts (m : Mach) : m.restartCordwood.aux = { m.aux with restarting := true, wdog := none } ∧
    m.restartCordwood.rd .MOD_STATUS_CORDWOOD_UP 0 = 0 ∧ m.restartCordwood.rd .HIF_EVT_CORDWOOD_RESTART 0 = 1 := by
  have haux := m.aux_cordwoodStops
  unfold Mach.restartCordwood
  generalize m.cordwoodStops = m1 at haux
  refine ⟨?_, ?_, Mach.rd_event_self (by decide) _⟩
  · rw [Mach.aux_of_still (Mach.still_event _ _), Mach.aux_onAux, ← haux]
    rfl
  · rw [Mach.rd_event_of_ne (by decide) (by decide), Mach.rd_onAux, Mach.rd_wr, if_pos ⟨rfl, rfl⟩]
    rfl

theorem cordwoodFails_eq (m : Mach) : Firm.cordwoodFails m = (((m.cordwoodStops.wrs 0 [(.SEC_STATUS_CORDWOOD_FAILED, 1),
    (.MOD_FLT_STATUS_FATAL_MODULE, 1)]).logFatal 0x21 0).faultTrace srcHub 0x21 4).event .HIF_EVT_ALERT := rfl

/-- R438: what the fourth expiry within 60 s leaves. -/
theorem cordwoodFails_stops (m : Mach) : (Firm.cordwoodFails m).aux = m.aux ∧ (Firm.cordwoodFails m).step = m.step ∧
    (Firm.cordwoodFails m).rd .MOD_STATUS_CORDWOOD_UP 0 = m.rd .MOD_STATUS_CORDWOOD_UP 0 ∧
    (Firm.cordwoodFails m).rd .SEC_STATUS_CORDWOOD_FAILED 0 = 1 ∧ (Firm.cordwoodFails m).rd .MOD_FLT_STATUS_FATAL_MODULE 0 = 1 := by
  have haux := m.aux_cordwoodStops
  have hstep := m.step_cordwoodStops
  have hup : m.cordwoodStops.rd .MOD_STATUS_CORDWOOD_UP 0 = _ := m.rd_cordwoodStops (i := 0) rfl (by decide) (by decide)
  rw [cordwoodFails_eq]
  generalize m.cordwoodStops = m1 at haux hstep hup
  have hrd : ∀ f i, f ∉ logFields → f ≠ .DBG_TRACE_DROPPED → f ≠ .HIF_EVT_ALERT → ∀ m : Mach,
      (((m.logFatal 0x21 0).faultTrace srcHub 0x21 4).event .HIF_EVT_ALERT).rd f i = m.rd f i := by
    intro f i hl hd ha m
    rw [Mach.rd_event_of_ne (fun h => hl (by rw [h]; decide)) ha, Mach.faultTrace, Mach.rd_trace_of_ne hd, Mach.logFatal, Mach.rd_logFault_of_ne hl]
  refine ⟨?_, ?_, ?_, ?_, ?_⟩
  · rw [Mach.aux_of_still (Mach.still_event _ _), Mach.aux_of_still (Mach.still_faultTrace _ _ _ _), Mach.logFatal,
      Mach.aux_of_still (Mach.still_logFault _ _), Mach.aux_wrs, haux]
  · have htrace : ∀ (m : Mach) q ty p, (m.trace q ty p).step = m.step := fun m q ty p => by rw [Mach.trace_eq]
    rw [Mach.step_event, Mach.faultTrace, htrace, Mach.logFatal, Mach.step_logFault, Mach.wrs_eq]
    exact hstep
  all_goals
    rw [hrd _ _ (by decide) (by decide) (by decide)]
    simp only [Mach.wrs_cons, Mach.wrs_nil, Mach.rd_wr, reduceCtorEq, false_and, if_false, and_self, if_true]
  · exact hup
  · rfl
  · rfl

/-- R434: ACTIVATE of an image that passes. -/
theorem activate_restarts {m : Mach} {q : MboxReq} (hk : m.kindling = true) (hq : m.aux.mbox = some q) (hty : q.ty = 6)
    (hform : q.formed false = true) (hi : q.body 0 1 ≤ 1) (hpass : m.imgPasses (q.body 0 1) = true)
    (hup : m.on .MOD_STATUS_CORDWOOD_UP 0 = true ∨ m.aux.restarting = true) (hmain : m.mainUp = true)
    (hfailed : m.on .SEC_STATUS_CORDWOOD_FAILED 0 = false) :
    Firm.activate m = Mach.answer { ((m.putCordwood (q.body 0 1) false).onAux fun a => { a with selected := some (q.body 0 1) }).restartCordwood with
      cache := [] } resOk := by
  unfold Firm.activate
  rw [Mach.request_eq hk hq hty]
  dsimp only
  rw [if_neg (by rw [hform]; simpa using hi), if_neg (by simpa [hpass, hmain, hfailed, Decidable.or_iff_not_imp_left] using hup)]

theorem activate_refused {m : Mach} {q : MboxReq} (hk : m.kindling = true) (hq : m.aux.mbox = some q) (hty : q.ty = 6)
    (hform : q.formed false = true) (hi : q.body 0 1 ≤ 1) (hpass : m.imgPasses (q.body 0 1) = false) :
    Firm.activate m = m.answer resRefused := by
  unfold Firm.activate
  rw [Mach.request_eq hk hq hty]
  dsimp only
  rw [if_neg (by rw [hform]; simpa using hi), if_pos (by rw [hpass]; rfl)]

/-- An image that passes is in flash (R428), and shows its number once it is loaded. -/
theorem Mach.image_putCordwood {m : Mach} {i : Nat} (hpass : m.imgPasses i = true) (hi : i ≤ 1) (b : Bool) :
    (m.putCordwood i b).rd .SEC_STATUS_IMAGE 0 = i := by
  obtain hx | ⟨x, hx⟩ := Option.eq_none_or_eq_some (m.cordImg i)
  · rw [Mach.imgPasses, hx] at hpass
    exact absurd hpass Bool.false_ne_true
  · rw [Mach.putCordwood, hx]
    simp only [Mach.wrs_cons, Mach.wrs_nil, Mach.rd_wr, reduceCtorEq, false_and, if_false, and_self, if_true]
    exact Nat.mod_eq_of_lt (Nat.lt_of_le_of_lt hi (by decide))

/-- The expiries of the 60 s before one, and that one (R438). -/
def recentExpiries (m : Mach) (t : Nat) : List Nat := (m.aux.expiries.filter fun e => decide (t < e + 60000000000)) ++ [t]

/-- The state of the watchdog's expiry once its time has come, before what its count decides (R436). -/
def Mach.expired (m : Mach) (t : Nat) : Mach :=
  ((m.advanceTo t).wr .MOD_STATUS_CORDWOOD_UP 0 0).onAux fun a => { a with wdog := none, expiries := recentExpiries m t }

theorem Mach.expired_facts (m : Mach) (t : Nat) : (m.expired t).step = m.step ∧ (m.expired t).rd .MOD_STATUS_CORDWOOD_UP 0 = 0 ∧
    (m.expired t).aux.wdog = none ∧ (m.expired t).aux.expiries = recentExpiries m t := by
  have hstep := Mach.step_of_lasts (m.lasts_advanceTo t)
  unfold Mach.expired
  generalize m.advanceTo t = m1 at hstep
  refine ⟨hstep, ?_, rfl, rfl⟩
  rw [Mach.rd_onAux, Mach.rd_wr, if_pos ⟨rfl, rfl⟩]
  rfl

/-- WATCHDOG_EXPIRY by the number of the latest expiries (R436-R438). -/
theorem watchdogExpiry_eq {m : Mach} {t : Nat} (hw : m.aux.wdog = some t) (hup : m.on .MOD_STATUS_CORDWOOD_UP 0 = true) (h a b : Bool) :
    (4 ≤ (recentExpiries m t).length → Firm.watchdogExpiry h a b m = Firm.cordwoodFails (m.expired t)) ∧
    ((recentExpiries m t).length < 4 → h = true →
      Firm.watchdogExpiry h a b m = ((m.expired t).bump .SEC_WDOG_RESTARTS 0 1).restartCordwood.raise 0x48 0 srcHub 0 0) := by
  have hexp : recentExpiries (m.advanceTo t) t = recentExpiries m t := by
    have h : (m.advanceTo t).aux.expiries = m.aux.expiries :=
      (congrArg (fun m : Mach => m.aux.expiries) (m.lasts_advanceTo t).lasting : (m.advanceTo t).lasting.aux.expiries = m.lasting.aux.expiries)
    rw [recentExpiries, h, recentExpiries]
  unfold Firm.watchdogExpiry Mach.expired
  rw [hw, ← hexp]
  dsimp only
  rw [hup, Bool.not_true, if_neg Bool.false_ne_true]
  generalize m.advanceTo t = m1
  exact ⟨fun h4 => if_pos h4, fun h4 hh => (if_neg (Nat.not_le.mpr h4)).trans (if_pos hh)⟩

theorem Mach.wdog_kick (m : Mach) : m.kick.aux.wdog = some (m.time + m.rd .SEC_WDOG_TIMEOUT_MS 0 * 1000000) := rfl

/-- Settles O55: an ACTIVATE and an expiry restart Cordwood (`Mach.restartCordwood_restarts`), the fourth expiry leaves it stopped
(`cordwoodFails_stops`). -/
theorem cordwoodLife : Obligations.CordwoodLife := by
  unfold Obligations.CordwoodLife
  intro q hashOk a b t s
  refine ⟨fun hk hq hty hform hi => ⟨fun hpass hup hmain hfailed => ?_, fun hpass => ?_⟩, fun hup => ⟨?_, fun hw => ⟨fun h4 hh => ?_, fun h4 => ?_⟩⟩,
    fun hr hmain => ?_⟩
  · have heq := activate_restarts hk hq hty hform hi hpass hup hmain hfailed
    have himage : ((s.m.putCordwood (q.body 0 1) false).onAux fun a => { a with selected := some (q.body 0 1) }).rd .SEC_STATUS_IMAGE 0 = q.body 0 1 :=
      Mach.image_putCordwood hpass hi false
    generalize Mach.onAux (s.m.putCordwood (q.body 0 1) false) _ = m1 at heq himage
    obtain ⟨haux, hdown, hevt⟩ := m1.restartCordwood_restarts
    have hkept : m1.restartCordwood.rd .SEC_STATUS_IMAGE 0 = _ := m1.rd_restartCordwood (i := 0) rfl (by decide) (by decide) (by decide) (by decide)
    generalize m1.restartCordwood = m2 at heq haux hdown hevt hkept
    refine does_of_lift (f := Firm.activate) rfl ?_
    rw [heq]
    obtain ⟨-, hbusy, hres, -⟩ := Mach.answer_answers { m2 with cache := [] } 0
    refine ⟨hres, hbusy, ?_, ?_, ?_, ?_, ?_, ?_⟩
    · exact (Mach.rd_answer _ _ (by decide) 0).trans (hkept.trans himage)
    · exact (Mach.rd_answer _ _ (by decide) 0).trans hdown
    · rw [Mach.answer, Mach.aux_wrs]
      exact congrArg Aux.restarting haux
    · rw [Mach.answer, Mach.aux_wrs]
      exact congrArg Aux.wdog haux
    · rw [Mach.answer, Mach.wrs_eq]
      rfl
    · exact (Mach.rd_answer _ _ (by decide) 0).trans hevt
  · refine does_of_lift (f := Firm.activate) rfl ?_
    rw [activate_refused hk hq hty hform hi hpass]
    refine ⟨(s.m.answer_answers 4).2.2.1, ?_, ?_⟩
    · rw [Mach.answer, Mach.aux_wrs]
      rfl
    · rw [Mach.answer, Mach.wrs_eq]
      rfl
  · refine does_of_lift (f := fun m => Firm.wdogKick (m.otherAccess 1)) rfl ?_
    rw [Firm.wdogKick, Mach.on_otherAccess, if_pos hup]
    refine ⟨?_, fun f i => (Mach.rd_kick _ f i).trans (Mach.rd_otherAccess _ _ _ _)⟩
    rw [Mach.kick, Mach.aux_onAux, Mach.time_otherAccess, Mach.rd_otherAccess]
  · refine does_of_lift (f := Firm.watchdogExpiry hashOk a b) rfl ?_
    rw [(watchdogExpiry_eq hw hup hashOk a b).2 h4 hh]
    obtain ⟨-, -, -, hexp⟩ := s.m.expired_facts t
    generalize s.m.expired t = m1 at hexp
    obtain ⟨haux, hdown, -⟩ := (m1.bump .SEC_WDOG_RESTARTS 0 1).restartCordwood_restarts
    rw [Mach.aux_of_still (Mach.still_bump _ _ _ _)] at haux
    have hkeep := Mach.aux_of_still (Mach.still_raise (m1.bump .SEC_WDOG_RESTARTS 0 1).restartCordwood 0x48 0 srcHub 0 0)
    refine ⟨(Mach.rdAside_raise rfl _ _ _ _ _ _ _).trans hdown, ?_, ?_, ?_⟩
    · rw [hkeep, haux]
    · rw [hkeep, haux]; exact hexp
    · rw [hkeep, haux]
  · refine does_of_lift (f := Firm.watchdogExpiry hashOk a b) rfl ?_
    rw [(watchdogExpiry_eq hw hup hashOk a b).1 h4]
    obtain ⟨hstep, hdown, hwdog, -⟩ := s.m.expired_facts t
    obtain ⟨haux, hstep', hdown', hfailed, hfatal⟩ := cordwoodFails_stops (s.m.expired t)
    exact ⟨hdown'.trans hdown, hfailed, hfatal, hstep'.trans hstep, by rw [haux, hwdog]⟩
  · refine does_of_lift (f := Firm.restartComplete) rfl ?_
    rw [Firm.restartComplete, if_pos (by rw [hr, hmain]; rfl)]
    refine ⟨?_, rfl, ?_⟩
    · rw [Mach.rd_kick, Mach.rd_wr, if_pos ⟨rfl, rfl⟩]
      rfl
    · have hrd : ∀ f, f ≠ .MOD_STATUS_CORDWOOD_UP → ∀ g, ((s.m.onAux g).wr .MOD_STATUS_CORDWOOD_UP 0 1).rd f 0 = s.m.rd f 0 := fun f hf g => by
        rw [Mach.rd_wr, if_neg fun h => hf h.1, Mach.rd_onAux]
      rw [Mach.wdog_kick, Mach.time, hrd _ (by decide), hrd _ (by decide)]
      rfl

/-! Management: the free bytes of an answer, and the SPDM responder's order (R432). -/

theorem Mach.freshBytes_facts (m : Mach) (n : Nat) : (m.freshBytes n).1.length = n ∧
    (m.freshBytes n).2 = { m with free := (m.freshBytes n).2.free } := by
  unfold Mach.freshBytes
  induction n with
  | zero => exact ⟨rfl, rfl⟩
  | succ n ih =>
    rw [List.range_succ, List.foldl_append]
    obtain ⟨hlen, heq⟩ := ih
    generalize List.foldl _ _ _ = r at hlen heq
    refine ⟨?_, ?_⟩
    · rw [List.foldl_cons, List.foldl_nil, List.length_append, hlen]
      rfl
    · rw [List.foldl_cons, List.foldl_nil, Mach.fresh, heq]

theorem spdm_ready {m : Mach} (hk : m.kindling = true) {n : Nat} (h : n ≤ m.mgmt.stage) (f : Mach → Mach) : Firm.spdm n f m = f m := by
  rw [Firm.spdm, if_neg (by rw [hk]; decide), if_neg (Nat.not_lt.mpr h)]

theorem spdm_early {m : Mach} (hk : m.kindling = true) {n : Nat} (h : m.mgmt.stage < n) (f : Mach → Mach) : Firm.spdm n f m = m.spdmError := by
  rw [Firm.spdm, if_neg (by rw [hk]; decide), if_pos h]

/-- An answer of free bytes. -/
theorem Mach.reply_freshBytes (m : Mach) (k n : Nat) :
    (∃ bs : List Byte, bs.length = n ∧ ((m.freshBytes n).2.reply k (m.freshBytes n).1).mgmt.sent = m.mgmt.sent ++ [⟨k, bs⟩]) ∧
    ∀ f i, ((m.freshBytes n).2.reply k (m.freshBytes n).1).rd f i = m.rd f i := by
  obtain ⟨hlen, heq⟩ := m.freshBytes_facts n
  rw [heq]
  exact ⟨⟨_, hlen, rfl⟩, fun _ _ => rfl⟩

/-- Settles O56: the branch of each management function that its condition selects. -/
theorem management : Obligations.Management := by
  unfold Obligations.Management
  intro offered cw whole slot ix img x ty payload bytes rw' ins cells s
  refine ⟨fun hk => ⟨?_, ?_, fun h1 => ?_, fun h2 hoff => ?_, fun h3 => ⟨?_, fun hslot => ?_, fun hix => ?_, fun hlo hhi => ?_⟩, fun h3 c hc => ?_,
    fun hup => ⟨fun hcw => ?_, fun hcw him => ?_, fun hcw him => ?_, fun hcw => ?_, fun hcw hx hsig hsvn => ?_, fun hscan hty => ?_⟩,
    fun hscan hup hty => ?_, fun hscan => ?_⟩, fun hscan => ?_, fun hlim hins => ?_⟩
  · refine does_of_lift (f := Firm.getVersion) rfl ?_
    rw [Firm.getVersion, spdm_ready hk (Nat.zero_le _)]
    exact ⟨rfl, fun _ _ => rfl⟩
  · refine does_of_lift (f := Firm.getVersion) rfl ?_
    rw [Firm.getVersion, spdm_ready hk (Nat.zero_le _)]
    rfl
  · constructor
    all_goals
      refine does_of_lift (f := Firm.getCapabilities) rfl ?_
      rw [Firm.getCapabilities, spdm_ready hk h1]
    · exact ⟨rfl, fun _ _ => rfl⟩
    · rfl
  · subst hoff
    constructor
    all_goals
      refine does_of_lift (f := Firm.negotiate true) rfl ?_
      rw [Firm.negotiate, spdm_ready hk h2, if_pos rfl]
    · exact ⟨rfl, fun _ _ => rfl⟩
    · rfl
  · refine does_of_lift (f := Firm.getDigests) rfl ?_
    rw [Firm.getDigests, spdm_ready hk h3]
    exact s.m.reply_freshBytes 4 48
  · constructor
    · refine does_of_lift (f := Firm.getCertificate slot) rfl ?_
      rw [Firm.getCertificate, spdm_ready hk h3, if_pos hslot]
      exact s.m.reply_freshBytes 5 48
    · refine does_of_lift (f := Firm.challenge slot) rfl ?_
      rw [Firm.challenge, spdm_ready hk h3, if_pos hslot]
      exact s.m.reply_freshBytes 6 96
  · refine does_of_lift (f := Firm.getMeasurements ix) rfl ?_
    rw [Firm.getMeasurements, spdm_ready hk h3]
    dsimp only
    rw [if_pos (by rw [hix]; rfl)]
    exact ⟨rfl, fun _ _ => rfl⟩
  · refine does_of_lift (f := Firm.getMeasurements ix) rfl ?_
    rw [Firm.getMeasurements, spdm_ready hk h3]
    dsimp only
    rw [if_neg (by omega), if_neg (by omega), if_pos hhi]
    exact ⟨rfl, fun _ _ => rfl⟩
  · have hf : ∃ f, exec c s = .next (s.lift fun m => Firm.spdm 3 f m) := by
      simp only [List.mem_cons, List.not_mem_nil, or_false] at hc
      obtain rfl | rfl | rfl | rfl := hc
      all_goals exact ⟨_, rfl⟩
    obtain ⟨f, hf⟩ := hf
    refine does_of_lift hf ?_
    rw [spdm_early hk h3]
    exact ⟨rfl, fun _ _ => rfl⟩
  · refine does_of_lift (f := Firm.pldmUpdate cw img whole) rfl ?_
    rw [Firm.pldmUpdate, if_neg (by rw [hk, hup]; decide), hcw]
    rfl
  · refine does_of_lift (f := Firm.pldmUpdate cw img whole) rfl ?_
    rw [Firm.pldmUpdate, if_neg (by rw [hk, hup]; decide), hcw]
    exact if_pos him
  · refine does_of_lift (f := Firm.pldmUpdate cw img whole) rfl ?_
    rw [Firm.pldmUpdate, if_neg (by rw [hk, hup]; decide), hcw]
    exact if_neg (by rw [him]; decide)
  · refine does_of_lift (f := Firm.activateFirmware cw) rfl ?_
    rw [Firm.activateFirmware, if_neg (by rw [hk, hup]; decide), if_pos hcw]
    exact ⟨rfl, fun _ _ => rfl⟩
  · have heq : Firm.activateFirmware cw s.m = (s.m.onFlash fun f => { f with patchNext := some x }).reply 8 [1] := by
      rw [Firm.activateFirmware, if_neg (by rw [hk, hup]; decide), if_neg (by rw [hcw]; decide), hx]
      exact if_pos (by rw [hsig, decide_eq_true hsvn]; rfl)
    constructor
    all_goals
      refine does_of_lift (f := Firm.activateFirmware cw) rfl ?_
      rw [heq]
    · exact ⟨rfl, fun _ _ => rfl⟩
    · rfl
  · refine does_of_lift (f := Firm.mctp ty payload) rfl ?_
    have hrelay : (s.m.on .MOD_STATUS_CORDWOOD_UP 0 && (ty == 1 || ty == 5)) = true := by
      rw [hup]
      obtain rfl | rfl := hty <;> rfl
    rw [Firm.mctp, if_neg (by rw [hk, hscan]; decide), if_neg (by obtain rfl | rfl := hty <;> decide), if_pos hrelay]
    exact ⟨rfl, rfl⟩
  · have heq : Firm.mctp ty payload s.m = s.m := by
      rw [Firm.mctp, if_neg (by rw [hk, hscan]; decide), if_neg hty, if_neg (by rw [hup, Bool.false_and]; decide)]
    exact congrArg Host.Outcome.next (congrArg (fun m => { s with m := m }) heq)
  · refine does_of_lift (f := Firm.console bytes rw') rfl ?_
    obtain ⟨hlen, heq⟩ := s.m.freshBytes_facts bytes.length
    have hflash : (s.m.freshBytes bytes.length).2.flash = s.m.flash := by rw [heq]
    have hpins : (s.m.freshBytes bytes.length).2.pins = s.m.pins := by rw [heq]
    rw [Firm.console, if_neg (by rw [hk, hscan]; decide)]
    dsimp only
    generalize s.m.freshBytes bytes.length = r at hlen hflash hpins
    obtain _ | ⟨b, y⟩ := rw'
    · refine ⟨⟨r.1, hlen, congrArg (fun p : Pins => p.uartOut ++ r.1) hpins⟩, fun _ => hflash, fun i hi => ?_, fun i hi => ?_⟩
      all_goals exact absurd hi (by rintro ⟨⟩)
    · refine ⟨⟨r.1, hlen, congrArg (fun p : Pins => p.uartOut ++ r.1) hpins⟩, fun h => absurd h (by rintro ⟨⟩), fun i hi => ?_, fun i hi => ?_⟩
      · obtain ⟨rfl, rfl⟩ := hi
        exact congrArg (fun f : Flash => { f with cordB := some y }) hflash
      · obtain ⟨rfl, rfl⟩ := hi
        exact congrArg (fun f : Flash => { f with cordA := some y }) hflash
  · rw [Mach.tapRegister, if_pos hscan]
    rfl
  · refine does_of_lift (f := Firm.boundaryScan ins cells) rfl ?_
    rw [Firm.boundaryScan, if_neg (by simpa [hlim] using hins)]
    refine ⟨rfl, rfl, fun h1 => ?_, fun h3 g hg => ?_, fun _ _ => rfl⟩
    · subst h1
      rfl
    · subst h3
      unfold Mach.pinOut
      exact (if_neg hg).trans (if_pos ((Bool.or_eq_true _ _).mpr (.inr rfl)))

end Sys2Proof.Machine

/-! Rings and their descriptors: doorbells, enables, fetches, coalesced signals (R398-R406), descriptors that are turned away (R410, R442),
FENCE and DP_RESET (R419, R447). -/
namespace Sys2Proof.Machine

/-! While no data-path reset is to end, the passing of time leaves the host's side as it was. -/

/-- The host's side of the module, and the records of the AUX domain. -/
def Mach.hostSide (m : Mach) : Hif × NMap Byte × Aux := (m.hif, m.host, m.aux)

theorem Mach.hostSide_bump (m : Mach) (f : Fld) (i n : Nat) : (m.bump f i n).hostSide = m.hostSide := by rw [Mach.bump_eq]; rfl
theorem Mach.hostSide_ev (m : Mach) (g c n : Nat) : (m.ev g c n).hostSide = m.hostSide := by rw [Mach.ev_eq]; rfl
theorem Mach.hostSide_hev (m : Mach) (b c n : Nat) : (m.hev b c n).hostSide = m.hostSide := by rw [Mach.hev_eq]; rfl

theorem Mach.hostSide_coreCycles (n : Nat) (m : Mach) (g : Nat) : (m.coreCycles n g).hostSide = m.hostSide := by
  have hpos : ∀ (m : Mach) (s p : Nat), (m.setRngPos g s p).hostSide = m.hostSide := by
    intro m s p
    unfold Mach.setRngPos
    split <;> rfl
  have hcount : ((m.addTo .CORE_CYCLE g n).ev g 1 n).hostSide = m.hostSide := by rw [Mach.hostSide_ev]; rfl
  have hcore : ∀ (m : Mach) (f : Core → Core), (m.onCore g f).hostSide = m.hostSide := fun _ _ => rfl
  unfold Mach.coreCycles
  split
  · dsimp only
    generalize (m.addTo .CORE_CYCLE g n).ev g 1 n = m1 at hcount
    split
    · exact hcount
    · rw [hcore, hpos, hpos, hcount]
  · rfl

theorem Mach.hostSide_waitCycles (n : Nat) (m : Mach) (k : Nat) : (m.waitCycles n k).hostSide = m.hostSide := by
  have hcount : ∀ f c, ((m.members k).foldl (fun m g => if m.coreRuns g then (m.bump f g n).ev g (0x10 + c) n else m) m).hostSide = m.hostSide := by
    intro f c
    refine foldl_keep Mach.hostSide _ (fun m g => ?_) _ m
    split
    · rw [Mach.hostSide_ev, Mach.hostSide_bump]
    · rfl
  unfold Mach.waitCycles
  dsimp only
  split
  · exact hcount _ _
  · exact hcount _ _
  · split
    · rfl
    · exact hcount _ _
  · rfl

theorem Mach.hostSide_clockDie (n : Nat) (m : Mach) (d : Nat) : (m.clockDie n d).hostSide = m.hostSide := by
  have hs : (m.stretched d n).2.hostSide = m.hostSide := by
    unfold Mach.stretched
    split <;> rfl
  unfold Mach.clockDie
  generalize m.stretched d n = r at hs
  obtain ⟨k, m'⟩ := r
  dsimp only
  have hadd : ∀ (m : Mach) (f : Fld) (i n : Nat), (m.addTo f i n).hostSide = m.hostSide := fun _ _ _ _ => rfl
  rw [foldl_keep Mach.hostSide _ (Mach.hostSide_waitCycles k), hadd, foldl_keep Mach.hostSide _ (Mach.hostSide_coreCycles k), hs]

theorem Mach.hostSide_settleHalts (m : Mach) : m.settleHalts.hostSide = m.hostSide := by
  refine foldl_keep Mach.hostSide _ (fun m kc => ?_) _ m
  split
  · split <;> rfl
  · rfl

theorem Mach.hostSide_passing {m : Mach} (h : m.aux.dpEnd = none) (n k : Nat) : (m.passing n k).hostSide = m.hostSide := by
  unfold Mach.passing
  dsimp only
  generalize hcounted : (if m.aux.inLimits = true then m.wr .TICK_TIME 0 (m.time + k) else m) = m1
  have h1 : m1.hostSide = m.hostSide := by rw [← hcounted]; split <;> rfl
  generalize hsettled : Mach.settleHalts _ = m2
  have h2 : m2.hostSide = m.hostSide := by rw [← hsettled, Mach.hostSide_settleHalts]; exact h1
  generalize hhub : List.foldl (fun m b => m.hev b 1 n) (m2.addTo .TICK_HUB_CYCLE 0 n) _ = m3
  have h3 : m3.hostSide = m.hostSide := by
    rw [← hhub, foldl_keep Mach.hostSide _ fun m b => Mach.hostSide_hev _ _ _ _]
    exact h2
  generalize hcredit : (if m3.creditWaits = true then m3.hev 0 0x18 n else m3) = m4
  have h4 : m4.hostSide = m.hostSide := by
    rw [← hcredit]
    split
    · rw [Mach.hostSide_hev, h3]
    · exact h3
  have h5 : (m4.bump .HIF_CQ_WAIT_CYCLES 0 (n * m4.cqWaits)).hostSide = m.hostSide := (Mach.hostSide_bump _ _ _ _).trans h4
  generalize m4.bump .HIF_CQ_WAIT_CYCLES 0 (n * m4.cqWaits) = m5 at h5
  generalize hclock : (if m2.clocked = true then _ else m2) = m6
  have h6 : m6.hostSide = m.hostSide := by
    rw [← hclock]
    split
    · exact (foldl_keep Mach.hostSide _ (Mach.hostSide_clockDie _) _ _).trans h5
    · exact h2
  have hend : m6.aux.dpEnd = none := (congrArg (fun p : Hif × NMap Byte × Aux => p.2.2.dpEnd) h6).trans h
  rw [Mach.dpFinish, hend]
  exact h6

theorem Mach.hostSide_advanceTo {m : Mach} (h : m.aux.dpEnd = none) (t : Nat) : (m.advanceTo t).hostSide = m.hostSide := by
  have hs : ∀ n, (m.slewed n).2.hostSide = m.hostSide := fun n => by
    unfold Mach.slewed
    split <;> rfl
  unfold Mach.advanceTo
  split
  · dsimp only
    rw [Mach.hostSide_passing (by exact (congrArg (fun p : Hif × NMap Byte × Aux => p.2.2.dpEnd) (hs _)).trans h), hs]
  · rfl

/-! Doorbells and enables (R398-R402). -/

/-- A doorbell whose value lies outside its ring (R399). -/
theorem Mach.rd_badDoorbell (m : Mach) (r : Nat) : let m' := (m.wr .HIF_RING_STATUS_DB_ERR r 1).bump .HIF_DB_ERRORS 0 1
    m'.rd .HIF_RING_STATUS_DB_ERR r = 1 ∧ m'.hif = m.hif ∧
      ∀ g i, ¬(g = .HIF_RING_STATUS_DB_ERR ∧ i = r) → g ≠ .HIF_DB_ERRORS → m'.rd g i = m.rd g i := by
  refine ⟨?_, ?_, fun g i hg he => ?_⟩
  · rw [Mach.rd_bump_ne _ _ _ _ (by rintro ⟨⟨⟩, -⟩), Mach.rd_wr, if_pos ⟨rfl, rfl⟩]
    rfl
  · rw [Mach.bump_eq]
    rfl
  · rw [Mach.rd_bump_ne _ _ _ _ fun h => he h.1, Mach.rd_wr, if_neg hg]

/-- Settles O32: a doorbell moves its ring's pointer or is refused (`Mach.rd_badDoorbell`), and what an enable and a disable write. -/
theorem ringControl : Obligations.RingControl := by
  unfold Obligations.RingControl
  intro r v s hup
  have hrd : ∀ f i, (s.m.otherAccess 0).rd f i = s.m.rd f i := fun f i => Mach.rd_otherAccess _ _ _ _
  have hdescs : (s.m.otherAccess 0).hif.descs = s.m.hif.descs := rfl
  have hup' : (s.m.otherAccess 0).mainUp = true := hup
  have hon : (s.m.otherAccess 0).on .HIF_RING_CFG_ENABLE r.toNat = s.m.on .HIF_RING_CFG_ENABLE r.toNat := Mach.on_otherAccess _ _ _ _
  have hlen : (s.m.otherAccess 0).ringLen r.toNat = s.m.ringLen r.toNat := by rw [Mach.ringLen, hrd]; rfl
  refine ⟨fun hen hv => ⟨?_, ?_⟩, fun hen hv c hc => ?_, fun hen => ?_, ?_⟩
  · refine does_of_lift (f := fun m => Hif.tailDoorbell r v (m.otherAccess 0)) rfl ?_
    rw [Hif.tailDoorbell, hup', hon, hen, if_neg (by decide), hlen, if_pos hv]
    exact ⟨rfl, NMap.get_set_self _ _ _, hrd⟩
  · refine does_of_lift (f := fun m => Hif.headDoorbell r v (m.otherAccess 0)) rfl ?_
    rw [Hif.headDoorbell, hup', hon, hen, if_neg (by decide), hlen, if_pos hv]
    exact ⟨rfl, NMap.get_set_self _ _ _, hrd⟩
  · have hbad : exec c s = .next (s.lift fun m => ((m.otherAccess 0).wr .HIF_RING_STATUS_DB_ERR r.toNat 1).bump .HIF_DB_ERRORS 0 1) := by
      refine (?_ : exec c s = .next (s.lift fun _ => _)).trans rfl
      obtain rfl | rfl := hc
      · refine congrArg (fun m => Host.Outcome.next { s with m := m }) ?_
        show Hif.tailDoorbell r v (s.m.otherAccess 0) = _
        rw [Hif.tailDoorbell, hup', hon, hen, if_neg (by decide), hlen, if_neg (Nat.not_lt.mpr hv)]
      · refine congrArg (fun m => Host.Outcome.next { s with m := m }) ?_
        show Hif.headDoorbell r v (s.m.otherAccess 0) = _
        rw [Hif.headDoorbell, hup', hon, hen, if_neg (by decide), hlen, if_neg (Nat.not_lt.mpr hv)]
    refine does_of_lift hbad ?_
    obtain ⟨herr, hhif, hothers⟩ := (s.m.otherAccess 0).rd_badDoorbell r.toNat
    exact ⟨herr, hhif, fun g i hg he => (hothers g i hg he).trans (hrd g i)⟩
  · refine does_of_lift (f := fun m => Hif.ringEnable r (m.otherAccess 0)) rfl ?_
    rw [Hif.ringEnable, hup', hon, hen, if_neg (by decide)]
    dsimp only
    generalize hm1 : Mach.wrs (s.m.otherAccess 0) r.toNat _ = m1
    have hh : m1.hif = (s.m.otherAccess 0).hif := by rw [← hm1, Mach.wrs_eq]
    refine ⟨?_, ?_, ?_, ?_, ?_, ?_, ?_, (congrArg Hif.descs hh :)⟩
    case refine_6 => exact NMap.get_set_self m1.hif.sqTail r.toNat 0
    case refine_7 => exact NMap.get_set_self m1.hif.cqHead r.toNat 0
    all_goals
      show m1.rd _ _ = _
      rw [← hm1]
      simp only [Mach.wrs_cons, Mach.wrs_nil, Mach.rd_wr, reduceCtorEq, false_and, if_false, and_self, if_true]
      rfl
  · refine does_of_lift (f := fun m => Hif.ringDisable r (m.otherAccess 0)) rfl ?_
    rw [Hif.ringDisable, if_pos hup']
    refine ⟨?_, rfl, fun g i hg _ => ?_⟩
    · rw [Mach.rd_wr, if_pos ⟨rfl, rfl⟩]
      rfl
    · rw [Mach.rd_wr, if_neg hg, hrd]

/-! Fetches and coalesced signals (R400-R406). -/

theorem Mach.hif_event_descs (m : Mach) (f : Fld) : (m.event f).hif.descs = m.hif.descs := by
  unfold Mach.event Mach.signal
  dsimp only
  split
  · split <;> rfl
  · rfl

/-- Settles O33: the branches of a fetch; the time that passes before a coalesced signal leaves the host's side
(`Mach.hostSide_advanceTo`). -/
theorem ringService : Obligations.RingService := by
  unfold Obligations.RingService
  intro r fails s
  refine ⟨fun hup hwants => ⟨fun hturn => ?_, fun hturn hbad hty => ?_, fun hturn hbad => ?_⟩, fun hup hus hcount hend => ?_⟩
  · have heq : Hif.fetch r fails s.m = s.m := by
      rw [Hif.fetch]
      dsimp only
      rw [hup, hwants, if_neg (by decide), if_pos (bne_iff_ne.mpr hturn)]
    exact congrArg (fun m => Host.Outcome.next { s with m := m }) heq
  · refine does_of_lift (f := Hif.fetch r fails) rfl ?_
    rw [Hif.fetch]
    dsimp only
    rw [hup, hwants, if_neg (by decide), hturn, if_neg (by rw [bne_self_eq_false]; decide), if_neg hbad]
    rw [if_pos (by exact hty)]
    generalize hm1 : Mach.onHif _ _ = m1
    have hhif : (m1.hev 3 0x30 1).hif = m1.hif := by rw [Mach.hev_eq]
    have hhost : (m1.hev 3 0x30 1).host = m1.host := by rw [Mach.hev_eq]
    rw [hhif, hhost, (m1.lasts_hev 3 0x30 1).rd _ _ rfl rfl, ← hm1]
    exact ⟨rfl, rfl, (Mach.rd_wr ..).trans (if_pos ⟨rfl, rfl⟩), rfl⟩
  · refine does_of_lift (f := Hif.fetch r fails) rfl ?_
    rw [Hif.fetch]
    dsimp only
    rw [hup, hwants, if_neg (by decide), hturn, if_neg (by rw [bne_self_eq_false]; decide), if_pos hbad]
    refine ⟨?_, Mach.rd_event_self (by decide) _, Mach.hif_event_descs _ _, ?_⟩
    · rw [Mach.rd_event_of_ne (by decide) (by decide), Mach.rd_wr, if_pos ⟨rfl, rfl⟩]
      rfl
    · rw [Mach.rd_event_of_ne (by decide) (by decide), Mach.rd_wr, if_neg (by rintro ⟨⟨⟩, -⟩)]
  · refine does_of_lift (f := Hif.coalesceTimer r) rfl ?_
    have hl := s.m.lasts_advanceTo ((s.m.coal r.toNat).since + 1000 * s.m.rd .HIF_RING_CFG_COAL_US r.toNat)
    have hh := Mach.hostSide_advanceTo hend ((s.m.coal r.toNat).since + 1000 * s.m.rd .HIF_RING_CFG_COAL_US r.toNat)
    rw [Hif.coalesceTimer]
    dsimp only
    rw [if_neg (by simp [hup, hus, hcount])]
    generalize s.m.advanceTo _ = m1 at hl hh
    have hsent : m1.hif.sent = s.m.hif.sent := congrArg (fun p : Hif × NMap Byte × Aux => p.1.sent) hh
    have hmask : ∀ i, (m1.setCoal r.toNat ⟨0, 0⟩).on .MSIX_MASK i = s.m.on .MSIX_MASK i := fun i => hl.on .MSIX_MASK i rfl rfl
    have hrd : ∀ f i, f.aside = false → f.ofTime = false → (m1.setCoal r.toNat ⟨0, 0⟩).rd f i = s.m.rd f i := hl.rd
    rw [hl.rd .HIF_RING_CFG_VECTOR r.toNat rfl rfl]
    refine ⟨?_, fun hm => ?_, fun hm => ?_⟩
    · refine Eq.trans ?_ (NMap.get_set_self (d := fun _ => (⟨0, 0⟩ : Coal)) m1.hif.coal r.toNat ⟨0, 0⟩)
      unfold Mach.signal
      split <;> rfl
    · rw [Mach.signal, if_pos ((hmask _).trans hm)]
      refine ⟨?_, hsent⟩
      rw [Mach.rd_wr, if_pos ⟨rfl, rfl⟩]
      rfl
    · rw [Mach.signal, if_neg (by rw [hmask, hm]; decide), hrd _ _ rfl rfl, hrd _ _ rfl rfl]
      exact congrArg (· ++ _) hsent

/-! Descriptors that are turned away (R410, R442). -/

theorem Mach.findDesc_inProgress {m : Mach} {r i ty : Nat} {d : Desc} (h : m.findDesc r i ty = some d) :
    (m.setBusy d).hif.descs.any (·.seq == d.seq) = true := by
  rw [Mach.descs_setBusy, List.any_map]
  exact List.any_eq_true.2 ⟨d, List.mem_of_find?_eq_some h, by simp⟩

section
variable {m : Mach} {r i ty : Nat} {d : Desc} (hfind : m.findDesc r i ty = some d) (hup : m.hifUp = true) (hidle : d.busy = false)
  (hmay : m.mayStart d = true)
include hfind hup hidle hmay

theorem Mach.descRow_notReady (hready : m.ready = false) (hty : ty ≠ 10) (bad : Mach → Desc → Bool) (start go : Desc → Mach → Mach) :
    m.descRow r i ty bad start go = (m.setBusy d).complete d 5 0 0 [] := by
  have hno : (!(m.setBusy d).ready && ty != 10) = true := by
    rw [show (m.setBusy d).ready = false from hready, Bool.not_false, Bool.true_and, bne_iff_ne]
    exact hty
  rw [Mach.descRow, hfind]
  dsimp only
  rw [hup, Bool.not_true, if_neg Bool.false_ne_true, hidle, if_neg Bool.false_ne_true, hmay, Bool.not_true, if_neg Bool.false_ne_true, if_pos hno]

theorem Mach.descRow_malformed (hready : m.ready = true) (hbad : d.bad = true) (bad : Mach → Desc → Bool) (start go : Desc → Mach → Mach) :
    m.descRow r i ty bad start go = (m.setBusy d).complete d 1 0 0 [] := by
  have hready' : (!(m.setBusy d).ready && ty != 10) = false := by rw [show (m.setBusy d).ready = true from hready]; rfl
  rw [Mach.descRow, hfind]
  dsimp only
  rw [hup, Bool.not_true, if_neg Bool.false_ne_true, hidle, if_neg Bool.false_ne_true, hmay, Bool.not_true, if_neg Bool.false_ne_true, hready',
    if_neg Bool.false_ne_true, hbad, Bool.true_or, if_pos rfl]

end

/-- R419: FENCE `d` waits, or completes, having invalidated the caches that it is asked to. -/
def fenceGo (d : Desc) (m : Mach) : Mach :=
  if Hif.fenceWaits m d then m else (if d.at_ 8 1 = 1 then Hif.cacheInv (d.at_ 0 8) m else m).complete d 0 0 0 []

def fenceBad (_ : Mach) (d : Desc) : Bool := decide (1 < d.at_ 8 1) || !d.zero 9 (if d.fmt1 then 28 else 16)

theorem fence_eq (r : BitVec 8) (i : BitVec 16) (m : Mach) : Hif.fence r i m = m.descRow r.toNat i.toNat 11 fenceBad fenceGo fenceGo := rfl

/-- Settles O35: every descriptor's row checks READY and the form first (`Mach.descRow`). -/
theorem descriptorsTurnedAway : Obligations.DescriptorsTurnedAway := by
  unfold Obligations.DescriptorsTurnedAway
  intro r i d ack sig fails ps cause data s c ty hc hfind hup hidle hmay
  have hrow : ∃ bad start go, exec c s = .next (s.lift fun m => m.descRow r.toNat i.toNat ty bad start go) := by
    simp only [List.mem_cons, Prod.mk.injEq, List.not_mem_nil, or_false] at hc
    obtain ⟨rfl, rfl⟩ | ⟨rfl, rfl⟩ | ⟨rfl, rfl⟩ | ⟨rfl, rfl⟩ | ⟨rfl, rfl⟩ | ⟨rfl, rfl⟩ | ⟨rfl, rfl⟩ | ⟨rfl, rfl⟩ | ⟨rfl, rfl⟩ | ⟨rfl, rfl⟩ |
      ⟨rfl, rfl⟩ | ⟨rfl, rfl⟩ := hc
    case inr.inr.inr.inr.inr.inr.inr.inr.inr.inr.inl => exact ⟨fenceBad, fenceGo, fenceGo, rfl⟩
    all_goals exact ⟨_, _, _, rfl⟩
  obtain ⟨bad, start, go, hrow⟩ := hrow
  refine ⟨fun hready hty => does_of_lift hrow ?_, fun hready hbad => does_of_lift hrow ?_⟩
  · rw [Mach.descRow_notReady hfind hup hidle hmay hready hty]
    exact .of_setBusy (Mach.complete_ended (Mach.findDesc_inProgress hfind) 5 0 0 [])
  · rw [Mach.descRow_malformed hfind hup hidle hmay hready hbad]
    exact .of_setBusy (Mach.complete_ended (Mach.findDesc_inProgress hfind) 1 0 0 [])

/-! FENCE (R236, R419). -/

/-- An end stands as well from a state of the same descriptors and completion registers. -/
theorem Mach.Ended.of_same {m m1 m' : Mach} {d : Desc} {status detail info : Nat} (h : m1.Ended m' d status detail info)
    (hdescs : m1.hif.descs = m.hif.descs)
    (hrd : ∀ f ∈ [Fld.HIF_RING_CQ_BASE, .HIF_RING_STATUS_CQ_TAIL, .HIF_RING_STATUS_PHASE, .HIF_RING_CFG_LOG], m1.rd f d.ring = m.rd f d.ring) :
    m.Ended m' d status detail info := by
  obtain ⟨hd, hentry, htail⟩ := h
  have hlen : m1.ringLen d.ring = m.ringLen d.ring := congrArg (2 ^ ·) (hrd .HIF_RING_CFG_LOG (by decide))
  rw [hdescs] at hd
  rw [hrd _ (by decide), hrd _ (by decide), hrd _ (by decide)] at hentry
  rw [hrd _ (by decide), hlen] at htail
  exact ⟨hd, hentry, htail⟩

/-- One core's instruction cache is invalidated (R236). -/
def Mach.invalidate (m : Mach) (g : Nat) : Mach :=
  (m.wr .CC_CODE_STATUS_STALE g 0).onCore g fun c => { c with icache := [], stopped := false }

theorem Mach.rd_invalidates {f : Fld} (hf : f ≠ .CC_CODE_STATUS_STALE) (i : Nat) (l : List Nat) (m : Mach) :
    (l.foldl Mach.invalidate m).rd f i = m.rd f i :=
  foldl_keep (fun m : Mach => m.rd f i) Mach.invalidate (fun m g => (Mach.rd_wr m _ f g i 0).trans (if_neg fun h => hf h.1)) l m

/-- The cores that are named, and no others, are invalidated. -/
theorem Mach.invalidates (g : Nat) (l : List Nat) (m : Mach) :
    (g ∉ l → (l.foldl Mach.invalidate m).core g = m.core g ∧
      (l.foldl Mach.invalidate m).rd .CC_CODE_STATUS_STALE g = m.rd .CC_CODE_STATUS_STALE g) ∧
    (g ∈ l → (l.foldl Mach.invalidate m).rd .CC_CODE_STATUS_STALE g = 0 ∧ ((l.foldl Mach.invalidate m).core g).icache = [] ∧
      ((l.foldl Mach.invalidate m).core g).stopped = false) := by
  induction l generalizing m with
  | nil => exact ⟨fun _ => ⟨rfl, rfl⟩, fun h => absurd h List.not_mem_nil⟩
  | cons x l ih =>
    obtain ⟨hout, hin⟩ := ih (m.invalidate x)
    refine ⟨fun h => ?_, fun h => ?_⟩
    · rw [List.mem_cons, not_or] at h
      obtain ⟨hcore, hrd⟩ := hout h.2
      exact ⟨hcore.trans ((Mach.core_onCore _ _ _ _).trans (if_neg h.1)), hrd.trans ((Mach.rd_wr ..).trans (if_neg fun hx => h.1 hx.2))⟩
    · by_cases hl : g ∈ l
      · exact hin hl
      · obtain rfl : g = x := (List.mem_cons.mp h).resolve_right hl
        obtain ⟨hcore, hrd⟩ := hout hl
        have hself : (m.invalidate g).core g = { m.core g with icache := [], stopped := false } := 
          (Mach.core_onCore _ _ _ _).trans (if_pos rfl)
        rw [List.foldl_cons, hrd, hcore, hself]
        exact ⟨(Mach.rd_wr ..).trans (if_pos ⟨rfl, rfl⟩), rfl, rfl⟩

/-- R380, R447: what ends with a data-path reset. -/
theorem Mach.discardEnds_eq (m : Mach) : m.discardEnds = { m with fab := m.discardEnds.fab } := by
  have hcredit : ∀ (m : Mach) l c, m.returnCredit l c = { m with fab := (m.returnCredit l c).fab } := by
    intro m l c
    unfold Mach.returnCredit
    dsimp only
    split
    · exact m.sendRaw_eq _ _
    · rfl
  refine Mach.foldl_eq_fab (fun m e => ?_) _ m
  unfold Mach.popped
  dsimp only
  generalize hm1 : (if e.link = 0 then m else m.returnCredit (e.link - 1) 1) = m1
  have h1 : m1 = { m with fab := m1.fab } := by
    rw [← hm1]
    split
    · rfl
    · exact hcredit _ _ _
  rw [h1]
  split <;> rfl

/-- The end of a freeze writes registers and the times of tests that it held. -/
theorem Mach.unfreeze_eq (m : Mach) : m.unfreeze = { m with regs := m.unfreeze.regs, timers := m.unfreeze.timers } := by
  unfold Mach.unfreeze
  dsimp only
  generalize (if m.frozen = true then m.time - m.rd .DBG_FREEZE_AT 0 else 0) = gone
  split <;> rfl

/-- The fields that the end of a freeze writes (R476). -/
def unfreezeFields : List Fld :=
  [.TICK_NEXT, .DBG_FREEZE_CTRL_FROZEN, .MOD_STATUS_FROZEN, .DBG_FREEZE_CTRL_HOST, .TICK_STATE_HELD]

theorem Mach.rd_unfreeze (m : Mach) {f : Fld} (hf : f ∉ unfreezeFields) (i : Nat) : m.unfreeze.rd f i = m.rd f i := by
  simp only [unfreezeFields, List.mem_cons, List.not_mem_nil, or_false, not_or] at hf
  obtain ⟨hn, hz, hs, hh, hd⟩ := hf
  unfold Mach.unfreeze
  dsimp only
  generalize hm1 : ({ m with timers := _ } : Mach) = m1
  have h1 : m1.rd f i = m.rd f i := by rw [← hm1]; rfl
  generalize hm2 : (if (m1.frozen && m1.on .TICK_STATE_GEN_RUNNING 0) = true then _ else m1) = m2
  have h2 : m2.rd f i = m.rd f i := by
    rw [← hm2]
    split
    · rw [Mach.rd_wr, if_neg (hn ·.1), h1]
    · exact h1
  simp only [Mach.wrs_cons, Mach.wrs_nil, Mach.rd_wr, hd, hh, hs, hz, false_and, if_false, h2]

theorem Mach.mem_abortSwap (m : Mach) : m.abortSwap.mem = m.mem := by
  unfold Mach.abortSwap
  split
  · rfl
  next w _ =>
    dsimp only
    generalize hm1 : Mach.wrs ({ m with tick := { m.tick with swap := none } } : Mach) 0 _ = m1
    have hmem : m1.mem = m.mem := by rw [← hm1, Mach.wrs_eq]
    cases w.desc with
    | none => exact hmem
    | some d => exact (congrArg Still.mem (Mach.still_complete m1 d _ _ _ _)).trans hmem

theorem Mach.armed_abortDescs (m : Mach) (ds : List Desc) : (m.abortDescs ds).armed = m.armed := by
  have hcomplete : ∀ (m : Mach) (d : Desc) (st de inf : Nat) (res : List Byte), (m.complete d st de inf res).armed = m.armed :=
    fun m d st de inf res => (congrArg Mach.armed (m.lasts_complete d st de inf res).lasting :
      (m.complete d st de inf res).lasting.armed = m.lasting.armed)
  apply foldl_keep Mach.armed
  intro m d
  split
  · rw [Mach.endJob, hcomplete]
  · rw [hcomplete]

/-- R447, Table BOOT-5: a data-path reset that begins ends the step and the armed step, and empties the contexts and the flags. -/
theorem Mach.dpReset_begins {m : Mach} (hr : m.aux.reset = none) (he : m.aux.dpEnd = none) (d : Option Desc) :
    (m.dpReset d).aux.dpEnd.isSome = true ∧ (m.dpReset d).step = none ∧ (m.dpReset d).armed = none ∧ (m.dpReset d).ctxs = [] ∧
      (∀ n, (m.dpReset d).rd .FLAG n = 0) ∧ (m.dpReset d).mem = m.mem := by
  have hmem1 := m.mem_abortSwap
  unfold Mach.dpReset
  rw [hr, he, if_neg (by decide)]
  dsimp only
  generalize m.abortSwap = m1 at hmem1
  generalize hm2 : Mach.abortDescs _ _ = m2
  have hstep2 : m2.step = none := by rw [← hm2, Mach.step_abortDescs]
  have harmed2 : m2.armed = none := by rw [← hm2, Mach.armed_abortDescs]
  have hmem2 : m2.mem = m.mem := by rw [← hm2]; exact (congrArg Still.mem (Mach.still_abortDescs _ _)).trans hmem1
  generalize hm3 : m2.discardEnds = m3
  rw [Mach.discardEnds_eq] at hm3
  have h3 : m3.step = none ∧ m3.armed = none ∧ m3.mem = m.mem := by
    rw [← hm3]
    exact ⟨hstep2, harmed2, hmem2⟩
  obtain ⟨hstep3, harmed3, hmem3⟩ := h3
  generalize hm4 : Mach.unfreeze _ = m4
  have hflag4 : ∀ n, m4.rd .FLAG n = 0 := fun n => by
    rw [← hm4, Mach.rd_unfreeze _ (by decide)]
    exact (Mach.rd_filter (fun f _ => !f.clearedByDp) m3 _ rfl .FLAG n).trans (if_neg (by decide))
  have h4 : m4.step = none ∧ m4.armed = none ∧ m4.ctxs = [] ∧ m4.mem = m.mem := by
    rw [← hm4, Mach.unfreeze_eq]
    exact ⟨hstep3, harmed3, rfl, hmem3⟩
  obtain ⟨hstep4, harmed4, hctxs4, hmem4⟩ := h4
  rw [Mach.sendCtlAll_eq]
  exact ⟨rfl, hstep4, harmed4, hctxs4, hflag4, hmem4⟩

/-- Settles O38: FENCE waits or invalidates (`Mach.invalidates`) and ends; DP_RESET begins its reset (`Mach.dpReset_begins`). -/
theorem fences : Obligations.Fences := by
  unfold Obligations.Fences
  intro r i d s
  refine ⟨fun hb h1 hz => ?_, fun hb hz hr he => ?_⟩
  · have hbad : fenceBad (s.m.setBusy d) d = false := by
      rw [fenceBad, hz, decide_eq_false (Nat.not_lt.mpr h1)]
      rfl
    have heq : Hif.fence r i s.m = fenceGo d (s.m.setBusy d) := (fence_eq r i s.m).trans (hb.descRow_eq fenceGo fenceGo hbad)
    have hwaits : Hif.fenceWaits (s.m.setBusy d) d = Hif.fenceWaits s.m d := by
      rw [Hif.fenceWaits, Mach.descs_setBusy, List.any_map, Hif.fenceWaits]
      refine congrArg (List.any s.m.hif.descs) (funext fun e => ?_)
      rw [Function.comp_apply]
      split <;> rfl
    refine ⟨fun hw => does_of_lift (f := Hif.fence r i) rfl ?_, fun hw => does_of_lift (f := Hif.fence r i) rfl ?_⟩
    · rw [heq, fenceGo, hwaits, if_pos hw]
    · rw [heq, fenceGo, hwaits, if_neg (by rw [hw]; decide)]
      let cores := (List.range 64).filter fun g => bitsAt (d.at_ 0 8) g 1 == 1
      generalize hm1 : (if d.at_ 8 1 = 1 then Hif.cacheInv (d.at_ 0 8) (s.m.setBusy d) else s.m.setBusy d) = m1
      have hinv : m1 = (if d.at_ 8 1 = 1 then cores else []).foldl Mach.invalidate (s.m.setBusy d) := by
        rw [← hm1]
        split <;> rfl
      have hhif : m1.hif = (s.m.setBusy d).hif := by rw [hinv]; exact foldl_keep Mach.hif Mach.invalidate (fun _ _ => rfl) _ _
      have hmem : m1.mem = s.m.mem := by rw [hinv]; exact foldl_keep Mach.mem Mach.invalidate (fun _ _ => rfl) _ _
      have hrd : ∀ f, f ≠ .CC_CODE_STATUS_STALE → m1.rd f d.ring = s.m.rd f d.ring := fun f hf => by
        rw [hinv, Mach.rd_invalidates hf]
        rfl
      have hstill := Mach.still_complete m1 d 0 0 0 []
      have hcore : ∀ g, (m1.complete d 0 0 0 []).core g = m1.core g := fun g => Mach.core_of_still hstill g
      refine ⟨?_, fun g hg h8 hbit => ?_, fun g hno => ?_, fun k => ?_⟩
      · refine .of_setBusy (.of_same (Mach.complete_ended ?_ 0 0 0 []) (congrArg Hif.descs hhif) fun f hf => hrd f ?_)
        · rw [hhif]; exact hb.inProgress
        · rintro rfl; exact absurd hf (by decide)
      · rw [hcore, Mach.rdAside_complete rfl, hinv, if_pos h8]
        refine ((s.m.setBusy d).invalidates g cores).2 (List.mem_filter.mpr ⟨List.mem_range.mpr hg, ?_⟩)
        rw [hbit]; rfl
      · rw [hcore, hinv, (((s.m.setBusy d).invalidates g _).1 ?_).1]
        · rfl
        · split
          next h8 =>
            intro hmem
            obtain ⟨-, hbit⟩ := List.mem_filter.mp hmem
            rw [hno.resolve_left (by rw [h8]; decide)] at hbit
            exact absurd hbit (by decide)
          · exact List.not_mem_nil
      · rw [Mach.byteAt_of_still hstill]
        exact congrArg (fun c => NMap.get byte0 c k) hmem
  · refine does_of_lift (f := Hif.dpReset r i) rfl ?_
    have heq : Hif.dpReset r i s.m = (s.m.setBusy d).dpReset (some d) :=
      hb.descRow_eq (bad := fun _ d => !d.zero 0 48) (fun d m => m.dpReset (some d)) noGo (by rw [hz]; rfl)
    obtain ⟨hend, hstep, harmed, hctxs, hflag, hmem⟩ := Mach.dpReset_begins (m := s.m.setBusy d) hr he (some d)
    rw [heq]
    exact ⟨hend, hstep, harmed, hctxs, hflag, fun k => congrArg (fun c => NMap.get byte0 c k) hmem⟩

end Sys2Proof.Machine

/-! SpecialWrites and ScrubAndRmw: what the statements do not allow for. -/
namespace Sys2Proof.Machine

/-- A module that shows READY, with a captured event in core 0, whose regulators are off. -/
def readyWithoutPower : State :=
  { State.reset with m := Mach.reset.wrs 0 [(.MOD_STATUS_READY, 1), (.ACC_NF_CAPTURE_VALID, 1)] }

/-- Refutes O26: a host's write has no effect while the main domain is down, which READY alone does not exclude. -/
theorem not_specialWrites : ¬ Obligations.SpecialWrites := by
  unfold Obligations.SpecialWrites
  rintro ⟨h, -⟩
  obtain ⟨-, -, hclear, -⟩ := h 0 0 0 0 readyWithoutPower
  obtain ⟨t, ht, -, -, hvalid, -⟩ := hclear (by decide +kernel)
  obtain rfl := Host.Outcome.next.inj ht
  revert hvalid
  decide +kernel

/-! A partial write of a page whose stream cannot be parsed, with no run free in its unit's pool. The read of the page sets the POISON bit
of its entry (R263), so that the write that then fails has changed a byte of the page table. -/

/-- One page, in die 0's pool, which is enabled and holds no free run. -/
def onePage : Mach := Mach.reset.wrs 0 [(.MOD_STATUS_PWR_GOOD, 1), (.MEM_PEAT_CFG_PAGES, 1), (.MEM_PEAT_POOL_ENABLE, 1)]

/-- The page is of codec EXPO16, its stream of variant 2, which is none. -/
def brokenPage : State :=
  { State.reset with m := (onePage.agentWrite 0 (onePage.peatEntryAddr 0 0 + 4) [(0x80, false)]).agentWrite 0 (onePage.sectorAddr 0 0) [(2, false)] }

/-- Where the POISON bit of the page's entry lies. -/
def brokenBit : Nat := plainKey (onePage.peatEntryAddr 0 0 + 5)

theorem brokenPage_poolEmpty : (brokenPage.m.pageRead 0 0).2.peatPut 1 false 0 0 0 [(1, false)] = .error 11 := by
  have h : (match (brokenPage.m.pageRead 0 0).2.peatPut 1 false 0 0 0 [(1, false)] with
      | .error c => decide (c = 11)
      | .ok _ => false) = true := by decide +kernel
  generalize Mach.peatPut _ _ _ _ _ _ _ = r at h
  match r with
  | .error c => rw [of_decide_eq_true h]
  | .ok _ => exact absurd h Bool.false_ne_true

/-- Refutes O25: a read-modify-write that fails for want of a run leaves a page that it has found broken marked so. -/
theorem not_scrubAndRmw : ¬ Obligations.ScrubAndRmw := by
  unfold Obligations.ScrubAndRmw
  intro h
  obtain ⟨-, hrmw⟩ := h 0x40000000000 brokenPage (by decide +kernel)
  obtain ⟨-, herror, -⟩ := hrmw [1] false true 0 (.inl (by decide +kernel)) (by decide)
  obtain ⟨t, ht, -, -, -, -, -, hbytes⟩ := herror 11 (by decide +kernel) (by decide +kernel) brokenPage_poolEmpty
  obtain rfl := Host.Outcome.next.inj ht
  have hbit := hbytes brokenBit
  revert hbit
  decide +kernel

end Sys2Proof.Machine

/-! Frames on their way, and the DMA engine (R161, R163, R172, R210, R211, R267-R271, R306). -/
namespace Sys2Proof.Machine

/-! What a data frame's way leaves: the module but for the fabric, the counters and what a raise changes. -/

@[simp] theorem Mach.still_returnCredit (m : Mach) (l c : Nat) : (m.returnCredit l c).still = m.still := by
  unfold Mach.returnCredit
  dsimp only
  split
  · exact m.still_sendCtl _ _ _
  · rfl

@[simp] theorem Mach.still_settle (m : Mach) (k : Nat) : (m.settle k).still = m.still := rfl

@[simp] theorem Mach.still_dropUnreachable (m : Mach) (c s d : Nat) : (m.dropUnreachable c s d).still = m.still := by
  unfold Mach.dropUnreachable
  dsimp only
  split
  · rw [Mach.still_raise, Mach.still_bump]
  · exact m.still_bump _ _ _

@[simp] theorem Mach.still_sendOn (m : Mach) (k : Nat) (f : Frame) : (m.sendOn k f).still = m.still := by
  unfold Mach.sendOn
  dsimp only
  rw [Mach.still_hev, Mach.still_onFab, Mach.still_takeOwed]

@[simp] theorem Mach.still_tryWaiting (m : Mach) (w : Waiting) : (m.tryWaiting w).still = m.still := by
  have hback : ∀ m : Mach, (if w.link = 0 then m else m.returnCredit (w.link - 1) w.frame.cls).still = m.still := by
    intro m
    split
    · rfl
    · exact m.still_returnCredit _ _
  unfold Mach.tryWaiting
  dsimp only
  split
  · have hdrop := (hback _).trans (m.still_dropUnreachable w.frame.cls w.frame.sMod w.frame.dMod)
    split
    · exact hdrop
    · exact hdrop
  · split
    · rfl
    · rw [hback, Mach.still_sendOn, Mach.still_onFab]

@[simp] theorem Mach.still_flush (m : Mach) : m.flush.still = m.still := foldl_keep Mach.still Mach.tryWaiting Mach.still_tryWaiting _ _

@[simp] theorem Mach.still_sendLater (m : Mach) (f : Frame) : (m.sendLater f).still = m.still := Mach.still_flush _

@[simp] theorem Mach.still_memWrite (m : Mach) (c d a : Nat) (raw : Bool) (bs : List PByte) : (m.memWrite c d a raw bs).still = m.still := by
  unfold Mach.memWrite
  apply foldl_keep Mach.still
  exact fun _ _ => Mach.still_sendLater _ _

@[simp] theorem Mach.still_memRead (m : Mach) (c d a n : Nat) : (m.memRead c d a n).still = m.still := Mach.still_sendLater _ _

/-! The slots of a DMA engine. -/

theorem Core.dmaAt_setDma (c : Core) (i j : Nat) (r : Option DmaRun) : (c.setDma i r).dmaAt j = if j = i then r else c.dmaAt j :=
  NMap.get_set ..

/-- What stands after transfer of a slot is over: its next transfer, or nothing (R161). -/
def DmaRun.next (r : DmaRun) : Option DmaRun :=
  if dmaN r.cmd.ins ≤ r.done + 1 then none else some { r with done := r.done + 1, src := none, dst := none, moved := 0, held := [] }

theorem finish_eq (g s : Nat) (r : DmaRun) (m : Mach) : Dma.finish g s r m = m.onCore g fun c => c.setDma s r.next := rfl

section
variable (m : Mach) (g s : Nat) (r : Option DmaRun)

theorem Mach.dmaAt_setDma : ((m.onCore g fun c => c.setDma s r).core g).dmaAt s = r := by
  rw [Mach.core_onCore, if_pos rfl, Core.dmaAt_setDma, if_pos rfl]

theorem Mach.dmaAt_setDma_ne {j : Nat} (h : j ≠ s) : ((m.onCore g fun c => c.setDma s r).core g).dmaAt j = (m.core g).dmaAt j := by
  rw [Mach.core_onCore, if_pos rfl, Core.dmaAt_setDma, if_neg h]

end

theorem still_count (g n : Nat) (pref : Bool) (m : Mach) : (Dma.count g n pref m).still = m.still := by
  unfold Dma.count
  dsimp only
  split
  · rw [Mach.still_ev, Mach.still_ev, Mach.still_bump]
  · rw [Mach.still_ev, Mach.still_bump]

theorem fab_count (g n : Nat) (pref : Bool) (m : Mach) : (Dma.count g n pref m).fab = m.fab := by
  have hev : ∀ (m : Mach) a b c, (m.ev a b c).fab = m.fab := fun m a b c => by rw [Mach.ev_eq]
  have hbump : ∀ (m : Mach) f a b, (m.bump f a b).fab = m.fab := fun m f a b => by rw [Mach.bump_eq]
  unfold Dma.count
  dsimp only
  split
  · rw [hev, hev, hbump]
  · rw [hev, hbump]

theorem rd_count {f : Fld} (hb : f ≠ .DMA_BYTES) (hp : f.aside = false) (g n i : Nat) (pref : Bool) (m : Mach) :
    (Dma.count g n pref m).rd f i = m.rd f i := by
  have h : ((m.bump .DMA_BYTES g (n / 64)).ev g 9 (n / 64)).rd f i = m.rd f i := by
    rw [Mach.rdAside_ev hp, Mach.rd_bump_ne _ _ _ _ fun h => hb h.1]
  unfold Dma.count
  dsimp only
  split
  · rw [Mach.rdAside_ev hp, h]
  · exact h

theorem side_count (g n : Nat) (pref : Bool) (m : Mach) (a : Nat) : (Dma.count g n pref m).side a = m.side a := by
  rw [Mach.side, Mach.myId, rd_count (by decide) rfl]
  rfl

/-- DMA_COMMAND_START (R161). -/
theorem commandStart_starts {m : Mach} {g6 : BitVec 6} {cmd : Cmd} {rest : List Cmd} {i : Nat} (hrun : m.unitRuns g6.toNat .dma = true)
    (hq : (m.core g6.toNat).dmaQ = cmd :: rest) (hfree : ((List.range 16).find? fun i => ((m.core g6.toNat).dmaAt i).isNone) = some i) :
    Dma.commandStart g6 m = (m.popEng g6.toNat 5).onCore g6.toNat fun c =>
      c.setDma i (some ⟨cmd, nextOrd ((slotVals (m.core g6.toNat).dma).map (·.ord)), 0, none, none, 0, [], 0⟩) := by
  have hdma : ((m.popEng g6.toNat 5).core g6.toNat).dma = (m.core g6.toNat).dma := by
    rw [Mach.core_popEng, if_pos rfl]
    rfl
  rw [Dma.commandStart]
  rw [hq, hfree]
  dsimp only
  rw [if_pos hrun, Mach.onCore, hdma]
  rfl

/-- A transfer that is open goes on between its two addresses (R172). -/
theorem transferComplete_copies {m : Mach} {g6 : BitVec 6} {sl : BitVec 4} {r : DmaRun} {f : DmaF} {a b : AddrEnt}
    (hrun : m.unitRuns g6.toNat .dma = true) (hat : (m.core g6.toNat).dmaAt sl.toNat = some r) (hf : dmaOf r.cmd.ins = some f)
    (hsrc : okA f.src = true) (hdst : okA f.dst = true) (hbusy : (m.core g6.toNat).dmaBusy r = false) (ha : r.src = some a)
    (hb : r.dst = some b) (ack : Bool) (data : List Byte) (ps : List Bool) :
    Dma.transferComplete g6 sl ack data ps m =
      Dma.copy g6.toNat sl.toNat r f a.addr.toNat b.addr.toNat ack data ps m := by
  have hnoq : ∀ e : BitVec 6, okA e = true → isDataQ e.toNat = false := by decide
  have hopen : Dma.open_ g6.toNat sl.toNat r f m = some (r, m) := by rw [Dma.open_, ha, Option.isSome_some, if_pos rfl]
  rw [Dma.transferComplete]
  rw [hat]
  dsimp only
  rw [hf]
  dsimp only
  rw [hrun, hbusy, if_neg (by decide), hopen]
  dsimp only
  rw [ha, hb]
  dsimp only
  rw [hnoq _ hsrc, hnoq _ hdst, if_neg Bool.false_ne_true, if_neg Bool.false_ne_true]

/-- R269: the bytes of a transfer that this module's memory takes. -/
theorem store_local {g s b : Nat} {r : DmaRun} {pref : Bool} {bs : List PByte} {m m1 : Mach} (hlocal : (m.side b).remote = none)
    (hw : m.writeSide 0 (m.side b).addr false bs = .ok m1) (hlocal1 : (m1.side b).remote = none) :
    Dma.store g s r b pref bs m = Dma.finish g s r (Dma.count g bs.length pref m1) := by
  rw [Dma.store, Dma.writeDst, hlocal]
  dsimp only
  rw [hw]
  dsimp only
  rw [side_count, hlocal1]
  rfl

/-- R269: the bytes of a transfer that go to a remote module. -/
theorem store_remote {g s b d : Nat} {r : DmaRun} {pref : Bool} {bs : List PByte} {m : Mach} (hremote : (m.side b).remote = some d)
    (hremote1 : ((m.memWrite g d (m.side b).addr false bs).side b).remote = some d) :
    Dma.store g s r b pref bs m = (Dma.count g bs.length pref (m.memWrite g d (m.side b).addr false bs)).onCore g fun c =>
      c.setDma s (some { r with moved := bs.length, held := [] }) := by
  rw [Dma.store, Dma.writeDst, hremote]
  dsimp only
  rw [side_count, hremote1]
  rfl

/-- A write to plain storage is a write of its bytes, and the checks that follow it leave memory. -/
theorem Mach.mem_writeSide_plain {m m1 : Mach} {src a : Nat} {raw : Bool} {bs : List PByte} (h : m.writeSide src a raw bs = .ok m1)
    (h1 : rangeOf a ≠ .t2) (h2 : rangeOf a ≠ .packed) (h3 : rangeOf a ≠ .t2packed) : m1.mem = (m.plainWrite a bs).mem := by
  unfold Mach.writeSide at h
  split at h
  · exact absurd ‹_› h1
  · exact absurd ‹_› h2
  · exact absurd ‹_› h3
  · obtain rfl := Except.ok.inj h
    rw [Mach.agentWrite, Mach.codeCheck_mem]
    unfold Mach.stagingBytes
    split
    · rw [Mach.hev_eq]
      rfl
    · rfl

/-- Settles O23: a command takes its slot (`commandStart_starts`), and a transfer that is open copies (`transferComplete_copies`),
storing (`store_local`) or sending (`store_remote`) its bytes. -/
theorem dmaMoves : Obligations.DmaMoves := by
  unfold Obligations.DmaMoves
  refine ⟨fun g6 cmd rest i s hrun hq hfree => ?_, fun g6 sl ack ps data r f a b src m0 m1 s hrun hat hf hsrc hdst hbusy ha hb => ⟨?_, fun hmoved => ?_⟩⟩
  · refine does_of_lift (f := Dma.commandStart g6) rfl ?_
    rw [commandStart_starts hrun hq hfree]
    refine ⟨?_, ⟨_, Mach.dmaAt_setDma _ _ _ _⟩, fun j hj => ?_, fun h hh => ?_, fun _ _ => rfl, fun _ => rfl⟩
    · rw [Mach.core_onCore, if_pos rfl, Mach.core_popEng, if_pos rfl]
      exact congrArg (List.drop 1) hq
    · rw [Mach.dmaAt_setDma_ne _ _ _ _ hj, Mach.core_popEng, if_pos rfl]
      rfl
    · rw [Mach.core_onCore, if_neg hh, Mach.core_popEng, if_neg hh]
  · intro hmoved hbehind hside
    have hcopy : Dma.transferComplete g6 sl ack data ps s.m = Dma.store g6.toNat sl.toNat r b.addr.toNat
        (match r.cmd.ins with | .dpref .. => true | _ => false) (relayout f.layout.toNat src) m0 := by
      rw [transferComplete_copies hrun hat hf hsrc hdst hbusy ha hb, Dma.copy]
      rw [if_neg hmoved, hbehind, if_neg Bool.false_ne_true, hside] <;> rfl
    generalize (match r.cmd.ins with | .dpref .. => true | _ => false) = pref at hcopy
    refine ⟨fun _ hlocal haddr hw hlocal1 => does_of_lift (f := Dma.transferComplete g6 sl ack data ps) rfl ?_,
      fun d hremote hremote1 => does_of_lift (f := Dma.transferComplete g6 sl ack data ps) rfl ?_⟩
    · rw [hcopy, store_local hlocal (haddr ▸ hw) hlocal1, finish_eq]
      have hstill := still_count g6.toNat (relayout f.layout.toNat src).length pref m1
      generalize Dma.count g6.toNat (relayout f.layout.toNat src).length pref m1 = m2 at hstill
      refine ⟨Mach.dmaAt_setDma _ _ _ _, fun k => (Mach.byteAt_of_still hstill k :), fun k => (Mach.isPoison_of_still hstill k :), fun h1 h2 h3 => ?_⟩
      have hmem : m2.mem = (m0.plainWrite (s.m.side b.addr.toNat).addr (relayout f.layout.toNat src)).mem :=
        (congrArg Still.mem hstill).trans (Mach.mem_writeSide_plain hw h1 h2 h3)
      exact ⟨hmem, fun k hk => (congrArg (fun c => NMap.get byte0 c k) hmem).trans (m0.byteAt_plainWrite _ _ k hk)⟩
    · rw [hcopy, store_remote hremote hremote1]
      refine ⟨Mach.dmaAt_setDma _ _ _ _, ?_, fun k => ?_⟩
      · exact congrArg Fab.out (fab_count _ _ _ _)
      · exact Mach.byteAt_of_still ((still_count _ _ _ _).trans (Mach.still_memWrite _ _ _ _ _ _)) k
  · refine does_of_lift (f := Dma.transferComplete g6 sl true data ps) rfl ?_
    rw [transferComplete_copies hrun hat hf hsrc hdst hbusy ha hb, Dma.copy]
    rw [if_pos hmoved, if_pos rfl, finish_eq]
    exact ⟨Mach.dmaAt_setDma _ _ _ _, fun j hj => Mach.dmaAt_setDma_ne _ _ _ _ hj, fun h hh => (Mach.core_onCore _ _ _ _).trans (if_neg hh),
      fun _ _ => rfl, fun _ => rfl⟩

/-! Address faults (R267, R271) and IPULL (R306). -/

/-- The first address fault of the module is captured. -/
theorem Mach.captureFault_captures {m : Mach} (h : m.on .MEM_ADDR_FAULT_VALID 0 = false) (cause addr src : Nat) (hub : Bool) :
    let m' := m.captureFault cause addr hub src
    m'.rd .MEM_ADDR_FAULT_VALID 0 = 1 ∧ m'.rd .MEM_ADDR_FAULT_CAUSE 0 = cause % 16 ∧ m'.rd .MEM_ADDR_FAULT_ADDR 0 = addr % 2 ^ 44 ∧
      m'.rd .MEM_ADDR_FAULT_CORE 0 = (if hub then 0 else src) % 64 ∧ m'.rd .MEM_ADDR_FAULT_HUB 0 = b2n hub % 2 := by
  intro m'
  have heq : m' = m.wrs 0 [(.MEM_ADDR_FAULT_VALID, 1), (.MEM_ADDR_FAULT_ADDR, addr), (.MEM_ADDR_FAULT_CAUSE, cause),
      (.MEM_ADDR_FAULT_CORE, if hub then 0 else src), (.MEM_ADDR_FAULT_HUB, b2n hub), (.MEM_ADDR_FAULT_HUB_SRC, if hub then src else 0)] :=
    if_neg (by rw [h]; decide)
  rw [heq]
  simp only [Mach.wrs_cons, Mach.wrs_nil, Mach.rd_wr, reduceCtorEq, false_and, if_false, and_self, if_true]
  exact ⟨rfl, rfl, rfl, rfl, rfl⟩

theorem Mach.captureFault_eq (m : Mach) (cause addr src : Nat) (hub : Bool) :
    m.captureFault cause addr hub src = { m with regs := (m.captureFault cause addr hub src).regs } := by
  unfold Mach.captureFault
  split
  · rfl
  · exact Mach.wrs_eq _ _ _

theorem Mach.rd_addrFault (m : Mach) (g cause addr : Nat) {f : Fld} (hf : f.aside = false) (i : Nat) :
    (m.addrFault g cause addr).rd f i = (m.captureFault cause addr false g).rd f i := by
  unfold Mach.addrFault
  dsimp only
  split
  · exact Mach.rdAside_raise hf _ _ _ _ _ _ _
  · exact Mach.rdAside_raise hf _ _ _ _ _ _ _

/-- A slot copy is over: the slot and the core's cursor go on (R306). -/
theorem pulled_goesOn (g s n : Nat) (r : DmaRun) (m : Mach) : ((Dma.pulled g s n r m).core g).dmaAt s = r.next ∧
    (Dma.pulled g s n r m).rd .ING_RING_CUR (n * 64 + g) = (m.rd .ING_RING_CUR (n * 64 + g) + 1) % 2 ^ 48 ∧
    (∀ k, (Dma.pulled g s n r m).byteAt k = m.byteAt k) ∧ ∀ h, h ≠ g → (Dma.pulled g s n r m).core h = m.core h := by
  rw [Dma.pulled, finish_eq]
  refine ⟨Mach.dmaAt_setDma _ _ _ _, ?_, fun _ => rfl, fun h hh => (Mach.core_onCore _ _ _ _).trans (if_neg hh)⟩
  rw [Mach.rd_onCore, Mach.rd_wr, if_pos ⟨rfl, rfl⟩]
  rfl

/-- What IPULL copies once its slot is complete and its destination's address is at hand (R306). -/
theorem iPullSlotCopy_eq {m : Mach} {g6 : BitVec 6} {sl : BitVec 4} {r : DmaRun} {t : ThreadId} {a ring : BitVec 6} {n : BitVec 16}
    {tag : BitVec 4} (hrun : m.unitRuns g6.toNat .dma = true) (hat : (m.core g6.toNat).dmaAt sl.toNat = some r)
    (hins : r.cmd.ins = .ipull t a ring n tag) (hbusy : (m.core g6.toNat).dmaBusy r = false) (ack : Bool) :
    (r.src.isSome = true → Dma.iPullSlotCopy g6 sl true m = Dma.pulled g6.toNat sl.toNat ring.toNat r m) ∧
    (r.src = none → m.rd .ING_RING_CUR (ring.toNat * 64 + g6.toNat) < m.rd .ING_RING_WR_W ring.toNat →
      ∀ d m0 slot used m1, m.headA g6.toNat a.toNat = some d → m.dropA g6.toNat a.toNat = m0 →
        m0.ringSlot ring.toNat (m.rd .ING_RING_CUR (ring.toNat * 64 + g6.toNat)) = slot → m0.word (slot + 28) 4 = used →
        lowest (m0.sideCauses slot (max 1 used) false false (some g6.toNat) ++
          m0.sideCauses d.addr.toNat (max 1 used) true false (some g6.toNat)) = none →
        Dma.writeDst g6.toNat d.addr.toNat (m0.readSide slot used).1 (m0.readSide slot used).2 = .ok m1 →
        Dma.iPullSlotCopy g6 sl ack m = (let m2 := Dma.count g6.toNat used false m1
          if (m1.side d.addr.toNat).remote.isNone then Dma.pulled g6.toNat sl.toNat ring.toNat r m2
          else m2.onCore g6.toNat fun c => c.setDma sl.toNat (some { r with src := some ⟨BitVec.ofNat 64 slot, 0⟩, dst := some d, moved := used }))) := by
  refine ⟨fun hsrc => ?_, fun hsrc hcur d m0 slot used m1 hd hm0 hslot hused hok hw => ?_⟩
  · rw [Dma.iPullSlotCopy]
    dsimp only
    rw [hat]
    dsimp only
    rw [hins]
    dsimp only
    rw [hrun, hbusy, if_neg (by decide), if_pos hsrc, if_pos rfl]
  · subst hm0 hslot hused
    rw [Dma.iPullSlotCopy]
    dsimp only
    rw [hat]
    dsimp only
    rw [hins]
    dsimp only
    rw [hrun, hbusy, if_neg (by decide), hsrc, Option.isSome_none, if_neg Bool.false_ne_true, if_neg (Nat.not_le.mpr hcur), hd]
    dsimp only
    rw [hok]
    dsimp only
    rw [hw]
    dsimp only
    rw [side_count]

/-- Settles O24: a reported fault retires the transfer and is captured (`Mach.captureFault_captures`); a slot copy that IPULL can make
(`iPullSlotCopy_eq`) goes on (`pulled_goesOn`) or waits for the module that it is sent to. -/
theorem remoteFaultAndIpull : Obligations.RemoteFaultAndIpull := by
  unfold Obligations.RemoteFaultAndIpull
  refine ⟨fun g6 sl cause addr r s hup hfrozen hat hsrc => ?_, fun g6 sl r t a ring n tag d m1 ack s hrun hat hins hbusy => ⟨?_, fun hsrc => ?_⟩⟩
  · refine does_of_lift (f := Dma.addrFaultReport g6 sl cause addr) rfl ?_
    have heq : Dma.addrFaultReport g6 sl cause addr s.m =
        (s.m.onCore g6.toNat fun c => c.setDma sl.toNat r.next).addrFault g6.toNat cause.toNat addr.toNat := by
      rw [Dma.addrFaultReport]
      rw [hat]
      dsimp only
      rw [if_pos (by rw [hsrc, hup, hfrozen]; rfl)]
      rfl
    rw [heq]
    have hstill := Mach.still_addrFault (s.m.onCore g6.toNat fun c => c.setDma sl.toNat r.next) g6.toNat cause.toNat addr.toNat
    refine ⟨?_, fun hfree => ?_, fun h hh => ?_, fun k => (Mach.byteAt_of_still hstill k :)⟩
    · rw [Mach.core_of_still hstill]
      exact Mach.dmaAt_setDma _ _ _ _
    · obtain ⟨hvalid, hcause, haddr, hcore, hhub⟩ := Mach.captureFault_captures (m := s.m.onCore g6.toNat fun c => c.setDma sl.toNat r.next)
        hfree cause.toNat addr.toNat g6.toNat false
      iterate 5 rw [Mach.rd_addrFault _ _ _ _ rfl]
      exact ⟨hvalid, hcause.trans (Nat.mod_eq_of_lt cause.isLt), haddr, hcore.trans (Nat.mod_eq_of_lt g6.isLt), hhub⟩
    · rw [Mach.core_of_still hstill, Mach.core_onCore, if_neg hh]
  · intro hsrc hcur hd hok hw
    have hcopy := (iPullSlotCopy_eq hrun hat hins hbusy ack).2 hsrc hcur d _ _ _ m1 hd rfl rfl rfl hok hw
    dsimp only at hcopy
    refine ⟨fun hlocal => does_of_lift (f := Dma.iPullSlotCopy g6 sl ack) rfl ?_, fun hremote => does_of_lift (f := Dma.iPullSlotCopy g6 sl ack) rfl ?_⟩
    · rw [hlocal, Option.isNone_none, if_pos rfl] at hcopy
      rw [hcopy]
      obtain ⟨hnext, hcur', hbytes, -⟩ := pulled_goesOn g6.toNat sl.toNat ring.toNat r
        (Dma.count g6.toNat _ false m1)
      exact ⟨hnext, fun k => (hbytes k).trans (Mach.byteAt_of_still (still_count _ _ _ _) k),
        hcur'.trans (by rw [rd_count (by decide) rfl])⟩
    · rw [Option.isNone_eq_false_iff.mpr hremote, if_neg Bool.false_ne_true] at hcopy
      rw [hcopy]
      exact ⟨Mach.dmaAt_setDma _ _ _ _, rd_count (by decide) rfl _ _ _ _ _, congrArg Fab.out (fab_count _ _ _ _)⟩
  · refine does_of_lift (f := Dma.iPullSlotCopy g6 sl true) rfl ?_
    rw [(iPullSlotCopy_eq hrun hat hins hbusy true).1 hsrc]
    exact pulled_goesOn _ _ _ _ _

end Sys2Proof.Machine

/-! Register accesses (R13-R17, R372, R425, R515, R518): the fields that a whole write reaches, and what a half or a read leaves. -/
namespace Sys2Proof.Machine

/-! The register table. -/

theorem findReg_mem {rs : List RegSpec} {off : Nat} {ri : RegSpec × Nat} (h : findReg rs off = some ri) : ri.1 ∈ rs := by
  induction rs with
  | nil => exact nomatch h
  | cons r rs ih =>
    rw [findReg] at h
    split at h
    · exact List.mem_cons_of_mem _ (ih h)
    · split at h
      · obtain rfl := Option.some.inj h
        exact List.mem_cons_self
      · exact List.mem_cons_of_mem _ (ih h)

/-- The fields on which the locks of other fields depend (`Mach.locked`). -/
def lockFields : List Fld := [.MOD_STATUS_STEP_RUNNING, .HIF_STATUS_HDM_EN, .HIF_RING_CFG_ENABLE, .MEM_STATUS_LAYOUT_FIXED]

/-- The fields of a register are distinct, and where it has no row of its own none that a write changes decides a lock. -/
def RegSpec.sound (r : RegSpec) : Bool :=
  decide (r.fields.map (·.fld)).Nodup &&
    (r.fields.head?.any (fun f => !f.fld.rowless) || r.fields.all fun f => !lockFields.contains f.fld || !(f.acc == .rw || f.acc == .w1c))

theorem allRegs_sound : allRegs.all RegSpec.sound = true := by decide +kernel

/-- What a part of a register names: the field and its index. -/
def partKey (i : Nat) (fk : FieldSpec × Nat) : Fld × Nat := (fk.1.fld, fk.1.inst i fk.2)

theorem RegSpec.parts_nodup {r : RegSpec} (h : (r.fields.map (·.fld)).Nodup) (i : Nat) : (r.parts.map (partKey i)).Nodup := by
  unfold RegSpec.parts
  rw [List.map_flatMap, List.Nodup, List.pairwise_flatMap]
  rw [List.Nodup, List.pairwise_map] at h
  refine ⟨fun f _ => ?_, h.imp fun {f g} hfg => ?_⟩
  · rw [List.map_map]
    refine List.pairwise_map.mpr (List.nodup_range.imp fun {j k} hne heq => hne ?_)
    exact Nat.add_left_cancel (congrArg Prod.snd heq : f.inst i j = f.inst i k)
  · intro x hf y hg heq
    rw [List.map_map, List.mem_map] at hf hg
    obtain ⟨j, -, rfl⟩ := hf
    obtain ⟨k, -, rfl⟩ := hg
    exact hfg (congrArg Prod.fst heq)

/-! The write of one field by its access code (R13). -/

/-- What one field holds after a write of it by its access code (`Mach.Wrote`). -/
def Mach.FieldWrote (m : Mach) (req i v : Nat) (fk : FieldSpec × Nat) (m' : Mach) : Prop :=
  let f := fk.1
  let j := f.inst i fk.2
  let x := f.valOf fk.2 v
  let old := m.rd f.fld j
  (f.acc = .rw → m'.rd f.fld j = if f.fld.encOk j x && !m.locked req f.fld j then x % 2 ^ f.fld.width else old) ∧
  (f.acc = .rws → m'.rdS f.fld j = (if f.fld.encOk j x then x % 2 ^ f.fld.width else m.rdS f.fld j) ∧ m'.rd f.fld j = old) ∧
  (f.acc = .w1c → m'.rd f.fld j = (old - (old &&& x)) % 2 ^ f.fld.width) ∧
  (f.acc = .ro ∨ f.acc = .wo ∨ f.acc = .w1s → m'.rd f.fld j = old)

theorem Mach.putField_wrote (m : Mach) (req i v : Nat) (fk : FieldSpec × Nat) : m.FieldWrote req i v fk (m.putField req i v fk) := by
  obtain ⟨⟨f, lo, w, n, st, acc⟩, k⟩ := fk
  cases acc with
  | rw =>
    refine ⟨fun _ => ?_, by simp, by simp, by simp⟩
    dsimp only [Mach.putField]
    split
    · rw [Mach.rd_wr, if_pos ⟨rfl, rfl⟩]
    · rfl
  | rws =>
    refine ⟨by simp, fun _ => ?_, by simp, by simp⟩
    dsimp only [Mach.putField]
    split
    · exact ⟨(Mach.rdS_wrS ..).trans (if_pos ⟨rfl, rfl⟩), rfl⟩
    · exact ⟨rfl, rfl⟩
  | w1c => exact ⟨by simp, by simp, fun _ => (Mach.rd_wr ..).trans (if_pos ⟨rfl, rfl⟩), by simp⟩
  | ro => exact ⟨by simp, by simp, by simp, fun _ => rfl⟩
  | w1s => exact ⟨by simp, by simp, by simp, fun _ => rfl⟩
  | wo => exact ⟨by simp, by simp, by simp, fun _ => rfl⟩

/-- A field's write leaves every other field, and everything but registers. -/
theorem Mach.putField_keeps (m : Mach) (req i v : Nat) (fk : FieldSpec × Nat) :
    (∀ f j, partKey i fk ≠ (f, j) → (m.putField req i v fk).rd f j = m.rd f j ∧ (m.putField req i v fk).rdS f j = m.rdS f j) ∧
    (m.putField req i v fk).hif = m.hif ∧ (m.putField req i v fk).cores = m.cores ∧ (m.putField req i v fk).mem = m.mem ∧
    (m.putField req i v fk).ing = m.ing := by
  obtain ⟨⟨f, lo, w, n, st, acc⟩, k⟩ := fk
  have hne : ∀ {f' j'}, (f, i * n + k) ≠ (f', j') → ¬(f' = f ∧ j' = i * n + k) := fun h hfj => h (by rw [hfj.1, hfj.2])
  cases acc with
  | rw =>
    dsimp only [Mach.putField]
    split
    · exact ⟨fun f' j' h => ⟨(Mach.rd_wr ..).trans (if_neg (hne h)), rfl⟩, rfl, rfl, rfl, rfl⟩
    · exact ⟨fun _ _ _ => ⟨rfl, rfl⟩, rfl, rfl, rfl, rfl⟩
  | rws =>
    dsimp only [Mach.putField]
    split
    · exact ⟨fun f' j' h => ⟨rfl, (Mach.rdS_wrS ..).trans (if_neg (hne h))⟩, rfl, rfl, rfl, rfl⟩
    · exact ⟨fun _ _ _ => ⟨rfl, rfl⟩, rfl, rfl, rfl, rfl⟩
  | w1c => exact ⟨fun f' j' h => ⟨(Mach.rd_wr ..).trans (if_neg (hne h)), rfl⟩, rfl, rfl, rfl, rfl⟩
  | ro => exact ⟨fun _ _ _ => ⟨rfl, rfl⟩, rfl, rfl, rfl, rfl⟩
  | w1s => exact ⟨fun _ _ _ => ⟨rfl, rfl⟩, rfl, rfl, rfl, rfl⟩
  | wo => exact ⟨fun _ _ _ => ⟨rfl, rfl⟩, rfl, rfl, rfl, rfl⟩

/-- A field whose access code lets a write change its active copy. -/
def FieldSpec.writable (f : FieldSpec) : Bool := f.acc == .rw || f.acc == .w1c

/-- The active copy of a field that no write changes. -/
theorem Mach.rd_putField_fixed (m : Mach) (req i v : Nat) (fk : FieldSpec × Nat) (h : fk.1.writable = false) (f : Fld) (j : Nat) :
    (m.putField req i v fk).rd f j = m.rd f j := by
  obtain ⟨⟨f', lo, w, n, st, acc⟩, k⟩ := fk
  cases acc with
  | rw => exact nomatch h
  | rws =>
    dsimp only [Mach.putField]
    split <;> rfl
  | w1c => exact nomatch h
  | ro => rfl
  | w1s => rfl
  | wo => rfl

theorem Mach.locked_congr {m m' : Mach} (hrd : ∀ f ∈ lockFields, ∀ j, m'.rd f j = m.rd f j) (hing : m'.ing = m.ing) (req : Nat) (f : Fld) (j : Nat) :
    m'.locked req f j = m.locked req f j := by
  have hon : ∀ f ∈ lockFields, ∀ j, m'.on f j = m.on f j := fun f hf j => by rw [Mach.on, hrd f hf]; rfl
  have hstep : m'.stepRunning = m.stepRunning := hon _ (by decide) 0
  unfold Mach.locked
  rw [hstep, hing, hon _ (by decide), hon _ (by decide), hon _ (by decide)]

/-- A write that none of its fields' locks depend on reaches each field as the module was before. -/
theorem Mach.putFields_wrote (req i v : Nat) (l : List (FieldSpec × Nat)) (hnodup : (l.map (partKey i)).Nodup)
    (hlock : ∀ fk ∈ l, fk.1.fld ∈ lockFields → fk.1.writable = false) (m : Mach) :
    (∀ fk ∈ l, m.FieldWrote req i v fk (l.foldl (fun m fk => m.putField req i v fk) m)) ∧
    (∀ f j, (∀ fk ∈ l, partKey i fk ≠ (f, j)) → (l.foldl (fun m fk => m.putField req i v fk) m).rd f j = m.rd f j ∧
      (l.foldl (fun m fk => m.putField req i v fk) m).rdS f j = m.rdS f j) ∧
    (l.foldl (fun m fk => m.putField req i v fk) m).hif = m.hif ∧ (l.foldl (fun m fk => m.putField req i v fk) m).cores = m.cores ∧
    (l.foldl (fun m fk => m.putField req i v fk) m).mem = m.mem := by
  induction l generalizing m with
  | nil => exact ⟨fun _ h => absurd h List.not_mem_nil, fun _ _ _ => ⟨rfl, rfl⟩, rfl, rfl, rfl⟩
  | cons fk l ih =>
    rw [List.map_cons, List.nodup_cons] at hnodup
    obtain ⟨hnew, hnodup⟩ := hnodup
    have hself := m.putField_wrote req i v fk
    obtain ⟨hkeep, hhif, hcores, hmem, hing⟩ := m.putField_keeps req i v fk
    obtain ⟨hwrote, hothers, hhif', hcores', hmem'⟩ := ih hnodup (fun x hx => hlock x (List.mem_cons_of_mem _ hx)) (m.putField req i v fk)
    have hlocked : ∀ f j, (m.putField req i v fk).locked req f j = m.locked req f j := by
      refine Mach.locked_congr (fun f hf j => ?_) hing req
      by_cases hk : partKey i fk = (f, j)
      · have hfld : fk.1.fld = f := congrArg Prod.fst hk
        exact m.rd_putField_fixed req i v fk (hlock fk List.mem_cons_self (hfld ▸ hf)) f j
      · exact (hkeep f j hk).1
    rw [List.foldl_cons]
    generalize m.putField req i v fk = m1 at *
    generalize l.foldl (fun m fk => m.putField req i v fk) m1 = m2 at *
    refine ⟨fun x hx => ?_, fun f j hk => ?_, hhif'.trans hhif, hcores'.trans hcores, hmem'.trans hmem⟩
    · obtain rfl | hx := List.mem_cons.mp hx
      · obtain ⟨hrd, hrdS⟩ := hothers x.1.fld (x.1.inst i x.2) fun y hy hyx =>
        hnew (List.mem_map.mpr ⟨y, hy, hyx⟩)
        unfold Mach.FieldWrote at hself ⊢
        dsimp only at hself ⊢
        rw [hrd, hrdS]
        exact hself
      · have hne : partKey i fk ≠ partKey i x := fun h => hnew (h ▸ List.mem_map_of_mem hx)
        obtain ⟨hrd, hrdS⟩ := hkeep _ _ hne
        have hw := hwrote x hx
        unfold Mach.FieldWrote at hw ⊢
        dsimp only at hw ⊢
        rw [hrd, hrdS, hlocked] at hw
        exact hw
    · obtain ⟨hrd, hrdS⟩ := hkeep f j (hk fk List.mem_cons_self)
      obtain ⟨hrd', hrdS'⟩ := hothers f j fun y hy => hk y (List.mem_cons_of_mem _ hy)
      exact ⟨hrd'.trans hrd, hrdS'.trans hrdS⟩

/-- A register without a row of its own is written by its fields' access codes alone. -/
theorem Mach.writeSpec_rowless {r : RegSpec} (h : ∀ f, r.fields.head? = some f → f.fld.rowless = true) (m : Mach) (req i v : Nat) :
    m.writeSpec req r i v = m.putReg req r i v := by
  have hrow : ((r.fields.head?.map fun f : FieldSpec => f.fld).getD Fld.MOD_SERIAL).rowless = true := by
    cases hf : r.fields.head? with
    | none => rfl
    | some f => exact h f hf
  unfold Mach.writeSpec
  dsimp only
  generalize Option.getD _ _ = f at hrow ⊢
  split
  case h_29 => rfl
  all_goals exact absurd hrow (by decide)

/-- R13, R15: what a write of a register without a row of its own leaves. -/
theorem Mach.putReg_wrote {off : Nat} {r : RegSpec} {i : Nat} (hreg : regAt off = some (r, i))
    (hrow : ∀ f, r.fields.head? = some f → f.fld.rowless = true) (m : Mach) (req v : Nat) :
    m.Wrote req r i v (m.putReg req r i v) ∧ m.OthersKept r i (m.putReg req r i v) ∧ (m.putReg req r i v).hif = m.hif ∧
      (m.putReg req r i v).cores = m.cores ∧ (m.putReg req r i v).mem = m.mem := by
  have hsound := List.all_eq_true.mp allRegs_sound r (findReg_mem hreg)
  rw [RegSpec.sound, Bool.and_eq_true, decide_eq_true_iff, Bool.or_eq_true] at hsound
  obtain ⟨hnodup, hlock⟩ := hsound
  have hlock' : ∀ fk ∈ r.parts, fk.1.fld ∈ lockFields → fk.1.writable = false := by
    intro fk hfk hmem
    obtain hno | hall := hlock
    · obtain ⟨f, hf, hfr⟩ := Option.any_eq_true _ _ |>.mp hno
      rw [hrow f hf] at hfr
      exact nomatch hfr
    · obtain ⟨f, hf, hk⟩ := List.mem_flatMap.mp hfk
      obtain ⟨k, -, rfl⟩ := List.mem_map.mp hk
      have hf' := List.all_eq_true.mp hall f hf
      rw [Bool.or_eq_true, Bool.not_eq_true', Bool.not_eq_true', List.contains_iff_mem.mpr hmem] at hf'
      exact hf'.resolve_left (by decide)
  obtain ⟨hwrote, hothers, hrest⟩ := Mach.putFields_wrote req i v r.parts (RegSpec.parts_nodup hnodup i) hlock' m
  exact ⟨hwrote, fun f j hk => hothers f j fun fk hfk h => hk fk hfk ⟨congrArg Prod.fst h, congrArg Prod.snd h⟩, hrest⟩

theorem Mach.writeReg_rowless {m : Mach} {req off : Nat} {r : RegSpec} {i : Nat} (htakes : m.takes req (writeOffset off) = true)
    (hreg : regAt (writeOffset off) = some (r, i)) (hreach : m.reaches req = true)
    (hok : ∀ f ∈ r.fields, m.refusesWrite req f.fld = false) (hrow : ∀ f, r.fields.head? = some f → f.fld.rowless = true) (v : Nat) :
    m.writeReg req off v = m.putReg req r i v := by
  have hany : (r.fields.any fun f => m.refusesWrite req f.fld) = false := List.any_eq_false.mpr fun f hf => by rw [hok f hf]; decide
  rw [Mach.writeReg]
  rw [htakes, Bool.not_true, if_neg Bool.false_ne_true, hreg]
  dsimp only
  rw [hany, if_neg Bool.false_ne_true, if_pos hreach, Mach.writeSpec_rowless hrow]

/-- A hole ignores a write (R515). -/
theorem Mach.writeReg_hole {m : Mach} {off : Nat} (h : regAt (writeOffset off) = none) (req v : Nat) : m.writeReg req off v = m := by
  rw [Mach.writeReg]
  rw [h]
  exact ite_self _

/-! Reads (R17, R56, R518). -/

theorem Mach.measure_keeps (m : Mach) (f : Fld) (i : Nat) : (∀ g j, g.measured = false → (m.measure f i).rd g j = m.rd g j) ∧
    (m.measure f i).hif = m.hif ∧ (m.measure f i).mem = m.mem := by
  have hwrs : ∀ (m : Mach) (j : Nat) (fs : List (Fld × Nat)), fs.all (fun fv => fv.1.measured) = true →
      (∀ g k, g.measured = false → (m.wrs j fs).rd g k = m.rd g k) ∧ (m.wrs j fs).hif = m.hif ∧ (m.wrs j fs).mem = m.mem := by
    intro m j fs hfs
    refine ⟨fun g k hg => Mach.rd_wrs_of_ne fun fv hfv he => ?_, by rw [Mach.wrs_eq], by rw [Mach.wrs_eq]⟩
    rw [he, List.all_eq_true.mp hfs fv hfv] at hg
    exact nomatch hg
  unfold Mach.measure Mach.readDieTime Mach.setTemp Mach.fresh
  dsimp only
  split
  · exact hwrs _ _ [(.DIE_TIME, _)] rfl
  · exact hwrs _ _ _ rfl
  · exact hwrs _ _ [(.PWR_RAIL_VOUT_MV, _)] rfl
  · split
    · exact hwrs _ _ _ rfl
    · exact ⟨fun _ _ _ => rfl, rfl, rfl⟩
  · exact ⟨fun _ _ _ => rfl, rfl, rfl⟩

theorem Mach.readReg_keeps (m : Mach) (req off : Nat) : (∀ g j, g.measured = false → (m.readReg req off).2.rd g j = m.rd g j) ∧
    (m.readReg req off).2.hif = m.hif ∧ (m.readReg req off).2.mem = m.mem := by
  unfold Mach.readReg
  dsimp only
  generalize (if decide (33554432 ≤ off ∧ off < 67108864) = true then off - 33554432 else off) = a
  split
  · exact ⟨fun _ _ _ => rfl, rfl, rfl⟩
  · split
    · exact ⟨fun _ _ _ => rfl, rfl, rfl⟩
    · exact m.measure_keeps _ _

/-! TIME, as it passes (R56). -/

section
variable {m : Mach}

theorem Mach.time_ev (m : Mach) (g c n : Nat) : (m.ev g c n).time = m.time := Mach.rdAside_ev rfl ..
theorem Mach.time_hev (m : Mach) (b c n : Nat) : (m.hev b c n).time = m.time := Mach.rdAside_hev rfl ..
theorem Mach.time_bump (m : Mach) {f : Fld} (hf : .TICK_TIME ≠ f) (i n : Nat) : (m.bump f i n).time = m.time :=
  Mach.rd_bump_ne _ _ _ _ fun h => hf h.1
theorem Mach.time_wr (m : Mach) {f : Fld} (hf : .TICK_TIME ≠ f) (i v : Nat) : (m.wr f i v).time = m.time :=
  (Mach.rd_wr ..).trans (if_neg fun h => hf h.1)

theorem Mach.time_coreCycles (n : Nat) (m : Mach) (g : Nat) : (m.coreCycles n g).time = m.time := by
  have hpos : ∀ (m : Mach) (s p : Nat), (m.setRngPos g s p).time = m.time := by
    intro m s p
    unfold Mach.setRngPos
    split
    · exact Mach.rd_wrs_of_ne (by simp)
    · exact Mach.rd_wrs_of_ne (by simp)
  have hcount : ((m.addTo .CORE_CYCLE g n).ev g 1 n).time = m.time := by rw [Mach.time_ev, Mach.addTo, Mach.time_wr _ (by decide)]
  have hcore : ∀ (m : Mach) (f : Core → Core), (m.onCore g f).time = m.time := fun _ _ => rfl
  unfold Mach.coreCycles
  split
  · dsimp only
    generalize (m.addTo .CORE_CYCLE g n).ev g 1 n = m1 at hcount
    split
    · exact hcount
    · rw [hcore, hpos, hpos, hcount]
  · rfl

theorem Mach.time_waitCycles (n : Nat) (m : Mach) (k : Nat) : (m.waitCycles n k).time = m.time := by
  have hcount : ∀ f c, .TICK_TIME ≠ f →
      ((m.members k).foldl (fun m g => if m.coreRuns g then (m.bump f g n).ev g (0x10 + c) n else m) m).time = m.time := by
    intro f c hf
    refine foldl_keep Mach.time _ (fun m g => ?_) _ m
    split
    · rw [Mach.time_ev, Mach.time_bump _ hf]
    · rfl
  unfold Mach.waitCycles
  dsimp only
  split
  · exact hcount _ _ (by decide)
  · exact hcount _ _ (by decide)
  · split
    · rfl
    · exact hcount _ _ (by decide)
  · rfl

theorem Mach.time_clockDie (n : Nat) (m : Mach) (d : Nat) : (m.clockDie n d).time = m.time := by
  have hs : (m.stretched d n).2.time = m.time := by
    unfold Mach.stretched
    split <;> rfl
  unfold Mach.clockDie
  generalize m.stretched d n = r at hs
  obtain ⟨k, m'⟩ := r
  dsimp only
  rw [foldl_keep Mach.time _ (Mach.time_waitCycles k), Mach.addTo, Mach.time_wr _ (by decide), foldl_keep Mach.time _ (Mach.time_coreCycles k), hs]

theorem Mach.time_settleHalts (m : Mach) : m.settleHalts.time = m.time := by
  refine foldl_keep Mach.time _ (fun m kc => ?_) _ m
  split
  · split <;> rfl
  · rfl

theorem Mach.time_dpFinish (m : Mach) : m.dpFinish.time = m.time := by
  unfold Mach.dpFinish
  split
  · rfl
  · split
    · rfl
    · exact foldl_keep Mach.time _ (fun _ _ => Mach.rdAside_complete rfl _ _ _ _ _ _ _) _ _

/-- TIME counts while AUX power is in limits (R56). -/
theorem Mach.time_passing (h : m.aux.inLimits = true) (n k : Nat) : (m.passing n k).time = (m.time + k) % 2 ^ 64 := by
  unfold Mach.passing
  dsimp only
  generalize hcounted : (if m.aux.inLimits = true then m.wr .TICK_TIME 0 (m.time + k) else m) = m1
  have h1 : m1.time = (m.time + k) % 2 ^ 64 := by
    rw [← hcounted, if_pos h]
    exact (Mach.rd_wr ..).trans (if_pos ⟨rfl, rfl⟩)
  generalize hsettled : Mach.settleHalts _ = m2
  have h2 : m2.time = (m.time + k) % 2 ^ 64 := by rw [← hsettled, Mach.time_settleHalts]; exact h1
  rw [Mach.time_dpFinish]
  split
  · generalize hhub : List.foldl (fun m b => m.hev b 1 n) (m2.addTo .TICK_HUB_CYCLE 0 n) _ = m3
    have h3 : m3.time = (m.time + k) % 2 ^ 64 := by
      rw [← hhub, foldl_keep Mach.time _ fun m b => Mach.time_hev _ _ _ _, Mach.addTo, Mach.time_wr _ (by decide), h2]
    generalize hcredit : (if m3.creditWaits = true then m3.hev 0 0x18 n else m3) = m4
    have h4 : m4.time = (m.time + k) % 2 ^ 64 := by
      rw [← hcredit]
      split
      · rw [Mach.time_hev, h3]
      · exact h3
    refine (foldl_keep Mach.time _ (Mach.time_clockDie _) _ _).trans ?_
    exact (Mach.time_bump m4 (by decide) 0 _).trans h4
  · exact h2

/-- Time that has been waited for has come. -/
theorem Mach.le_time_advanceTo (h : m.aux.inLimits = true) {t : Nat} (ht : t < 2 ^ 64) : t ≤ (m.advanceTo t).time := by
  unfold Mach.advanceTo
  split
  next hlt =>
    dsimp only
    have hs : ∀ n, (m.slewed n).2.time = m.time ∧ (m.slewed n).2.aux = m.aux := fun n => by
      unfold Mach.slewed
      split <;> exact ⟨rfl, rfl⟩
    obtain ⟨htime, haux⟩ := hs (t - m.time)
    exact Nat.le_of_eq (by rw [Mach.time_passing (by rw [haux]; exact h), htime, Nat.add_sub_cancel' (Nat.le_of_lt hlt), Nat.mod_eq_of_lt ht])
  next hle => exact Nat.not_lt.mp hle

end

/-! What a requester holds (R17, R518). -/

theorem Mach.heldHalf_setHalves (m : Mach) (req : Nat) (w r : Option HalfReg) : (m.setHalves req w r).heldHalf req = w := NMap.get_set_self _ _ _
theorem Mach.captured_setHalves (m : Mach) (req : Nat) (w r : Option HalfReg) : (m.setHalves req w r).captured req = r := NMap.get_set_self _ _ _
theorem Mach.rd_setHalves (m : Mach) (req : Nat) (w r : Option HalfReg) (f : Fld) (i : Nat) : (m.setHalves req w r).rd f i = m.rd f i := rfl

theorem Mach.captured_respond (m : Mach) (req n v : Nat) : (m.respond n v).captured req = m.captured req := rfl
theorem Mach.heldHalf_respond (m : Mach) (req n v : Nat) : (m.respond n v).heldHalf req = m.heldHalf req := rfl
theorem Mach.time_setHalves (m : Mach) (req : Nat) (w r : Option HalfReg) : (m.setHalves req w r).time = m.time := rfl

/-- A half of the register that is no older than 1 µs serves. -/
theorem HalfReg.serves_of {m : Mach} {h : HalfReg} {off : Nat} (ho : h.off = off) (ht : m.time ≤ h.time + 1000) : h.serves m off = true := by
  rw [HalfReg.serves, ho, beq_self_eq_true, decide_eq_true ht]
  rfl

/-- Settles O31: a whole write (`Mach.putReg_wrote`), a half that is held, and a read (`Mach.readReg_keeps`). -/
theorem registerAccesses : Obligations.RegisterAccesses := by
  unfold Obligations.RegisterAccesses
  refine ⟨fun req off val width v r i s => ⟨fun hv htakes hreg hreach hok hrow => ?_, fun hno => ?_⟩, fun req off lo h s => ?_⟩
  · refine does_of_lift (f := Bar0.write req off val width) rfl ?_
    have heq : Bar0.write req off val width s.m = (s.m.setHalves req.toNat none none).putReg req.toNat r i v := by
      have hwhole := Mach.writeReg_rowless (m := s.m.setHalves req.toNat none none) htakes hreg hreach hok hrow v
      rw [Bar0.write]
      obtain ⟨hw, rfl⟩ | ⟨hw, half, hheld, hoff, htime, rfl⟩ := hv
      · rw [if_pos hw, hwhole]
      · rw [if_neg (by rw [hw]; decide), if_pos hw, hheld, Option.filter_some, HalfReg.serves_of hoff htime, if_pos rfl]
        exact hwhole
    obtain ⟨hwrote, hothers, hhif, hcores, hmem⟩ := (s.m.setHalves req.toNat none none).putReg_wrote hreg hrow req.toNat v
    rw [heq]
    refine ⟨hwrote, hothers, ?_, fun h => congrArg (fun c => NMap.get (fun _ => Core.reset) c h) hcores,
      fun k => congrArg (fun c => NMap.get byte0 c k) hmem⟩
    exact (congrArg (fun x : Hif => NMap.get (fun _ => none) x.halfW req.toNat) hhif).trans (s.m.heldHalf_setHalves req.toNat none none)
  · refine does_of_lift (f := Bar0.write req off val width) rfl ?_
    have heq : Bar0.write req off val width s.m = s.m.setHalves req.toNat none none := by
      rw [Bar0.write]
      obtain hhole | hwide := hno
      · rw [Mach.writeReg_hole hhole]
        split
        · rfl
        · split
          · split
            · exact Mach.writeReg_hole hhole _ _
            · rfl
          · rfl
      · rw [if_neg (by rintro rfl; exact absurd hwide (by decide)), if_neg (by rintro rfl; exact absurd hwide (by decide))]
    rw [heq]
    exact ⟨fun _ _ => rfl, fun _ => rfl, fun _ => rfl⟩
  · dsimp only
    generalize hr : (if (s.m.setHalves req.toNat none none).reaches req.toNat = true then
      (s.m.setHalves req.toNat none none).readReg req.toNat off.toNat else (0, s.m.setHalves req.toNat none none)) = rv
    have hv : (if s.m.reaches req.toNat = true then ((s.m.setHalves req.toNat none none).readReg req.toNat off.toNat).1 else 0) = rv.1 := by
      rw [← hr]
      by_cases hreach : s.m.reaches req.toNat = true
      · rw [if_pos hreach, if_pos (by exact hreach)]
      · rw [if_neg hreach, if_neg (by exact hreach)]
    have hkept : (∀ g j, g.measured = false → rv.2.rd g j = s.m.rd g j) ∧ rv.2.hif = (s.m.setHalves req.toNat none none).hif ∧ rv.2.mem = s.m.mem := by
      rw [← hr]
      split
      · exact (s.m.setHalves req.toNat none none).readReg_keeps req.toNat off.toNat
      · exact ⟨fun _ _ _ => rfl, rfl, rfl⟩
    obtain ⟨hrd, hhif, hmem⟩ := hkept
    have hbytes : ∀ k, rv.2.byteAt k = s.m.byteAt k := fun k => congrArg (fun c => NMap.get byte0 c k) hmem
    rw [hv]
    refine ⟨?_, fun hheld => ?_, ?_, fun hcap hoff htime => ?_, ?_, ?_⟩
    · refine does_of_lift (f := Bar0.lowerWrite req off lo) rfl ?_
      exact ⟨Mach.heldHalf_setHalves _ _ _ _, fun _ _ => rfl, fun _ => rfl⟩
    · refine does_of_lift (f := Bar0.halfTimeout req) rfl ?_
      rw [Bar0.halfTimeout, hheld]
      exact ⟨Mach.heldHalf_setHalves _ _ _ _, fun hlim hlt => Mach.le_time_advanceTo hlim hlt,
        fun k => congrArg (fun c => NMap.get byte0 c k) (s.m.lasts_advanceTo _).mem⟩
    · refine does_of_lift (f := Bar0.lowerRead req off 0) rfl ?_
      have heq : Bar0.lowerRead req off 0 s.m = (rv.2.setHalves req.toNat none (some ⟨off.toNat, rv.1, s.m.time⟩)).respond 4 rv.1 := by
        rw [← hr]
        rfl
      rw [heq]
      exact ⟨(Mach.captured_respond ..).trans (Mach.captured_setHalves _ _ _ _), rfl, hrd,
        (Mach.heldHalf_respond ..).trans (Mach.heldHalf_setHalves _ _ _ _), hbytes⟩
    · refine does_of_lift (f := Bar0.lowerRead req off 1) rfl ?_
      have heq : Bar0.lowerRead req off 1 s.m = (s.m.setHalves req.toNat none none).respond 4 (h.val / 2 ^ 32) := by
        rw [Bar0.lowerRead, hcap, Option.filter_some, HalfReg.serves_of hoff htime, if_pos rfl]
        rfl
      rw [heq]
      exact ⟨rfl, (Mach.captured_respond ..).trans (Mach.captured_setHalves _ _ _ _), fun _ _ => rfl⟩
    · refine does_of_lift (f := Bar0.lowerRead req off 2) rfl ?_
      have heq : Bar0.lowerRead req off 2 s.m = rv.2.respond 8 rv.1 := by
        rw [← hr]
        rfl
      have hheld : rv.2.heldHalf req.toNat = none := by rw [Mach.heldHalf, hhif]; exact Mach.heldHalf_setHalves _ _ _ _
      have hcap : rv.2.captured req.toNat = none := by rw [Mach.captured, hhif]; exact Mach.captured_setHalves _ _ _ _
      rw [heq]
      exact ⟨rfl, hcap, hrd, hheld, hbytes⟩
    · refine does_of_lift (f := Bar0.lowerRead req off 3) rfl ?_
      have heq : Bar0.lowerRead req off 3 s.m = (s.m.setHalves req.toNat none none).respond 4 0 := rfl
      rw [heq]
      exact ⟨rfl, (Mach.captured_respond ..).trans (Mach.captured_setHalves _ _ _ _), fun _ _ => rfl⟩

end Sys2Proof.Machine

/-! O34: the BAR4 aperture, CXL.mem and the host link (R393 to R397). -/
namespace Sys2Proof.Machine

/-! The branches of `Mach.hostAccess`, the access to T1 that BAR4 and CXL.mem share. -/
section
variable {m : Mach} {a n : Nat}

theorem Mach.hostAccess_read (h : m.localCauses a n false = []) (data : List Byte) : m.hostAccess a n false data =
    (m.readAny a n).2.onHif fun hf => { hf with resp := (m.readAny a n).1.map Prod.fst, respBad := (m.readAny a n).1.any Prod.snd } := by
  unfold Mach.hostAccess
  rw [h]
  rfl

theorem Mach.hostAccess_write {m1 : Mach} (h : m.localCauses a n true = []) {data : List Byte}
    (hw : m.writeAny 1 a ((padTo n data).map (·, false)) = .ok m1) : m.hostAccess a n true data = m1 := by
  unfold Mach.hostAccess
  rw [h]
  show (match m.writeAny 1 a ((padTo n data).map (·, false)) with
    | .ok m => m
    | .error (c, p, m) => m.captureFault c p true 0) = m1
  rw [hw]

theorem Mach.hostAccess_fault {c : Nat} {w : Bool} (h : lowest (m.localCauses a n w) = some c) (data : List Byte) :
    let m' := m.hostAccess a n w data
    (w = false → m'.hif.resp = List.replicate n 0xFF) ∧ (∀ f i, m'.rd f i = (m.captureFault c a true 0).rd f i) ∧
      ∀ k, m'.byteAt k = m.byteAt k := by
  intro m'
  have hm' : m' = if w then m.captureFault c a true 0
      else (m.captureFault c a true 0).onHif fun h => { h with resp := List.replicate n 0xFF, respBad := false } := by
    show m.hostAccess a n w data = _
    unfold Mach.hostAccess
    rw [h]
  have hbytes : ∀ k, (m.captureFault c a true 0).byteAt k = m.byteAt k := by
    intro k
    rw [Mach.captureFault_eq]
    rfl
  rw [hm']
  cases w with
  | true => exact ⟨fun hw => (nomatch hw), fun _ _ => rfl, hbytes⟩
  | false => exact ⟨fun _ => rfl, fun _ _ => rfl, hbytes⟩
end

/-- What an access to T1 comes to, for a command that is `Mach.hostAccess` at address `a`. -/
theorem hostAccess_reaches {s : State} {a n : Nat} {data : List Byte} {i : Bool → Instr} {f : Bool → Mach → Mach}
    (hexec : ∀ w, exec (i w) s = .next (s.lift (f w))) (hrow : ∀ w, f w s.m = (s.m.otherAccess 0).hostAccess a n w data) :
    (s.m.localCauses a n false = [] →
      Does (i false) s fun m => m.hif.resp = ((s.m.otherAccess 0).readAny a n).1.map Prod.fst ∧
        m.hif.respBad = ((s.m.otherAccess 0).readAny a n).1.any Prod.snd ∧
        ∀ k, m.byteAt k = ((s.m.otherAccess 0).readAny a n).2.byteAt k) ∧
    (∀ m1, s.m.localCauses a n true = [] → (s.m.otherAccess 0).writeAny 1 a ((padTo n data).map (·, false)) = .ok m1 →
      Does (i true) s fun m => m = m1) ∧
    (∀ c w, lowest (s.m.localCauses a n w) = some c → Does (i w) s fun m => (w = false → m.hif.resp = List.replicate n 0xFF) ∧
      (s.m.on .MEM_ADDR_FAULT_VALID 0 = false → m.rd .MEM_ADDR_FAULT_VALID 0 = 1 ∧ m.rd .MEM_ADDR_FAULT_CAUSE 0 = c % 16) ∧
      ∀ k, m.byteAt k = s.m.byteAt k) := by
  have hsame : ∀ w, (s.m.otherAccess 0).localCauses a n w = s.m.localCauses a n w := fun _ => rfl
  refine ⟨fun hok => does_of_lift (hexec false) ?_, fun m1 hok hw => does_of_lift (hexec true) ?_,
    fun c w hbad => does_of_lift (hexec w) ?_⟩
  · rw [hrow, Mach.hostAccess_read ((hsame _).trans hok)]
    exact ⟨rfl, rfl, fun _ => rfl⟩
  · rw [hrow, Mach.hostAccess_write ((hsame _).trans hok) hw]
  · rw [hrow]
    obtain ⟨hresp, hrd, hbytes⟩ := Mach.hostAccess_fault (m := s.m.otherAccess 0) ((congrArg lowest (hsame w)).trans hbad) data
    refine ⟨hresp, fun hvalid => ?_, hbytes⟩
    obtain ⟨hv, hc, -⟩ := Mach.captureFault_captures (m := s.m.otherAccess 0) hvalid c a 0 true
    exact ⟨(hrd _ _).trans hv, (hrd _ _).trans hc⟩

/-- Settles O34: each command by the branch that its hypotheses choose; the accesses of BAR4 and CXL.mem are one
(`hostAccess_reaches`). -/
theorem hostWindowsAndLink : Obligations.HostWindowsAndLink := by
  unfold Obligations.HostWindowsAndLink
  refine ⟨fun v off len data s => ?_, fun gen width s => ?_⟩
  · intro b n m0 reaches
    refine ⟨fun hup hok => does_of_lift (f := fun m => Hif.bar4Win v (m.otherAccess 0)) rfl ?_,
      fun hok => does_of_lift (f := fun m => Hif.bar4Win v (m.otherAccess 0)) rfl ?_, fun hready hen => ?_, fun hready hmode hhdm hin => ?_⟩
    · have hrow : Hif.bar4Win v (s.m.otherAccess 0) = (s.m.otherAccess 0).wr .HIF_BAR4_WIN_BASE 0 b :=
        if_pos (by rw [Bool.and_eq_true]; exact ⟨hup, hok⟩)
      have hb : b < 2 ^ 23 := bitsAt_lt _ _ _
      rw [hrow]
      exact ⟨(Mach.rd_wr ..).trans ((if_pos ⟨rfl, rfl⟩).trans (Nat.mod_eq_of_lt hb)),
        fun f i hf => (Mach.rd_wr ..).trans (if_neg fun h => hf h.1)⟩
    · have hrow : Hif.bar4Win v (s.m.otherAccess 0) = s.m.otherAccess 0 := if_neg (by rw [show Hif.apertureOk (bitsAt v.toNat 21 23) = false from hok]; simp)
      rw [hrow]
      exact fun _ _ => rfl
    · refine hostAccess_reaches (f := fun w m => Hif.bar4 off w len data (m.otherAccess 0)) (data := data)
        (i := fun w => .bar4Access off w len data) (fun _ => rfl) fun w => if_pos ?_
      rw [Bool.and_eq_true]
      exact ⟨hready, hen⟩
    · refine hostAccess_reaches (f := fun w m => Hif.cxlMem off w len data (m.otherAccess 0)) (data := data)
        (i := fun w => .cxlMemAccess off w len data) (fun _ => rfl) fun w => if_pos ?_
      simp only [Bool.and_eq_true, decide_eq_true_eq]
      exact ⟨⟨⟨hready, hmode⟩, hhdm⟩, hin⟩
  · intro keeps
    refine ⟨fun hup hperst hstage hlo hhi hwidth => does_of_lift (f := Hif.linkTrained gen width) rfl ?_,
      does_of_lift (f := Hif.linkDown) rfl ?_, fun hup hmode => does_of_lift (f := Hif.hdmCommit) rfl ?_⟩
    · have hrow : Hif.linkTrained gen width s.m =
          s.m.wrs 0 [(.HIF_STATUS_LINK_UP, 1), (.HIF_STATUS_GEN, gen.toNat), (.HIF_STATUS_WIDTH, width.toNat)] := by
        refine if_pos ?_
        simp only [Bool.and_eq_true, Bool.not_eq_true', decide_eq_true_eq, List.contains_iff_mem]
        exact ⟨⟨⟨⟨hup, hperst⟩, hstage⟩, hlo, hhi⟩, hwidth⟩
      rw [hrow]
      have hread : ∀ fv ∈ [(Fld.HIF_STATUS_LINK_UP, 1), (.HIF_STATUS_GEN, gen.toNat), (.HIF_STATUS_WIDTH, width.toNat)],
          (s.m.wrs 0 [(.HIF_STATUS_LINK_UP, 1), (.HIF_STATUS_GEN, gen.toNat), (.HIF_STATUS_WIDTH, width.toNat)]).rd fv.1 0 = fv.2 := by
        refine fun fv hfv => Mach.rd_wrs_of_mem (by simp) hfv ?_
        simp only [List.mem_cons, List.not_mem_nil, or_false] at hfv
        obtain rfl | rfl | rfl := hfv
        · decide
        · exact gen.isLt
        · exact width.isLt
      exact ⟨hread (.HIF_STATUS_LINK_UP, _) (by simp), hread (.HIF_STATUS_GEN, _) (by simp), hread (.HIF_STATUS_WIDTH, _) (by simp),
        fun f i hf => Mach.rd_wrs_of_ne fun fv hfv heq => hf (heq ▸ List.mem_map_of_mem (f := Prod.fst) hfv), fun _ => rfl⟩
    · exact ⟨(Mach.rd_wr ..).trans (if_pos ⟨rfl, rfl⟩),
        fun f i hf => (Mach.rd_wr ..).trans (if_neg fun h => hf (List.mem_singleton.mpr h.1)), fun _ => rfl⟩
    · have hrow : Hif.hdmCommit s.m = s.m.wr .HIF_STATUS_HDM_EN 0 1 := if_pos (by rw [Bool.and_eq_true]; exact ⟨hup, hmode⟩)
      rw [hrow]
      exact ⟨(Mach.rd_wr ..).trans (if_pos ⟨rfl, rfl⟩),
        fun f i hf => (Mach.rd_wr ..).trans (if_neg fun h => hf (List.mem_singleton.mpr h.1)), fun _ => rfl⟩

end Sys2Proof.Machine

/-! O36: RUN_STEP, REPLAY, SWAP and INGEST_SUBMIT (R412, R415, R416, R488, R553). -/
namespace Sys2Proof.Machine

/-- R16: a descriptor whose own form its row refuses ends with BAD_DESC. -/
theorem Mach.Begins.descRow_bad {m : Mach} {r : BitVec 8} {i : BitVec 16} {ty : Nat} {d : Desc} (hb : m.Begins r i ty d)
    {bad : Mach → Desc → Bool} (start go : Desc → Mach → Mach) (hbad : bad (m.setBusy d) d = true) :
    m.descRow r.toNat i.toNat ty bad start go = (m.setBusy d).complete d 1 0 0 [] := by
  obtain ⟨hfind, hup, hidle, hmay, -, hready⟩ := hb
  have hserved : (!(m.setBusy d).ready && ty != 10) = false := by
    rcases hready with h | h
    · rw [show (m.setBusy d).ready = true from h]; rfl
    · rw [h, Bool.and_comm]; rfl
  simp [Mach.descRow, hfind, hup, hidle, hmay, hbad, hserved]

/-- A descriptor that ends at once leaves what no completion touches. -/
theorem Mach.Begins.complete_keeps {m : Mach} {r : BitVec 8} {i : BitVec 16} {ty : Nat} {d : Desc} (hb : m.Begins r i ty d)
    (status : Nat) : let m' := (m.setBusy d).complete d status 0 0 []
    m.Ended m' d status 0 0 ∧ m'.armed = m.armed ∧ m'.tick.swap = m.tick.swap ∧ m'.ing = m.ing := by
  intro m'
  have hlasts : (m.setBusy d).Lasts m' := Mach.lasts_complete _ _ _ _ _ _
  have hstill : m'.still = (m.setBusy d).still := Mach.still_complete _ _ _ _ _ _
  exact ⟨(Mach.complete_ended hb.inProgress status 0 0 []).of_setBusy,
    (congrArg Mach.armed hlasts.lasting : m'.lasting.armed = (m.setBusy d).lasting.armed),
    (congrArg (fun s : Still => s.tick.swap) hstill : m'.still.tick.swap = _), hlasts.ing⟩

section
variable {m : Mach} (q : StepReq)

theorem Mach.arm_armed (hbusy : m.stepBusy q.stepAt = false) (hmissed : m.tickMissed q.stepAt = false) :
    m.arm q = ({ m with armed := some q } : Mach).wr .TICK_STEP_AT 0 q.stepAt := by
  rw [Mach.arm, hbusy, hmissed, if_neg Bool.false_ne_true, if_neg Bool.false_ne_true]

theorem Mach.arm_stepBusy (hbusy : m.stepBusy q.stepAt = true) : m.arm q = m.complete q.desc 6 0 0 [] := by
  rw [Mach.arm, if_pos hbusy]

theorem Mach.arm_tickMissed (hbusy : m.stepBusy q.stepAt = false) (hmissed : m.tickMissed q.stepAt = true) :
    m.arm q = m.complete q.desc 0x18 0 0 [] := by
  rw [Mach.arm, hbusy, if_neg Bool.false_ne_true, if_pos hmissed]
end

/-- R412, R553: a descriptor that arms a step. -/
theorem does_arm {s : State} {r : BitVec 8} {i : BitVec 16} {ty : Nat} {d : Desc} {c : Instr} {f : Mach → Mach} {q : StepReq}
    (hb : s.m.Begins r i ty d) (hexec : exec c s = .next (s.lift f)) (hrow : f s.m = (s.m.setBusy d).arm q) (hdesc : q.desc = d) :
    (s.m.stepBusy q.stepAt = false → s.m.tickMissed q.stepAt = false → Does c s fun m => m.armed = some q ∧
      m.rd .TICK_STEP_AT 0 = q.stepAt % 2 ^ 64 ∧ (∀ f j, f ≠ .TICK_STEP_AT → m.rd f j = s.m.rd f j) ∧ m.host = s.m.host ∧
      ∀ h, m.core h = s.m.core h) ∧
    (s.m.stepBusy q.stepAt = true → Does c s fun m => s.m.Ended m d 6 0 0 ∧ m.armed = s.m.armed) ∧
    (s.m.stepBusy q.stepAt = false → s.m.tickMissed q.stepAt = true →
      Does c s fun m => s.m.Ended m d 0x18 0 0 ∧ m.armed = s.m.armed) := by
  have hends (status : Nat) : s.m.Ended ((s.m.setBusy d).complete q.desc status 0 0 []) d status 0 0 ∧
      ((s.m.setBusy d).complete q.desc status 0 0 []).armed = s.m.armed := by
    rw [hdesc]
    exact ⟨(hb.complete_keeps status).1, (hb.complete_keeps status).2.1⟩
  refine ⟨fun hbusy hmissed => does_of_lift hexec ?_, fun hbusy => does_of_lift hexec ?_, fun hbusy hmissed => does_of_lift hexec ?_⟩
  · rw [hrow, Mach.arm_armed (m := s.m.setBusy d) q hbusy hmissed]
    exact ⟨rfl, (Mach.rd_wr ..).trans (if_pos ⟨rfl, rfl⟩), fun f j hf => (Mach.rd_wr ..).trans (if_neg fun h => hf h.1), rfl, fun _ => rfl⟩
  · rw [hrow, Mach.arm_stepBusy (m := s.m.setBusy d) q hbusy]
    exact hends 6
  · rw [hrow, Mach.arm_tickMissed (m := s.m.setBusy d) q hbusy hmissed]
    exact hends 0x18

/-- What the form of a REPLAY descriptor breaks (R412, R488). -/
def replayBad (m : Mach) (d : Desc) : Bool :=
  !d.zero 12 16 || !d.zero 24 48 || decide (2 < d.at_ 8 1 ∨ 3 < d.at_ 9 1 ∨ d.at_ 10 1 / 8 % 2 = 1 ∨ 7 < d.at_ 11 1) || m.cutOutside d

/-- REPLAY of a descriptor that has started. -/
def replayStart (d : Desc) (m : Mach) : Mach :=
  if !m.exact then m.complete d 0x1D 0 0 []
  else m.arm ⟨d, d.at_ 0 8, true, d.at_ 8 1, d.at_ 9 1, d.at_ 10 1, d.at_ 11 1, d.at_ 16 8, 0, 0, 0, 0⟩

theorem replay_eq (r : BitVec 8) (i : BitVec 16) (m : Mach) :
    Hif.replay r i m = m.descRow r.toNat i.toNat 9 replayBad replayStart noGo := rfl

/-- SWAP that comes while another pends, or too late (R376). -/
theorem Mach.requestSwap_busy {m : Mach} {t : Nat} {d : Desc} (h : m.tick.swap.isSome = true) :
    m.requestSwap t (some d) = m.complete d 0x2E 0 0 [] := by
  unfold Mach.requestSwap
  exact if_pos h

theorem Mach.requestSwap_late {m : Mach} {t : Nat} {d : Desc} (hfree : m.tick.swap = none) (hlate : m.swapLate t) :
    m.requestSwap t (some d) = m.complete d 0x2D 0 0 [] := by
  unfold Mach.requestSwap
  exact (if_neg (by rw [hfree]; decide)).trans (if_pos hlate)

/-- INGEST_SUBMIT of a descriptor that has started. -/
def submitStart (d : Desc) (m : Mach) : Mach :=
  if 8 ≤ m.ing.jobs.length then m.complete d 0x36 0 0 [] else { m with ing := { m.ing with jobs := m.ing.jobs ++ [⟨d, d.at_ 0 8⟩] } }

theorem ingestSubmit_eq (r : BitVec 8) (i : BitVec 16) (m : Mach) : Hif.ingestSubmit r i m =
    m.descRow r.toNat i.toNat 6 (fun _ d => !d.zero 8 48 || decide (d.at_ 0 8 % 64 ≠ 0)) submitStart noGo := rfl

/-- Settles O36: each row starts its descriptor (`Mach.Begins.descRow_eq`); a step is armed by `does_arm`, and what turns a descriptor
away ends it at once (`Mach.Begins.complete_keeps`). -/
theorem descriptorsAccepted : Obligations.DescriptorsAccepted := by
  unfold Obligations.DescriptorsAccepted
  refine ⟨fun r i d s => ?_, fun r i d s => ?_⟩
  · intro at_ arms
    refine ⟨fun hb hzero => ?_, fun hb hz12 hz24 hcut hscope hflags hmask => ⟨fun hout => ?_, fun hout hexact => ?_, fun hout hexact => ?_⟩⟩
    · refine does_arm (f := Hif.runStep r i) (q := ⟨d, at_, false, 0, 0, 0, 0, 0, 0, 0, 0, 0⟩) hb rfl ?_ rfl
      exact hb.descRow_eq (bad := fun _ d => !d.zero 8 48) _ _ (by rw [hzero]; rfl)
    · refine does_of_lift (f := Hif.replay r i) rfl ?_
      have hbad : replayBad (s.m.setBusy d) d = true := by
        rw [replayBad, show (s.m.setBusy d).cutOutside d = true from hout, Bool.or_true]
      rw [replay_eq, hb.descRow_bad _ _ hbad]
      exact ⟨(hb.complete_keeps 1).1, (hb.complete_keeps 1).2.1⟩
    all_goals
      have hbad : replayBad (s.m.setBusy d) d = false := by
        rw [replayBad, show (s.m.setBusy d).cutOutside d = false from hout, hz12, hz24, decide_eq_false (by omega)]
        rfl
      have hrow := hb.descRow_eq replayStart noGo hbad
    · refine does_arm (f := Hif.replay r i)
        (q := ⟨d, at_, true, d.at_ 8 1, d.at_ 9 1, d.at_ 10 1, d.at_ 11 1, d.at_ 16 8, 0, 0, 0, 0⟩) hb rfl (hrow.trans ?_) rfl
      exact if_neg (by rw [show (s.m.setBusy d).exact = true from hexact]; decide)
    · refine does_of_lift (f := Hif.replay r i) rfl ?_
      rw [replay_eq, hrow, replayStart, show (s.m.setBusy d).exact = false from hexact, Bool.not_false, if_pos rfl]
      exact ⟨(hb.complete_keeps 0x1D).1, (hb.complete_keeps 0x1D).2.1⟩
  · intro t next late
    refine ⟨fun hb hzero => ?_, fun hb hzero haligned => ?_⟩
    · have hrow : Hif.swap r i s.m = (s.m.setBusy d).requestSwap t (some d) :=
        hb.descRow_eq (bad := fun _ d => !d.zero 8 48) _ _ (by rw [hzero]; rfl)
      refine ⟨fun hfree hlate => does_of_lift (f := Hif.swap r i) rfl ?_, fun hbusy => does_of_lift (f := Hif.swap r i) rfl ?_,
        fun hfree hlate => does_of_lift (f := Hif.swap r i) rfl ?_⟩
      · rw [hrow, Mach.requestSwap_pends (m := s.m.setBusy d) _ hfree hlate]
        exact ⟨rfl, (Mach.rd_wr ..).trans (if_pos ⟨rfl, rfl⟩), fun f j hf => (Mach.rd_wr ..).trans (if_neg fun h => hf h.1), rfl⟩
      · obtain ⟨hended, -, hswap, -⟩ := hb.complete_keeps 0x2E
        rw [hrow, Mach.requestSwap_busy (m := s.m.setBusy d) hbusy]
        exact ⟨hended, hswap⟩
      · obtain ⟨hended, -, hswap, -⟩ := hb.complete_keeps 0x2D
        rw [hrow, Mach.requestSwap_late (m := s.m.setBusy d) hfree hlate]
        exact ⟨hended, hswap.trans hfree⟩
    · have hrow : Hif.ingestSubmit r i s.m = submitStart d (s.m.setBusy d) :=
        (ingestSubmit_eq r i s.m).trans
          (hb.descRow_eq submitStart noGo (by rw [hzero, decide_eq_false (not_not_intro haligned)]; rfl))
      refine ⟨fun hroom => does_of_lift (f := Hif.ingestSubmit r i) rfl ?_, fun hfull => does_of_lift (f := Hif.ingestSubmit r i) rfl ?_⟩
      · rw [hrow, submitStart, if_neg (show ¬8 ≤ (s.m.setBusy d).ing.jobs.length from Nat.not_le.2 hroom)]
        exact ⟨rfl, rfl, fun _ _ => rfl⟩
      · obtain ⟨hended, -, -, hing⟩ := hb.complete_keeps 0x36
        rw [hrow, submitStart, if_pos (show 8 ≤ (s.m.setBusy d).ing.jobs.length from hfull)]
        exact ⟨hended, congrArg Ing.jobs hing⟩

end Sys2Proof.Machine

/-! O37: CONFIG_WRITE and QUERY (R414, R418). -/
namespace Sys2Proof.Machine

/-! Little-endian values (R10). -/

theorem leNat_leBytes (n v : Nat) : leNat (leBytes n v) = v % 256 ^ n := by
  induction n generalizing v with
  | zero => exact (Nat.mod_one v).symm
  | succ n ih =>
    rw [leBytes, leNat, ih, BitVec.toNat_ofNat, Nat.pow_succ 256 n, Nat.mul_comm (256 ^ n) 256, Nat.mod_mul]

theorem leNat_leBytes_of_lt {n v : Nat} (h : v < 256 ^ n) : leNat (leBytes n v) = v := (leNat_leBytes n v).trans (Nat.mod_eq_of_lt h)

/-! What the end of a descriptor writes (R404 to R406). -/

/-- The register fields that the end of a descriptor writes. -/
def completionFields : List Fld := [.HIF_RING_STATUS_CQ_TAIL, .HIF_RING_STATUS_PHASE, .HIF_DESC_DONE, .MSIX_PBA]

theorem Mach.rd_coalesce (m : Mach) {f : Fld} (hf : f ≠ .MSIX_PBA) (r i : Nat) (noint : Bool) : (m.coalesce r noint).rd f i = m.rd f i := by
  unfold Mach.coalesce
  dsimp only
  split
  · rfl
  split
  · exact Mach.rd_signal_of_ne hf i _ _
  · rfl

theorem Mach.rd_advanceTail (m : Mach) {f : Fld} (ht : f ≠ .HIF_RING_STATUS_CQ_TAIL) (hp : f ≠ .HIF_RING_STATUS_PHASE) (r i : Nat) :
    (m.advanceTail r).rd f i = m.rd f i := by
  have htail (v : Nat) : (m.wr .HIF_RING_STATUS_CQ_TAIL r v).rd f i = m.rd f i := (Mach.rd_wr ..).trans (if_neg fun h => ht h.1)
  unfold Mach.advanceTail
  dsimp only
  split
  · exact ((Mach.rd_wr ..).trans (if_neg fun h => hp h.1)).trans (htail _)
  · exact htail _

theorem Mach.rd_complete_of_ne (m : Mach) {f : Fld} (hf : f ∉ completionFields) (d : Desc) (status detail info i : Nat) (res : List Byte) :
    (m.complete d status detail info res).rd f i = m.rd f i := by
  simp only [completionFields, List.mem_cons, List.not_mem_nil, or_false, not_or] at hf
  obtain ⟨htail, hphase, hdone, hpba⟩ := hf
  unfold Mach.complete
  split
  · rfl
  rw [Mach.rd_coalesce _ hpba, Mach.rd_bump_ne _ _ _ _ fun h => hdone h.1]
  refine (Mach.rd_advanceTail _ htail hphase _ _).trans ?_
  rw [Mach.writeCompletion_eq]
  rfl

/-- A read of host memory beside what is written there. -/
theorem Mach.hostRead_hostWrite_apart (m : Mach) {a b n : Nat} {bs : List Byte} (h : b + n ≤ a ∨ a + bs.length ≤ b) :
    (m.hostWrite a bs).hostRead b n = m.hostRead b n := by
  refine List.map_congr_left fun i hi => m.host_hostWrite a bs (b + i) ?_
  rw [List.mem_range] at hi
  omega

/-- Host memory beside the ring's completion tail stands, where the descriptor asks for no result record (R404). -/
theorem Mach.hostRead_complete {m : Mach} {d : Desc} (hd : m.hif.descs.any (·.seq == d.seq) = true) (hres : d.result = 0)
    (status detail info : Nat) {b n : Nat}
    (h : let cq := m.rd .HIF_RING_CQ_BASE d.ring * 4096 + 16 * m.rd .HIF_RING_STATUS_CQ_TAIL d.ring; b + n ≤ cq ∨ cq + 16 ≤ b) :
    (m.complete d status detail info []).hostRead b n = m.hostRead b n := by
  have hhost := congrArg Prod.fst (Mach.endView_complete hd status detail info [])
  rw [Mach.hostRead_congr hhost, Mach.writeCompletion, if_pos hres]
  exact m.hostRead_hostWrite_apart (by rw [complBytes_length]; exact h)

/-! CONFIG_WRITE (R414). -/

/-- The entry of a CONFIG_WRITE list names a register. -/
def configNames (e : List Byte) : Bool :=
  leNat (e.take 4) % 8 == 0 && (regAt (writeOffset (leNat (e.take 4)))).isSome && leNat ((e.drop 4).take 4) == 0

theorem Mach.configEntry_fst (m : Mach) (e : List Byte) : (m.configEntry e).1 = configNames e := by
  unfold Mach.configEntry configNames
  dsimp only
  split
  · next h => exact h.symm
  · next h => exact (Bool.eq_false_iff.2 h).symm

/-- A list is performed entry by entry, and those that name a register are counted. -/
theorem Mach.configEntries_eq (list : List (List Byte)) (ok : Nat) (m : Mach) :
    list.foldl (fun (am : Nat × Mach) e => (am.1 + b2n (am.2.configEntry e).1, (am.2.configEntry e).2)) (ok, m) =
      (ok + list.countP configNames, list.foldl (fun m e => (m.configEntry e).2) m) := by
  induction list generalizing ok m with
  | nil => rfl
  | cons e list ih =>
    rw [List.foldl_cons, ih, List.foldl_cons, List.countP_cons, Mach.configEntry_fst]
    cases configNames e <;> simp [b2n, Nat.add_assoc, Nat.add_comm]

/-- CONFIG_WRITE of a descriptor that has started. -/
def configStart (readFails : Bool) (d : Desc) (m : Mach) : Mach :=
  let n := d.at_ 8 4
  let a := d.at_ 0 8
  if readFails then m.complete d 0x02 0 0 []
  else if (List.range n).any fun k => m.hostPoisoned (a + 16 * k) || m.hostPoisoned (a + 16 * k + 15) then m.complete d 0x03 0 0 []
  else
    let m := m.otherAccess 1
    let list := (List.range n).map fun k => m.hostRead (a + 16 * k) 16
    let am := list.foldl (fun (am : Nat × Mach) e => (am.1 + b2n (am.2.configEntry e).1, (am.2.configEntry e).2)) (0, m)
    am.2.complete d 0 0 (am.1 + 2 ^ 32 * (n - am.1)) []

theorem configWrite_eq (r : BitVec 8) (i : BitVec 16) (fails : Bool) (m : Mach) : Bar0.configWrite r i fails m =
    m.descRow r.toNat i.toNat 4 (fun _ d => !d.zero 12 48 || decide (d.at_ 8 4 = 0 ∨ 4096 < d.at_ 8 4)) (configStart fails) noGo := rfl

/-- A list whose place in host memory carries poison. -/
theorem configPoisoned_iff (m : Mach) (a n : Nat) :
    ((List.range n).any fun k => m.hostPoisoned (a + 16 * k) || m.hostPoisoned (a + 16 * k + 15)) = true ↔
      ∃ k, k < n ∧ (m.hostPoisoned (a + 16 * k) = true ∨ m.hostPoisoned (a + 16 * k + 15) = true) := by
  simp only [List.any_eq_true, List.mem_range, Bool.or_eq_true]

/-- An entry of a register without a row of its own writes that. -/
theorem Mach.configEntry_writes {m : Mach} {off v : Nat} (hoff : off < 2 ^ 32) (hv : v < 2 ^ 64) (h8 : off % 8 = 0)
    (hreg : (regAt (writeOffset off)).isSome = true) :
    (m.configEntry (leBytes 4 off ++ leBytes 4 0 ++ leBytes 8 v)).2 = m.writeReg 1 off v := by
  have hlen : ∀ n v, (leBytes n v).length = n := leBytes_length
  have hoff' : leNat ((leBytes 4 off ++ leBytes 4 0 ++ leBytes 8 v).take 4) = off := by
    rw [List.append_assoc, List.take_left' (hlen 4 off)]
    exact leNat_leBytes_of_lt hoff
  have hzero : leNat (((leBytes 4 off ++ leBytes 4 0 ++ leBytes 8 v).drop 4).take 4) = 0 := by
    rw [List.append_assoc, List.drop_left' (hlen 4 off), List.take_left' (hlen 4 0)]
    rfl
  have hval : leNat (((leBytes 4 off ++ leBytes 4 0 ++ leBytes 8 v).drop 8).take 8) = v := by
    rw [List.drop_left' (by rw [List.length_append, hlen, hlen]), List.take_of_length_le (Nat.le_of_eq (hlen 8 v))]
    exact leNat_leBytes_of_lt hv
  unfold Mach.configEntry
  dsimp only
  rw [hoff', hzero, hval, hreg, h8]
  rfl

/-! QUERY (R418). -/

/-- The machine with register `k` of the QUERY `d` written to host memory. -/
def queryEntry (d : Desc) (m : Mach) (k : Nat) : Mach :=
  (m.readReg 0 (d.at_ 0 4 + 8 * k)).2.hostWrite (d.at_ 8 8 + 8 * k) (leBytes 8 (m.readReg 0 (d.at_ 0 4 + 8 * k)).1)

/-- QUERY of a descriptor that has started. -/
def queryStart (d : Desc) (m : Mach) : Mach := ((List.range (d.at_ 4 4)).foldl (queryEntry d) m).complete d 0 0 (d.at_ 4 4) []

theorem query_eq (r : BitVec 8) (i : BitVec 16) (m : Mach) : Hif.query r i m = m.descRow r.toNat i.toNat 10
    (fun _ d => !d.zero 16 48 || decide (d.at_ 0 4 % 8 ≠ 0 ∨ d.at_ 4 4 = 0 ∨ 8192 < d.at_ 4 4 ∨ 0x4000000 < d.at_ 0 4 + 8 * d.at_ 4 4))
    queryStart noGo := rfl

theorem queryEntries_keep (d : Desc) (l : List Nat) (m : Mach) :
    (∀ f i, f.measured = false → (l.foldl (queryEntry d) m).rd f i = m.rd f i) ∧ (l.foldl (queryEntry d) m).hif = m.hif := by
  induction l generalizing m with
  | nil => exact ⟨fun _ _ _ => rfl, rfl⟩
  | cons k l ih =>
    obtain ⟨hrd, hhif⟩ := ih (queryEntry d m k)
    obtain ⟨hrd', hhif', -⟩ := m.readReg_keeps 0 (d.at_ 0 4 + 8 * k)
    exact ⟨fun f i hf => (hrd f i hf).trans (hrd' f i hf), hhif.trans hhif'⟩

theorem query_ends {m : Mach} {d : Desc} (hd : (m.setBusy d).hif.descs.any (·.seq == d.seq) = true) :
    let m' := queryStart d (m.setBusy d)
    m.Ended m' d 0 0 (d.at_ 4 4) ∧ (∀ f k, f ∉ completionFields → f.measured = false → m'.rd f k = m.rd f k) := by
  intro m'
  obtain ⟨hrd, hhif⟩ := queryEntries_keep d (List.range (d.at_ 4 4)) (m.setBusy d)
  refine ⟨?_, fun f k hf hmeas => ?_⟩
  · refine ((Mach.complete_ended (by rw [hhif]; exact hd) 0 0 _ []).of_same (congrArg Hif.descs hhif) fun f hf => hrd f _ ?_).of_setBusy
    simp only [List.mem_cons, List.not_mem_nil, or_false] at hf
    obtain rfl | rfl | rfl | rfl := hf <;> rfl
  · exact (Mach.rd_complete_of_ne _ hf _ _ _ _ _ _).trans (hrd f k hmeas)

/-- The one register of a QUERY stands in host memory. -/
theorem query_reads {m : Mach} {d : Desc} (hd : m.hif.descs.any (·.seq == d.seq) = true) (hone : d.at_ 4 4 = 1) (hres : d.result = 0)
    (hapart : let cq := m.rd .HIF_RING_CQ_BASE d.ring * 4096 + 16 * m.rd .HIF_RING_STATUS_CQ_TAIL d.ring
      d.at_ 8 8 + 8 ≤ cq ∨ cq + 16 ≤ d.at_ 8 8) :
    (queryStart d m).hostRead (d.at_ 8 8) 8 = leBytes 8 (m.readReg 0 (d.at_ 0 4)).1 := by
  obtain ⟨hrd, hhif⟩ := queryEntries_keep d [0] m
  have hrow : queryStart d m = (queryEntry d m 0).complete d 0 0 (d.at_ 4 4) [] := by rw [queryStart, hone]; rfl
  have hcq := hrd .HIF_RING_CQ_BASE d.ring rfl
  have htail := hrd .HIF_RING_STATUS_CQ_TAIL d.ring rfl
  rw [List.foldl_cons, List.foldl_nil] at hcq htail hhif
  rw [hrow, Mach.hostRead_complete (by rw [hhif]; exact hd) hres _ _ _ (by rw [hcq, htail]; exact hapart)]
  have hread := (m.readReg 0 (d.at_ 0 4)).2.hostRead_hostWrite (d.at_ 8 8) (leBytes 8 (m.readReg 0 (d.at_ 0 4)).1)
  rw [leBytes_length] at hread
  exact hread

/-- Settles O37: CONFIG_WRITE performs and counts its entries (`Mach.configEntries_eq`), each a register write
(`Mach.configEntry_writes`, `Mach.putReg_wrote`); QUERY ends by `query_ends`, its one register read by `query_reads`. -/
theorem listsOfRegisters : Obligations.ListsOfRegisters := by
  unfold Obligations.ListsOfRegisters
  intro r i d q j off v s a n m0 list m1 names poisoned
  refine ⟨fun hb hzero hn hmax => ?_, fun hoff hv h8 hreg htakes hok hrow => ?_, fun hb hzero h8 hn hmax hend => ?_⟩
  · have hstart (fails : Bool) : Bar0.configWrite r i fails s.m = configStart fails d (s.m.setBusy d) :=
      (configWrite_eq r i fails s.m).trans (hb.descRow_eq (configStart fails) noGo
        (by rw [hzero, decide_eq_false (show ¬(n = 0 ∨ 4096 < n) by omega)]; rfl))
    have hpoison := configPoisoned_iff s.m a n
    refine ⟨fun hclean hd => does_of_lift (f := Bar0.configWrite r i false) rfl ?_,
      does_of_lift (f := Bar0.configWrite r i true) rfl ?_, fun hbad => does_of_lift (f := Bar0.configWrite r i false) rfl ?_⟩
    · have hrow : configStart false d (s.m.setBusy d) =
          m1.complete d 0 0 (list.countP names + 2 ^ 32 * (n - list.countP names)) [] := by
        have hfold := m0.configEntries_eq list 0
        rw [Nat.zero_add] at hfold
        unfold configStart
        refine (if_neg Bool.false_ne_true).trans ((if_neg (mt hpoison.1 hclean)).trans ?_)
        dsimp only
        exact congrArg (fun am : Nat × Mach => am.2.complete d 0 0 (am.1 + 2 ^ 32 * (n - am.1)) []) hfold
      rw [hstart, hrow]
      exact ⟨Mach.complete_ended hd _ _ _ _, Mach.core_of_still (Mach.still_complete ..)⟩
    · rw [hstart]
      exact (hb.complete_keeps 2).1
    · rw [hstart]
      have hrow : configStart false d (s.m.setBusy d) = (s.m.setBusy d).complete d 3 0 0 [] :=
by
        unfold configStart
        exact (if_neg Bool.false_ne_true).trans (if_pos (hpoison.2 hbad))
      rw [hrow]
      exact (hb.complete_keeps 3).1
  · rw [Mach.configEntry_writes hoff hv h8 (by rw [hreg]; rfl), Mach.writeReg_rowless htakes hreg rfl hok hrow]
    obtain ⟨hwrote, hothers, -⟩ := Mach.putReg_wrote hreg hrow s.m 1 v
    exact ⟨hwrote, hothers⟩
  · intro cq
    refine does_of_lift (f := Hif.query r i) rfl ?_
    have hrow : Hif.query r i s.m = queryStart d (s.m.setBusy d) :=
      (query_eq r i s.m).trans (hb.descRow_eq queryStart noGo (by rw [hzero, decide_eq_false (by omega)]; rfl))
    rw [hrow]
    obtain ⟨hended, hkeeps⟩ := query_ends hb.inProgress
    refine ⟨hended, fun f k htail hphase hdone hpba hmeas => hkeeps f k (by simp [completionFields, htail, hphase, hdone, hpba]) hmeas,
      fun hone hres hapart => ?_⟩
    exact query_reads hb.inProgress hone hres hapart

end Sys2Proof.Machine

/-! O39: the DMA descriptor (R268, R269, R413). -/
namespace Sys2Proof.Machine

/-- A descriptor that has started goes on. -/
theorem Mach.descRow_goesOn {m : Mach} {r i ty : Nat} {d : Desc} (hfind : m.findDesc r i ty = some d) (hup : m.hifUp = true)
    (hbusy : d.busy = true) (bad : Mach → Desc → Bool) (start go : Desc → Mach → Mach) : m.descRow r i ty bad start go = go d m := by
  rw [Mach.descRow, hfind]
  dsimp only
  rw [hup, Bool.not_true, if_neg Bool.false_ne_true, if_pos hbusy]

theorem Mach.findDesc_any {m : Mach} {r i ty : Nat} {d : Desc} (h : m.findDesc r i ty = some d) :
    m.hif.descs.any (·.seq == d.seq) = true :=
  List.any_eq_true.2 ⟨d, List.mem_of_find?_eq_some h, beq_self_eq_true _⟩

/-- The register fields that a captured address fault writes (R271). -/
def captureFields : List Fld := [.MEM_ADDR_FAULT_VALID, .MEM_ADDR_FAULT_ADDR, .MEM_ADDR_FAULT_CAUSE, .MEM_ADDR_FAULT_CORE,
  .MEM_ADDR_FAULT_HUB, .MEM_ADDR_FAULT_HUB_SRC]

theorem Mach.rd_captureFault_of_ne (m : Mach) (cause addr src : Nat) (hub : Bool) {f : Fld} (hf : f ∉ captureFields) (i : Nat) :
    (m.captureFault cause addr hub src).rd f i = m.rd f i := by
  unfold Mach.captureFault
  split
  · rfl
  · exact Mach.rd_wrs_of_ne fun fv hfv heq => hf (heq ▸ List.mem_map_of_mem (f := Prod.fst) hfv)

/-! The row of the DMA descriptor. -/

/-- DMA of a descriptor that has started: its sides are checked, and a remote source is asked for. -/
def dmaStart (ps : List Bool) (d : Desc) (m : Mach) : Mach :=
  let c := d.dmaCmd
  let s := m.sideCauses c.src c.len false (c.layout == 2) none
  match lowest (s ++ m.sideCauses c.dst c.len true (c.layout == 1) none) with
  | some x => (m.captureFault x (if s.contains x then c.src else c.dst) true 0).complete d 0x02 x 0 []
  | none =>
    match (m.side c.src).remote with
    | some g => m.memRead 0 g (m.side c.src).addr c.len
    | none => Hif.dmaMove d c false [] ps m

/-- DMA of a descriptor in progress: its bytes move, or are acknowledged. -/
def dmaGo (ack : Bool) (cause : BitVec 4) (data : List Byte) (ps : List Bool) (d : Desc) (m : Mach) : Mach :=
  let c := d.dmaCmd
  if cause ≠ 0 then Hif.writeFailed d (cause.toNat, if d.sent then c.dst else c.src, m) 0
  else if d.sent then (if ack then Hif.dmaEnd d c d.poisoned m else m)
  else Hif.dmaMove d c ack data ps m

theorem dma_eq (r : BitVec 8) (i : BitVec 16) (ack : Bool) (cause : BitVec 4) (data : List Byte) (ps : List Bool) (m : Mach) :
    Hif.dma r i ack cause data ps m = m.descRow r.toNat i.toNat 3 (fun _ d => d.dmaCmd.bad || !d.zero (if d.fmt1 then 22 else 24) 48)
      (dmaStart ps) (dmaGo ack cause data ps) := rfl

section
variable {m m1 m2 : Mach} {d : Desc} {c : DmaCmd} {ack : Bool} {data : List Byte} {ps : List Bool} {bs : List PByte}

/-- A source on this module needs no answer. -/
theorem Mach.sourceSide_local {a : Nat} (h : (m.side a).remote = none) (n : Nat) :
    m.sourceSide a n false [] ps = m.sourceSide a n ack data ps := by
  rw [Mach.sourceSide, Mach.sourceSide, h]

variable (hbehind : Hif.dmaBehind d m = false) (hsrc : m.sourceSide c.src c.len ack data ps = some (bs, m2))
include hbehind hsrc

/-- R413: the bytes are stored on this module, and the descriptor ends. -/
theorem dmaMove_local (hlocal : (m2.side c.dst).remote = none)
    (hw : m2.writeSide 0 (m2.side c.dst).addr (c.flags == 1) (relayout c.layout bs) = .ok m1) :
    Hif.dmaMove d c ack data ps m = m1.complete d (if bs.any Prod.snd then 3 else 0) 0 c.len [] := by
  rw [Hif.dmaMove, hbehind, if_neg Bool.false_ne_true, hsrc]
  dsimp only
  rw [hlocal]
  dsimp only
  rw [hw]
  rfl

/-- R269: the bytes are sent to the module that holds the destination. -/
theorem dmaMove_remote {g : Nat} (hremote : (m2.side c.dst).remote = some g) :
    Hif.dmaMove d c ack data ps m =
      (m2.memWrite 0 g (m2.side c.dst).addr (c.flags == 1) (relayout c.layout bs)).onHif fun h =>
        { h with descs := h.descs.map fun e => if e.seq == d.seq then { e with sent := true, poisoned := bs.any Prod.snd } else e } := by
  rw [Hif.dmaMove, hbehind, if_neg Bool.false_ne_true, hsrc]
  dsimp only
  rw [hremote]
end

/-- The descriptor whose bytes have been sent says so. -/
theorem sent_of_mem {ds : List Desc} {d e : Desc} {bad : Bool}
    (he : e ∈ ds.map fun e => if e.seq == d.seq then { e with sent := true, poisoned := bad } else e) (hseq : e.seq = d.seq) :
    e.sent = true ∧ e.poisoned = bad := by
  obtain ⟨e0, -, rfl⟩ := List.mem_map.mp he
  by_cases h : e0.seq == d.seq
  · rw [if_pos h]
    exact ⟨rfl, rfl⟩
  · rw [if_neg h] at hseq
    exact absurd (beq_iff_eq.2 hseq) h

/-- A side that fails its checks ends the descriptor, and is captured (R268, R271). -/
theorem dmaFault_ends {m : Mach} {d : Desc} (hd : (m.setBusy d).hif.descs.any (·.seq == d.seq) = true) (x addr : Nat) :
    let m' := ((m.setBusy d).captureFault x addr true 0).complete d 2 x 0 []
    m.Ended m' d 2 x 0 ∧
      (m.on .MEM_ADDR_FAULT_VALID 0 = false → m'.rd .MEM_ADDR_FAULT_VALID 0 = 1 ∧ m'.rd .MEM_ADDR_FAULT_CAUSE 0 = x % 16) ∧
      (∀ f j, f ∉ captureFields ++ completionFields → m'.rd f j = m.rd f j) ∧ ∀ k, m'.byteAt k = m.byteAt k := by
  intro m'
  have hrd {f : Fld} (hf : f ∉ completionFields) (j : Nat) : m'.rd f j = ((m.setBusy d).captureFault x addr true 0).rd f j :=
    Mach.rd_complete_of_ne _ hf _ _ _ _ _ _
  have hhif : ((m.setBusy d).captureFault x addr true 0).hif = (m.setBusy d).hif := by rw [Mach.captureFault_eq]
  have hmem : ((m.setBusy d).captureFault x addr true 0).mem = m.mem := by
    rw [Mach.captureFault_eq]
    rfl
  refine ⟨?_, fun hvalid => ?_, fun f j hf => ?_, fun k => ?_⟩
  · refine ((Mach.complete_ended (by rw [hhif]; exact hd) 2 x 0 []).of_same (congrArg Hif.descs hhif) fun f hf => ?_).of_setBusy
    refine Mach.rd_captureFault_of_ne _ _ _ _ _ ?_ _
    simp only [List.mem_cons, List.not_mem_nil, or_false] at hf
    obtain rfl | rfl | rfl | rfl := hf <;> decide
  · obtain ⟨hv, hc, -⟩ := Mach.captureFault_captures (m := m.setBusy d) hvalid x addr 0 true
    exact ⟨(hrd (by decide) _).trans hv, (hrd (by decide) _).trans hc⟩
  · rw [List.mem_append, not_or] at hf
    exact (hrd hf.2 j).trans (Mach.rd_captureFault_of_ne _ _ _ _ _ hf.1 j)
  · exact congrArg (NMap.get byte0 · k) ((Mach.mem_complete _ _ _ _ _ _).trans hmem)

/-- Settles O39: the row starts or goes on with its descriptor, and the bytes move by `dmaMove_local` or `dmaMove_remote`; a failed check
is `dmaFault_ends`. -/
theorem dmaDescriptor : Obligations.DmaDescriptor := by
  unfold Obligations.DmaDescriptor
  intro r i ack ps data d bs m1 m2 s c starts goes causes m0 out
  have hstart (hs : starts) (ack : Bool) : Hif.dma r i ack 0 data ps s.m = dmaStart ps d (s.m.setBusy d) := by
    obtain ⟨hb, hbad, hzero⟩ := hs
    exact (dma_eq ..).trans (hb.descRow_eq (bad := fun _ d => d.dmaCmd.bad || !d.zero (if d.fmt1 then 22 else 24) 48) _ _
      (by rw [show d.dmaCmd.bad = false from hbad, hzero]; rfl))
  have hgo (hg : goes) (ack : Bool) : Hif.dma r i ack 0 data ps s.m = dmaGo ack 0 data ps d s.m := by
    obtain ⟨hfind, hup, hbusy⟩ := hg
    exact (dma_eq ..).trans (Mach.descRow_goesOn hfind hup hbusy _ _ _)
  have hpass (hnone : causes = []) : lowest ((s.m.setBusy d).sideCauses c.src c.len false (c.layout == 2) none ++
      (s.m.setBusy d).sideCauses c.dst c.len true (c.layout == 1) none) = none := congrArg lowest hnone
  refine ⟨fun hwhen hbehind hsrc => ?_, fun g hs hnone hremote => does_of_lift (f := Hif.dma r i ack 0 data ps) rfl ?_,
    fun hg hsent => does_of_lift (f := Hif.dma r i true 0 data ps) rfl ?_,
    fun x hs hlow => does_of_lift (f := Hif.dma r i ack 0 data ps) rfl ?_⟩
  · have hrow : Hif.dma r i ack 0 data ps s.m = Hif.dmaMove d c ack data ps m0 := by
      rcases hwhen with ⟨hs, hnone, hlocal⟩ | ⟨hg, hsent⟩
      · have hidle : d.busy = false := hs.1.2.2.1
        have hm0 : m0 = s.m.setBusy d := if_neg (by rw [hidle]; decide)
        rw [hm0, hstart hs, dmaStart]
        rw [hpass hnone]
        dsimp only
        rw [show ((s.m.setBusy d).side d.dmaCmd.src).remote = none from hlocal]
        dsimp only
        rw [Hif.dmaMove, Hif.dmaMove, Mach.sourceSide_local (m := s.m.setBusy d) (ack := ack) (data := data) hlocal]
      · have hm0 : m0 = s.m := if_pos hg.2.2
        rw [hm0, hgo hg, dmaGo]
        rw [if_neg (by decide), hsent, if_neg Bool.false_ne_true]
    refine ⟨fun hlocal hw hd => does_of_lift (f := Hif.dma r i ack 0 data ps) rfl ?_,
      fun g hremote => does_of_lift (f := Hif.dma r i ack 0 data ps) rfl ?_⟩
    · rw [hrow, dmaMove_local hbehind hsrc hlocal hw]
      exact ⟨Mach.complete_ended hd _ _ _ _, Mach.byteAt_of_still (Mach.still_complete ..)⟩
    · rw [hrow, dmaMove_remote hbehind hsrc hremote]
      exact ⟨rfl, fun e he hseq => sent_of_mem he hseq, Mach.byteAt_of_still (Mach.still_memWrite ..)⟩
  · rw [hstart hs, dmaStart]
    rw [hpass hnone]
    dsimp only
    rw [show ((s.m.setBusy d).side d.dmaCmd.src).remote = some g from hremote]
    rfl
  · rw [hgo hg, dmaGo]
    rw [if_neg (by decide), hsent, if_pos rfl, if_pos rfl]
    exact Mach.complete_ended (Mach.findDesc_any hg.1) _ _ _ _
  · have hlow' : lowest ((s.m.setBusy d).sideCauses c.src c.len false (c.layout == 2) none ++
      (s.m.setBusy d).sideCauses c.dst c.len true (c.layout == 1) none) = some x := hlow
    rw [hstart hs, dmaStart]
    rw [hlow']
    exact dmaFault_ends hs.1.inProgress _ _

end Sys2Proof.Machine

/-! What the traffic of the links leaves. Control frames, credits, the frames that wait for a link and the faults that these raise put frames
out; they leave the rest of the fabric, what a link expects next, and ingest as they were. -/
namespace Sys2Proof.Machine

/-- The fabric but for the frames that leave, wait and are held, and their counts. -/
def Fab.standing (b : Fab) : Fab :=
  { b with
    txSeq := [], unacked := [], credits := [], owed := [], out := [], flowTx := [], flowRx := [], rr := [], netOut := [], unsettled := []
    waitSettle := [], early := [], wait := [], memIn := [], memOut := [] }

/-- From `m` to `m'` frames may have left. -/
structure Mach.Sends (m m' : Mach) : Prop where
  standing : m'.fab.standing = m.fab.standing
  out : m.fab.out ⊆ m'.fab.out
  ing : m'.ing = m.ing

namespace Mach.Sends

variable {m m' m'' : Mach}

theorem refl (m : Mach) : m.Sends m := ⟨rfl, List.Subset.refl _, rfl⟩

theorem trans (h : m.Sends m') (h' : m'.Sends m'') : m.Sends m'' :=
  ⟨h'.standing.trans h.standing, List.Subset.trans h.out h'.out, h'.ing.trans h.ing⟩

theorem of_eq (hfab : m'.fab = m.fab) (hing : m'.ing = m.ing) : m.Sends m' :=
  ⟨congrArg Fab.standing hfab, hfab ▸ List.Subset.refl _, hing⟩

theorem foldl {α : Type} {f : Mach → α → Mach} (h : ∀ (m : Mach) a, m.Sends (f m a)) (l : List α) (m : Mach) : m.Sends (l.foldl f m) := by
  induction l generalizing m with
  | nil => exact .refl m
  | cons a l ih => exact (h m a).trans (ih _)

theorem ite {c : Prop} [Decidable c] {a b : Mach} (ha : m.Sends a) (hb : m.Sends b) : m.Sends (if c then a else b) := by
  split
  · exact ha
  · exact hb

/-- A change of the fabric that keeps what stands and what has left. -/
theorem of_onFab {g : Fab → Fab} (hstanding : (g m.fab).standing = m.fab.standing) (hout : (g m.fab).out = m.fab.out) : m.Sends (m.onFab g) :=
  ⟨hstanding, fun _ hx => hout ▸ hx, rfl⟩

theorem rxSeq (h : m.Sends m') : m'.fab.rxSeq = m.fab.rxSeq := (congrArg Fab.rxSeq h.standing : m'.fab.standing.rxSeq = _)
theorem certOk (h : m.Sends m') : m'.fab.certOk = m.fab.certOk := (congrArg Fab.certOk h.standing : m'.fab.standing.certOk = _)
theorem offers (h : m.Sends m') : m'.fab.offers = m.fab.offers := (congrArg Fab.offers h.standing : m'.fab.standing.offers = _)
theorem hold (h : m.Sends m') : m'.fab.hold = m.fab.hold := (congrArg Fab.hold h.standing : m'.fab.standing.hold = _)
theorem check (h : m.Sends m') : m'.fab.check = m.fab.check := (congrArg Fab.check h.standing : m'.fab.standing.check = _)
theorem hops (h : m.Sends m') : m'.fab.hops = m.fab.hops := (congrArg Fab.hops h.standing : m'.fab.standing.hops = _)
theorem topo (h : m.Sends m') : m'.fab.topo = m.fab.topo := (congrArg Fab.topo h.standing : m'.fab.standing.topo = _)
theorem identAt (h : m.Sends m') : m'.fab.identAt = m.fab.identAt := (congrArg Fab.identAt h.standing : m'.fab.standing.identAt = _)

end Mach.Sends

/-! Registers, counters and records. -/

theorem Mach.sends_wr (m : Mach) (f : Fld) (i v : Nat) : m.Sends (m.wr f i v) := .of_eq rfl rfl

theorem Mach.sends_wrs (m : Mach) (i : Nat) (fs : List (Fld × Nat)) : m.Sends (m.wrs i fs) := by
  rw [Mach.wrs_eq]; exact .of_eq rfl rfl

theorem Mach.sends_bump (m : Mach) (f : Fld) (i n : Nat) : m.Sends (m.bump f i n) := by
  rw [Mach.bump_eq]; exact .of_eq rfl rfl

theorem Mach.sends_ev (m : Mach) (g code n : Nat) : m.Sends (m.ev g code n) := by
  rw [Mach.ev_eq]; exact .of_eq rfl rfl

theorem Mach.sends_hev (m : Mach) (b code n : Nat) : m.Sends (m.hev b code n) := by
  rw [Mach.hev_eq]; exact .of_eq rfl rfl

theorem Mach.sends_trace (m : Mach) (src ty : Nat) (p : List Byte) : m.Sends (m.trace src ty p) := by
  rw [Mach.trace_eq]; exact .of_eq rfl rfl

theorem Mach.sends_trigger (m : Mach) (b : Nat) : m.Sends (m.trigger b) := by
  rw [Mach.trigger_eq]; exact .of_eq rfl rfl

theorem Mach.sends_markGated (m : Mach) (rs : List Nat) : m.Sends (m.markGated rs) :=
  .foldl (f := fun m r => m.setBuf r { m.buf r with gated := true }) (fun _ _ => .of_eq rfl rfl) rs m

theorem Mach.sends_signal (m : Mach) (v : Nat) : m.Sends (m.signal v) := .of_eq (m.lasts_signal v).fab (m.lasts_signal v).ing

theorem Mach.sends_event (m : Mach) (f : Fld) : m.Sends (m.event f) := .ite ((m.sends_wr f 0 1).trans (Mach.sends_signal _ _)) (m.sends_wr f 0 1)

theorem Mach.sends_complete (m : Mach) (d : Desc) (st de inf : Nat) (res : List Byte) : m.Sends (m.complete d st de inf res) :=
  .of_eq (m.lasts_complete d st de inf res).fab (m.lasts_complete d st de inf res).ing

theorem Mach.sends_setLink (m : Mach) (k st reason : Nat) : m.Sends (m.setLink k st reason) :=
  have hwrites : m.Sends ((m.wr .FAB_LINK_STATE k st).wr .FAB_LINK_REASON k reason) := .of_eq rfl rfl
  .ite (hwrites.trans (Mach.sends_trace _ _ _ _)) hwrites

theorem Mach.sends_captureFault (m : Mach) (c a : Nat) (hub : Bool) (src : Nat) : m.Sends (m.captureFault c a hub src) := by
  rw [Mach.captureFault_eq]; exact .of_eq rfl rfl

/-! Control frames and broadcasts. -/

theorem Mach.sends_takeOwed (m : Mach) (k : Nat) : m.Sends (m.takeOwed k).2 := by
  unfold Mach.takeOwed
  generalize [1, 2, 3, 4] = cs
  split
  · exact .of_onFab (g := fun b => { b with owed := cs.foldl (fun o c =>
      NMap.set nat0 o (credKey k c) (o.get nat0 (credKey k c) - min 255 (o.get nat0 (credKey k c)))) b.owed }) rfl rfl
  · exact .refl m

theorem Mach.sends_sendRaw (m : Mach) (k : Nat) (f : Frame) : m.Sends (m.sendRaw k f) :=
  (m.sends_takeOwed k).trans ⟨rfl, List.subset_append_left _ _, rfl⟩

theorem Mach.sends_castForward (m : Mach) (f : Frame) : m.Sends (m.castForward f) := by
  refine .foldl (fun m d => ?_) _ m
  unfold Mach.castHop
  split
  · split
    · exact m.sends_sendRaw _ _
    · exact .refl m
  · exact .refl m

/-! Faults. -/

theorem Mach.sends_freeze (m : Mach) (src : Nat) : m.Sends (m.freeze src) := by
  unfold Mach.freeze
  generalize List.range 69 = rs
  refine .ite (.refl m) (.ite (.ite (m.sends_wr ..) (.refl m)) ?_)
  have hcast : ∀ m1 : Mach, m1.Sends (if m1.on .DBG_FREEZE_CTRL_BCAST 0 && src != 6 then m1.broadcast 0x22 [] else m1) :=
    fun m1 => .ite (m1.sends_castForward _) (.refl m1)
  have hfrozen : ∀ m1 : Mach, m1.Sends ((((m1.wr .DBG_FREEZE_CTRL_SOURCE 0 src).wr .DBG_FREEZE_CTRL_FROZEN 0 1).wr .MOD_STATUS_FROZEN 0 1).wr
      .TICK_STATE_HELD 0 1) := fun m1 => (((m1.sends_wr ..).trans (Mach.sends_wr ..)).trans (Mach.sends_wr ..)).trans (Mach.sends_wr ..)
  refine .trans ?_ (hfrozen _)
  refine .trans ?_ (Mach.sends_markGated _ rs)
  refine .trans ?_ (hcast _)
  exact (m.sends_wr ..).trans (Mach.sends_trace _ _ _ _)

theorem Mach.sends_fires (m : Mach) (b : Nat) : m.Sends (m.fires b) := by
  unfold Mach.fires
  exact .ite (.refl m) (.ite ((m.sends_trigger b).trans (Mach.sends_freeze _ _)) (m.sends_trigger b))

theorem Mach.sends_raiseFreeze (m : Mach) (cls : Nat) : m.Sends (m.raiseFreeze cls) := .ite (m.sends_fires 3) (.refl m)

theorem Mach.sends_logFault (m : Mach) (e : FaultEnt) : m.Sends (m.logFault e) := by
  unfold Mach.logFault
  refine .trans (.trans ?_ (Mach.sends_wr ..)) (Mach.sends_event _ _)
  refine .trans ?_ (Mach.sends_wr ..)
  exact .of_eq rfl rfl

theorem Mach.sends_countNotice (m : Mach) (code : Nat) : m.Sends (m.countNotice code).2 := by
  have hparts : (m.countNotice code).2.fab = m.fab ∧ (m.countNotice code).2.ing = m.ing := by
    unfold Mach.countNotice
    dsimp only
    split <;> split <;> exact ⟨rfl, rfl⟩
  exact .of_eq hparts.1 hparts.2

theorem Mach.sends_raiseLog (m : Mach) (code sub src a0 a1 : Nat) : m.Sends (m.raiseLog code sub src a0 a1) := by
  unfold Mach.raiseLog
  dsimp only
  split
  · split
    · exact (m.sends_countNotice code).trans (Mach.sends_logFault _ _)
    · exact m.sends_countNotice code
  · exact m.sends_logFault _

theorem Mach.sends_endStep (m : Mach) (st de inf t : Nat) : m.Sends (m.endStep st de inf t) := by
  unfold Mach.endStep
  split
  · exact .refl m
  · refine .trans (.trans ?_ (Mach.sends_complete _ _ _ _ _ _)) (Mach.sends_wrs _ _ _)
    exact .of_eq rfl rfl

theorem Mach.sends_abortStep (m : Mach) (code : Nat) : m.Sends (m.abortStep code) := by
  unfold Mach.abortStep
  split
  · exact .refl m
  · exact (m.sends_endStep ..).trans (.of_eq rfl rfl)

/-- A fault short of FATAL_MODULE, which ends ingest's jobs. -/
theorem Mach.sends_raise (m : Mach) {code : Nat} (hcode : faultClass code ≠ 4) (sub src a0 a1 : Nat) : m.Sends (m.raise code sub src a0 a1) := by
  unfold Mach.raise
  dsimp only
  have hraised : m.Sends (((m.raiseFreeze (faultClass code)).raiseLog code sub src a0 a1).faultTrace src code (faultClass code)) :=
    ((m.sends_raiseFreeze _).trans (Mach.sends_raiseLog _ _ _ _ _ _)).trans (Mach.sends_trace _ _ _ _)
  rw [if_neg hcode]
  exact .ite (hraised.trans (Mach.sends_abortStep _ _)) hraised

/-! Frames that wait, and credits. -/

theorem Mach.sends_settle (m : Mach) (k : Nat) : m.Sends (m.settle k) := .of_onFab rfl rfl

theorem Mach.sends_dropUnreachable (m : Mach) (cls src dest : Nat) : m.Sends (m.dropUnreachable cls src dest) :=
  .ite ((m.sends_bump ..).trans (Mach.sends_raise _ (by decide) _ _ _ _)) (m.sends_bump ..)

theorem Mach.sends_returnCredit (m : Mach) (l cls : Nat) : m.Sends (m.returnCredit l cls) :=
  .ite (m.sends_sendRaw _ _) (.of_onFab rfl rfl)

theorem Mach.sends_sendOn (m : Mach) (k : Nat) (f : Frame) : m.Sends (m.sendOn k f) := by
  unfold Mach.sendOn
  refine ((m.sends_takeOwed k).trans ?_).trans (Mach.sends_hev _ _ _ _)
  exact ⟨rfl, List.subset_append_left _ _, rfl⟩

theorem Mach.sends_tryWaiting (m : Mach) (w : Waiting) : m.Sends (m.tryWaiting w) := by
  have hback : ∀ m : Mach, m.Sends (if w.link = 0 then m else m.returnCredit (w.link - 1) w.frame.cls) :=
    fun m => .ite (.refl m) (m.sends_returnCredit _ _)
  unfold Mach.tryWaiting
  dsimp only
  split
  · have hdropped := (m.sends_dropUnreachable w.frame.cls w.frame.sMod w.frame.dMod).trans (hback _)
    exact .ite hdropped (hdropped.trans (Mach.sends_settle _ _))
  · split
    · exact .of_onFab rfl rfl
    · exact .trans (.trans (.of_onFab rfl rfl) (Mach.sends_sendOn _ _ _)) (hback _)

theorem Mach.sends_flush (m : Mach) : m.Sends m.flush := .trans (.of_onFab rfl rfl) (.foldl Mach.sends_tryWaiting _ _)

theorem Mach.sends_sendLater (m : Mach) (f : Frame) : m.Sends (m.sendLater f) := .trans (.of_onFab rfl rfl) (Mach.sends_flush _)

theorem Mach.sends_addCredit (m : Mach) (k c n : Nat) : m.Sends (m.addCredit k c n) := by
  have hadded : m.Sends (m.onFab fun b => { b with credits := NMap.set nat0 b.credits (credKey k c) (b.credits.get nat0 (credKey k c) + n) }) :=
    .of_onFab rfl rfl
  refine .ite (hadded.trans ?_) hadded
  exact .trans (.of_onFab rfl rfl) (.foldl (fun _ _ => Mach.sends_settle _ _) _ _)

theorem Mach.sends_takeCredits (m : Mach) (k cr : Nat) : m.Sends (m.takeCredits k cr) :=
  .ite (.foldl (fun m _ => m.sends_addCredit _ _ _) _ m) (.refl m)

theorem Mach.sends_headerCredit (m : Mach) (k cr : Nat) : m.Sends (m.headerCredit k cr) :=
  .ite (.refl m) ((m.sends_takeCredits k cr).trans (Mach.sends_flush _))

/-! Links that go down. -/

theorem Mach.sends_portLost (m : Mach) (d p : Nat) : m.Sends (m.portLost d p) :=
  .ite (.refl m) (.ite ((m.sends_bump ..).trans (Mach.sends_raise _ (by decide) _ _ _ _)) (.refl m))

theorem Mach.sends_reclaim (m : Mach) (k : Nat) (heir : Option Nat) : m.Sends (m.reclaim k heir) := by
  unfold Mach.reclaim
  dsimp only
  refine .trans ?_ (.of_onFab rfl rfl)
  split
  · exact .of_onFab rfl rfl
  · exact .foldl (fun _ _ => Mach.sends_settle _ _) _ m

theorem Mach.sends_linkDown (m : Mach) (k st reason : Nat) : m.Sends (m.linkDown k st reason) := by
  unfold Mach.linkDown
  dsimp only
  have hleft := ((m.sends_setLink k st reason).trans (Mach.sends_wrs _ k [(.FAB_LINK_LEVEL, 0), (.FAB_LINK_IN_PORT, 0), (.FAB_LINK_PORT, 7),
    (.FAB_LINK_READY, 0), (.FAB_LINK_COLL_MISMATCH, 0)])).trans (Mach.sends_reclaim _ k (m.creditLinks k)[1]?)
  exact (Mach.Sends.ite (hleft.trans (Mach.sends_portLost _ _ _)) hleft).trans (Mach.sends_flush _)

theorem Mach.sends_linkFailed (m : Mach) (k : Nat) : m.Sends (m.linkFailed k) :=
  .ite (.refl m) (((m.sends_bump ..).trans (Mach.sends_raise _ (by decide) _ _ _ _)).trans (Mach.sends_linkDown _ _ _ _))

theorem Mach.sends_quarantine (m : Mach) (k reason : Nat) : m.Sends (m.quarantine k reason) :=
  .ite (.refl m) ((m.sends_linkDown _ _ _).trans (Mach.sends_raise _ (by decide) _ _ _ _))

end Sys2Proof.Machine

/-! What writes to memory leave: plain storage, T2, Peat pages, and writes sent to a remote module (R246-R249, R256-R267). -/
namespace Sys2Proof.Machine

/-- The register fields that a write to memory may change, besides those that a fault does. -/
def storeFields : List Fld := [.CC_CODE_STATUS_ADDR, .CC_CODE_STATUS_SOURCE, .CC_CODE_STATUS_MODIFIED, .CC_CODE_STATUS_STALE,
  .MEM_POISON_ORIGIN_VALID, .MEM_POISON_ORIGIN_KIND, .MEM_POISON_ORIGIN_ADDR, .MEM_STK_CORR, .MEM_STK_UNCORR, .CS_ECC_CORR,
  .CS_ECC_UNCORR, .MEM_PEAT_RMW]

/-- The part of the machine that neither writes to memory nor their checks touch. -/
def Mach.quiet (m : Mach) : Still := { m.still with mem := [], poison := [], hurt := Mach.reset.hurt, cores := [], free := 0 }

/-- From `m` to `m'` bytes have been written: registers and state that no write touches are as they were. -/
structure Mach.Stores (m m' : Mach) : Prop where
  rd : ∀ f i, f.lossAside = false → f ∉ storeFields → m'.rd f i = m.rd f i
  quiet : m'.quiet = m.quiet
  sends : m.Sends m'

namespace Mach.Stores

variable {m m' m'' : Mach}

theorem refl (m : Mach) : m.Stores m := ⟨fun _ _ _ _ => rfl, rfl, .refl m⟩

theorem trans (h : m.Stores m') (h' : m'.Stores m'') : m.Stores m'' :=
  ⟨fun f i ha hf => (h'.rd f i ha hf).trans (h.rd f i ha hf), h'.quiet.trans h.quiet, h.sends.trans h'.sends⟩

theorem of_regs (hr : m'.regs = m.regs) (hq : m'.quiet = m.quiet) (hs : m.Sends m') : m.Stores m' :=
  ⟨fun f i _ _ => by rw [Mach.rd, Mach.rd, hr], hq, hs⟩

theorem foldl {α : Type} {f : Mach → α → Mach} (h : ∀ (m : Mach) a, m.Stores (f m a)) (l : List α) (m : Mach) : m.Stores (l.foldl f m) := by
  induction l generalizing m with
  | nil => exact .refl m
  | cons a l ih => exact (h m a).trans (ih _)

theorem ite {c : Prop} [Decidable c] {a b : Mach} (ha : m.Stores a) (hb : m.Stores b) : m.Stores (if c then a else b) := by
  split
  · exact ha
  · exact hb

theorem of_still (hrd : ∀ f i, f.lossAside = false → m'.rd f i = m.rd f i) (hs : m'.still = m.still) (hsends : m.Sends m') :
    m.Stores m' :=
  ⟨fun f i ha _ => hrd f i ha,
    congrArg (fun s : Still => { s with mem := [], poison := [], hurt := Mach.reset.hurt, cores := [], free := 0 }) hs,
    hsends⟩

theorem banks (h : m.Stores m') : m'.banks = m.banks := (congrArg Still.banks h.quiet : m'.quiet.banks = _)
theorem deferred (h : m.Stores m') : m'.deferred = m.deferred := (congrArg Still.deferred h.quiet : m'.quiet.deferred = _)
theorem loads (h : m.Stores m') : m'.loads = m.loads := (congrArg Still.loads h.quiet : m'.quiet.loads = _)

end Mach.Stores

/-! The registers that checks write. -/

theorem Mach.stores_wr (m : Mach) {f : Fld} (hf : f ∈ storeFields) (i v : Nat) : m.Stores (m.wr f i v) :=
  ⟨fun _ _ _ hg => (Mach.rd_wr ..).trans (if_neg fun ⟨heq, _⟩ => hg (heq ▸ hf)), rfl, m.sends_wr _ _ _⟩

theorem Mach.stores_wrs (i : Nat) (fs : List (Fld × Nat)) (hfs : ∀ fv ∈ fs, fv.1 ∈ storeFields) (m : Mach) : m.Stores (m.wrs i fs) :=
  ⟨fun _ _ _ hg => Mach.rd_wrs_of_ne fun fv hfv heq => hg (heq ▸ hfs fv hfv), by rw [Mach.wrs_eq]; rfl,
    m.sends_wrs i fs⟩

theorem Mach.stores_bump (m : Mach) {f : Fld} (hf : f ∈ storeFields) (i n : Nat) : m.Stores (m.bump f i n) := by
  unfold Mach.bump
  split
  · exact .refl m
  · exact m.stores_wr hf i _

theorem Mach.stores_raise (m : Mach) {code : Nat} (hcode : faultClass code ≠ 4) (sub src a0 a1 : Nat) : m.Stores (m.raise code sub src a0 a1) :=
  .of_still (fun _ _ ha => Mach.rdLoss_raise ha ..) (m.still_raise ..) (m.sends_raise hcode _ _ _ _)

theorem Mach.stores_hev (m : Mach) (b c n : Nat) : m.Stores (m.hev b c n) :=
  .of_still (fun _ _ ha => Mach.rdAside_hev (Fld.aside_of_lossAside ha) ..) (m.still_hev ..) (m.sends_hev ..)

/-! Plain storage. -/

theorem Mach.stores_codeCheck (m : Mach) (src : Nat) (ks : List Nat) : m.Stores (m.codeCheck src ks) := by
  unfold Mach.codeCheck
  dsimp only
  refine .ite (.refl m) (.foldl (fun m g => ?_) _ m)
  split
  · exact .refl m
  next k hk =>
    generalize (!m.on .CC_CODE_STATUS_MODIFIED g && !m.on .CC_CODE_STATUS_STALE g) = first
    have hfirst : m.Stores (if first then (m.wr .CC_CODE_STATUS_ADDR g k).wr .CC_CODE_STATUS_SOURCE g src else m) :=
      .ite ((m.stores_wr (by decide) _ _).trans (Mach.stores_wr _ (by decide) _ _)) (.refl m)
    generalize (if first then (m.wr .CC_CODE_STATUS_ADDR g k).wr .CC_CODE_STATUS_SOURCE g src else m) = m1 at hfirst
    refine hfirst.trans (.ite (.ite (.refl m1) ?_) (m1.stores_wr (by decide) _ _))
    refine (m1.stores_wr (f := .CC_CODE_STATUS_MODIFIED) (by decide) g 1).trans (.trans ?_ (Mach.stores_raise _ (by decide) _ _ _ _))
    exact .of_regs rfl rfl (.of_eq rfl rfl)

theorem Mach.stores_plainWrite (m : Mach) (a : Nat) (bs : List PByte) : m.Stores (m.plainWrite a bs) := .of_regs rfl rfl (.of_eq rfl rfl)

theorem Mach.stores_agentWrite (m : Mach) (src a : Nat) (bs : List PByte) : m.Stores (m.agentWrite src a bs) :=
  (m.stores_plainWrite a bs).trans (Mach.stores_codeCheck _ _ _)

theorem Mach.stores_originCapture (m : Mach) (kind addr : Nat) : m.Stores (m.originCapture kind addr) := by
  unfold Mach.originCapture
  split
  · exact .refl m
  · exact m.stores_wrs _ _ (by simp [storeFields])

theorem Mach.stores_poisonOrigin (m : Mach) (kind src addr : Nat) : m.Stores (m.poisonOrigin kind src addr) :=
  (m.stores_originCapture _ _).trans (Mach.stores_raise _ (by decide) _ _ _ _)

theorem Mach.stores_eccCount (m : Mach) (g : Nat) (uncorr : Bool) : m.Stores (m.eccCount g uncorr) := by
  unfold Mach.eccCount
  refine .ite (m.stores_bump ?_ _ _) (.ite (m.stores_bump ?_ _ _) (.refl m))
  · cases uncorr <;> decide
  · cases uncorr <;> decide

theorem Mach.stores_eccRead (m : Mach) (ks : List Nat) : m.Stores (m.eccRead ks) := by
  unfold Mach.eccRead
  refine .ite (.refl m) (.foldl (fun m g => ?_) _ m)
  unfold Mach.eccGranule
  exact .ite ((m.stores_eccCount _ _).trans (Mach.stores_poisonOrigin _ _ _ _))
    (.ite ((m.stores_eccCount _ _).trans (Mach.stores_originCapture _ _ _))
      (.ite ((m.stores_eccCount _ _).trans (Mach.stores_raise _ (by decide) _ _ _ _)) (.refl m)))

/-! T2. -/

theorem Mach.stores_t2Write (m : Mach) (o : Nat) (bs : List PByte) : m.Stores (m.t2Write o bs) :=
  .foldl (fun m ib => by
    split
    · exact .of_regs rfl rfl (.of_eq rfl rfl)
    · exact .refl m) _ m

theorem Mach.stores_linkOrigin (m : Mach) (a : Nat) (bs : List PByte) : m.Stores (m.linkOrigin a bs) := by
  unfold Mach.linkOrigin
  dsimp only
  split
  · exact (m.stores_hev _ _ _).trans (Mach.stores_poisonOrigin _ _ _ _)
  · exact m.stores_hev _ _ _

/-! Peat pages. -/

theorem Mach.stores_setPeatEntry (m : Mach) (src d n : Nat) (e : PageEnt) : m.Stores (m.setPeatEntry src d n e) :=
  m.stores_agentWrite _ _ _

theorem Mach.stores_writeSectors (m : Mach) (src d s : Nat) (bs : List Byte) : m.Stores (m.writeSectors src d s bs) :=
  .foldl (fun m _ => .ite (m.stores_t2Write _ _) (m.stores_agentWrite _ _ _)) _ m

theorem Mach.stores_putWord (m : Mach) (src a v : Nat) : m.Stores (m.putWord src a v) := m.stores_agentWrite _ _ _

theorem Mach.stores_popFrom {m m' : Mach} {src d k j s : Nat} (h : m.popFrom src d k = some (j, s, m')) : m.Stores m' := by
  obtain ⟨x, -, hx⟩ := List.exists_of_findSome?_eq_some h
  split at hx
  · exact nomatch hx
  obtain ⟨⟨s', m1⟩, hpop, heq⟩ := Option.map_eq_some_iff.mp hx
  obtain ⟨-, -, rfl⟩ : x = j ∧ s' = s ∧ m1 = m' := by simpa using heq
  unfold Mach.popRun at hpop
  dsimp only at hpop
  split at hpop
  · exact nomatch hpop
  obtain ⟨-, rfl⟩ : _ ∧ _ := by simpa using hpop
  exact (m.stores_putWord _ _ _).trans (Mach.stores_putWord _ _ _ _)

theorem Mach.stores_pushRun (m : Mach) (src d k s : Nat) : m.Stores (m.pushRun src d k s) :=
  ((m.stores_putWord _ _ _).trans (Mach.stores_putWord _ _ _ _)).trans (Mach.stores_putWord _ _ _ _)

theorem Mach.stores_peatWrite {m m' : Mach} {src d n : Nat} {raw poison : Bool} {page : List Byte}
    (h : m.peatWrite src raw d n page poison = .ok m') : m.Stores m' := by
  have hpushed : m.Stores (if (m.peatEntry d n).codec = 0 then m else m.pushRun src d (m.peatEntry d n).cls (m.peatEntry d n).sector) :=
    .ite (.refl m) (m.stores_pushRun _ _ _ _)
  unfold Mach.peatWrite at h
  dsimp only at h
  split at h
  · cases h
    exact hpushed.trans (Mach.stores_setPeatEntry _ _ _ _ _)
  split at h
  · split at h
    · cases h
      exact (m.stores_writeSectors _ _ _ _).trans (Mach.stores_setPeatEntry _ _ _ _ _)
    · exact nomatch h
  split at h
  · exact nomatch h
  next j sec m1 hpop =>
    have hpushed1 : m1.Stores (if (m.peatEntry d n).codec = 0 then m1 else m1.pushRun src d (m.peatEntry d n).cls (m.peatEntry d n).sector) :=
      .ite (.refl m1) (m1.stores_pushRun _ _ _ _)
    generalize (if (m.peatEntry d n).codec = 0 then m1 else m1.pushRun src d (m.peatEntry d n).cls (m.peatEntry d n).sector) = m2 at h hpushed1
    split at h
    · cases h
      exact (Mach.stores_popFrom hpop).trans (hpushed1.trans ((m2.stores_writeSectors _ _ _ _).trans (Mach.stores_setPeatEntry _ _ _ _ _)))
    · exact nomatch h

theorem Except.map_eq_ok {ε α β : Type} {f : α → β} {x : Except ε α} {b : β} (h : x.map f = .ok b) : ∃ a, x = .ok a ∧ f a = b := by
  cases x with
  | error e => exact nomatch h
  | ok a => exact ⟨a, rfl, Except.ok.inj h⟩

theorem Mach.stores_peatPut {m m' : Mach} {src d n off : Nat} {raw : Bool} {bs : List PByte}
    (h : m.peatPut src raw d n off bs = .ok m') : m.Stores m' := by
  unfold Mach.peatPut at h
  dsimp only at h
  split at h
  · exact Mach.stores_peatWrite h
  · obtain ⟨m1, hw, rfl⟩ := Except.map_eq_ok h
    exact (Mach.stores_peatWrite hw).trans (m1.stores_bump (by decide) _ _)

theorem Mach.stores_pageRead (m : Mach) (d n : Nat) : m.Stores (m.pageRead d n).2 := by
  have hsectors : m.Stores (m.pageSectors d n) := by
    unfold Mach.pageSectors
    exact .ite (.refl m) (.ite (m.stores_linkOrigin _ _) (m.stores_eccRead _))
  refine hsectors.trans ?_
  show (m.pageSectors d n).Stores (if (m.peatRead d n).broken then (m.pageSectors d n).peatBreak d n else m.pageSectors d n)
  generalize m.pageSectors d n = m1
  refine .ite ?_ (.refl m1)
  refine .trans (m' := m1.freeSource.2) (.of_regs rfl rfl (.of_eq rfl rfl)) ?_
  exact (Mach.stores_setPeatEntry _ _ _ _ _).trans (Mach.stores_poisonOrigin _ _ _ _)

/-! Sides of a transfer. -/

/-- What a write leaves, whether it was done or met a fault. -/
def Written.Stored (m : Mach) : Written → Prop
  | .ok m' => m.Stores m'
  | .error e => m.Stores e.2.2

theorem Written.Stored.trans {m m1 : Mach} {w : Written} (h : m.Stores m1) (hw : w.Stored m1) : w.Stored m := by
  cases w with
  | ok m' => exact h.trans hw
  | error e => exact h.trans hw

/-- Writes one after another, up to the first that fails. -/
theorem Written.stored_foldl {α : Type} {f : Mach → α → Written} {m0 : Mach} (hf : ∀ m a, m0.Stores m → (f m a).Stored m0) (l : List α)
    {r : Written} (hr : r.Stored m0) :
    (l.foldl (fun (r : Written) a => match r with | .error e => .error e | .ok m => f m a) r).Stored m0 := by
  induction l generalizing r with
  | nil => exact hr
  | cons a l ih =>
    refine ih ?_
    cases r with
    | error e => exact hr
    | ok m => exact hf m a hr

/-- Pages written in part are read first, then each is written; where one fails, what the reads left stands (R266). -/
theorem Mach.stored_writePages (m : Mach) (src a : Nat) (raw : Bool) (bs : List PByte) (us : List Nat) :
    Written.Stored m (us.foldl (fun (r : Written) p =>
      match r with
      | .error e => .error e
      | .ok m' =>
        let lo := max p a
        let hi := min (p + 4096) (a + bs.length)
        match m'.peatPut src raw (peatUnit p) (peatPage p) (lo - p) ((bs.drop (lo - a)).take (hi - lo)) with
        | .ok m' => .ok m'
        | .error c => .error (c, p, m)) (.ok m)) := by
  refine Written.stored_foldl (fun m1 p hm1 => ?_) us (.refl m)
  dsimp only
  split
  · next m2 hput => exact hm1.trans (Mach.stores_peatPut hput)
  · exact .refl m

theorem Mach.stored_writeSide (m : Mach) (src a : Nat) (raw : Bool) (bs : List PByte) : (m.writeSide src a raw bs).Stored m := by
  have hreads (us : List Nat) : m.Stores (us.foldl (fun m p => (m.pageRead (peatUnit p) (peatPage p)).2) m) :=
    .foldl (fun m _ => m.stores_pageRead _ _) us m
  unfold Mach.writeSide
  dsimp only
  split
  case h_1 => exact m.stores_t2Write _ _
  case h_2 => exact .trans (hreads _) (Mach.stored_writePages _ src a raw bs _)
  case h_3 => exact .trans (hreads _) (Mach.stored_writePages _ src a raw bs _)
  case h_4 =>
    unfold Mach.stagingBytes
    exact .trans (.ite (m.stores_hev _ _ _) (.refl m)) (Mach.stores_agentWrite _ _ _ _)

theorem Mach.stored_writeAny (m : Mach) (src a : Nat) (bs : List PByte) : (m.writeAny src a bs).Stored m :=
  Written.stored_foldl (fun m1 _ hm1 => .trans hm1 (m1.stored_writeSide src _ false _)) _ (.refl m)

/-! Writes sent to a remote module (R172). -/

theorem Mach.stores_memWrite (m : Mach) (core dest addr : Nat) (raw : Bool) (bs : List PByte) : m.Stores (m.memWrite core dest addr raw bs) := by
  have hlater (m : Mach) (f : Frame) : m.Stores (m.sendLater f) :=
    .of_still (fun g i hg => (Mach.rdLoss_flush hg i _).trans rfl) (m.still_sendLater f) (m.sends_sendLater f)
  unfold Mach.memWrite
  refine .foldl (fun m i => .trans ?_ (hlater _ _)) _ m
  exact .of_regs rfl rfl (.of_onFab rfl rfl)

/-! The DATA of a load (R238). -/

theorem Mach.stored_dataWrite (m : Mach) (q : Nat) (r : DataRec) : (m.dataWrite q r).Stored m := by
  unfold Mach.dataWrite
  dsimp only
  split
  · exact .refl m
  split
  · exact .refl m
  split
  · exact (m.stores_memWrite _ _ _ _ _).trans (.of_regs rfl rfl (.of_onFab rfl rfl))
  · exact m.stored_writeAny _ _ _

theorem Mach.stored_dataWrites (q : Nat) (rs : List DataRec) (m : Mach) : (m.dataWrites q rs).Stored m := by
  induction rs generalizing m with
  | nil => exact .refl m
  | cons r rs ih =>
    have h := m.stored_dataWrite q r
    rw [Mach.dataWrites]
    generalize m.dataWrite q r = w at h
    cases w with
    | ok m1 => exact .trans h (ih m1)
    | error e => exact h

end Sys2Proof.Machine

/-! O40: LOAD_IMAGE and what it defers (R227 to R238, R411). -/
namespace Sys2Proof.Machine

/-! The rows. -/

/-- LOAD_IMAGE of a descriptor that has started: the image is read and checked. -/
def loadStart (sigOk readFails : Bool) (d : Desc) (m : Mach) : Mach :=
  let m := m.fixLayout
  let q := m.loadReq d
  if m.allocBad d q.alloc then m.complete d 1 0 0 []
  else match m.readImage q readFails with
    | (.error e, m) => m.complete d e.1 e.2 0 []
    | (.ok img, m) =>
      if 24 ≤ img.length ∧ fieldOf img 16 8 ≠ q.size then m.complete d 1 0 0 []
      else m.loadBegin d q img sigOk

/-- LOAD_IMAGE of a descriptor in progress: its load ends. -/
def loadGo (d : Desc) (m : Mach) : Mach :=
  match m.loads.find? fun x => x.rest.desc.seq == d.seq with
  | some x => m.loadEnd x
  | none => m

theorem loadImage_eq (r : BitVec 8) (i : BitVec 16) (sig fails : Bool) (m : Mach) :
    Load.image r i sig fails m = m.descRow r.toNat i.toNat 1 (fun _ d => loadBad d) (loadStart sig fails) loadGo := rfl

theorem loadStart_begins {m m1 : Mach} {d : Desc} {sig fails : Bool} {img : List Byte} {q : LoadReq} (hq : m.fixLayout.loadReq d = q)
    (halloc : m.fixLayout.allocBad d q.alloc = false) (hread : m.fixLayout.readImage q fails = (.ok img, m1))
    (hsize : ¬(24 ≤ img.length ∧ fieldOf img 16 8 ≠ q.size)) : loadStart sig fails d m = m1.loadBegin d q img sig := by
  unfold loadStart
  dsimp only
  rw [hq, halloc, if_neg Bool.false_ne_true, hread]
  exact if_neg hsize

/-! Stage 1 fails: LOAD_ERROR. -/

theorem Mach.loadFails_ends {m : Mach} {d : Desc} (hd : m.hif.descs.any (·.seq == d.seq) = true) (q : LoadReq) (id : Nat)
    (errs : List LoadErr) : let m' := m.loadFails d q id errs
    m.Ended m' d 0x10 0 errs.length ∧ m'.loads = m.loads ∧ m'.banks = m.banks := by
  intro m'
  have hstill : m'.still = m.still := Mach.still_complete _ _ _ _ _ _
  exact ⟨(Mach.complete_ended (m := m.hostWrite _ _) hd _ _ _ _).of_same rfl fun _ _ => rfl, congrArg Still.loads hstill,
    congrArg Still.banks hstill⟩

/-! The first write to a bank. -/

/-- The register field that says whether a load's bank holds whole code. -/
def LoadText.validFld (t : LoadText) : Fld := if t.at_ % 2 = 0 then .SEQ_BANK_VALID_A else .SEQ_BANK_VALID_B

theorem LoadText.validFld_ne_busy (t : LoadText) : t.validFld ≠ .SEQ_BANK_LOAD_BUSY := by
  unfold LoadText.validFld
  split <;> decide

/-- The bank of `t` stands invalid and busy. -/
def LoadText.Begun (t : LoadText) (m : Mach) : Prop := m.rd t.validFld (t.at_ / 2) = 0 ∧ m.rd .SEQ_BANK_LOAD_BUSY (t.at_ / 2) = 1

theorem LoadText.begun_bankBegin {t : LoadText} (u : LoadText) {m : Mach} (h : u = t ∧ t.bank = true ∨ t.Begun m) : t.Begun (m.bankBegin u) := by
  have hrd (f : Fld) (i : Nat) (hu : u.bank = true) : (m.bankBegin u).rd f i =
      if f = .SEQ_BANK_LOAD_BUSY ∧ i = u.at_ / 2 then 1 else if f = u.validFld ∧ i = u.at_ / 2 then 0 else m.rd f i := by
    rw [Mach.bankBegin, if_pos hu, Mach.rd_wr, Mach.rd_wr]
    rfl
  cases hu : u.bank with
  | false =>
    rw [Mach.bankBegin, hu, if_neg Bool.false_ne_true]
    rcases h with ⟨rfl, hbank⟩ | h
    · rw [hu] at hbank
      exact nomatch hbank
    · exact h
  | true =>
    rw [LoadText.Begun, hrd _ _ hu, hrd _ _ hu, if_neg fun ⟨hf, _⟩ => t.validFld_ne_busy hf]
    rcases h with ⟨rfl, -⟩ | ⟨hvalid, hbusy⟩
    · exact ⟨if_pos ⟨rfl, rfl⟩, if_pos ⟨rfl, rfl⟩⟩
    · refine ⟨?_, ?_⟩
      · split
        · rfl
        · exact hvalid
      · split
        · rfl
        · exact (if_neg fun ⟨hf, _⟩ => u.validFld_ne_busy hf.symm).trans hbusy

theorem LoadText.begun_foldl {t : LoadText} (l : List LoadText) {m : Mach} (h : t ∈ l ∧ t.bank = true ∨ t.Begun m) :
    t.Begun (l.foldl Mach.bankBegin m) := by
  induction l generalizing m with
  | nil => exact h.resolve_left fun h => List.not_mem_nil h.1
  | cons u l ih =>
    refine ih ?_
    rcases h with ⟨hmem, hbank⟩ | h
    · rcases List.mem_cons.mp hmem with rfl | hmem
      · exact .inr (LoadText.begun_bankBegin _ (.inl ⟨rfl, hbank⟩))
      · exact .inl ⟨hmem, hbank⟩
    · exact .inr (LoadText.begun_bankBegin _ (.inr h))

theorem Mach.foldl_bankBegin_eq (l : List LoadText) (m : Mach) :
    l.foldl Mach.bankBegin m = { m with regs := (l.foldl Mach.bankBegin m).regs } := by
  refine Mach.foldl_eq_regs ?_ l m
  intro m t
  unfold Mach.bankBegin
  split <;> rfl

theorem Mach.loadBegin_begins {m : Mach} {d : Desc} {q : LoadReq} {img : List Byte} {sig : Bool} {ss : List ZSec} {z : ZLoad}
    (hstage1 : zimStage1 img = .ok ss) (hsig : m.sigErrs img ss sig = [])
    (hcheck : m.checkImage img ss q.alloc (m.cache.any fun e => e.1 == m.cacheKey img ss q.alloc) = .ok z) :
    m.loadBegin d q img sig = { z.texts.foldl Mach.bankBegin m with
      loads := m.loads ++ [⟨z.texts, z.shadow, m.cacheKey img ss q.alloc, z.bytes,
        ⟨d, z.image, m.cache.any fun e => e.1 == m.cacheKey img ss q.alloc, z.data, z.epi, z.flags⟩⟩] } := by
  unfold Mach.loadBegin
  dsimp only
  rw [hstage1]
  dsimp only
  rw [hsig, List.isEmpty_nil, Bool.not_true, if_neg Bool.false_ne_true, hcheck]
  dsimp only
  rw [Mach.foldl_bankBegin_eq]

/-! The end of a load: its banks. -/

/-- The register fields that the last write of a bank sets (R232). -/
def bankEndFields : List Fld := [.SEQ_BANK_VALID_A, .SEQ_BANK_VALID_B, .SEQ_BANK_ID_A, .SEQ_BANK_ID_B, .SEQ_BANK_LOAD_BUSY]

theorem LoadText.validFld_ne_id (t u : LoadText) : t.validFld ≠ if u.at_ % 2 = 0 then .SEQ_BANK_ID_A else .SEQ_BANK_ID_B := by
  unfold LoadText.validFld
  split <;> split <;> decide

theorem LoadText.busy_ne_id (t : LoadText) : Fld.SEQ_BANK_LOAD_BUSY ≠ if t.at_ % 2 = 0 then .SEQ_BANK_ID_A else .SEQ_BANK_ID_B := by
  split <;> decide

/-- The bank of `t` holds its code, whole. -/
def LoadText.Placed (t : LoadText) (m : Mach) : Prop :=
  m.banks.get (fun _ => none) t.at_ = some t.text ∧ m.rd t.validFld (t.at_ / 2) = 1 ∧ m.rd .SEQ_BANK_LOAD_BUSY (t.at_ / 2) = 0

section
variable {t : LoadText} (hbank : t.bank = true) (id size : Nat) (m : Mach)
include hbank

theorem Mach.bankEnd_eq : m.bankEnd id size t =
    { m with banks := m.banks.set (fun _ => none) t.at_ (some t.text), regs := (m.bankEnd id size t).regs } := by
  unfold Mach.bankEnd
  rw [if_pos hbank]
  dsimp only
  rw [Mach.wrs_eq]

theorem Mach.banks_bankEnd : (m.bankEnd id size t).banks = m.banks.set (fun _ => none) t.at_ (some t.text) :=
  congrArg Mach.banks (Mach.bankEnd_eq hbank id size m)

theorem Mach.rd_bankEnd (f : Fld) (i : Nat) : (m.bankEnd id size t).rd f i =
    if f = .SEQ_BANK_LOAD_BUSY ∧ i = t.at_ / 2 then 0
    else if f = (if t.at_ % 2 = 0 then .SEQ_BANK_ID_A else .SEQ_BANK_ID_B) ∧ i = t.at_ / 2 then id % 65536 % 2 ^ 16
    else if f = t.validFld ∧ i = t.at_ / 2 then 1 else m.rd f i := by
  unfold Mach.bankEnd
  rw [if_pos hbank]
  dsimp only
  rw [Mach.wrs_cons, Mach.wrs_cons, Mach.wrs_cons, Mach.wrs_nil, Mach.rd_wr, Mach.rd_wr, Mach.rd_wr]
  unfold LoadText.validFld
  by_cases ha : t.at_ % 2 = 0
  · rw [if_pos ha, if_pos ha]
    rfl
  · rw [if_neg ha, if_neg ha]
    rfl

theorem Mach.rd_bankEnd_of_ne {f : Fld} (hf : f ∉ bankEndFields) (i : Nat) : (m.bankEnd id size t).rd f i = m.rd f i := by
  unfold Mach.bankEnd
  rw [if_pos hbank]
  dsimp only
  refine Mach.rd_wrs_of_ne (m := { m with banks := _ }) fun fv hfv heq => hf (heq ▸ ?_)
  simp only [List.mem_cons, List.not_mem_nil, or_false] at hfv
  obtain rfl | rfl | rfl := hfv
  · dsimp only
    split <;> decide
  · dsimp only
    split <;> decide
  · decide

theorem Mach.bankEnd_placed : t.Placed (m.bankEnd id size t) := by
  refine ⟨?_, ?_, ?_⟩
  · rw [Mach.banks_bankEnd hbank]
    exact NMap.get_set_self _ _ _
  · rw [Mach.rd_bankEnd hbank, if_neg fun h => t.validFld_ne_busy h.1, if_neg fun h => t.validFld_ne_id t h.1, if_pos ⟨rfl, rfl⟩]
  · rw [Mach.rd_bankEnd hbank, if_pos ⟨rfl, rfl⟩]

/-- The end of one bank's write leaves what the others hold. -/
theorem Mach.bankEnd_keepsPlaced {u : LoadText} (hne : t.at_ ≠ u.at_) (hu : u.Placed m) : u.Placed (m.bankEnd id size t) := by
  obtain ⟨htext, hvalid, hbusy⟩ := hu
  refine ⟨?_, ?_, ?_⟩
  · rw [Mach.banks_bankEnd hbank]
    exact (NMap.get_set_ne _ _ hne.symm).trans htext
  · rw [Mach.rd_bankEnd hbank, if_neg fun h => u.validFld_ne_busy h.1, if_neg fun h => u.validFld_ne_id t h.1, hvalid]
    exact ite_self _
  · rw [Mach.rd_bankEnd hbank]
    split
    · rfl
    · rw [if_neg fun h => t.busy_ne_id h.1, if_neg fun h => t.validFld_ne_busy h.1.symm]
      exact hbusy
end

/-- What the ends of the banks' writes leave. -/
structure Mach.BanksEnded (l : List LoadText) (m m' : Mach) : Prop where
  placed : ∀ t ∈ l, t.Placed m'
  others : ∀ k, (∀ t ∈ l, t.at_ ≠ k) → m'.banks.get (fun _ => none) k = m.banks.get (fun _ => none) k
  rd : ∀ f i, f ∉ bankEndFields → m'.rd f i = m.rd f i
  rest : m' = { m with banks := m'.banks, regs := m'.regs }

/-- The banks of a load, one after another. -/
def Mach.banksEnd (m : Mach) (id : Nat) (l : List LoadText) : Mach := l.foldl (fun m t => m.bankEnd id (8 * t.text.words.length) t) m

theorem LoadText.Placed.banksEnd {t : LoadText} {m : Mach} (h : t.Placed m) (id : Nat) {l : List LoadText}
    (hl : ∀ u ∈ l, u.bank = true ∧ u.at_ ≠ t.at_) : t.Placed (m.banksEnd id l) := by
  induction l generalizing m with
  | nil => exact h
  | cons u l ih =>
    obtain ⟨hbank, hne⟩ := hl u List.mem_cons_self
    exact ih (Mach.bankEnd_keepsPlaced hbank _ _ _ hne h) fun v hv => hl v (List.mem_cons_of_mem _ hv)

theorem Mach.banksEnd_ended (id : Nat) (l : List LoadText) (hbanks : ∀ t ∈ l, t.bank = true) (hnodup : (l.map (·.at_)).Nodup)
    (m : Mach) : m.BanksEnded l (m.banksEnd id l) := by
  induction l generalizing m with
  | nil => exact ⟨fun _ h => (nomatch h), fun _ _ => rfl, fun _ _ _ => rfl, rfl⟩
  | cons t l ih =>
    rw [List.map_cons, List.nodup_cons] at hnodup
    obtain ⟨hnew, hnodup⟩ := hnodup
    have hbank := hbanks t List.mem_cons_self
    have hbanks' : ∀ u ∈ l, u.bank = true := fun u hu => hbanks u (List.mem_cons_of_mem _ hu)
    obtain ⟨hplaced, hothers, hrd, hrest⟩ := ih hbanks' hnodup (m.bankEnd id (8 * t.text.words.length) t)
    have hstart := Mach.bankEnd_eq hbank id (8 * t.text.words.length) m
    have hkept : t.Placed ((m.bankEnd id (8 * t.text.words.length) t).banksEnd id l) :=
      (Mach.bankEnd_placed hbank _ _ m).banksEnd id fun u hu => ⟨hbanks' u hu, fun heq => hnew (heq ▸ List.mem_map_of_mem hu)⟩
    refine ⟨fun u hu => ?_, fun k hk => ?_, fun f i hf => (hrd f i hf).trans (Mach.rd_bankEnd_of_ne hbank _ _ _ hf i), ?_⟩
    · rcases List.mem_cons.mp hu with rfl | hu
      · exact hkept
      · exact hplaced u hu
    · refine (hothers k fun u hu => hk u (List.mem_cons_of_mem _ hu)).trans ?_
      rw [Mach.banks_bankEnd hbank]
      exact NMap.get_set_ne _ _ fun heq => hk t List.mem_cons_self heq.symm
    · show (m.bankEnd id (8 * t.text.words.length) t).banksEnd id l =
        { m with banks := ((m.bankEnd id (8 * t.text.words.length) t).banksEnd id l).banks,
                 regs := ((m.bankEnd id (8 * t.text.words.length) t).banksEnd id l).regs }
      generalize (m.bankEnd id (8 * t.text.words.length) t).banksEnd id l = m2 at hrest
      generalize m.bankEnd id (8 * t.text.words.length) t = m1 at hrest hstart
      exact hrest.trans (by rw [hstart])

/-! What a load applies last: its DATA, epilogue entries and flags (R238). -/

/-- The register fields in which a load's banks show. -/
def bankFields : List Fld := [.SEQ_BANK_VALID_A, .SEQ_BANK_VALID_B, .SEQ_BANK_LOAD_BUSY]

/-- From `m` to `m'` the banks and what shows of them are as they were. -/
structure Mach.BanksStand (m m' : Mach) : Prop where
  banks : m'.banks = m.banks
  rd : ∀ f i, f ∈ bankFields → m'.rd f i = m.rd f i

theorem Mach.BanksStand.trans {m m' m'' : Mach} (h : m.BanksStand m') (h' : m'.BanksStand m'') : m.BanksStand m'' :=
  ⟨h'.banks.trans h.banks, fun f i hf => (h'.rd f i hf).trans (h.rd f i hf)⟩

theorem Mach.Stores.banksStand {m m' : Mach} (h : m.Stores m') : m.BanksStand m' :=
  ⟨h.banks, fun f i hf => by
    simp only [bankFields, List.mem_cons, List.not_mem_nil, or_false] at hf
    obtain rfl | rfl | rfl := hf
    · exact h.rd _ _ (by decide) (by decide)
    · exact h.rd _ _ (by decide) (by decide)
    · exact h.rd _ _ (by decide) (by decide)⟩

theorem Mach.banksStand_complete (m : Mach) (d : Desc) (status detail info : Nat) (res : List Byte) :
    m.BanksStand (m.complete d status detail info res) :=
  ⟨congrArg Still.banks (Mach.still_complete ..), fun f i hf => Mach.rd_complete_of_ne _ (by revert f; decide) _ _ _ _ _ _⟩

/-- Epilogue entries and flag counts of a load. -/
def Mach.applySmall (m : Mach) (x : Deferred) : Mach :=
  x.flags.foldl (fun m f => m.wr (Fld.ofKey f.1).1 (Fld.ofKey f.1).2 f.2)
    (x.epi.foldl (fun m e => m.epiWrite (e.1 / 32) (e.1 % 32) (BitVec.ofNat 4096 (leNat e.2))) m)

theorem Mach.applySmall_eq (m : Mach) (x : Deferred) : m.applySmall x = { m with regs := (m.applySmall x).regs } := by
  have hepi := Mach.foldl_eq_regs (fun m (e : Nat × List Byte) => m.epiWrite_eq (e.1 / 32) (e.1 % 32) (BitVec.ofNat 4096 (leNat e.2))) x.epi m
  have hflags := Mach.foldl_eq_regs (f := fun m (f : Nat × Nat) => m.wr (Fld.ofKey f.1).1 (Fld.ofKey f.1).2 f.2) (fun _ _ => rfl) x.flags
    (x.epi.foldl (fun m e => m.epiWrite (e.1 / 32) (e.1 % 32) (BitVec.ofNat 4096 (leNat e.2))) m)
  unfold Mach.applySmall
  generalize x.epi.foldl (fun m e => m.epiWrite (e.1 / 32) (e.1 % 32) (BitVec.ofNat 4096 (leNat e.2))) m = m1 at hepi hflags ⊢
  exact hflags.trans (by rw [hepi])

theorem Mach.rd_epiWrite_bankFields {f : Fld} (hf : f ∈ bankFields) (m : Mach) (g e i : Nat) (d : Slot) :
    (m.epiWrite g e d).rd f i = m.rd f i := by
  have hset (x : EpiEnt) : (m.setEpi g e x).rd f i = m.rd f i := by
    refine Mach.rd_wrs_of_ne fun fv hfv heq => ?_
    have hepi : fv.1 ∉ bankFields := by
      simp only [List.mem_cons, List.not_mem_nil, or_false] at hfv
      obtain rfl | rfl | rfl | rfl | rfl | rfl | rfl | rfl | rfl | rfl | rfl := hfv <;> simp [bankFields]
    exact hepi (heq ▸ hf)
  have hstatus {h : Fld} (hh : h = .EPI_STATUS_RESERVED_SEEN ∨ h = .EPI_STATUS_LAST_ENTRY) (m : Mach) (k v : Nat) :
      (m.wr h k v).rd f i = m.rd f i := by
    refine (Mach.rd_wr ..).trans (if_neg fun ⟨heq, _⟩ => ?_)
    subst heq
    obtain rfl | rfl := hh <;> revert hf <;> decide
  unfold Mach.epiWrite
  dsimp only
  split
  · rw [hstatus (.inr rfl), hstatus (.inl rfl), hset]
  · exact hset _

theorem Mach.banksStand_applySmall {x : Deferred} (hflags : ∀ f ∈ x.flags, (Fld.ofKey f.1).1 = .FLAG ∨ (Fld.ofKey f.1).1 = .MFLAG) (m : Mach) :
    m.BanksStand (m.applySmall x) := by
  refine ⟨(congrArg Mach.banks (m.applySmall_eq x) :), fun f i hf => ?_⟩
  have hwr (l : List (Nat × Nat)) (hl : ∀ f ∈ l, (Fld.ofKey f.1).1 = .FLAG ∨ (Fld.ofKey f.1).1 = .MFLAG) (m : Mach) :
      (l.foldl (fun m f => m.wr (Fld.ofKey f.1).1 (Fld.ofKey f.1).2 f.2) m).rd f i = m.rd f i := by
    induction l generalizing m with
    | nil => rfl
    | cons a l ih =>
      refine (ih (fun f hf => hl f (List.mem_cons_of_mem _ hf)) _).trans ((Mach.rd_wr ..).trans (if_neg fun ⟨heq, _⟩ => ?_))
      have ha := hl a List.mem_cons_self
      rw [← heq] at ha
      obtain rfl | rfl := ha <;> revert hf <;> decide
  refine (hwr _ hflags _).trans ?_
  exact foldl_keep (fun m : Mach => m.rd f i) (fun m (e : Nat × List Byte) => m.epiWrite (e.1 / 32) (e.1 % 32) (BitVec.ofNat 4096 (leNat e.2)))
    (fun m e => Mach.rd_epiWrite_bankFields hf m _ _ _ _) _ _

theorem Mach.applyLoad_ok {m m2 : Mach} {x : Deferred} (h : m.dataWrites x.desc.seq x.data = .ok m2) : m.applyLoad x =
    if (m2.fab.memOut.any fun v => v.1 == x.desc.seq) = true then { m2.applySmall x with acking := m2.acking ++ [x] }
    else (m2.applySmall x).loadDone x := by
  unfold Mach.applyLoad
  rw [h]
  show (if ((m2.applySmall x).fab.memOut.any fun v => v.1 == x.desc.seq) = true then
      { m2.applySmall x with acking := (m2.applySmall x).acking ++ [x] } else (m2.applySmall x).loadDone x) = _
  rw [congrArg Mach.fab (m2.applySmall_eq x), congrArg Mach.acking (m2.applySmall_eq x)]

theorem Mach.banksStand_loadDone (m : Mach) (x : Deferred) : m.BanksStand (m.loadDone x) :=
  .trans (m' := { m with image := some x.image }) ⟨rfl, fun _ _ _ => rfl⟩ (Mach.banksStand_complete _ _ _ _ _ _)

theorem Mach.banksStand_onFab (m : Mach) (g : Fab → Fab) : m.BanksStand (m.onFab g) := ⟨rfl, fun _ _ _ => rfl⟩

theorem Mach.banksStand_writeFailed (m : Mach) (d : Desc) (cause addr src : Nat) : m.BanksStand (Hif.writeFailed d (cause, addr, m) src) := by
  have hcapture : m.BanksStand (m.captureFault cause addr true src) :=
    ⟨by rw [Mach.captureFault_eq], fun f i hf => Mach.rd_captureFault_of_ne _ _ _ _ _ (by revert f; decide) _⟩
  exact hcapture.trans (Mach.banksStand_complete _ _ _ _ _ _)

theorem Mach.banksStand_applyLoad {x : Deferred} (hflags : ∀ f ∈ x.flags, (Fld.ofKey f.1).1 = .FLAG ∨ (Fld.ofKey f.1).1 = .MFLAG) (m : Mach) :
    m.BanksStand (m.applyLoad x) := by
  have hstored := Mach.stored_dataWrites x.desc.seq x.data m
  rcases hw : m.dataWrites x.desc.seq x.data with ⟨c, a, m2⟩ | m2
  · rw [hw] at hstored
    have hstores : m.Stores m2 := hstored
    unfold Mach.applyLoad
    rw [hw]
    show m.BanksStand (Hif.writeFailed x.desc (c, a, m2.onFab fun b => { b with memOut := b.memOut.filter fun v => v.1 != x.desc.seq }) 3)
    exact (hstores.banksStand.trans (m2.banksStand_onFab _)).trans (Mach.banksStand_writeFailed _ _ _ _ _)
  · rw [hw] at hstored
    have hsmall := (Mach.Stores.banksStand hstored).trans (m2.banksStand_applySmall hflags)
    rw [Mach.applyLoad_ok hw]
    split
    · exact hsmall.trans ⟨rfl, fun _ _ _ => rfl⟩
    · exact hsmall.trans (Mach.banksStand_loadDone _ _)

/-- A completed descriptor is no longer in progress. -/
theorem Mach.complete_gone (m : Mach) (d : Desc) (status detail info : Nat) (res : List Byte) :
    ∀ e ∈ (m.complete d status detail info res).hif.descs, e.seq ≠ d.seq := by
  by_cases hd : m.hif.descs.any (·.seq == d.seq) = true
  · intro e he
    rw [(Mach.complete_ended hd status detail info res).1, List.mem_filter, bne_iff_ne] at he
    exact he.2
  · have hnone : m.hif.descs.all (fun e => e.seq != d.seq) = true := by
      rw [Bool.not_eq_true, List.any_eq_false] at hd
      exact List.all_eq_true.2 fun e he => bne_iff_ne.2 fun h => hd e he (beq_iff_eq.2 h)
    unfold Mach.complete
    rw [if_pos hnone]
    exact fun e he => bne_iff_ne.1 (List.all_eq_true.1 hnone e he)

/-- A load that is done is the module's image, and its descriptor has ended. -/
theorem Mach.loadDone_done (m : Mach) (x : Deferred) : let m' := m.loadDone x
    m'.image = some x.image ∧ (∀ e ∈ m'.hif.descs, e.seq ≠ x.desc.seq) ∧ m'.deferred = m.deferred ∧ ∀ k, m'.byteAt k = m.byteAt k := by
  intro m'
  have hstill : m'.still = ({ m with image := some x.image } : Mach).still := Mach.still_complete _ _ _ _ _ _
  exact ⟨congrArg Still.image hstill, Mach.complete_gone _ _ _ _ _ _, congrArg Still.deferred hstill, fun k => Mach.byteAt_of_still hstill k⟩

/-! The end of a load (R232, R236, R238). -/

/-- The module once a load's code and shadow settings stand. -/
def Mach.codePlaced (m : Mach) (x : Loading) : Mach :=
  (x.shadow.foldl (fun m f => m.wrS (Fld.ofKey f.1).1 (Fld.ofKey f.1).2 f.2)
    (({ m with loads := m.loads.filter fun y => y.rest.desc.seq != x.rest.desc.seq } : Mach).banksEnd x.rest.image.id x.texts)).cacheUse x.key x.size

theorem Mach.foldl_wrS_eq (l : List (Nat × Nat)) (m : Mach) :
    l.foldl (fun m f => m.wrS (Fld.ofKey f.1).1 (Fld.ofKey f.1).2 f.2) m =
      { m with shadow := (l.foldl (fun m f => m.wrS (Fld.ofKey f.1).1 (Fld.ofKey f.1).2 f.2) m).shadow } := by
  induction l generalizing m with
  | nil => rfl
  | cons f l ih =>
    rw [List.foldl_cons, ih]
    rfl

section
variable {m : Mach} {x : Loading} (hbanks : ∀ t ∈ x.texts, t.bank = true ∧ m.rd .SEQ_BANK_SEL (t.at_ / 2) ≠ t.at_ % 2)
include hbanks

theorem Mach.loadEnd_eq : m.loadEnd x =
    if ((m.codePlaced x).stepRunning && !(x.rest.data.isEmpty && x.rest.epi.isEmpty && x.rest.flags.isEmpty)) = true then
      { m.codePlaced x with deferred := (m.codePlaced x).deferred ++ [x.rest] }
    else (m.codePlaced x).applyLoad x.rest := by
  have hactive : (x.texts.find? fun t => t.bank &&
      ({ m with loads := m.loads.filter fun y => y.rest.desc.seq != x.rest.desc.seq } : Mach).rd .SEQ_BANK_SEL (t.at_ / 2) == t.at_ % 2) = none := by
    rw [List.find?_eq_none]
    intro t ht
    rw [Bool.and_eq_true, beq_iff_eq]
    exact fun h => (hbanks t ht).2 h.2
  have hown : (x.texts.filter fun t => !t.bank) = [] := by
    rw [List.filter_eq_nil_iff]
    intro t ht
    rw [(hbanks t ht).1]
    decide
  unfold Mach.loadEnd
  dsimp only
  rw [hactive, hown]
  rfl

theorem Mach.codePlaced_placed (hnodup : (x.texts.map (·.at_)).Nodup) : let m' := m.codePlaced x
    (∀ t ∈ x.texts, t.Placed m') ∧
    (∀ k, (∀ t ∈ x.texts, t.at_ ≠ k) → m'.banks.get (fun _ => none) k = m.banks.get (fun _ => none) k) ∧
    m'.stepRunning = m.stepRunning ∧ m'.deferred = m.deferred ∧ m'.fab = m.fab ∧ m'.mem = m.mem := by
  intro m'
  obtain ⟨hplaced, hothers, hrd, hrest⟩ := Mach.banksEnd_ended x.rest.image.id x.texts (fun t ht => (hbanks t ht).1) hnodup
    { m with loads := m.loads.filter fun y => y.rest.desc.seq != x.rest.desc.seq }
  have hm' : m' = (x.shadow.foldl (fun m f => m.wrS (Fld.ofKey f.1).1 (Fld.ofKey f.1).2 f.2)
    (({ m with loads := m.loads.filter fun y => y.rest.desc.seq != x.rest.desc.seq } : Mach).banksEnd x.rest.image.id x.texts)).cacheUse x.key x.size := rfl
  rw [Mach.foldl_wrS_eq] at hm'
  generalize ({ m with loads := m.loads.filter fun y => y.rest.desc.seq != x.rest.desc.seq } : Mach).banksEnd x.rest.image.id x.texts = m1
    at hplaced hothers hrd hrest hm'
  rw [hm']
  refine ⟨hplaced, hothers, ?_, (congrArg Mach.deferred hrest :), (congrArg Mach.fab hrest :), (congrArg Mach.mem hrest :)⟩
  exact congrArg (· == 1) (hrd .MOD_STATUS_STEP_RUNNING 0 (by decide))
end

theorem LoadText.Placed.of_banksStand {t : LoadText} {m m' : Mach} (h : t.Placed m) (hs : m.BanksStand m') : t.Placed m' := by
  obtain ⟨htext, hvalid, hbusy⟩ := h
  refine ⟨by rw [hs.banks]; exact htext, (hs.rd _ _ ?_).trans hvalid, (hs.rd _ _ (by decide)).trans hbusy⟩
  unfold LoadText.validFld
  split <;> decide

/-- Settles O40: LOAD_IMAGE ends by `Mach.loadFails_ends` or begins its load (`Mach.loadBegin_begins`); the load's end places its code
(`Mach.codePlaced_placed`) and defers or applies the rest (`Mach.loadEnd_eq`, `Mach.applyLoad_ok`). -/
theorem imageLoads : Obligations.ImageLoads := by
  unfold Obligations.ImageLoads
  intro r i sig fails d img m1 s q valid
  refine ⟨fun hb hform halloc hread hsize hd => ?_, fun x hfind hup hbusy hload hbanks hnodup hflags => ?_,
    fun x rest m2 hdefer hidle hup hpath hdata => ?_⟩
  · have hrow : Load.image r i sig fails s.m = m1.loadBegin d q img sig :=
      ((loadImage_eq ..).trans (hb.descRow_eq (bad := fun _ d => loadBad d) _ _ hform)).trans (loadStart_begins rfl halloc hread hsize)
    refine ⟨fun e hstage1 => does_of_lift (f := Load.image r i sig fails) rfl ?_,
      fun ss z hstage1 hsig hcheck => does_of_lift (f := Load.image r i sig fails) rfl ?_⟩
    · have hfails : m1.loadBegin d q img sig = m1.loadFails d q (fieldOf img 24 8) [e] := by rw [Mach.loadBegin, hstage1]
      rw [hrow, hfails]
      exact Mach.loadFails_ends hd q _ [e]
    · rw [hrow, Mach.loadBegin_begins hstage1 hsig hcheck]
      refine ⟨rfl, (congrArg Mach.banks (m1.foldl_bankBegin_eq z.texts) :), fun t ht hbank => ?_⟩
      exact LoadText.begun_foldl (m := m1) z.texts (.inl ⟨ht, hbank⟩)
  · refine does_of_lift (f := Load.image r i sig fails) rfl ?_
    have hrow : Load.image r i sig fails s.m = s.m.loadEnd x := by
      rw [loadImage_eq, Mach.descRow_goesOn hfind hup hbusy, loadGo, hload]
    obtain ⟨hplaced, hothers, hstep, hdeferred, hfab, hmem⟩ := Mach.codePlaced_placed hbanks hnodup
    have hend := Mach.loadEnd_eq hbanks
    generalize s.m.codePlaced x = mc at hplaced hothers hstep hdeferred hfab hmem hend
    have hstand : mc.BanksStand (s.m.loadEnd x) := by
      rw [hend]
      split
      · exact ⟨rfl, fun _ _ _ => rfl⟩
      · exact mc.banksStand_applyLoad hflags
    rw [hrow]
    refine ⟨fun t ht => (hplaced t ht).of_banksStand hstand, fun k hk => ?_, fun hrun hdata => ?_, fun hrun hdata hsent => ?_⟩
    · rw [hstand.banks]
      exact hothers k hk
    · have hsome : x.rest.data.isEmpty = false := List.isEmpty_eq_false_iff.2 hdata
      rw [hend, hstep, hrun, hsome, hdeferred]
      exact ⟨rfl, fun k => congrArg (NMap.get byte0 · k) hmem⟩
    · have hok : mc.dataWrites x.rest.desc.seq x.rest.data = .ok mc := by rw [hdata]; rfl
      have hnone : (mc.fab.memOut.any fun v => v.1 == x.rest.desc.seq) = false := by
        rw [hfab, List.any_eq_false]
        exact fun v hv h => hsent v hv (beq_iff_eq.1 h)
      rw [hend, hstep, hrun, Bool.false_and, if_neg Bool.false_ne_true, Mach.applyLoad_ok hok, hnone, if_neg Bool.false_ne_true]
      obtain ⟨himage, hgone, -⟩ := (mc.applySmall x.rest).loadDone_done x.rest
      exact ⟨himage, hgone⟩
  · refine does_of_lift (f := Load.deferredApply) rfl ?_
    have hrow : Load.deferredApply s.m = ({ s.m with deferred := rest } : Mach).applyLoad x := by
      unfold Load.deferredApply
      rw [hdefer]
      dsimp only
      rw [hidle, hup, hpath]
      rfl
    have hstored : ({ s.m with deferred := rest } : Mach).Stores m2 := by
      have h := Mach.stored_dataWrites x.desc.seq x.data { s.m with deferred := rest }
      rw [hdata] at h
      exact h
    have hsmall := m2.applySmall_eq x
    obtain ⟨himage, hgone, hdone, hbytes⟩ := (m2.applySmall x).loadDone_done x
    have happly := Mach.applyLoad_ok hdata
    generalize (m2.applySmall x).loadDone x = md at himage hgone hdone hbytes happly
    generalize m2.applySmall x = ms at hsmall hdone hbytes happly
    have hmem : ∀ k, ms.byteAt k = m2.byteAt k := fun k => congrArg (NMap.get byte0 · k) (congrArg Mach.mem hsmall :)
    have hdefer2 : ms.deferred = rest := (congrArg Mach.deferred hsmall :).trans hstored.deferred
    rw [hrow, happly]
    refine ⟨?_, fun k => ?_, fun hnone => ?_, fun ⟨v, hv, hseq⟩ => ?_⟩
    · split
      · exact hdefer2
      · exact hdone.trans hdefer2
    · split
      · exact hmem k
      · exact (hbytes k).trans (hmem k)
    · rw [if_neg (by rw [Bool.not_eq_true, List.any_eq_false]; exact fun v hv h => hnone v hv (beq_iff_eq.1 h))]
      exact ⟨himage, hgone⟩
    · have hany : (m2.fab.memOut.any fun v => v.1 == x.desc.seq) = true := List.any_eq_true.2 ⟨v, hv, beq_iff_eq.2 hseq⟩
      rw [if_pos hany]

end Sys2Proof.Machine

/-! DebugEvents: what the statement does not allow for. A trace record may be written into the code window of a running core (R234), whose
fault is traced as well. -/
namespace Sys2Proof.Machine

/-- The record that the buffer of region 1 holds. -/
def waitingRec : TraceRec := ⟨0, 0, 1, false, false, 5, []⟩

/-- Tracing is on, core 0's thread runs, and its code window holds the reserved region 0 that the records go to. -/
def tracedCode : State :=
  { State.reset with
    m := ((Mach.reset.wrs 0 [(.MOD_STATUS_PWR_GOOD, 1), (.MOD_MODE_TRACE, 1), (.DBG_TRACE_CFG_TYPE_EN, 255), (.MEM_RSV_SIZE, 1),
        (.CC_CODE_WIN_LO_ENABLE, 1), (.CC_CODE_WIN_HI_LIMIT, 2 ^ 36 - 1), (.CC_CODE_STATUS_STALE, 1), (.SEQ_MEMBER_COUNT, 1)]).setCtx 0
      ⟨true, .none, 0, 0, 0, [], []⟩).setBuf 1 ⟨[waitingRec], 0, 0, false, false⟩ }

/-- Refutes O42: the write of region 1's record raises CODE_MODIFIED in core 0, whose own buffer takes the record of that fault. -/
theorem not_debugEvents : ¬ Obligations.DebugEvents := by
  unfold Obligations.DebugEvents
  rintro ⟨-, h⟩
  obtain ⟨-, hwrite⟩ := h 1 waitingRec [] tracedCode
  obtain ⟨hgoesOn, -⟩ := hwrite (by decide +kernel) (by decide +kernel) (by decide +kernel) (by decide +kernel) (by decide +kernel)
  obtain ⟨t, ht, -, -, -, hothers, -⟩ := hgoesOn (by decide +kernel)
  obtain rfl := Host.Outcome.next.inj ht
  have hlength := congrArg (fun b : TraceBuf => b.recs.length) (hothers 0 (by decide))
  revert hlength
  decide +kernel

end Sys2Proof.Machine

/-! Tests: what the statement does not allow for. A state may hold a field slot whose INDEX lies above the 7 bits of that field; LINDEX
has 8. -/
namespace Sys2Proof.Machine

/-- Core 0's test runs; field slot 0 names "row" 200, which the first spare serves. -/
def wideSlot : State :=
  { State.reset with
    m := let m := Mach.reset.wrs 0 [(.MOD_STATUS_PWR_GOOD, 1), (.OPE_REPAIR_FIELD0_VALID, 1)]
      { m with regs := (Fld.OPE_REPAIR_FIELD0_INDEX.key 0, 200) :: m.regs, timers := [(0, some ⟨0, 1⟩)] } }

/-- The test fails in the first spare row. -/
def spareFails : TestOut := ⟨true, 0, 0, false, 128, 0, 0, 0, false, 0, 0⟩

/-- Refutes O43: LINDEX takes the 8 bits of what the slot names, 200, where the statement keeps 7 of them. -/
theorem not_tests : ¬ Obligations.Tests := by
  unfold Obligations.Tests
  intro h
  obtain ⟨-, hdone⟩ := h 0 0 false false false false spareFails 0 0 0 0 0 ⟨0, 1⟩ wideSlot
  obtain ⟨hcore, -⟩ := hdone (by decide +kernel)
  obtain ⟨t, ht, -, -, -, -, -, -, hindex, -⟩ := hcore (by decide +kernel) (by decide +kernel)
  obtain rfl := Host.Outcome.next.inj ht
  have hline := hindex (by decide +kernel) (by decide +kernel)
  revert hline
  decide +kernel

end Sys2Proof.Machine

/-! O45: gradient reduction (R317 to R333). -/
namespace Sys2Proof.Machine

/-! What reads of memory leave. -/

theorem Mach.Stores.red {m m' : Mach} (h : m.Stores m') : m'.red = m.red := (congrArg Still.red h.quiet : m'.quiet.red = _)

theorem Mach.Stores.foldl_snd {α β : Type} {f : β × Mach → α → β × Mach} (h : ∀ (bm : β × Mach) a, bm.2.Stores (f bm a).2) (l : List α) (bm : β × Mach) :
    bm.2.Stores (l.foldl f bm).2 := by
  induction l generalizing bm with
  | nil => exact .refl _
  | cons a l ih => exact (h bm a).trans (ih _)

theorem Mach.stores_readSide (m : Mach) (a n : Nat) : m.Stores (m.readSide a n).2 := by
  unfold Mach.readSide
  dsimp only
  split
  case h_1 => exact m.stores_linkOrigin _ _
  case h_2 =>
    refine Mach.Stores.foldl_snd (bm := ([], m)) ?_ _
    exact fun bm _ => bm.2.stores_pageRead _ _
  case h_3 =>
    refine Mach.Stores.foldl_snd (bm := ([], m)) ?_ _
    exact fun bm _ => bm.2.stores_pageRead _ _
  case h_4 =>
    unfold Mach.stagingBytes
    exact .trans (.ite (m.stores_hev _ _ _) (.refl m)) (Mach.stores_eccRead _ _)

theorem Mach.stores_readAny (m : Mach) (a n : Nat) : m.Stores (m.readAny a n).2 := by
  refine Mach.Stores.foldl_snd (bm := ([], m)) ?_ _
  exact fun bm _ => bm.2.stores_readSide _ _

theorem Mach.stored_hubWrite (m : Mach) (a : Nat) (bs : List PByte) : (m.hubWrite a bs).Stored m :=
  Written.Stored.trans (m1 := m.freeSource.2) (.of_regs rfl rfl (.of_eq rfl rfl)) (Mach.stored_writeSide _ _ _ _ _)

/-! Frames of segments leave the blocks and memory. -/

theorem Mach.still_sendSeg (m : Mach) (b : RedBlk) (h : Nat) (vs : List Nat) (poison : Bool) : (m.sendSeg b h vs poison).still = m.still := by
  unfold Mach.sendSeg
  apply foldl_keep Mach.still
  exact fun _ _ => Mach.still_sendLater _ _

theorem Mach.still_sendGather (m : Mach) (b : RedBlk) : (m.sendGather b).still = m.still := by
  unfold Mach.sendGather
  dsimp only
  split
  · exact Mach.still_sendSeg _ _ _ _ _
  · exact Mach.still_sendSeg _ _ _ _ _

theorem Mach.still_startLevel (m : Mach) (b : RedBlk) : (m.startLevel b).still = (m.putBlk b).still := by
  unfold Mach.startLevel
  dsimp only
  split
  · exact Mach.still_sendGather _ _
  · exact Mach.still_sendSeg _ _ _ _ _

theorem Mach.red_of_still {m m' : Mach} (h : m'.still = m.still) : m'.red = m.red := congrArg Still.red h

/-! Blocks. -/

/-- The blocks with one of them replaced. -/
def putBlks (bs : List RedBlk) (b' : RedBlk) : List RedBlk := bs.map fun e => if e.n = b'.n ∧ e.g = b'.g ∧ e.k = b'.k then b' else e

theorem Mach.blks_putBlk (m : Mach) (b : RedBlk) : (m.putBlk b).red.blks = putBlks m.red.blks b := rfl

theorem putBlks_putBlks (bs : List RedBlk) {b b' : RedBlk} (h : b.n = b'.n ∧ b.g = b'.g ∧ b.k = b'.k) :
    putBlks (putBlks bs b) b' = putBlks bs b' := by
  obtain ⟨hn, hg, hk⟩ := h
  rw [putBlks, putBlks, putBlks, List.map_map]
  refine List.map_congr_left fun e _ => ?_
  rw [Function.comp_apply]
  by_cases he : e.n = b'.n ∧ e.g = b'.g ∧ e.k = b'.k
  · rw [if_pos he, if_pos (show e.n = b.n ∧ e.g = b.g ∧ e.k = b.k by rw [hn, hg, hk]; exact he), if_pos ⟨hn, hg, hk⟩]
  · rw [if_neg (show ¬(e.n = b.n ∧ e.g = b.g ∧ e.k = b.k) by rw [hn, hg, hk]; exact he)]

theorem Mach.red_redResults (m : Mach) (b : RedBlk) : (m.redResults b).2.red = m.red := by
  have hfault (m' : Mach) (h : m'.red = m.red) (c a code sub : Nat) : ((m'.captureFault c a true 4).raise code sub srcHub b.g a).red = m.red := by
    rw [Mach.red_of_still (Mach.still_raise ..), Mach.captureFault_eq]
    exact h
  unfold Mach.redResults
  dsimp only
  split
  · exact hfault m rfl _ _ _ _
  · have hstored := Written.stored_foldl (m0 := m) (f := fun m i => m.hubWrite (m.redDest b i)
      ((redBytes b (b.slice ⟨128 * i, 128⟩)).map (·, b.poison.get (fun _ => false) i)))
      (fun m1 _ hm1 => .trans hm1 (m1.stored_hubWrite _ _)) (List.range b.need) (r := .ok m) (.refl m)
    split
    · next m1 heq => exact Mach.Stores.red ((congrArg (Written.Stored m) heq).mp hstored)
    · next p m1 heq => exact hfault m rfl _ _ _ _

/-- The blocks without the one that is complete. -/
def dropBlk (bs : List RedBlk) (b : RedBlk) : List RedBlk := bs.filter fun e => !(e.n == b.n && e.g == b.g && e.k == b.k)

/-- A block whose result is complete leaves the module, or waits for RRED or RGATH (R325, R327). -/
theorem Mach.red_redComplete (m : Mach) (b : RedBlk) : (m.redComplete b).red.arrived = m.red.arrived ∧
    (m.redComplete b).red.blks = if b.kind = 0 then dropBlk m.red.blks b else putBlks m.red.blks { b with done := true } := by
  unfold Mach.redComplete
  split
  · have hred := m.red_redResults b
    generalize m.redResults b = r at hred ⊢
    obtain ⟨ok, m1⟩ := r
    dsimp only at hred ⊢
    rw [← hred]
    cases ok with
    | true => rw [if_pos rfl, Mach.bump_eq]; exact ⟨rfl, rfl⟩
    | false => exact ⟨rfl, rfl⟩
  · rw [Mach.bump_eq]
    exact ⟨rfl, rfl⟩

/-! A hop addition (R327, R333). -/

section
variable (m : Mach) (b : RedBlk) (x : RedSeg)

/-- The ring of the block's level, and the spans of the segments that its next hop adds or stores. -/
abbrev Mach.hopRing : Nat := m.extent (b.axes.getD b.level 0)
abbrev Mach.reduceSpan : Span := (m.spanAt b b.level).seg (m.hopRing b)
  ((m.ringPos m.myId (b.axes.getD b.level 0) + 2 * m.hopRing b - 1 - b.h) % m.hopRing b)
abbrev Mach.gatherSpan : Span := (m.spanAt b b.level).seg (m.hopRing b)
  ((m.ringPos m.myId (b.axes.getD b.level 0) + m.hopRing b - b.h) % m.hopRing b)

/-- The block with the CHECK_RATE of its segment. -/
abbrev Mach.hopBlk : RedBlk := { b with checked := if b.h = 1 then m.rd .MOD_MODE_CHECK_RATE 0 else x.rate }

/-- The sum of the segment that has arrived and the block's own. -/
abbrev Mach.hopSum : RedBlk := (m.hopBlk b x).store (m.reduceSpan b) (List.zipWith (redAdd b.op) x.vals (b.slice (m.reduceSpan b)))

/-- What a hop counts, with a repetition that resolves a mismatch. -/
theorem Mach.hopCounts_red (f : Fld) (len n : Nat) (checked : Bool) (mis : Nat) :
    let m0 := (m.bump f b.g n).hev 2 0x28 1
    let m1 := if checked then (m0.checkerTakes len).bump .RED_CHECKED 0 1 else m0
    let m2 := if mis = 1 then (m1.bump .RED_RETRIES 0 1).raise 0x47 b.level srcHub 0 b.k else m1
    m2.red.arrived = m.red.arrived ∧ m2.red.blks = m.red.blks := by
  intro m0 m1 m2
  have h0 : m0.red = m.red := Mach.red_of_still ((Mach.still_hev ..).trans (Mach.still_bump ..))
  have h1 : m1.red.arrived = m.red.arrived ∧ m1.red.blks = m.red.blks := by
    show (if checked then (m0.checkerTakes len).bump .RED_CHECKED 0 1 else m0).red.arrived = _ ∧
      (if checked then (m0.checkerTakes len).bump .RED_CHECKED 0 1 else m0).red.blks = _
    rw [← h0]
    split
    · unfold Mach.checkerTakes
      rw [Mach.bump_eq]
      dsimp only
      rw [Mach.bump_eq]
      exact ⟨rfl, rfl⟩
    · exact ⟨rfl, rfl⟩
  have h2 : m2.red = m1.red := by
    show (if mis = 1 then (m1.bump .RED_RETRIES 0 1).raise 0x47 b.level srcHub 0 b.k else m1).red = m1.red
    split
    · exact Mach.red_of_still ((Mach.still_raise ..).trans (Mach.still_bump ..))
    · rfl
  rw [h2]
  exact h1

/-- Where the block stands after a hop of the reduce-scatter. -/
abbrev Mach.reduced : RedBlk :=
  if b.h + 1 < m.hopRing b then { m.hopBlk b x with h := b.h + 1 }
  else if b.level + 1 < b.axes.length then { m.hopSum b x with h := 1, level := b.level + 1 } else { m.hopSum b x with h := 1, gather := true }

/-- A hop of the reduce-scatter that the checker passes, at most after one repetition. -/
theorem Mach.hopReduce_blks {mism : Nat} (hclean : x.poison = false) (hin : b.poisonIn (m.reduceSpan b) = false)
    (hlen : x.vals.length = (m.reduceSpan b).len) (hmism : mism ≤ 1) : let m' := m.hopReduce b x mism
    m'.red.arrived = m.red.arrived ∧ m'.red.blks = putBlks m.red.blks (m.reduced b x) := by
  have hskip : ¬(x.poison || b.poisonIn (m.reduceSpan b)) = true := by rw [hclean, hin]; decide
  have hvals : m.segVals x (m.reduceSpan b).len = (x.vals, m) := if_pos hlen
  have hnext (m1 : Mach) (hred : m1.red.arrived = m.red.arrived ∧ m1.red.blks = m.red.blks) (y : List Nat) :
      let m' := if b.h + 1 < m.hopRing b then (m1.putBlk { m.hopBlk b x with h := b.h + 1 }).sendSeg (m.hopBlk b x) (b.h + 1) y false
        else if b.level + 1 < b.axes.length then m1.startLevel { m.hopSum b x with h := 1, level := b.level + 1 }
        else m1.startLevel { m.hopSum b x with h := 1, gather := true }
      m'.red.arrived = m.red.arrived ∧ m'.red.blks = putBlks m.red.blks (m.reduced b x) := by
    intro m'
    have hm' : m'.red = (m1.putBlk (m.reduced b x)).red := by
      show (if b.h + 1 < m.hopRing b then (m1.putBlk { m.hopBlk b x with h := b.h + 1 }).sendSeg (m.hopBlk b x) (b.h + 1) y false
        else if b.level + 1 < b.axes.length then m1.startLevel { m.hopSum b x with h := 1, level := b.level + 1 }
        else m1.startLevel { m.hopSum b x with h := 1, gather := true }).red = (m1.putBlk (if _ then _ else if _ then _ else _)).red
      split
      · exact Mach.red_of_still (Mach.still_sendSeg ..)
      split
      · exact Mach.red_of_still (Mach.still_startLevel ..)
      · exact Mach.red_of_still (Mach.still_startLevel ..)
    rw [hm', Mach.blks_putBlk, hred.2]
    exact ⟨hred.1, rfl⟩
  unfold Mach.hopReduce
  dsimp only
  rw [if_neg hskip, hvals]
  dsimp only
  generalize ((b.k + 7 * _ + 13 * b.g + 31 * b.n) % _ == 0) = checked
  generalize hmis : (if checked = true then mism else 0) = mis
  have hmis1 : mis ≤ 1 := by
    rw [← hmis]
    split
    · exact hmism
    · exact Nat.zero_le 1
  rw [if_neg (show ¬2 ≤ mis by omega)]
  exact hnext _ (m.hopCounts_red b _ _ _ _ _) _

/-- A hop of the all-gather. -/
theorem Mach.hopGather_blks (hkind : b.kind ≠ 2) (hclean : x.poison = false)
    (hlen : x.vals.length = (m.gatherSpan b).len) : let m' := m.hopGather b x
    m'.red.arrived = m.red.arrived ∧ m'.red.blks =
      if b.h + 1 < m.hopRing b then putBlks m.red.blks { b.store (m.gatherSpan b) x.vals with h := b.h + 1 }
      else if b.level = 0 then
        if b.kind = 0 then dropBlk m.red.blks b else putBlks m.red.blks { b.store (m.gatherSpan b) x.vals with done := true }
      else putBlks m.red.blks { b.store (m.gatherSpan b) x.vals with level := b.level - 1, h := 1 } := by
  have hvals : m.segVals x (m.gatherSpan b).len = (x.vals, m) := if_pos hlen
  unfold Mach.hopGather
  dsimp only
  rw [if_neg hkind, hvals]
  dsimp only
  simp only [hclean, Bool.false_and, filter_none, List.foldl_nil]
  split
  · rw [Mach.red_of_still (Mach.still_sendSeg ..)]
    exact ⟨rfl, rfl⟩
  split
  · exact Mach.red_redComplete _ _
  · rw [Mach.red_of_still (Mach.still_startLevel ..)]
    exact ⟨rfl, rfl⟩
end

theorem Mach.mem_redComplete {m : Mach} {b : RedBlk} (hkind : b.kind ≠ 0) : (m.redComplete b).mem = m.mem := by
  unfold Mach.redComplete
  rw [if_neg hkind, Mach.bump_eq]
  rfl

theorem Mach.redComplete_written {m m1 : Mach} {b : RedBlk} (hkind : b.kind = 0) (hres : m.redResults b = (true, m1)) :
    m.redComplete b = ({ m1 with red := { m1.red with blks := dropBlk m1.red.blks b } } : Mach).bump .RED_BLOCKS 0 1 := by
  unfold Mach.redComplete
  rw [if_pos hkind, hres]
  rfl

/-- What a hop adds or stores depends on the slice alone. -/
theorem Mach.hopSpans_of_rd {m m' : Mach} (h : ∀ f i, m'.rd f i = m.rd f i) (b : RedBlk) :
    m'.hopRing b = m.hopRing b ∧ m'.reduceSpan b = m.reduceSpan b ∧ m'.gatherSpan b = m.gatherSpan b := by
  have hextent : ∀ a, m'.extent a = m.extent a := fun a => h _ _
  have hpos : ∀ a, m'.ringPos m'.myId a = m.ringPos m.myId a := fun a => by rw [Mach.ringPos, Mach.origin, Mach.myId, h, h]; rfl
  have hspan : m'.spanAt b b.level = m.spanAt b b.level := by
    unfold Mach.spanAt
    exact congrArg (fun f => (b.axes.take b.level).foldl f _) (funext fun sp => funext fun a => by rw [hextent, hpos])
  have hring : m'.hopRing b = m.hopRing b := hextent _
  refine ⟨hring, ?_, ?_⟩
  · rw [Mach.reduceSpan, hspan, hring, hpos]
  · rw [Mach.gatherSpan, hspan, hring, hpos]

/-! The four rows. -/

/-- The module that a hop starts from: the segment has been taken, and its frames' credits go back (R346). -/
def Mach.hopTaken (m : Mach) (x : RedSeg) : Mach :=
  (x.links.filter (· != 0)).foldl (fun m l => m.returnCredit (l - 1) 2) { m with red := { m.red with arrived := m.red.arrived.erase x } }

theorem Mach.hopTaken_keeps (m : Mach) (x : RedSeg) : (m.hopTaken x).red = { m.red with arrived := m.red.arrived.erase x } ∧
    ∀ f i, (m.hopTaken x).rd f i = m.rd f i := by
  unfold Mach.hopTaken
  constructor
  · exact Mach.red_of_still (foldl_keep Mach.still (fun m l => m.returnCredit (l - 1) 2) (fun m l => m.still_returnCredit _ _) _ _)
  · exact fun f i => foldl_keep (fun m : Mach => m.rd f i) (fun m l => m.returnCredit (l - 1) 2) (fun m l => m.rd_returnCredit _ _ _ _) _ _

theorem hopAddition_eq {m : Mach} {n6 g6 : BitVec 6} {mism : BitVec 2} {b : RedBlk} {x : RedSeg} (hworks : Reduce.works m = true)
    (hb : m.red.blks.find? (fun b => b.n == n6.toNat && b.g == g6.toNat && b.started && !b.done) = some b)
    (hx : m.red.arrived.find? (·.fits b) = some x) (hruns : b.gather = false → m.unitRuns b.g .vec = true) :
    Reduce.hopAddition n6 g6 mism m =
      if b.gather then (m.hopTaken x).hopGather b x else (m.hopTaken x).hopReduce b x mism.toNat := by
  have hgo : ¬(!Reduce.works m || (!b.gather && !m.unitRuns b.g .vec)) = true := by
    rw [hworks]
    cases hg : b.gather with
    | true => rw [Bool.not_true, Bool.false_and, Bool.or_false]; decide
    | false => rw [hruns hg]; decide
  rw [Reduce.hopAddition]
  rw [hb]
  dsimp only
  rw [hx]
  dsimp only
  rw [if_neg hgo]
  rfl

/-- The block as its reduction starts: with its values, and RGATH's as its own member's (R323). -/
def RedBlk.starting (b : RedBlk) (axes : List Nat) (me : Nat) (es : List Ent) : RedBlk :=
  let vals := es.flatMap fun e => redLanes b e.bits
  let bad := ((List.range es.length).zip es).foldl (fun t e => NMap.set (fun _ => false) t e.1 e.2.poison) []
  let b0 : RedBlk := { b with started := true, axes := axes, vals := vals, poison := bad, level := 0, h := 1 }
  if b.kind = 2 then { b0 with members := [(me, vals)], gather := true, level := axes.length - 1,
                               poison := bad.map fun (kv : Nat × Bool) => (me * b.need + kv.1, kv.2) } else b0

theorem RedBlk.starting_facts (b : RedBlk) (axes : List Nat) (me : Nat) (es : List Ent) : let b' := b.starting axes me es
    b'.n = b.n ∧ b'.g = b.g ∧ b'.k = b.k ∧ b'.kind = b.kind := by
  intro b'
  show (RedBlk.starting b axes me es).n = _ ∧ (RedBlk.starting b axes me es).g = _ ∧ (RedBlk.starting b axes me es).k = _ ∧
    (RedBlk.starting b axes me es).kind = _
  unfold RedBlk.starting
  dsimp only
  split <;> exact ⟨rfl, rfl, rfl, rfl⟩

theorem stores_entries (b : RedBlk) (m : Mach) : m.Stores (Reduce.entries b m).2 := by
  unfold Reduce.entries
  dsimp only
  split
  · refine Mach.Stores.foldl_snd (bm := ([], m)) ?_ _
    intro em i
    refine Mach.Stores.foldl_snd (bm := (([] : List PByte), em.2)) ?_ _
    exact fun bm j => bm.2.stores_readAny _ _
  · exact .refl m

/-- What reads of memory leave of the slice (R326, R358). -/
theorem Mach.Stores.slice {m m' : Mach} (h : m.Stores m') : (∀ n, m'.streamAxes n = m.streamAxes n) ∧ m'.rank m'.myId = m.rank m.myId := by
  have hrd : ∀ f i, f ∈ [Fld.RED_STREAM_CFG_ORDER, .RED_CFG_AXIS_ORDER, .FAB_SLICE_EX, .FAB_SLICE_EY, .FAB_SLICE_EZ, .FAB_SLICE_OX, .FAB_SLICE_OY,
      .FAB_SLICE_OZ, .FAB_COORD_MODULE_ID] → m'.rd f i = m.rd f i := by
    intro f i hf
    refine h.rd f i ?_ ?_ <;> revert f <;> decide
  have hextent : ∀ a, m'.extent a = m.extent a := fun a => hrd _ _ (by
    split
    · decide
    · split <;> decide)
  have horigin : ∀ a, m'.origin a = m.origin a := fun a => hrd _ _ (by
    split
    · decide
    · split <;> decide)
  have hid : m'.myId = m.myId := hrd _ _ (by decide)
  refine ⟨fun n => ?_, ?_⟩
  · unfold Mach.streamAxes
    dsimp only
    rw [hrd .RED_STREAM_CFG_ORDER n (by decide), hrd .RED_CFG_AXIS_ORDER 0 (by decide)]
    exact List.filter_congr fun a _ => by rw [hextent]
  · unfold Mach.rank Mach.ringPos
    rw [hid, hextent, hextent, horigin, horigin, horigin]

theorem blockStart_eq {m : Mach} {n6 g6 : BitVec 6} {b : RedBlk} (hworks : Reduce.works m = true)
    (hidle : ∀ e ∈ m.red.blks, e.n = n6.toNat → e.g = g6.toNat → e.started = true → e.done = true)
    (hb : (m.red.blks.filter fun e => e.n == n6.toNat && e.g == g6.toNat).find? (fun b => b.released && !b.started) = some b) :
    let es := Reduce.entries b m
    let b' := b.starting (m.streamAxes b.n) (m.rank m.myId) es.1
    Reduce.blockStart n6 g6 m = if (m.streamAxes b.n).isEmpty then (es.2.putBlk b').redComplete b' else es.2.startLevel b' := by
  intro es b'
  have hgo : ¬(!Reduce.works m || (m.red.blks.filter fun b => b.n == n6.toNat && b.g == g6.toNat).any fun b => b.started && !b.done) = true := by
    rw [hworks, Bool.not_true, Bool.false_or, Bool.not_eq_true, List.any_eq_false]
    intro e he
    rw [List.mem_filter, Bool.and_eq_true, beq_iff_eq, beq_iff_eq] at he
    obtain ⟨hmem, hn, hg⟩ := he
    rw [Bool.and_eq_true, Bool.not_eq_true']
    rintro ⟨hs, hd⟩
    rw [hidle e hmem hn hg hs] at hd
    exact nomatch hd
  obtain ⟨haxes, hrank⟩ := (stores_entries b m).slice
  rw [Reduce.blockStart]
  dsimp only
  rw [if_neg hgo, hb]
  dsimp only
  rw [haxes, hrank]
  rfl

section
variable {m : Mach} {g6 : BitVec 6} {c4 : BitVec 4} (hkind : m.chKind g6.toNat c4.toNat = 4)
include hkind

theorem txAccept_result {p : VecPend} {rest : List VecPend} (hpipe : (m.core g6.toNat).vecPipe = p :: rest)
    (hdst : p.dst = 32 + c4.toNat) : Reduce.txAccept g6 c4 m = Vec.resultPush g6 m := by
  rw [Reduce.txAccept, if_neg (not_not_intro hkind), hpipe]
  exact if_pos hdst

theorem txAccept_drain (hother : ∀ p, (m.core g6.toNat).vecPipe.head? = some p → p.dst ≠ 32 + c4.toNat) :
    Reduce.txAccept g6 c4 m = Dru.entryPush g6 m := by
  rw [Reduce.txAccept, if_neg (not_not_intro hkind)]
  split
  · next p rest hpipe => exact if_neg (hother p (by rw [hpipe]; rfl))
  · rfl

omit hkind in
/-- A RED_TX end takes an entry into its block and the buffer's bytes (R320). -/
theorem Mach.cores_redAccept {m m1 : Mach} {g c : Nat} {d : Ent} (h : m.redAccept g c d = some m1) : m1.cores = m.cores := by
  have hput (m : Mach) (b : RedBlk) : (m.redPut b d).cores = m.cores :=
    foldl_keep Mach.cores (fun m j => m.plainWrite (m.redUnit b (b.cnt * (redWidth b.op / 256) + j))
      ((((slotBytes d.bits (256 * (redWidth b.op / 256))).map (·, d.poison)).drop (256 * j)).take 256)) (fun _ _ => rfl) _ _
  have hhev (m : Mach) (n : Nat) : (m.hev 2 0x29 n).cores = m.cores := congrArg Still.cores (m.still_hev _ _ _)
  unfold Mach.redAccept at h
  dsimp only at h
  split at h
  · exact nomatch h
  split at h
  · exact nomatch h
  obtain rfl := Option.some.inj h
  refine (hhev _ _).trans ?_
  have hopen (c : Bool) (m' : Mach) (hm' : m'.cores = m.cores) : (if c then m else m').cores = m.cores := by
    cases c
    · exact hm'
    · rfl
  have helim (o : Option RedBlk) (m' : Mach) : (o.elim m' fun b => m'.redPut b d).cores = m'.cores := by
    cases o with
    | none => rfl
    | some b => exact hput m' b
  exact (helim _ _).trans (hopen _ _ rfl)

/-- The VEC's oldest result enters the block of its RED_TX end (R128, R320). -/
theorem resultPush_takes {p : VecPend} {rest : List VecPend} {m1 : Mach} (hpipe : (m.core g6.toNat).vecPipe = p :: rest)
    (hdst : p.dst = 32 + c4.toNat) (hruns : m.unitRuns g6.toNat .vec = true) (haccept : m.redAccept g6.toNat c4.toNat p.ent = some m1) :
    Vec.resultPush g6 m = ((((m1.ev g6.toNat (0x80 + 32 + c4.toNat) 1).onCore g6.toNat fun c => { c with vecPipe := rest, vecHeld := false }).bump
      .VEC_ENTRIES g6.toNat 1).ev g6.toNat 6 1) := by
  have hend : m.pushEnd g6.toNat p.dst p.ent = some (m1.ev g6.toNat (0x80 + 32 + c4.toNat) 1) := by
    have hdata : ∀ c : BitVec 4, isDataQ (32 + c.toNat) = false := by decide
    have hchan : ∀ c : BitVec 4, isChan (32 + c.toNat) = true := by decide
    rw [Mach.pushEnd, hdst, hdata, hchan, if_neg Bool.false_ne_true, if_pos rfl, Nat.add_sub_cancel_left, Mach.accept, hkind]
    rw [haccept]
    rfl
  rw [Vec.resultPush, hpipe]
  dsimp only
  rw [hruns, Bool.not_true, if_neg Bool.false_ne_true, hend]
end

theorem bucketCopy_eq {m m1 : Mach} {n6 g6 : BitVec 6} {b : RedBlk} (hworks : Reduce.works m = true) (htile : m.redTile = false)
    (hb : m.red.blks.find? (fun b => b.n == n6.toNat && b.g == g6.toNat && b.kind == 0 && decide (b.need ≤ b.cnt) && !b.released && !b.bucketed) =
      some b)
    (hfits : m.bucketBytes (fun _ => true) + b.need * redWidth b.op ≤ m.rd .RED_BUCKET_SIZE 0 * 2 ^ 20) :
    let b' := { b with bucketed := true, place := freeRuns 0 b.units (runsOf (m.red.blks.filter (·.bucketed))) }
    Reduce.copyUnits b b' m = (true, m1) → Reduce.bucketCopy n6 g6 m =
      if m.rd .RED_BUCKET_SIZE 0 * 2 ^ 20 / 2 ≤ (m1.putBlk b').bucketBytes (fun b => !b.released) then (m1.putBlk b').releaseBucket
      else m1.putBlk b' := by
  intro b' hcopy
  have hgo : ¬(!Reduce.works m || m.redTile ||
      decide (m.rd .RED_BUCKET_SIZE 0 * 2 ^ 20 < m.bucketBytes (fun _ => true) + b.need * redWidth b.op)) = true := by
    rw [hworks, htile, decide_eq_false (Nat.not_lt.2 hfits)]
    decide
  rw [Reduce.bucketCopy]
  rw [hb]
  dsimp only
  rw [if_neg hgo, hcopy]

/-- Settles O45: each row by its equation, with what it leaves of the blocks (`Mach.hopReduce_blks`, `Mach.hopGather_blks`,
`Mach.red_redComplete`); frames and reads leave them (`Mach.still_startLevel`, `stores_entries`). -/
theorem reduction : Obligations.Reduction := by
  unfold Obligations.Reduction
  intro n6 g6 c4 b s n g dst same put
  refine ⟨fun hkind => ⟨fun p rest m1 hpipe hdst hruns haccept => ?_, fun hother => ?_⟩, ?_, ?_, ?_⟩
  · refine does_of_lift (f := Reduce.txAccept g6 c4) rfl ?_
    rw [txAccept_result hkind hpipe hdst, resultPush_takes hkind hpipe hdst hruns haccept]
    have hcores := Mach.cores_redAccept haccept
    refine ⟨?_, ?_, fun h hh => ?_, fun k => ?_⟩
    · rw [Mach.ev_eq, Mach.bump_eq]
      show (m1.ev g _ 1).red = m1.red
      rw [Mach.ev_eq]
    · rw [Mach.core_ev, Mach.core_bump, Mach.core_onCore, if_pos rfl]
    · rw [Mach.core_ev, Mach.core_bump, Mach.core_onCore, if_neg hh, Mach.core_ev]
      exact congrArg (NMap.get (fun _ => Core.reset) · h) hcores
    · rw [Mach.ev_eq, Mach.bump_eq]
      show (m1.ev g _ 1).byteAt k = m1.byteAt k
      rw [Mach.ev_eq]
      rfl
  · exact congrArg Host.Outcome.next (congrArg (fun m => { s with m := m }) (txAccept_drain hkind hother))
  · intro m1 hworks htile size b' hb hfits hcopy
    refine does_of_lift (f := Reduce.bucketCopy n6 g6) rfl ?_
    rw [bucketCopy_eq hworks htile hb hfits hcopy]
    intro m2
    show (if size / 2 ≤ m2.bucketBytes (fun b => !b.released) then m2.releaseBucket else m2).red.blks = _ ∧
      ∀ k, (if size / 2 ≤ m2.bucketBytes (fun b => !b.released) then m2.releaseBucket else m2).byteAt k = _
    split
    · have hstill : m2.releaseBucket.still = _ := Mach.still_hev _ _ _ _
      exact ⟨(congrArg (fun s : Still => s.red.blks) hstill :), fun k => (Mach.byteAt_of_still hstill k :)⟩
    · exact ⟨rfl, fun _ => rfl⟩
  · intro hworks hidle hb es vals bad axes me b0 b1
    have hrow := blockStart_eq hworks hidle hb
    have hstores := stores_entries b s.m
    have hred : es.2.red = s.m.red := hstores.red
    obtain ⟨hn, hg, hk, hkind⟩ := b.starting_facts axes me es.1
    have hb1 : b1 = b.starting axes me es.1 := rfl
    rw [← hb1] at hn hg hk hkind
    have hput : putBlks es.2.red.blks b1 = put b1 := by rw [hred]; rfl
    refine ⟨fun haxes => does_of_lift (f := Reduce.blockStart n6 g6) rfl ?_,
      fun haxes hkind' => does_of_lift (f := Reduce.blockStart n6 g6) rfl ?_, fun m1 haxes hkind' hres => does_of_lift (f := Reduce.blockStart n6 g6) rfl ?_⟩
    · have hlevel : Reduce.blockStart n6 g6 s.m = es.2.startLevel b1 := hrow.trans (if_neg (by rw [List.isEmpty_iff]; exact haxes))
      have hstill := es.2.still_startLevel b1
      rw [hlevel]
      exact ⟨(congrArg Red.blks (Mach.red_of_still hstill)).trans hput, fun k => (Mach.byteAt_of_still hstill k :)⟩
    all_goals
      have hdone : Reduce.blockStart n6 g6 s.m = (es.2.putBlk b1).redComplete b1 := hrow.trans (if_pos (List.isEmpty_iff.2 haxes))
      rw [hdone]
    · have hblks := ((es.2.putBlk b1).red_redComplete b1).2
      rw [if_neg (hkind ▸ hkind'), Mach.blks_putBlk, putBlks_putBlks _ (b := b1) (b' := { b1 with done := true }) ⟨rfl, rfl, rfl⟩, hred] at hblks
      exact ⟨hblks, fun k => congrArg (NMap.get byte0 · k) (Mach.mem_redComplete (hkind ▸ hkind'))⟩
    · rw [Mach.redComplete_written (hkind ▸ hkind') hres, Mach.bump_eq, ← hn, ← hg, ← hk]
      exact ⟨rfl, fun _ => rfl⟩
  · intro mism x hworks hb hx hclean ax ring pos spr spg b0 sum goes
    have hrow (hruns : b.gather = false → s.m.unitRuns b.g .vec = true) := hopAddition_eq (mism := mism) hworks hb hx hruns
    obtain ⟨hred, hrd⟩ := s.m.hopTaken_keeps x
    have hblks : (s.m.hopTaken x).red.blks = s.m.red.blks := by rw [hred]
    have harrived : (s.m.hopTaken x).red.arrived = s.m.red.arrived.erase x := by rw [hred]
    generalize s.m.hopTaken x = m1 at hrow hrd hblks harrived
    obtain ⟨hring, hreduce, hgatherSpan⟩ := Mach.hopSpans_of_rd hrd b
    have hblk : m1.hopBlk b x = b0 := by rw [Mach.hopBlk, hrd]
    have hsum : m1.hopSum b x = sum := by rw [Mach.hopSum, hblk, hreduce]
    refine ⟨fun hgather hruns hin hlen hmism => ?_, fun hgather hkind hlen => ?_⟩
    · have hrow := hrow fun _ => hruns
      rw [hgather, if_neg Bool.false_ne_true] at hrow
      obtain ⟨harr, hbs⟩ := m1.hopReduce_blks b x hclean (by rw [hreduce]; exact hin) (by rw [hreduce]; exact hlen) hmism
      rw [harrived] at harr
      rw [hblks, Mach.reduced, hring, hblk, hsum] at hbs
      refine ⟨fun hmore => does_of_lift (f := Reduce.hopAddition n6 g6 mism) rfl ?_,
        fun hlast hlevel => does_of_lift (f := Reduce.hopAddition n6 g6 mism) rfl ?_,
        fun hlast hlevel => does_of_lift (f := Reduce.hopAddition n6 g6 mism) rfl ?_⟩
      · rw [if_pos hmore] at hbs
        rw [hrow]
        exact ⟨harr, hbs⟩
      · rw [if_neg (Nat.not_lt.2 hlast), if_pos hlevel] at hbs
        rw [hrow]
        exact ⟨harr, hbs⟩
      · rw [if_neg (Nat.not_lt.2 hlast), if_neg (Nat.not_lt.2 hlevel)] at hbs
        rw [hrow]
        exact ⟨harr, hbs⟩
    · have hrow := hrow fun h => absurd (h.symm.trans hgather) Bool.false_ne_true
      rw [hgather, if_pos rfl] at hrow
      obtain ⟨harr, hbs⟩ := m1.hopGather_blks b x hkind hclean (by rw [hgatherSpan]; exact hlen)
      rw [harrived] at harr
      rw [hblks, hring, hgatherSpan] at hbs
      refine ⟨fun hmore => does_of_lift (f := Reduce.hopAddition n6 g6 mism) rfl ?_,
        fun hlast hlevel => does_of_lift (f := Reduce.hopAddition n6 g6 mism) rfl ?_,
        fun hlast hlevel hresult => does_of_lift (f := Reduce.hopAddition n6 g6 mism) rfl ?_,
        fun hlast hlevel hresult => does_of_lift (f := Reduce.hopAddition n6 g6 mism) rfl ?_⟩
      · rw [if_pos hmore] at hbs
        rw [hrow]
        exact ⟨harr, hbs⟩
      · rw [if_neg (Nat.not_lt.2 hlast), if_neg hlevel] at hbs
        rw [hrow]
        exact ⟨harr, hbs⟩
      · rw [if_neg (Nat.not_lt.2 hlast), if_pos hlevel, if_neg hresult] at hbs
        rw [hrow]
        exact ⟨harr, hbs⟩
      · rw [if_neg (Nat.not_lt.2 hlast), if_pos hlevel, if_pos hresult] at hbs
        rw [hrow]
        exact ⟨harr, hbs⟩

end Sys2Proof.Machine


/-! Broadcast ingest: what two statements do not allow for. TIME has 64 bits and begins again at 0; the times at which a read was asked for
or a member became full are kept whole, and what is due after the wrap is found with TIME below it. -/
namespace Sys2Proof.Machine

/-- A module that is ready and takes ingest, 5 ns before TIME wraps. -/
def wrapping : Mach :=
  { Mach.reset with aux := { Mach.reset.aux with inLimits := true } }.wrs 0 [(.TICK_TIME, 2 ^ 64 - 5), (.MOD_STATUS_PWR_GOOD, 1),
    (.MOD_STATUS_READY, 1)]

/-- An item at a storage target, whose read was asked for now; no retry is left. -/
def lateItem : IngItem :=
  { addr := 0, len := 300, item := 1, srcId := 2, rkey := 6, inMs := 0, durMs := 0, target := 3, container := 3, es := 1, p := 0, k := 0,
    dest := 0, bytes := [], retries := 7, asked := some (2 ^ 64 - 5), failed := false, vEng := 0, aEng := 0, vRes := none, aRes := none,
    sent := false }

/-- The job's descriptor. -/
def lateDesc : Desc :=
  { ring := 0, idx := 0, sqHead := 1, ty := 6, fmt1 := false, noint := false, barrier := false, tag := 5, result := 0, body := [], bad := false,
    busy := true, seq := 0, sent := false, poisoned := false }

/-- A job with that item and the micro-batch `b`. -/
def lateJob (b : Option MbOut) : IngCur :=
  { Ingest.bare ⟨lateDesc, 4096⟩ (List.replicate 256 0) with items := [lateItem], mb := b }

def lateRead : State := { State.reset with m := { wrapping with ing := { wrapping.ing with cur := some (lateJob none) } } }

/-- Refutes O51: the acknowledge timeout of a read asked for 5 ns before TIME wraps ends with TIME at 3,999,995, below the read's own time. -/
theorem not_ingestJobs : ¬ Obligations.IngestJobs := by
  unfold Obligations.IngestJobs
  intro h
  obtain ⟨-, -, hfetch, -⟩ := h (lateJob none) lateItem 0 [] false 0 0 false (2 ^ 64 - 5) lateRead
  obtain ⟨-, -, -, -, htimeout⟩ := hfetch (by decide +kernel) rfl rfl (by decide +kernel) (by decide +kernel)
  obtain ⟨-, hlast⟩ := htimeout (by decide +kernel) rfl (by decide +kernel) (by decide +kernel)
  obtain ⟨t, ht, -, -, -, htime⟩ := hlast (by decide +kernel)
  obtain rfl := Host.Outcome.next.inj ht
  revert htime
  decide +kernel

/-- A micro-batch in its ring, with the part of group 0 that is still to send. -/
def latePart : McPart := ⟨0, 4352, 1, 3⟩
def lateBatch : MbOut := ⟨List.replicate 8 1, 0, some 0, [latePart]⟩

/-- End 2 of core 1, a member of group 0 that may be detached, has been full since now. -/
def lateFull : State :=
  { State.reset with
    m := let m := (wrapping.wrs 0 [(.ING_MC_POLICY, 2), (.ING_MC_RING_EN, 1), (.ING_MC_LAG_TIMEOUT, 1)]).wr .CHAN_BIND_KIND 18 3
      { m with ing := { m.ing with cur := some (lateJob (some lateBatch)), full := [(18, some (2 ^ 64 - 5))] } } }

/-- Refutes O53: a member that is full as TIME wraps is detached LAG_TIMEOUT later, with TIME below the time at which it became full. -/
theorem not_multicast : ¬ Obligations.Multicast := by
  unfold Obligations.Multicast
  intro h
  obtain ⟨-, hdetach, -⟩ := h 0 1 2 (lateJob (some lateBatch)) lateBatch latePart (2 ^ 64 - 5) lateFull (by decide +kernel)
  obtain ⟨t, ht, -, -, -, -, -, htime, -⟩ := hdetach rfl rfl rfl (by decide +kernel) (by decide +kernel) (by decide +kernel)
  obtain rfl := Host.Outcome.next.inj ht
  revert htime
  decide +kernel

end Sys2Proof.Machine

/-! Time over the links: what the statement does not allow for. Registers of a state may hold values above the width of their fields; a
TIME_LOCK of 2 reads as not set, and losing the lock then leaves it as it is. -/
namespace Sys2Proof.Machine

/-- Link 0 is UP and the tick generator runs; TIME_LOCK, a field of one bit, holds 2. -/
def wideLock : State :=
  { State.reset with
    m := let m := Mach.reset.wrs 0 [(.MOD_STATUS_PWR_GOOD, 1), (.FAB_LINK_STATE, 3), (.TICK_STATE_GEN_RUNNING, 1)]
      { m with regs := (Fld.TICK_STATE_TIME_LOCK.key 0, 2) :: m.regs } }

/-- A response of the time parent that measures 26 ns. -/
def farOff : SyncF := ⟨true, 26, 0, none, 0, 0⟩

/-- Refutes O50: the response lies further off than 25 ns, and TIME_LOCK keeps its 2 where the statement has 0. -/
theorem not_timeFrames : ¬ Obligations.TimeFrames := by
  unfold Obligations.TimeFrames
  intro h
  obtain ⟨-, hslew, -⟩ := h 0 farOff 0 0 0 none 0 wideLock (by decide +kernel) (by decide +kernel) (by decide +kernel) (by decide +kernel)
  obtain ⟨t, ht, -, -, -, hlost, -⟩ := hslew (fun _ hb => absurd hb nofun) rfl (Or.inr (by decide +kernel))
  obtain rfl := Host.Outcome.next.inj ht
  have hlock := hlost (by decide +kernel)
  revert hlock
  decide +kernel

end Sys2Proof.Machine

/-! DATA frames: the delivery of a frame puts frames out, and changes no link's next number (R345, R384). -/
namespace Sys2Proof.Machine

/-- From `m` to `m'` frames may have left; what each link expects next is as it was. -/
structure Mach.Puts (m m' : Mach) : Prop where
  rxSeq : m'.fab.rxSeq = m.fab.rxSeq
  out : m.fab.out ⊆ m'.fab.out

namespace Mach.Puts

variable {m m' m'' : Mach}

theorem refl (m : Mach) : m.Puts m := ⟨rfl, List.Subset.refl _⟩

theorem trans (h : m.Puts m') (h' : m'.Puts m'') : m.Puts m'' := ⟨h'.rxSeq.trans h.rxSeq, List.Subset.trans h.out h'.out⟩

theorem of_eq (hfab : m'.fab = m.fab) : m.Puts m' := ⟨congrArg Fab.rxSeq hfab, hfab ▸ List.Subset.refl _⟩

theorem of_sends (h : m.Sends m') : m.Puts m' := ⟨h.rxSeq, h.out⟩

theorem ite {c : Prop} [Decidable c] {a b : Mach} (ha : m.Puts a) (hb : m.Puts b) : m.Puts (if c then a else b) := by
  split
  · exact ha
  · exact hb

theorem foldl {α : Type} {f : Mach → α → Mach} (h : ∀ (m : Mach) a, m.Puts (f m a)) (l : List α) (m : Mach) : m.Puts (l.foldl f m) := by
  induction l generalizing m with
  | nil => exact .refl m
  | cons a l ih => exact (h m a).trans (ih _)

end Mach.Puts

theorem Mach.sends_onFab_sendLater (m : Mach) (g : Fab → Fab) (f : Frame) (hstanding : (g m.fab).standing = m.fab.standing)
    (hout : (g m.fab).out = m.fab.out) : m.Sends ((m.onFab g).sendLater f) :=
  (Mach.Sends.of_onFab hstanding hout).trans (Mach.sends_sendLater _ _)

theorem Mach.sends_memReply (m : Mach) (src core : Nat) (payload : List Byte) (poison : Bool) : m.Sends (m.memReply src core payload poison) :=
  m.sends_onFab_sendLater _ _ rfl rfl

theorem Mach.sends_memFault (m : Mach) (src core base total c a : Nat) : m.Sends (m.memFault src core base total c a) :=
  (m.sends_captureFault c a true 2).trans (Mach.sends_memReply _ _ _ _ _)

theorem Mach.sends_memWritten (m : Mach) (w : MemIn) : m.Sends (m.memWritten w) := by
  have hstored := m.stored_writeSide 2 w.base w.raw w.bytes
  unfold Mach.memWritten
  split
  · exact m.sends_memFault _ _ _ _ _ _
  · split
    case h_1 hwrite =>
      rw [hwrite] at hstored
      exact hstored.sends.trans (Mach.sends_memFault _ _ _ _ _ _ _)
    case h_2 hwrite =>
      rw [hwrite] at hstored
      exact hstored.sends.trans (Mach.sends_memReply _ _ _ _ _)

theorem Mach.sends_memPart (m : Mach) (f : Frame) (addr base total : Nat) (raw : Bool) (bs : List PByte) :
    m.Sends (m.memPart f addr base total raw bs) := by
  have hkept : ∀ l, m.Sends (m.onFab fun b => { b with memIn := l }) := fun l => .of_onFab rfl rfl
  exact .ite (hkept _) (.ite (hkept _) ((hkept _).trans (Mach.sends_memWritten _ _)))

theorem Mach.sends_loadAcked (m : Mach) (src base cause : Nat) : m.Sends (m.loadAcked src base cause) := by
  unfold Mach.loadAcked
  split
  · exact .refl m
  next w _ =>
    have herased : m.Sends (m.onFab fun b => { b with memOut := b.memOut.erase w }) := .of_onFab rfl rfl
    revert herased
    generalize (m.onFab fun b => { b with memOut := b.memOut.erase w }) = m1
    intro herased
    dsimp only
    split
    · exact herased
    next x _ =>
      have hended : m.Sends { m1 with acking := m1.acking.filter fun y => y.desc.seq != w.1 } := herased.trans (.of_eq rfl rfl)
      revert hended
      generalize { m1 with acking := m1.acking.filter fun y => y.desc.seq != w.1 } = m2
      intro hended
      refine .ite (hended.trans ?_) (.ite herased (hended.trans ?_))
      · exact .trans (.trans (.of_onFab rfl rfl) (Mach.sends_captureFault _ _ _ _ _)) (Mach.sends_complete _ _ _ _ _ _)
      · unfold Mach.loadDone
        refine .trans ?_ (Mach.sends_complete _ _ _ _ _ _)
        exact .of_eq rfl rfl

theorem Mach.sends_serveMem (m : Mach) (f : Frame) : m.Sends (m.serveMem f) := by
  unfold Mach.serveMem
  dsimp only
  refine .ite (.refl m) (.ite (m.sends_memPart _ _ _ _ _ _) (.ite ?_ (.ite (m.sends_loadAcked _ _ _) (.refl m))))
  split
  · exact m.sends_memFault _ _ _ _ _ _
  · exact (m.stores_readSide _ _).sends.trans (.foldl (fun m _ => m.sends_memReply _ _ _ _) _ _)

theorem Mach.sends_dropStale (m : Mach) (f : Frame) : m.Sends (m.dropStale f) := by
  unfold Mach.dropStale
  dsimp only
  have hdropped := m.sends_bump .CFG_STALE_DROPS 0 1
  revert hdropped
  generalize m.bump .CFG_STALE_DROPS 0 1 = m1
  intro hdropped
  have hcaptured : ∀ fs, m.Sends (if m1.on .CFG_STALE_CAPTURE_VALID 0 then m1 else m1.wrs 0 fs) :=
    fun fs => .ite hdropped (hdropped.trans (Mach.sends_wrs _ _ _))
  exact .ite ((hcaptured _).trans (Mach.sends_raise _ (by decide) _ _ _ _)) (hcaptured _)

theorem Mach.sends_deliver (m : Mach) (g c : Nat) (e : ChEnt) : m.Sends (m.deliver g c e) := by
  refine .trans ?_ (Mach.sends_ev _ _ _ _)
  exact .of_eq rfl rfl

theorem Mach.sends_forwardTo (m : Mach) (n g : Nat) (e : Ent) : m.Sends (m.forwardTo n g e) := by
  unfold Mach.forwardTo
  dsimp only
  exact .ite ((m.sends_bump ..).trans (Mach.sends_deliver _ _ _ _)) ((m.sends_bump ..).trans (Mach.sends_onFab_sendLater _ _ _ rfl rfl))

/-- Ingest's part: an item's bytes arrive. -/
theorem Mach.fab_ingArrive (m : Mach) (src : Nat) (payload : List Byte) : (m.ingArrive src payload).fab = m.fab := by
  have harrive : ∀ (m : Mach) it, (m.itemArrive it).fab = m.fab := by
    intro m it
    unfold Mach.itemArrive
    split
    · rfl
    · exact iteInduction (motive := fun m' : Mach => m'.fab = m.fab) (fun _ => rfl) fun _ => rfl
  unfold Mach.ingArrive
  dsimp only
  refine iteInduction (motive := fun m' : Mach => m'.fab = m.fab) (fun _ => rfl) fun _ => ?_
  exact iteInduction (motive := fun m' : Mach => m'.fab = m.fab) (fun _ => harrive _ _) fun _ => rfl

theorem Mach.puts_deliverFrame (m : Mach) (link : Nat) (f : Frame) : m.Puts (m.deliverFrame link f) := by
  have hback : ∀ {m1 : Mach}, m.Puts m1 → m.Puts (m1.returnCredit (link - 1) f.cls) := fun h => h.trans (.of_sends (Mach.sends_returnCredit _ _ _))
  unfold Mach.deliverFrame
  dsimp only
  refine .ite (hback (.refl m)) (.ite (hback (.of_eq (m.fab_ingArrive _ _))) (.ite (hback (.of_sends (m.sends_dropStale f))) ?_))
  split
  · split
    · exact hback (.of_sends (m.sends_forwardTo _ _ _))
    · exact .of_sends (m.sends_deliver _ _ _)
  · exact .of_eq rfl
  · exact hback (.of_sends (m.sends_serveMem f))

theorem Mach.puts_drainEarly (key n : Nat) (m : Mach) : m.Puts (m.drainEarly key n) := by
  induction n generalizing m with
  | zero => exact .refl m
  | succ n ih =>
    unfold Mach.drainEarly
    split
    · exact .refl m
    · exact .trans (.trans (.of_sends (.of_onFab rfl rfl)) (Mach.puts_deliverFrame _ _ _)) (ih _)

theorem Mach.puts_inFlow (m : Mach) (link : Nat) (f : Frame) : m.Puts (m.inFlow link f) := by
  unfold Mach.inFlow
  dsimp only
  have hcounted : m.Puts (m.onFab fun b => { b with flowRx := NMap.set nat0 b.flowRx (rxFlow f) ((f.flow + 1) % 2 ^ 32) }) :=
    .of_sends (.of_onFab rfl rfl)
  exact .ite ((hcounted.trans (Mach.puts_deliverFrame _ _ _)).trans (Mach.puts_drainEarly _ _ _))
    (.ite (.of_sends (.of_onFab rfl rfl)) (.of_sends (m.sends_returnCredit _ _)))

theorem Mach.puts_forwardFrame (m : Mach) (link : Nat) (f : Frame) : m.Puts (m.forwardFrame link f) := by
  unfold Mach.forwardFrame
  dsimp only
  split
  · exact .of_sends (m.sends_returnCredit _ _)
  · exact .ite (.of_sends ((m.sends_bump ..).trans (Mach.sends_returnCredit _ _ _)))
      (.of_sends (.trans (.of_onFab rfl rfl) (Mach.sends_flush _)))

end Sys2Proof.Machine

/-! Frames of a link (R343-R346, R348, R384, R508). -/
namespace Sys2Proof.Machine

/-- A control frame on a link that carries them acts once its header's credits are taken. -/
theorem Fabric.control_acts {k6 : BitVec 6} {m : Mach} (hk : k6.toNat < 36) (hup : m.mainUp = true) (hlit : m.linkLit k6.toNat = true)
    (cr : BitVec 32) (act : Nat → Mach → Mach) :
    Fabric.control k6 cr act m = act k6.toNat (m.headerCredit k6.toNat cr.toNat) := by
  unfold Fabric.control
  rw [if_neg]
  rw [hup, hlit]
  simp only [ge_iff_le, not_or, Nat.not_le, Bool.not_true, Bool.false_eq_true, not_false_eq_true, and_true]
  exact hk

/-- Where no frame waits for a link there is nothing to send. -/
theorem Mach.flush_of_wait_nil {m : Mach} (h : m.fab.wait = []) : m.flush = m := by
  have hnone : m.onFab (fun b => { b with wait := [] }) = m := by
    rw [Mach.onFab, ← h]
  have harbitrate : m.arbitrate [] = [] := if_pos (Nat.zero_le 1)
  unfold Mach.flush
  rw [h, harbitrate]
  exact hnone

/-! Credits change the fabric alone. -/

theorem Mach.addCredit_eq (m : Mach) (k c n : Nat) : m.addCredit k c n = { m with fab := (m.addCredit k c n).fab } := by
  have hsettled : ∀ m : Mach, m.settleNet k n = { m with fab := (m.settleNet k n).fab } := fun m =>
    Mach.foldl_eq_fab (f := fun m e => m.settle (e - 1)) (fun _ _ => rfl) _ _
  unfold Mach.addCredit
  dsimp only
  split
  · rw [hsettled]; rfl
  · rfl

theorem Mach.takeCredits_eq (m : Mach) (k cr : Nat) : m.takeCredits k cr = { m with fab := (m.takeCredits k cr).fab } := by
  unfold Mach.takeCredits
  split
  · exact Mach.foldl_eq_fab (fun m c => m.addCredit_eq k c _) _ m
  · rfl

theorem Mach.rd_takeCredits (m : Mach) (k cr : Nat) (f : Fld) (i : Nat) : (m.takeCredits k cr).rd f i = m.rd f i := by
  rw [Mach.takeCredits_eq]; rfl

/-- What the delivery in order goes by: the flows' next numbers, the frames that came early, and those that wait for a link. -/
def Mach.queues (m : Mach) : NMap Nat × List (Nat × Frame) × List Waiting := (m.fab.flowRx, m.fab.early, m.fab.wait)

theorem Mach.queues_takeOwed (m : Mach) (k : Nat) : (m.takeOwed k).2.queues = m.queues := by
  unfold Mach.takeOwed
  generalize [1, 2, 3, 4] = cs
  split <;> rfl

theorem Mach.queues_sendRaw (m : Mach) (k : Nat) (f : Frame) : (m.sendRaw k f).queues = m.queues := m.queues_takeOwed k

theorem Mach.queues_returnCredit (m : Mach) (l c : Nat) : (m.returnCredit l c).queues = m.queues := by
  unfold Mach.returnCredit
  dsimp only
  split
  · exact m.queues_sendRaw _ _
  · rfl

theorem Mach.queues_addCredit (m : Mach) (k c n : Nat) : (m.addCredit k c n).queues = m.queues := by
  have hsettled : ∀ m : Mach, (m.settleNet k n).queues = m.queues := fun m =>
    foldl_keep Mach.queues (fun m e => m.settle (e - 1)) (fun _ _ => rfl) _ _
  unfold Mach.addCredit
  dsimp only
  split
  · exact hsettled _
  · rfl

theorem Mach.queues_takeCredits (m : Mach) (k cr : Nat) : (m.takeCredits k cr).queues = m.queues := by
  unfold Mach.takeCredits
  split
  · exact foldl_keep Mach.queues (fun m c => m.addCredit k c (creditOf cr c)) (fun m c => m.queues_addCredit k c _) _ m
  · rfl

/-- What an end's credits are when some come back. -/
theorem Mach.credits_addCredit (m : Mach) (k c n : Nat) :
    (m.addCredit k c n).fab.credits = NMap.set nat0 m.fab.credits (credKey k c) (m.fab.credits.get nat0 (credKey k c) + n) := by
  have hsettled : ∀ m : Mach, (m.settleNet k n).fab.credits = m.fab.credits := fun m =>
    foldl_keep (fun m : Mach => m.fab.credits) (fun m e => m.settle (e - 1)) (fun _ _ => rfl) _ _
  unfold Mach.addCredit
  dsimp only
  split
  · exact hsettled _
  · rfl

theorem Mach.out_addCredit (m : Mach) (k c n : Nat) : (m.addCredit k c n).fab.out = m.fab.out := by
  have hsettled : ∀ m : Mach, (m.settleNet k n).fab.out = m.fab.out := fun m =>
    foldl_keep (fun m : Mach => m.fab.out) (fun m e => m.settle (e - 1)) (fun _ _ => rfl) _ _
  unfold Mach.addCredit
  dsimp only
  split
  · exact hsettled _
  · rfl

theorem Mach.rdLoss_headerCredit {f : Fld} (h : f.lossAside = false) (i : Nat) (m : Mach) (k cr : Nat) : (m.headerCredit k cr).rd f i = m.rd f i := by
  unfold Mach.headerCredit
  split
  · rfl
  · rw [Mach.rdLoss_flush h, Mach.rd_takeCredits]

theorem Mach.linkState_headerCredit (m : Mach) (k cr j : Nat) : (m.headerCredit k cr).linkState j = m.linkState j :=
  Mach.rdLoss_headerCredit rfl j m k cr

/-! Control frames that answer. -/

theorem Mach.out_takeOwed (m : Mach) (k : Nat) : (m.takeOwed k).2.fab.out = m.fab.out := by
  unfold Mach.takeOwed
  generalize [1, 2, 3, 4] = cs
  split <;> rfl

theorem Mach.out_sendRaw (m : Mach) (k : Nat) (f : Frame) : (m.sendRaw k f).fab.out = m.fab.out ++ [(k, m.stamped k f)] :=
  congrArg (· ++ [(k, m.stamped k f)]) (m.out_takeOwed k)

/-- A frame's header goes by the link's level and the credits that are owed. -/
theorem Mach.stamped_of_owed {m m' : Mach} {k : Nat} (hlevel : m'.rd .FAB_LINK_LEVEL k = m.rd .FAB_LINK_LEVEL k)
    (howed : m'.fab.owed = m.fab.owed) (f : Frame) : m'.stamped k f = m.stamped k f := by
  unfold Mach.stamped Mach.takeOwed
  rw [hlevel, howed]
  generalize [1, 2, 3, 4] = cs
  split <;> rfl

theorem Mach.ctlFrame_of_rd {m m' : Mach} (hgen : m'.rd .MOD_STATUS_GEN 0 = m.rd .MOD_STATUS_GEN 0) (hid : m'.myId = m.myId) (ty : Nat)
    (payload : List Byte) : m'.ctlFrame ty payload = m.ctlFrame ty payload := by
  unfold Mach.ctlFrame
  rw [hgen, hid]

/-- The answer ACK (2) or NAK (3) for sequence number `q`. -/
def Mach.seqFrame (m : Mach) (k ty q : Nat) : Frame := m.stamped k { m.ctlFrame ty [] with seq := q % 2 ^ 32 }

theorem Mach.seqFrame_of_owed {m m' : Mach} {k : Nat} (hlevel : m'.rd .FAB_LINK_LEVEL k = m.rd .FAB_LINK_LEVEL k)
    (hgen : m'.rd .MOD_STATUS_GEN 0 = m.rd .MOD_STATUS_GEN 0) (hid : m'.myId = m.myId) (howed : m'.fab.owed = m.fab.owed) (ty q : Nat) :
    m'.seqFrame k ty q = m.seqFrame k ty q := by
  rw [Mach.seqFrame, Mach.stamped_of_owed hlevel howed, Mach.ctlFrame_of_rd hgen hid]
  rfl

theorem Mach.out_sendSeqCtl (m : Mach) (k ty q : Nat) : (m.sendSeqCtl k ty q).fab.out = m.fab.out ++ [(k, m.seqFrame k ty q)] :=
  m.out_sendRaw k _

/-- A frame is answered, and nothing else comes of it. -/
def Mach.Answers (m : Mach) (k : Nat) (f : Frame) (m' : Mach) : Prop :=
  m'.fab.out = m.fab.out ++ [(k, f)] ∧ m'.fab.rxSeq = m.fab.rxSeq ∧ ∀ h, m'.core h = m.core h

theorem Mach.answers_sendSeqCtl (m : Mach) (k ty q : Nat) : m.Answers k (m.seqFrame k ty q) (m.sendSeqCtl k ty q) :=
  ⟨m.out_sendRaw k _, (m.sends_sendRaw k _).rxSeq, fun h => Mach.core_of_still (m.still_sendRaw k _) h⟩

/-! DATA. -/

namespace Fabric

/-- The frame is of a class of data and comes on a link that takes it. -/
structure Takes (m : Mach) (k : Nat) (f : HFrame) : Prop where
  cls : f.cls.toNat ≠ 0 ∧ f.cls.toNat ≤ 4
  lit : k < 36 ∧ m.mainUp = true ∧ m.linkLit k = true
  state : m.linkState k ≠ 2 ∧ m.linkState k ≠ 9
  port : m.on .FAB_LINK_IN_PORT k = true

theorem data_lit {k6 : BitVec 6} {f : HFrame} {m : Mach} (h : k6.toNat < 36 ∧ m.mainUp = true ∧ m.linkLit k6.toNat = true) (uncorr crcOk : Bool) :
    data k6 f 0 uncorr crcOk m =
      let m := if uncorr then m.bump .FAB_FEC_UNCORR k6.toNat 1 else m
      if uncorr || !crcOk || (frameOf f).cls == 0 || decide (4 < (frameOf f).cls) then m.sendSeqCtl k6.toNat 3 (m.fab.rxSeq.get nat0 k6.toNat)
      else if m.linkState k6.toNat = 9 then m.bump .FAB_SLICE_DROPS 0 1
      else if m.linkState k6.toNat = 2 ∨ !m.on .FAB_LINK_IN_PORT k6.toNat then m
      else
        let d := seqDiff (frameOf f).seq (m.fab.rxSeq.get nat0 k6.toNat)
        if d = 0 then (accepted k6.toNat (frameOf f) m).flush
        else if d < 2 ^ 31 then m.sendSeqCtl k6.toNat 3 (m.fab.rxSeq.get nat0 k6.toNat)
        else m.sendSeqCtl k6.toNat 2 (m.fab.rxSeq.get nat0 k6.toNat + 2 ^ 32 - 1) := by
  obtain ⟨hk, hup, hlit⟩ := h
  unfold data
  dsimp only
  rw [if_neg (by simp [hk, hup, hlit])]
  rfl

/-- A frame that arrives whole and is taken: by its distance from the number that is due. -/
theorem data_taken {k6 : BitVec 6} {f : HFrame} {m : Mach} (h : Takes m k6.toNat f) :
    data k6 f 0 false true m =
      let d := seqDiff f.seq.toNat (m.fab.rxSeq.get nat0 k6.toNat)
      if d = 0 then (accepted k6.toNat (frameOf f) m).flush
      else if d < 2 ^ 31 then m.sendSeqCtl k6.toNat 3 (m.fab.rxSeq.get nat0 k6.toNat)
      else m.sendSeqCtl k6.toNat 2 (m.fab.rxSeq.get nat0 k6.toNat + 2 ^ 32 - 1) := by
  have hcls : ((frameOf f).cls == 0 || decide (4 < (frameOf f).cls)) = false := by
    have h0 : ((frameOf f).cls == 0) = false := beq_eq_false_iff_ne.mpr h.cls.1
    rw [h0, Bool.false_or, decide_eq_false_iff_not, Nat.not_lt]
    exact h.cls.2
  rw [data_lit h.lit, if_neg Bool.false_ne_true, Bool.or_assoc, hcls]
  dsimp only
  rw [if_neg (by decide), if_neg h.state.2, if_neg (by simp [h.state.1, h.port])]
  rfl

/-- The frame is acknowledged, its credits are taken, and it is counted. -/
def acknowledged (k : Nat) (f : Frame) (m : Mach) : Mach :=
  (((m.onFab fun b => { b with rxSeq := NMap.set nat0 b.rxSeq k ((f.seq + 1) % 2 ^ 32) }).sendSeqCtl k 2 f.seq).takeCredits k f.credit).hev 0
    (0x10 + f.cls) 1

theorem accepted_eq (k : Nat) (f : Frame) (m : Mach) :
    accepted k f m = let m1 := acknowledged k f m; if f.dMod ≠ m1.myId then m1.forwardFrame (k + 1) f else m1.inFlow (k + 1) f := rfl

theorem acknowledged_eq (k : Nat) (f : Frame) (m : Mach) :
    acknowledged k f m = { m with regs := (acknowledged k f m).regs, fab := (acknowledged k f m).fab } := by
  unfold acknowledged
  rw [Mach.hev_eq, Mach.takeCredits_eq, Mach.sendSeqCtl, Mach.sendRaw_eq]
  rfl

theorem rd_acknowledged {f : Fld} (h : f.aside = false) (i k : Nat) (fr : Frame) (m : Mach) : (acknowledged k fr m).rd f i = m.rd f i := by
  unfold acknowledged
  rw [Mach.rdAside_hev h, Mach.rd_takeCredits, Mach.sendSeqCtl, Mach.rd_sendRaw]
  rfl

theorem queues_acknowledged (k : Nat) (f : Frame) (m : Mach) : (acknowledged k f m).queues = m.queues := by
  unfold acknowledged
  rw [Mach.hev_eq]
  exact (Mach.queues_takeCredits _ _ _).trans (Mach.queues_sendRaw _ _ _)

/-- What the acceptance of a frame puts out first: its ACK; the number after it is due then. -/
theorem acknowledged_answers (k : Nat) (f : Frame) (m : Mach) :
    (acknowledged k f m).fab.rxSeq.get nat0 k = (f.seq + 1) % 2 ^ 32 ∧ (k, m.seqFrame k 2 f.seq) ∈ (acknowledged k f m).fab.out := by
  have hsends := (Mach.sends_takeCredits ((m.onFab fun b => { b with rxSeq := NMap.set nat0 b.rxSeq k ((f.seq + 1) % 2 ^ 32) }).sendSeqCtl k 2 f.seq) k
    f.credit).trans (Mach.sends_hev _ 0 (0x10 + f.cls) 1)
  refine ⟨?_, hsends.out ?_⟩
  · rw [acknowledged, hsends.rxSeq, Mach.sendSeqCtl, (Mach.sends_sendRaw _ _ _).rxSeq]
    exact NMap.get_set_self _ _ _
  · have hframe := Mach.seqFrame_of_owed (m := m) (m' := m.onFab fun b => { b with rxSeq := NMap.set nat0 b.rxSeq k ((f.seq + 1) % 2 ^ 32) })
      (k := k) rfl rfl rfl rfl 2 f.seq
    rw [Mach.out_sendSeqCtl]
    exact List.mem_append_right _ (List.mem_singleton.mpr (congrArg (Prod.mk k) hframe.symm))

theorem puts_accepted (k : Nat) (f : Frame) (m : Mach) : (acknowledged k f m).Puts (accepted k f m).flush := by
  rw [accepted_eq]
  exact (Mach.Puts.ite (Mach.puts_forwardFrame _ _ _) (Mach.puts_inFlow _ _ _)).trans (.of_sends (Mach.sends_flush _))

end Fabric

/-! Delivery in the order of the flow. -/

theorem seqDiff_self {a : Nat} (hlt : a < 2 ^ 32) : seqDiff a a = 0 := by
  rw [seqDiff, Nat.mod_eq_of_lt hlt, Nat.add_sub_cancel_left, Nat.mod_self]

/-- A frame that its flow expects is delivered; nothing came early. -/
theorem Mach.inFlow_due {m m1 : Mach} {link : Nat} {f : Frame} (hlt : f.flow < 2 ^ 32) (hflow : f.flow = m.fab.flowRx.get nat0 (rxFlow f))
    (hm1 : m1 = (m.onFab fun b => { b with flowRx := NMap.set nat0 b.flowRx (rxFlow f) ((f.flow + 1) % 2 ^ 32) }).deliverFrame link f)
    (hearly : m1.fab.early = []) : m.inFlow link f = m1 := by
  unfold Mach.inFlow
  dsimp only
  rw [← hflow, seqDiff_self hlt, if_pos rfl, ← hm1, hearly]
  rfl

theorem Mach.deliverFrame_ingest {m : Mach} {f : Frame} (hcls : f.cls = 4) (hdp : m.aux.dpEnd = none) (link : Nat) :
    m.deliverFrame link f = (m.ingArrive f.sMod f.payload).returnCredit (link - 1) f.cls := by
  unfold Mach.deliverFrame
  rw [hdp]
  exact (if_neg (by simp)).trans (if_pos hcls)

theorem Mach.deliverFrame_net {m : Mach} {f : Frame} (hcls : f.cls = 1) (hdp : m.aux.dpEnd = none) (hgen : m.genClass f.gen = 0) (link : Nat) :
    m.deliverFrame link f = m.deliver f.dCore f.dEnd ⟨entOf f.payload f.poison, 0, link, false, false⟩ := by
  unfold Mach.deliverFrame
  dsimp only
  rw [hdp, hgen, hcls, if_neg (by simp), if_neg (by decide), if_neg (by decide), if_neg (by decide)]
  rfl

theorem Mach.core_deliver (m : Mach) (g c : Nat) (e : ChEnt) (h : Nat) :
    (m.deliver g c e).core h = if h = g then (m.core g).setChan c ((m.core g).chan c ++ [e]) else m.core h :=
  (Mach.core_ev _ _ _ _ _).trans (Mach.core_onCore _ _ _ _)

theorem Mach.fab_deliver (m : Mach) (g c : Nat) (e : ChEnt) : (m.deliver g c e).fab = m.fab := by
  unfold Mach.deliver
  rw [Mach.ev_eq]
  rfl

section
variable {m : Mach} {c : IngCur} {src : Nat} {payload bs : List Byte} (hcur : m.ing.cur = some c)
  (hbs : bs = (if fieldAt payload 0 8 = 0 then m.ing.coming.get (fun _ => []) src else []) ++ payload.drop 8)
  (hopen : ¬(fieldAt payload 0 8 = 0 ∧ m.ing.coming.get (fun _ => []) src = []))
include hcur hbs hopen

/-- The last bytes of an item bring it to the current job, whose window takes it. -/
theorem Mach.ingArrive_whole (hlen : fieldAt bs 0 8 ≤ bs.length) (howns : c.owns (ShufItem.ofBytes bs) = true)
    (hholds : c.holds (m.rd .ING_CFG_SHUF_WINDOW 0) (ShufItem.ofBytes bs).k = true) :
    (m.ingArrive src payload).ing.cur = some (c.take (ShufItem.ofBytes bs)) ∧ (m.ingArrive src payload).ing.coming.get (fun _ => []) src = [] := by
  have harrive : ∀ m1 : Mach, m1.ing.cur = some c → m1.regs = m.regs →
      (m1.itemArrive (ShufItem.ofBytes bs)).ing = { m1.ing with cur := some (c.take (ShufItem.ofBytes bs)) } := by
    intro m1 hcur1 hregs
    have hwindow : m1.rd .ING_CFG_SHUF_WINDOW 0 = m.rd .ING_CFG_SHUF_WINDOW 0 := by rw [Mach.rd, hregs]; rfl
    unfold Mach.itemArrive
    rw [hcur1, Option.filter_some, if_pos howns]
    dsimp only
    rw [hwindow, if_pos hholds]
  unfold Mach.ingArrive
  dsimp only
  rw [if_neg hopen, ← hbs, if_pos hlen]
  have hing := harrive { m with ing := { m.ing with coming := NMap.set (fun _ => []) m.ing.coming src [] } } hcur rfl
  have hself : NMap.get (fun _ => []) (NMap.set (fun _ => []) m.ing.coming src []) src = ([] : List Byte) := NMap.get_set_self _ _ _
  exact ⟨congrArg Ing.cur hing, (congrArg (fun i : Ing => i.coming.get (fun _ => []) src) hing).trans hself⟩

/-- Bytes of an item before its last are kept. -/
theorem Mach.ingArrive_part (hlen : bs.length < fieldAt bs 0 8) :
    (m.ingArrive src payload).ing.cur = some c ∧ (m.ingArrive src payload).ing.coming.get (fun _ => []) src = bs := by
  unfold Mach.ingArrive
  dsimp only
  rw [if_neg hopen, ← hbs, if_neg (Nat.not_le.mpr hlen)]
  exact ⟨hcur, NMap.get_set_self _ _ _⟩

end

end Sys2Proof.Machine

/-! The frames of a link as `Obligations.LinkFrames` states them. -/
namespace Sys2Proof.Machine

namespace Fabric

/-- From `m` to `m'` a frame has been acknowledged and counted, before its delivery. -/
structure Readied (m m' : Mach) : Prop where
  core : ∀ g, m'.core g = m.core g
  aux : m'.aux = m.aux
  ing : m'.ing = m.ing
  early : m'.fab.early = m.fab.early
  genClass : ∀ g, m'.genClass g = m.genClass g
  window : m'.rd .ING_CFG_SHUF_WINDOW 0 = m.rd .ING_CFG_SHUF_WINDOW 0

section
variable {m : Mach} {f : HFrame} (hmine : f.dMod.toNat = m.myId) (hdp : m.aux.dpEnd = none) (hearly : m.fab.early = [])
  (hflow : f.flow.toNat = m.fab.flowRx.get nat0 (flowKey f.sCore.toNat f.sMod.toNat f.cls.toNat)) (k : Nat)
include hmine hflow

/-- A frame for this module that its flow expects is delivered once it is acknowledged. -/
theorem accepted_due : ∃ m2, Readied m m2 ∧
    ∀ m3, m2.deliverFrame (k + 1) (frameOf f) = m3 → m3.fab.early = [] → accepted k (frameOf f) m = m3 := by
  have hqueues := queues_acknowledged k (frameOf f) m
  have hrd : ∀ g i, Fld.aside g = false → (acknowledged k (frameOf f) m).rd g i = m.rd g i := fun g i hg => rd_acknowledged hg i k _ m
  have hrest := acknowledged_eq k (frameOf f) m
  rw [accepted_eq]
  revert hqueues hrd hrest
  generalize acknowledged k (frameOf f) m = m1
  intro hqueues hrd hrest
  have hflow1 : m1.fab.flowRx = m.fab.flowRx := congrArg Prod.fst hqueues
  have hgen1 : ∀ g, m1.genClass g = m.genClass g := fun g => by
    rw [Mach.genClass, hrd _ _ rfl, show m1.liveGens = m.liveGens by rw [hrest]]
    rfl
  refine ⟨m1.onFab fun b => { b with flowRx := NMap.set nat0 b.flowRx (rxFlow (frameOf f)) (((frameOf f).flow + 1) % 2 ^ 32) },
    ⟨fun g => ?_, ?_, ?_, ?_, fun g => ?_, ?_⟩, fun m3 hdeliver hearly3 => ?_⟩
  · rw [hrest]; rfl
  · rw [hrest]; rfl
  · rw [hrest]; rfl
  · exact congrArg (fun q : NMap Nat × List (Nat × Frame) × List Waiting => q.2.1) hqueues
  · exact hgen1 g
  · exact hrd _ _ rfl
  · dsimp only
    rw [if_neg (fun hother => hother (hmine.trans (hrd _ _ rfl).symm))]
    exact Mach.inFlow_due (f := frameOf f) f.flow.isLt (by rw [hflow1]; exact hflow) hdeliver.symm hearly3

include hdp hearly

/-- R348, R384: a NET entry that is due enters its end. -/
theorem core_accepted_net (hcls : f.cls = 1) (hgen : m.genClass f.gen.toNat = 0) (h : Nat) :
    ((accepted k (frameOf f) m).flush).core h = if h = f.dCore.toNat then (m.core f.dCore.toNat).setChan f.dEnd.toNat
      ((m.core f.dCore.toNat).chan f.dEnd.toNat ++ [⟨entOf f.payload f.poison, 0, k + 1, false, false⟩]) else m.core h := by
  obtain ⟨m2, hready, haccept⟩ := accepted_due hmine hflow k
  have hdeliver := Mach.deliverFrame_net (m := m2) (f := frameOf f) (congrArg BitVec.toNat hcls) ((congrArg Aux.dpEnd hready.aux).trans hdp)
    ((hready.genClass _).trans hgen) (k + 1)
  rw [haccept _ hdeliver ((congrArg Fab.early (Mach.fab_deliver _ _ _ _)).trans (hready.early.trans hearly)), Mach.core_of_still (Mach.still_flush _),
    Mach.core_deliver, hready.core, hready.core]
  rfl

/-- R298: an ingest frame that is due brings its bytes to ingest. -/
theorem ing_accepted_ingest (hcls : f.cls = 4) : ∃ m2, Readied m m2 ∧
    ((accepted k (frameOf f) m).flush).ing = (m2.ingArrive f.sMod.toNat f.payload).ing := by
  obtain ⟨m2, hready, haccept⟩ := accepted_due hmine hflow k
  have hdeliver := Mach.deliverFrame_ingest (m := m2) (f := frameOf f) (congrArg BitVec.toNat hcls) ((congrArg Aux.dpEnd hready.aux).trans hdp) (k + 1)
  have hearly2 := (congrArg (fun q : NMap Nat × List (Nat × Frame) × List Waiting => q.2.1)
    (Mach.queues_returnCredit (m2.ingArrive f.sMod.toNat f.payload) (k + 1 - 1) f.cls.toNat)).trans
      ((congrArg Fab.early (m2.fab_ingArrive _ _)).trans (hready.early.trans hearly))
  rw [haccept _ hdeliver hearly2]
  exact ⟨m2, hready, (Mach.sends_flush _).ing.trans (Mach.sends_returnCredit _ _ _).ing⟩

end

/-- R298: the frame's part of an item: kept, or as its last part brought to the current job. -/
theorem ing_accepted {m : Mach} {f : HFrame} (hmine : f.dMod.toNat = m.myId) (hdp : m.aux.dpEnd = none) (hearly : m.fab.early = [])
    (hflow : f.flow.toNat = m.fab.flowRx.get nat0 (flowKey f.sCore.toNat f.sMod.toNat f.cls.toNat)) (hcls : f.cls = 4) {c : IngCur}
    (hcur : m.ing.cur = some c) {bs : List Byte}
    (hbs : bs = (if fieldAt f.payload 0 8 = 0 then m.ing.coming.get (fun _ => []) f.sMod.toNat else []) ++ f.payload.drop 8)
    (hopen : ¬(fieldAt f.payload 0 8 = 0 ∧ m.ing.coming.get (fun _ => []) f.sMod.toNat = [])) (k : Nat) :
    let m' := (accepted k (frameOf f) m).flush
    (fieldAt bs 0 8 ≤ bs.length → c.owns (ShufItem.ofBytes bs) = true →
      c.holds (m.rd .ING_CFG_SHUF_WINDOW 0) (ShufItem.ofBytes bs).k = true →
      m'.ing.cur = some (c.take (ShufItem.ofBytes bs)) ∧ m'.ing.coming.get (fun _ => []) f.sMod.toNat = []) ∧
    (bs.length < fieldAt bs 0 8 → m'.ing.cur = some c ∧ m'.ing.coming.get (fun _ => []) f.sMod.toNat = bs) := by
  obtain ⟨m2, hready, hing⟩ := ing_accepted_ingest hmine hdp hearly hflow k hcls
  dsimp only
  rw [hing]
  rw [← hready.ing] at hcur hbs hopen
  rw [← hready.window]
  exact ⟨Mach.ingArrive_whole hcur hbs hopen, Mach.ingArrive_part hcur hbs hopen⟩

/-! Control frames. -/

/-- The frames that SEQ does not acknowledge yet, each sent once more. -/
def resends (us : List Unacked) (sq : Nat) : List Unacked :=
  (us.filter fun u => decide (seqDiff u.frame.seq sq < 2 ^ 31)).map fun u => ⟨u.frame, u.resent + 1⟩

/-- A link that carries frames is neither DOWN nor FAILED. -/
theorem linkState_of_lit {m : Mach} {k : Nat} (hlit : m.linkLit k = true) : m.linkState k ≠ 0 ∧ m.linkState k ≠ 10 := by
  unfold Mach.linkLit at hlit
  simp only [Bool.or_eq_true, beq_iff_eq] at hlit
  omega

section
variable {k6 : BitVec 6} {m : Mach} (hk : k6.toNat < 36) (hup : m.mainUp = true) (hlit : m.linkLit k6.toNat = true) (sq cr : BitVec 32)
  {m0 : Mach} (hm0 : m0 = m.headerCredit k6.toNat cr.toNat)
include hk hup hlit hm0

/-- R345: ACK frees the frames up to its number. -/
theorem ack_frees (hwait : m0.fab.wait = [])
    (hany : (m0.fab.unacked.get (fun _ => []) k6.toNat).any (fun u => u.frame.seq == sq.toNat) = true) :
    ack k6 sq cr m = m0.onFab fun b => { b with
      unacked := NMap.set (fun _ => []) b.unacked k6.toNat ((m0.fab.unacked.get (fun _ => []) k6.toNat).filter fun u =>
        decide (u.frame.seq ≠ sq.toNat ∧ seqDiff u.frame.seq sq.toNat < 2 ^ 31)) } := by
  unfold ack
  rw [control_acts hk hup hlit, ← hm0, if_pos hany]
  exact Mach.flush_of_wait_nil hwait

/-- R345: NAK sends what it does not acknowledge again; the eighth time the link fails. -/
theorem nak_resends : ∃ m1 : Mach,
    m1.fab.unacked = NMap.set (fun _ => []) m0.fab.unacked k6.toNat (resends (m0.fab.unacked.get (fun _ => []) k6.toNat) sq.toNat) ∧
    m1.fab.out = m0.fab.out ++ (resends (m0.fab.unacked.get (fun _ => []) k6.toNat) sq.toNat).map (fun u => (k6.toNat, u.frame)) ∧
    m1.linkState k6.toNat = m.linkState k6.toNat ∧
    nak k6 sq cr m = if (resends (m0.fab.unacked.get (fun _ => []) k6.toNat) sq.toNat).any (fun u => decide (8 ≤ u.resent)) then m1.linkFailed k6.toNat
      else m1 := by
  have hstate : m0.linkState k6.toNat = m.linkState k6.toNat := hm0 ▸ m.linkState_headerCredit _ _ _
  obtain ⟨m1, hm1⟩ : ∃ m1, m1 = (m0.onFab fun b => { b with
    unacked := NMap.set (fun _ => []) b.unacked k6.toNat (resends (m0.fab.unacked.get (fun _ => []) k6.toNat) sq.toNat)
    out := b.out ++ (resends (m0.fab.unacked.get (fun _ => []) k6.toNat) sq.toNat).map fun u => (k6.toNat, u.frame) }).bump .FAB_RETRY k6.toNat
      (resends (m0.fab.unacked.get (fun _ => []) k6.toNat) sq.toNat).length := ⟨_, rfl⟩
  refine ⟨m1, ?_, ?_, ?_, ?_⟩
  · rw [hm1, Mach.bump_eq]; rfl
  · rw [hm1, Mach.bump_eq]; rfl
  · rw [← hstate, hm1]
    exact Mach.rd_bump_ne _ _ _ _ (by simp)
  · unfold nak
    rw [control_acts hk hup hlit, ← hm0, hm1]
    rfl

end

end Fabric

/-- Settles O46: a DATA frame is acknowledged before its delivery, which puts frames out and changes no link's next number; control frames
act once their header's credits are taken. -/
theorem linkFrames : Obligations.LinkFrames := by
  unfold Obligations.LinkFrames
  intro k6 f sq cr c3 n payload s k m0 due seqFrame us again hk hup hlit
  refine ⟨fun hcls1 hcls4 h2 h9 hport => ?_, fun unc => ?_, fun hwait hany => ?_, fun hfew => ?_, fun hmany => ?_, fun hlevel hc1 hc4 hwait => ?_,
    fun hstate hlevel htest => ?_, ?_⟩
  · have htakes : Fabric.Takes s.m k6.toNat f := ⟨⟨Nat.pos_iff_ne_zero.mp hcls1, hcls4⟩, ⟨hk, hup, hlit⟩, ⟨h2, h9⟩, hport⟩
    have hdata := Fabric.data_taken htakes
    refine ⟨fun hdue => ?_, fun hahead hnear => ?_, fun hbehind => ?_⟩
    · have hzero : seqDiff f.seq.toNat (s.m.fab.rxSeq.get nat0 k6.toNat) = 0 := by
        rw [← show f.seq.toNat = s.m.fab.rxSeq.get nat0 k6.toNat from hdue]
        exact seqDiff_self f.seq.isLt
      rw [hzero] at hdata
      dsimp only at hdata
      rw [if_pos rfl] at hdata
      refine ⟨does_of_lift (f := Fabric.data k6 f 0 false true) rfl ?_, fun hmine hdp hearly hflow => ⟨fun hcls hgen hcredit hwait => ?_,
        fun c hcls hcur => ?_⟩⟩
      · rw [hdata]
        obtain ⟨hnext, hack⟩ := Fabric.acknowledged_answers k6.toNat (Fabric.frameOf f) s.m
        have hputs := Fabric.puts_accepted k6.toNat (Fabric.frameOf f) s.m
        exact ⟨hputs.rxSeq ▸ hnext, hputs.out hack⟩
      · refine does_of_lift (f := Fabric.data k6 f 0 false true) rfl ?_
        have hcore := Fabric.core_accepted_net hmine hdp hearly hflow k6.toNat hcls hgen
        rw [hdata]
        refine ⟨?_, fun h hother => (hcore h).trans (if_neg hother)⟩
        rw [hcore, if_pos rfl]
        exact NMap.get_set_self _ _ _
      · intro old bs it hopen
        have harrives := Fabric.ing_accepted hmine hdp hearly hflow hcls hcur (bs := bs) rfl hopen k6.toNat
        refine ⟨fun hlen howns hholds => does_of_lift (f := Fabric.data k6 f 0 false true) rfl ?_,
          fun hlen => does_of_lift (f := Fabric.data k6 f 0 false true) rfl ?_⟩
        · rw [hdata]
          exact harrives.1 hlen howns hholds
        · rw [hdata]
          exact harrives.2 hlen
    · refine does_of_lift (f := Fabric.data k6 f 0 false true) rfl ?_
      dsimp only at hdata
      rw [hdata, if_neg (Nat.pos_iff_ne_zero.mp hahead), if_pos hnear]
      exact s.m.answers_sendSeqCtl _ _ _
    · refine does_of_lift (f := Fabric.data k6 f 0 false true) rfl ?_
      dsimp only at hdata
      rw [hdata, if_neg (Nat.pos_iff_ne_zero.mp (Nat.lt_of_lt_of_le (by decide) hbehind)), if_neg (Nat.not_lt.mpr hbehind)]
      exact s.m.answers_sendSeqCtl _ _ _
  · refine does_of_lift (f := Fabric.data k6 f 0 unc false) rfl ?_
    obtain ⟨m1, hm1⟩ : ∃ m1, m1 = if unc then s.m.bump .FAB_FEC_UNCORR k6.toNat 1 else s.m := ⟨_, rfl⟩
    have hfab : m1.fab = s.m.fab := by
      rw [hm1]
      cases unc
      · rfl
      · exact (congrArg Mach.fab (Mach.bump_eq ..) :)
    have hrd : ∀ g i, g ≠ .FAB_FEC_UNCORR → m1.rd g i = s.m.rd g i := by
      intro g i hg
      rw [hm1]
      cases unc
      · rfl
      · exact Mach.rd_bump_ne _ _ _ _ fun heq => hg heq.1
    rw [Fabric.data_lit ⟨hk, hup, hlit⟩, ← hm1]
    dsimp only
    rw [if_pos (by simp), Mach.out_sendSeqCtl, Mach.sendSeqCtl, (Mach.sends_sendRaw _ _ _).rxSeq, hfab,
      Mach.seqFrame_of_owed (hrd _ _ (by decide)) (hrd _ _ (by decide)) (hrd _ _ (by decide)) (congrArg Fab.owed hfab)]
    exact ⟨rfl, rfl⟩
  · refine does_of_lift (f := Fabric.ack k6 sq cr) rfl ?_
    rw [Fabric.ack_frees hk hup hlit sq cr (m0 := m0) rfl hwait hany]
    exact ⟨NMap.get_set_self _ _ _, fun j hj => NMap.get_set_ne _ _ hj, rfl⟩
  · obtain ⟨m1, hunacked, hout, -, hnak⟩ := Fabric.nak_resends hk hup hlit sq cr (m0 := m0) rfl
    refine does_of_lift (f := Fabric.nak k6 sq cr) rfl ?_
    rw [hnak.trans (if_neg (Bool.eq_false_iff.mp hfew))]
    exact ⟨by rw [hunacked]; exact NMap.get_set_self _ _ _, hout⟩
  · obtain ⟨m1, -, -, hstate, hnak⟩ := Fabric.nak_resends hk hup hlit sq cr (m0 := m0) rfl
    refine does_of_lift (f := Fabric.nak k6 sq cr) rfl ?_
    rw [hnak.trans (if_pos hmany)]
    exact (Mach.rdLoss_linkFailed rfl _ m1 k6.toNat).trans (if_pos ⟨rfl, rfl, hstate ▸ (Fabric.linkState_of_lit hlit).1⟩)
  · refine does_of_lift (f := Fabric.credit k6 c3 n) rfl ?_
    have hcredit : Fabric.credit k6 c3 n s.m = (s.m.addCredit k6.toNat c3.toNat n.toNat).flush := by
      unfold Fabric.credit
      dsimp only
      rw [if_neg]
      rintro (h | h | h | h | h | h)
      · exact Nat.not_le.mpr hk h
      · rw [hup] at h; exact absurd h (by decide)
      · rw [hlit] at h; exact absurd h (by decide)
      · exact h hlevel
      · exact Nat.pos_iff_ne_zero.mp hc1 h
      · exact Nat.not_lt.mpr hc4 h
    have hwait1 : (s.m.addCredit k6.toNat c3.toNat n.toNat).fab.wait = [] :=
      (congrArg (fun q : NMap Nat × List (Nat × Frame) × List Waiting => q.2.2) (Mach.queues_addCredit _ _ _ _)).trans hwait
    rw [hcredit, Mach.flush_of_wait_nil hwait1, Mach.credits_addCredit, Mach.out_addCredit]
    exact ⟨NMap.get_set_self _ _ _, rfl⟩
  · refine does_of_lift (f := Fabric.probe k6 payload cr) rfl ?_
    unfold Fabric.probe
    rw [Fabric.control_acts hk hup hlit, if_neg (by rw [htest, hstate, hlevel]; simp)]
    exact ⟨Mach.out_sendRaw _ _ _, fun f i => Mach.rd_sendRaw _ _ _ _ _⟩
  · refine does_of_lift (f := Fabric.idle k6 cr) rfl ?_
    unfold Fabric.idle
    rw [Fabric.control_acts hk hup hlit]

end Sys2Proof.Machine

/-! Links that go down or come up: the registers of a link, and what the traffic that follows leaves (R363-R371). -/
namespace Sys2Proof.Machine

/-- From `m` to `m'` frames may have left and faults been raised: registers besides theirs and the fabric's two counts of lost paths, memory
and cores stand. -/
structure Mach.Moves (m m' : Mach) : Prop where
  rd : ∀ f i, f.aside = false → f ≠ .FAB_UNREACHABLE_DROPS → f ≠ .FAB_DETOURS → m'.rd f i = m.rd f i
  still : m'.still = m.still
  sends : m.Sends m'

namespace Mach.Moves

variable {m m' m'' : Mach}

theorem refl (m : Mach) : m.Moves m := ⟨fun _ _ _ _ _ => rfl, rfl, .refl m⟩

theorem trans (h : m.Moves m') (h' : m'.Moves m'') : m.Moves m'' :=
  ⟨fun f i ha hd hp => (h'.rd f i ha hd hp).trans (h.rd f i ha hd hp), h'.still.trans h.still, h.sends.trans h'.sends⟩

theorem ite {c : Prop} [Decidable c] {a b : Mach} (ha : m.Moves a) (hb : m.Moves b) : m.Moves (if c then a else b) := by
  split
  · exact ha
  · exact hb

theorem foldl {α : Type} {f : Mach → α → Mach} (h : ∀ (m : Mach) a, m.Moves (f m a)) (l : List α) (m : Mach) : m.Moves (l.foldl f m) := by
  induction l generalizing m with
  | nil => exact .refl m
  | cons a l ih => exact (h m a).trans (ih _)

theorem linkState (h : m.Moves m') (j : Nat) : m'.linkState j = m.linkState j := h.rd .FAB_LINK_STATE j rfl (by decide) (by decide)

theorem byteAt (h : m.Moves m') (a : Nat) : m'.byteAt a = m.byteAt a := Mach.byteAt_of_still h.still a

end Mach.Moves

theorem Mach.moves_raise (m : Mach) {code : Nat} (hcode : faultClass code ≠ 4) (sub src a0 a1 : Nat) : m.Moves (m.raise code sub src a0 a1) :=
  ⟨fun _ _ ha _ _ => Mach.rdAside_raise ha _ _ _ _ _ _ _, m.still_raise .., m.sends_raise hcode _ _ _ _⟩

theorem Mach.moves_trace (m : Mach) (src ty : Nat) (p : List Byte) : m.Moves (m.trace src ty p) :=
  ⟨fun _ _ ha _ _ => Mach.rdAside_trace ha _ _ _ _ _, m.still_trace .., m.sends_trace ..⟩

theorem Mach.moves_sendRaw (m : Mach) (k : Nat) (f : Frame) : m.Moves (m.sendRaw k f) :=
  ⟨fun _ _ _ _ _ => m.rd_sendRaw .., m.still_sendRaw .., m.sends_sendRaw ..⟩

theorem Mach.moves_returnCredit (m : Mach) (l c : Nat) : m.Moves (m.returnCredit l c) :=
  ⟨fun _ _ _ _ _ => m.rd_returnCredit .., m.still_returnCredit .., m.sends_returnCredit ..⟩

theorem Mach.moves_settle (m : Mach) (k : Nat) : m.Moves (m.settle k) := ⟨fun _ _ _ _ _ => rfl, rfl, m.sends_settle k⟩

theorem Mach.moves_dropUnreachable (m : Mach) (cls src dest : Nat) : m.Moves (m.dropUnreachable cls src dest) := by
  have hcounted : m.Moves (m.bump .FAB_UNREACHABLE_DROPS 0 1) :=
    ⟨fun _ _ _ hd _ => Mach.rd_bump_ne _ _ _ _ fun heq => hd heq.1, m.still_bump .., m.sends_bump ..⟩
  exact .ite (hcounted.trans (Mach.moves_raise _ (by decide) _ _ _ _)) hcounted

theorem Mach.moves_sendOn (m : Mach) (k : Nat) (f : Frame) : m.Moves (m.sendOn k f) :=
  ⟨fun g i ha _ _ => by
    unfold Mach.sendOn
    dsimp only
    rw [Mach.rdAside_hev ha, Mach.rd_onFab, Mach.rd_takeOwed], m.still_sendOn .., m.sends_sendOn ..⟩

theorem Mach.moves_tryWaiting (m : Mach) (w : Waiting) : m.Moves (m.tryWaiting w) := by
  have hback : ∀ m : Mach, m.Moves (if w.link = 0 then m else m.returnCredit (w.link - 1) w.frame.cls) :=
    fun m => .ite (.refl m) (m.moves_returnCredit _ _)
  have hqueued : ∀ g : Fab → Fab, (g m.fab).standing = m.fab.standing → (g m.fab).out = m.fab.out → m.Moves (m.onFab g) :=
    fun g hs ho => ⟨fun _ _ _ _ _ => rfl, rfl, .of_onFab hs ho⟩
  unfold Mach.tryWaiting
  dsimp only
  split
  · have hdropped := (m.moves_dropUnreachable w.frame.cls w.frame.sMod w.frame.dMod).trans (hback _)
    exact .ite hdropped (hdropped.trans (Mach.moves_settle _ _))
  · split
    · exact hqueued _ rfl rfl
    · exact ((hqueued _ rfl rfl).trans (Mach.moves_sendOn _ _ _)).trans (hback _)

theorem Mach.moves_flush (m : Mach) : m.Moves m.flush :=
  Mach.Moves.trans (m' := m.onFab fun b => { b with wait := [] }) ⟨fun _ _ _ _ _ => rfl, rfl, .of_onFab rfl rfl⟩
    (.foldl Mach.moves_tryWaiting _ _)

theorem Mach.moves_headerCredit (m : Mach) (k cr : Nat) : m.Moves (m.headerCredit k cr) := by
  have htaken : m.Moves (m.takeCredits k cr) := by
    refine ⟨fun _ _ _ _ _ => m.rd_takeCredits .., ?_, m.sends_takeCredits ..⟩
    rw [Mach.takeCredits_eq]
    rfl
  exact .ite (.refl m) (htaken.trans (Mach.moves_flush _))

theorem Mach.moves_portLost (m : Mach) (d p : Nat) : m.Moves (m.portLost d p) := by
  have hcounted : m.Moves (m.bump .FAB_DETOURS 0 1) :=
    ⟨fun _ _ _ _ hp => Mach.rd_bump_ne _ _ _ _ fun heq => hp heq.1, m.still_bump .., m.sends_bump ..⟩
  exact .ite (.refl m) (.ite (hcounted.trans (Mach.moves_raise _ (by decide) _ _ _ _)) (.refl m))

theorem Mach.still_reclaim (m : Mach) (k : Nat) (heir : Option Nat) : (m.reclaim k heir).still = m.still := by
  unfold Mach.reclaim
  cases heir with
  | some j => rfl
  | none => exact foldl_keep Mach.still (fun m e => m.settle (e - 1)) (fun _ _ => rfl) _ m

theorem Mach.moves_reclaim (m : Mach) (k : Nat) (heir : Option Nat) : m.Moves (m.reclaim k heir) :=
  ⟨fun _ _ _ _ _ => m.rd_reclaim .., m.still_reclaim k heir, m.sends_reclaim k heir⟩

/-! A link's registers. -/

theorem Mach.rd_wrs_congr {m m' : Mach} {f : Fld} {i : Nat} (h : m'.rd f i = m.rd f i) (k : Nat) (fs : List (Fld × Nat)) :
    (m'.wrs k fs).rd f i = (m.wrs k fs).rd f i := by
  induction fs generalizing m m' with
  | nil => exact h
  | cons fv fs ih =>
    rw [Mach.wrs_cons, Mach.wrs_cons]
    exact ih (by rw [Mach.rd_wr, Mach.rd_wr, h])

/-- What a link shows of its state. -/
def linkFields (st reason : Nat) : List (Fld × Nat) := [(.FAB_LINK_STATE, st), (.FAB_LINK_REASON, reason)]

theorem Mach.rd_setLink {f : Fld} (h : f.aside = false) (i : Nat) (m : Mach) (k st reason : Nat) :
    (m.setLink k st reason).rd f i = (m.wrs k (linkFields st reason)).rd f i := by
  unfold Mach.setLink
  dsimp only
  split
  · rw [Mach.rdAside_trace h]; rfl
  · rfl

/-- What a link that leaves its port shows of itself (R363). -/
def downFields (st reason : Nat) : List (Fld × Nat) :=
  linkFields st reason ++ [(.FAB_LINK_LEVEL, 0), (.FAB_LINK_IN_PORT, 0), (.FAB_LINK_PORT, 7), (.FAB_LINK_READY, 0), (.FAB_LINK_COLL_MISMATCH, 0)]

section
variable {f : Fld} (h : f.aside = false) (hdrops : f ≠ .FAB_UNREACHABLE_DROPS) (hdetours : f ≠ .FAB_DETOURS) (i : Nat)
include h hdrops hdetours

theorem Mach.rd_linkDown (m : Mach) (k st reason : Nat) : (m.linkDown k st reason).rd f i = (m.wrs k (downFields st reason)).rd f i := by
  have hlost : ∀ (m : Mach) (c : Bool) d p, (if c then m.portLost d p else m).rd f i = m.rd f i := fun m c d p =>
    (Mach.Moves.ite (m.moves_portLost d p) (.refl m)).rd f i h hdrops hdetours
  unfold Mach.linkDown
  dsimp only
  rw [(Mach.moves_flush _).rd f i h hdrops hdetours, hlost, Mach.rd_reclaim, Mach.rd_wrs_congr (Mach.rd_setLink h i m k st reason)]
  rfl

end

theorem Mach.still_linkDown (m : Mach) (k st reason : Nat) : (m.linkDown k st reason).still = m.still := by
  have hlost : ∀ (m : Mach) (c : Bool) d p, (if c then m.portLost d p else m).still = m.still := fun m c d p =>
    (Mach.Moves.ite (m.moves_portLost d p) (.refl m)).still
  unfold Mach.linkDown
  dsimp only
  rw [Mach.still_flush, hlost, Mach.still_reclaim, Mach.still_wrs, Mach.still_setLink]

theorem Mach.still_linkFailed (m : Mach) (k : Nat) : (m.linkFailed k).still = m.still := by
  unfold Mach.linkFailed
  split
  · rfl
  · rw [Mach.still_linkDown, Mach.still_raise, Mach.still_bump]

end Sys2Proof.Machine

/-! What links come to (R342, R350, R352, R363, R367-R371). -/
namespace Sys2Proof.Machine

/-! The state of each link. -/

theorem Mach.linkState_linkDown (m : Mach) (k reason : Nat) {st : Nat} (hst : st < 2 ^ 4) (j : Nat) :
    (m.linkDown k st reason).linkState j = if j = k then st else m.linkState j := by
  rw [Mach.linkState, Mach.rdLoss_linkDown rfl, Nat.mod_eq_of_lt hst]
  exact ite_congr_of_iff (and_iff_right rfl) rfl rfl

theorem Mach.linkState_setLink (m : Mach) (k reason : Nat) {st : Nat} (hst : st < 2 ^ 4) (j : Nat) :
    (m.setLink k st reason).linkState j = if j = k then st else m.linkState j := by
  rw [Mach.linkState, Mach.rdLoss_setLink rfl, Nat.mod_eq_of_lt hst]
  exact ite_congr_of_iff (and_iff_right rfl) rfl rfl

theorem Mach.linkState_linkFailed (m : Mach) (k j : Nat) :
    (m.linkFailed k).linkState j = if j = k ∧ m.linkState j ≠ 0 then 10 else m.linkState j := by
  rw [Mach.linkState, Mach.rdLoss_linkFailed rfl]
  exact ite_congr_of_iff (and_iff_right rfl) rfl rfl

theorem Mach.linkState_foldl_linkDown (ks : List Nat) (reason : Nat) {st : Nat} (hst : st < 2 ^ 4) (m : Mach) (j : Nat) :
    (ks.foldl (fun m k => m.linkDown k st reason) m).linkState j = if j ∈ ks then st else m.linkState j := by
  induction ks generalizing m with
  | nil => simp
  | cons k ks ih =>
    rw [List.foldl_cons, ih, Mach.linkState_linkDown m k reason hst]
    by_cases hin : j ∈ ks
    · simp [hin]
    · simp [hin]

/-- A failed link is in no port. -/
theorem Mach.rd_linkFailed_port (m : Mach) {k : Nat} (hup : m.linkState k ≠ 0 ∧ m.linkState k ≠ 10) :
    (m.linkFailed k).rd .FAB_LINK_IN_PORT k = 0 ∧ (m.linkFailed k).rd .FAB_LINK_PORT k = 7 ∧ (m.linkFailed k).rd .FAB_LINK_LEVEL k = 0 := by
  unfold Mach.linkFailed
  rw [if_neg (by omega)]
  generalize (m.bump .FAB_LINK_FAILS 0 1).raise 0x43 0 srcHub 0 k = m1
  rw [Mach.rd_linkDown rfl (by decide) (by decide), Mach.rd_linkDown rfl (by decide) (by decide), Mach.rd_linkDown rfl (by decide) (by decide)]
  unfold downFields linkFields
  simp only [List.cons_append, List.nil_append, Mach.wrs_cons, Mach.wrs_nil, Mach.rd_wr, reduceCtorEq, false_and, if_false, and_self, if_true]
  exact ⟨rfl, rfl, rfl⟩

/-! Control frames that go out. -/

theorem Mach.takeOwed_form (m : Mach) (k : Nat) : ∃ owed, (m.takeOwed k).2 = { m with fab := { m.fab with owed := owed } } ∧
    ∀ j c, j ≠ k → c ≤ 4 → owed.get nat0 (credKey j c) = m.fab.owed.get nat0 (credKey j c) := by
  unfold Mach.takeOwed
  split
  · refine ⟨_, rfl, fun j c hj hc => ?_⟩
    have hkey : ∀ c', c' ≤ 4 → credKey j c ≠ credKey k c' := fun c' hc' => by unfold credKey; omega
    simp only [List.foldl_cons, List.foldl_nil]
    rw [NMap.get_set_ne _ _ (hkey 4 (by decide)), NMap.get_set_ne _ _ (hkey 3 (by decide)), NMap.get_set_ne _ _ (hkey 2 (by decide)),
      NMap.get_set_ne _ _ (hkey 1 (by decide))]
  · exact ⟨m.fab.owed, rfl, fun _ _ _ _ => rfl⟩

theorem Mach.sendRaw_form (m : Mach) (k : Nat) (f : Frame) : ∃ owed,
    m.sendRaw k f = { m with fab := { m.fab with owed := owed, out := m.fab.out ++ [(k, m.stamped k f)] } } ∧
    ∀ j c, j ≠ k → c ≤ 4 → owed.get nat0 (credKey j c) = m.fab.owed.get nat0 (credKey j c) := by
  obtain ⟨owed, htaken, hothers⟩ := m.takeOwed_form k
  refine ⟨owed, ?_, hothers⟩
  unfold Mach.sendRaw
  rw [htaken]
  rfl

/-- Another link's header is as it was. -/
theorem Mach.stamped_sendRaw_of_ne (m : Mach) {k j : Nat} (hj : j ≠ k) (f g : Frame) : (m.sendRaw k f).stamped j g = m.stamped j g := by
  obtain ⟨owed, hsent, hothers⟩ := m.sendRaw_form k f
  have hlevel : (m.sendRaw k f).rd .FAB_LINK_LEVEL j = m.rd .FAB_LINK_LEVEL j := m.rd_sendRaw ..
  have howed : (m.sendRaw k f).fab.owed = owed := by rw [hsent]
  have hclasses : ∀ c ∈ ([1, 2, 3, 4] : List Nat), c ≤ 4 := by decide
  have hcount : ([1, 2, 3, 4] : List Nat).foldl (fun v c => v + min 255 (owed.get nat0 (credKey j c)) * 256 ^ (c - 1)) 0 =
      ([1, 2, 3, 4] : List Nat).foldl (fun v c => v + min 255 (m.fab.owed.get nat0 (credKey j c)) * 256 ^ (c - 1)) 0 :=
    foldl_congr_of_mem _ _ fun v c hc => by rw [hothers j c hj (hclasses c hc)]
  unfold Mach.stamped Mach.takeOwed
  rw [hlevel, howed, hcount]
  generalize [1, 2, 3, 4] = cs
  split <;> rfl

/-- A control frame on each of some links. -/
theorem Mach.out_foldl_sendCtl {ks : List Nat} (hnodup : ks.Nodup) (ty : Nat) (payload : List Byte) (m : Mach) :
    (ks.foldl (fun m k => m.sendCtl k ty payload) m).fab.out = m.fab.out ++ ks.map fun j => (j, m.stamped j (m.ctlFrame ty payload)) := by
  induction ks generalizing m with
  | nil => simp
  | cons k ks ih =>
    obtain ⟨hk, hnodup⟩ := List.nodup_cons.mp hnodup
    have hctl : (m.sendCtl k ty payload).ctlFrame ty payload = m.ctlFrame ty payload :=
      Mach.ctlFrame_of_rd (m.rd_sendRaw ..) (m.rd_sendRaw ..) ty payload
    rw [List.foldl_cons, ih hnodup, hctl, Mach.sendCtl, Mach.out_sendRaw, List.map_cons, List.append_assoc, List.singleton_append]
    refine congrArg (m.fab.out ++ (k, m.stamped k (m.ctlFrame ty payload)) :: ·) (List.map_congr_left fun j hj => ?_)
    have hne : j ≠ k := fun heq => hk (heq ▸ hj)
    rw [Mach.stamped_sendRaw_of_ne m hne]

theorem Mach.sendCtl_form (m : Mach) (k ty : Nat) (payload : List Byte) : ∃ owed x, x.ty = ty ∧
    m.sendCtl k ty payload = { m with fab := { m.fab with owed := owed, out := m.fab.out ++ [(k, x)] } } := by
  obtain ⟨owed, hsent, -⟩ := m.sendRaw_form k (m.ctlFrame ty payload)
  exact ⟨owed, _, rfl, hsent⟩

/-- From `m` to `m'` an IDENT has gone out on link `k` (R352). -/
def Mach.IdentSent (m : Mach) (k : Nat) (m' : Mach) : Prop :=
  ∃ free nonce owed x, x.ty = 0x10 ∧ m' =
    { m with
      free := free
      fab := { m.fab with
        nonce := nonce, identAt := NMap.set nat0 m.fab.identAt k m.time, owed := owed, out := m.fab.out ++ [(k, x)] } }

theorem Mach.sendIdent_sent (m : Mach) (k : Nat) : m.IdentSent k (m.sendIdent k) := by
  have hsent : ∀ (free : Nat) (nonce : NMap Nat) (payload : List Byte),
      let m1 : Mach := { m with free := free, fab := { m.fab with nonce := nonce } }
      m.IdentSent k (((m1.onFab fun b => { b with identAt := NMap.set nat0 b.identAt k m1.time }).freshMany 12).2.sendCtl k 0x10 payload) := by
    intro free nonce payload m1
    obtain ⟨owed, x, hty, hsent⟩ := Mach.sendCtl_form ((m1.onFab fun b => { b with identAt := NMap.set nat0 b.identAt k m1.time }).freshMany 12).2 k 0x10
      payload
    exact ⟨free + 12, nonce, owed, x, hty, hsent⟩
  unfold Mach.sendIdent
  dsimp only
  split
  · exact hsent m.free m.fab.nonce _
  · exact hsent _ _ _

theorem Mach.IdentSent.regs {m m' : Mach} {k : Nat} (h : m.IdentSent k m') : m'.regs = m.regs := by
  obtain ⟨_, _, _, _, _, rfl⟩ := h
  rfl

theorem Mach.IdentSent.mem {m m' : Mach} {k : Nat} (h : m.IdentSent k m') : m'.mem = m.mem := by
  obtain ⟨_, _, _, _, _, rfl⟩ := h
  rfl

/-! Training. -/

/-- What a link that has trained counts from then (R350). -/
structure Mach.Counts (m : Mach) (k net red mem ing : Nat) : Prop where
  net : m.fab.credits.get nat0 (credKey k 1) = net
  red : m.fab.credits.get nat0 (credKey k 2) = red
  mem : m.fab.credits.get nat0 (credKey k 3) = mem
  ing : m.fab.credits.get nat0 (credKey k 4) = ing
  txSeq : m.fab.txSeq.get nat0 k = 0
  rxSeq : m.fab.rxSeq.get nat0 k = 0

theorem get_setMany_credits (t : NMap Nat) (k a b c d : Nat) :
    let t' := NMap.setMany nat0 t [(credKey k 1, a), (credKey k 2, b), (credKey k 3, c), (credKey k 4, d)]
    t'.get nat0 (credKey k 1) = a ∧ t'.get nat0 (credKey k 2) = b ∧ t'.get nat0 (credKey k 3) = c ∧ t'.get nat0 (credKey k 4) = d := by
  simp [NMap.setMany, NMap.get_set, credKey]

/-- A link that passes training begins its identity exchange with the credits that its peer gives. -/
theorem Disc.linkTrained_trains {k6 : BitVec 6} {m : Mach} (hk : k6.toNat < 36) (hup : m.mainUp = true)
    (hstate : m.linkState k6.toNat = 1 ∨ m.linkState k6.toNat = 10) (net red mem ing : BitVec 16) :
    (Disc.linkTrained k6 net red mem ing m).regs =
      ((m.setLink k6.toNat 2 0).wr .FAB_LINK_READY k6.toNat (b2n (m.fab.firstTrain.get nat0 k6.toNat != 0))).regs ∧
    (Disc.linkTrained k6 net red mem ing m).mem = m.mem ∧
    (Disc.linkTrained k6 net red mem ing m).Counts k6.toNat net.toNat red.toNat mem.toNat ing.toNat := by
  have hfirst : (!(m.fab.firstTrain.get nat0 k6.toNat == 0)) = (m.fab.firstTrain.get nat0 k6.toNat != 0) := rfl
  have hmem : ((m.setLink k6.toNat 2 0).wr .FAB_LINK_READY k6.toNat (b2n (m.fab.firstTrain.get nat0 k6.toNat != 0))).mem = m.mem :=
    congrArg Still.mem (m.still_setLink k6.toNat 2 0)
  have hsent : ∀ (m2 : Mach) payload, let m3 := (m2.sendCtl k6.toNat 0x11 payload).sendIdent k6.toNat
      m3.regs = m2.regs ∧ m3.mem = m2.mem ∧ m3.fab.credits = m2.fab.credits ∧ m3.fab.txSeq = m2.fab.txSeq ∧ m3.fab.rxSeq = m2.fab.rxSeq := by
    intro m2 payload
    obtain ⟨owed, x, -, hcert⟩ := m2.sendCtl_form k6.toNat 0x11 payload
    obtain ⟨_, _, _, _, -, hident⟩ := (m2.sendCtl k6.toNat 0x11 payload).sendIdent_sent k6.toNat
    dsimp only
    rw [hident, hcert]
    exact ⟨rfl, rfl, rfl, rfl, rfl⟩
  unfold Disc.linkTrained
  dsimp only
  rw [if_neg (by rcases hstate with h | h <;> simp [h, hup, hk]), hfirst]
  revert hmem
  generalize (m.setLink k6.toNat 2 0).wr .FAB_LINK_READY k6.toNat (b2n (m.fab.firstTrain.get nat0 k6.toNat != 0)) = m1
  intro hmem
  obtain ⟨hregs, hmem2, hcredits, htx, hrx⟩ := hsent _ _
  obtain ⟨h1, h2, h3, h4⟩ := get_setMany_credits m1.fab.credits k6.toNat net.toNat red.toNat mem.toNat ing.toNat
  refine ⟨hregs, hmem2.trans hmem, ⟨?_, ?_, ?_, ?_, ?_, ?_⟩⟩
  · exact (congrArg (fun t => NMap.get nat0 t (credKey k6.toNat 1)) hcredits).trans h1
  · exact (congrArg (fun t => NMap.get nat0 t (credKey k6.toNat 2)) hcredits).trans h2
  · exact (congrArg (fun t => NMap.get nat0 t (credKey k6.toNat 3)) hcredits).trans h3
  · exact (congrArg (fun t => NMap.get nat0 t (credKey k6.toNat 4)) hcredits).trans h4
  · exact (congrArg (fun t => NMap.get nat0 t k6.toNat) htx).trans (NMap.get_set_self (d := nat0) m1.fab.txSeq k6.toNat 0)
  · exact (congrArg (fun t => NMap.get nat0 t k6.toNat) hrx).trans (NMap.get_set_self (d := nat0) m1.fab.rxSeq k6.toNat 0)

end Sys2Proof.Machine

/-! The states of links as `Obligations.LinkStates` gives them. -/
namespace Sys2Proof.Machine

/-- The links have come to the states `st`; memory stands. -/
def Mach.LinksAt (m : Mach) (st : Nat → Nat) (m' : Mach) : Prop := (∀ j, m'.linkState j = st j) ∧ ∀ a, m'.byteAt a = m.byteAt a

/-- What follows a change of links without touching them. -/
theorem Mach.LinksAt.moves {m m1 m2 : Mach} {st : Nat → Nat} (h : m.LinksAt st m1) (hmoves : m1.Moves m2) : m.LinksAt st m2 :=
  ⟨fun j => (hmoves.linkState j).trans (h.1 j), fun a => (hmoves.byteAt a).trans (h.2 a)⟩

/-- Link `k` alone has come to `st`. -/
theorem Mach.linksAt_of_still {m m' : Mach} {k st : Nat} (hstates : ∀ j, m'.linkState j = if j = k then st else m.linkState j)
    (hstill : m'.still = m.still) : m.LinksAt (fun j => if j = k then st else m.linkState j) m' :=
  ⟨hstates, fun a => Mach.byteAt_of_still hstill a⟩

theorem Mach.linksAt_setLink (m : Mach) (k reason : Nat) {st : Nat} (hst : st < 2 ^ 4) :
    m.LinksAt (fun j => if j = k then st else m.linkState j) (m.setLink k st reason) :=
  Mach.linksAt_of_still (m.linkState_setLink k reason hst) (m.still_setLink k st reason)

theorem Mach.linksAt_linkFailed (m : Mach) {k : Nat} (hup : m.linkState k ≠ 0) :
    m.LinksAt (fun j => if j = k then 10 else m.linkState j) (m.linkFailed k) := by
  refine Mach.linksAt_of_still (fun j => (m.linkState_linkFailed k j).trans (ite_congr_of_iff ?_ rfl rfl)) (m.still_linkFailed k)
  exact and_iff_left_of_imp fun heq => heq ▸ hup

namespace Fabric

theorem goodbye_gone {k6 : BitVec 6} {m : Mach} (hk : k6.toNat < 36) (hup : m.mainUp = true) (hlit : m.linkLit k6.toNat = true) (cr : BitVec 32) :
    m.LinksAt (fun j => if j = k6.toNat then 7 else m.linkState j) (goodbye k6 cr m) := by
  have hcredit := m.moves_headerCredit k6.toNat cr.toNat
  unfold goodbye
  rw [control_acts hk hup hlit]
  refine Mach.linksAt_of_still (fun j => ?_) ((Mach.still_linkDown _ _ _ _).trans hcredit.still)
  rw [Mach.linkState_linkDown _ _ _ (by decide), hcredit.linkState]

theorem dpreset_marks {k6 : BitVec 6} {m : Mach} (hk : k6.toNat < 36) (hup : m.mainUp = true) (hstate : m.linkState k6.toNat = 3) (cr : BitVec 32) :
    m.LinksAt (fun j => if j = k6.toNat then 8 else m.linkState j) (dpreset k6 cr m) := by
  have hcredit := m.moves_headerCredit k6.toNat cr.toNat
  have hlit : m.linkLit k6.toNat = true := by unfold Mach.linkLit; rw [hstate]; rfl
  unfold dpreset
  rw [control_acts hk hup hlit, if_neg (not_not_intro ((hcredit.linkState _).trans hstate))]
  refine Mach.LinksAt.moves (Mach.linksAt_of_still (fun j => ?_) ((Mach.still_setLink _ _ _ _).trans hcredit.still))
    ((Mach.moves_raise _ (by decide) _ _ _ _).trans (Mach.moves_flush _))
  rw [Mach.linkState_setLink _ _ _ (by decide), hcredit.linkState]

theorem peerDpResetEnd_clears {k6 : BitVec 6} {m : Mach} (hk : k6.toNat < 36) (hup : m.mainUp = true) (hstate : m.linkState k6.toNat = 8) :
    m.LinksAt (fun j => if j = k6.toNat then 3 else m.linkState j) (peerDpResetEnd k6 m) := by
  unfold peerDpResetEnd
  dsimp only
  rw [if_neg (by simp [hk, hup, hstate])]
  exact (m.linksAt_setLink _ _ (by decide)).moves (Mach.moves_flush _)

/-- R363: the spare takes a first bad carrier's place. -/
theorem carrierDegraded_spares {k6 : BitVec 6} {c : BitVec 5} {m : Mach} (hk : k6.toNat < 36) (hup : m.mainUp = true)
    (hlit : m.linkLit k6.toNat = true) (hc : c.toNat < 16) (hspare : m.rd .FAB_LINK_SPARED k6.toNat = 31) :
    (carrierDegraded k6 c m).rd .FAB_LINK_SPARED k6.toNat = c.toNat ∧ (∀ j, (carrierDegraded k6 c m).linkState j = m.linkState j) ∧
      ∀ j, j ≠ k6.toNat → (carrierDegraded k6 c m).rd .FAB_LINK_SPARED j = m.rd .FAB_LINK_SPARED j := by
  have hrd : ∀ f i, f.lossAside = false → f ≠ .FAB_CARRIER_SPARES →
      (carrierDegraded k6 c m).rd f i = if f = .FAB_LINK_SPARED ∧ i = k6.toNat then c.toNat % 2 ^ Fld.width .FAB_LINK_SPARED else m.rd f i := by
    intro f i hf hne
    unfold carrierDegraded
    dsimp only
    rw [if_neg (by rw [hup, hlit]; simp; omega), if_neg (not_not_intro hspare), if_neg (by omega), Mach.rdLoss_raise hf,
      Mach.rd_bump_ne _ _ _ _ (fun heq => hne heq.1), Mach.rd_wr]
  refine ⟨?_, fun j => hrd _ j rfl (by decide), fun j hj => (hrd _ j rfl (by decide)).trans (if_neg fun heq => hj heq.2)⟩
  rw [hrd _ _ rfl (by decide), if_pos ⟨rfl, rfl⟩]
  exact Nat.mod_eq_of_lt (Nat.lt_of_lt_of_le hc (by decide))

/-- R363: a second bad carrier fails the link. -/
theorem carrierDegraded_fails {k6 : BitVec 6} {c : BitVec 5} {m : Mach} (hk : k6.toNat < 36) (hup : m.mainUp = true)
    (hlit : m.linkLit k6.toNat = true) (hc : c.toNat < 16) (hspare : m.rd .FAB_LINK_SPARED k6.toNat ≠ 31)
    (hother : m.rd .FAB_LINK_SPARED k6.toNat ≠ c.toNat) : carrierDegraded k6 c m = m.linkFailed k6.toNat := by
  unfold carrierDegraded
  dsimp only
  rw [if_neg (by rw [hup, hlit]; simp; omega), if_pos hspare, if_neg hother]

/-- R367, R368: links lose their light, but those that are DOWN, held or GONE. -/
theorem lossOfLight_absent {d3 : BitVec 3} {m : Mach} (hd : d3.toNat < 6) (hup : m.mainUp = true) :
    m.LinksAt (fun j => if j ∈ dirLinks d3.toNat ∧ m.linkState j ≠ 0 ∧ m.linkState j ≠ 4 ∧ m.linkState j ≠ 5 ∧ m.linkState j ≠ 7 then 6
      else m.linkState j) (lossOfLight d3 m) := by
  unfold lossOfLight
  rw [if_neg (by rw [hup]; simp; exact hd)]
  refine ⟨fun j => ?_, fun a => Mach.byteAt_of_still (foldl_keep Mach.still _ (fun m k => m.still_linkDown k 6 0) _ m) a⟩
  rw [Mach.linkState_foldl_linkDown _ _ (by decide)]
  refine ite_congr_of_iff ?_ rfl rfl
  rw [List.mem_filter]
  simp only [Bool.and_eq_true, bne_iff_ne, and_assoc]

/-- R371: links whose peer's light returns train again. -/
theorem peerLightReturn_trains {d3 : BitVec 3} {m : Mach} (hd : d3.toNat < 6) (hup : m.mainUp = true) :
    m.LinksAt (fun j => if j ∈ dirLinks d3.toNat ∧ (m.linkState j = 6 ∨ m.linkState j = 7) then 1 else m.linkState j) (peerLightReturn d3 m) := by
  unfold peerLightReturn
  rw [if_neg (by rw [hup]; simp; exact hd)]
  refine ⟨fun j => ?_, fun a => Mach.byteAt_of_still (foldl_keep Mach.still _ (fun m k => m.still_setLink k 1 0) _ m) a⟩
  rw [Mach.linkState, Mach.rdLoss_foldl_setLink rfl]
  refine ite_congr_of_iff ?_ rfl rfl
  rw [List.mem_filter, and_iff_right rfl]
  simp only [Bool.or_eq_true, beq_iff_eq]

/-- R369: DPRESET on every UP link as its time comes. -/
theorem dpresetTimer_sends {m : Mach} {e : Nat} (hdp : m.aux.dpEnd = some e) {t : Nat}
    (ht : t = e - 10000 * ((e - m.time - 1) / 10000)) (hdue : m.time < t ∧ t < e) :
    (dpresetTimer m).fab.out = m.fab.out ++ ((List.range 36).filter m.linkUp).map (fun j => (j, m.stamped j (m.ctlFrame 0x31 []))) ∧
      ∀ a, (dpresetTimer m).byteAt a = m.byteAt a := by
  have hlasts := m.lasts_advanceTo t
  unfold dpresetTimer
  rw [hdp]
  dsimp only
  rw [← ht, if_pos hdue]
  revert hlasts
  generalize m.advanceTo t = m1
  intro hlasts
  have hlinks : (List.range 36).filter m1.linkUp = (List.range 36).filter m.linkUp :=
    List.filter_congr fun j _ => by rw [Mach.linkUp, Mach.linkState, hlasts.rd _ _ rfl rfl]; rfl
  refine ⟨?_, fun a => ?_⟩
  · rw [Mach.sendCtlAll, Mach.out_foldl_sendCtl (List.nodup_range.filter _), hlinks, hlasts.fab]
    refine congrArg (m.fab.out ++ ·) (List.map_congr_left fun j _ => ?_)
    rw [Mach.stamped_of_owed (hlasts.rd _ _ rfl rfl) (congrArg Fab.owed hlasts.fab), Mach.ctlFrame_of_rd (hlasts.rd _ _ rfl rfl) (hlasts.rd _ _ rfl rfl)]
  · have hmem : (m1.sendCtlAll 0x31 []).mem = m.mem := by rw [Mach.sendCtlAll_eq]; exact hlasts.mem
    rw [Mach.byteAt, hmem]
    rfl

end Fabric

/-- Settles O47: each event's effect on the links' states; the traffic that follows leaves them and memory. -/
theorem linkStates : Obligations.LinkStates := by
  unfold Obligations.LinkStates
  intro k6 d3 c5 net red mem ing cr s hup k gives one
  refine ⟨fun hk => ⟨fun hlit => does_of_lift (f := Fabric.goodbye k6 cr) rfl (Fabric.goodbye_gone hk hup hlit cr),
    fun hstate => does_of_lift (f := Fabric.dpreset k6 cr) rfl (Fabric.dpreset_marks hk hup hstate cr),
    fun hstate => does_of_lift (f := Fabric.peerDpResetEnd k6) rfl (Fabric.peerDpResetEnd_clears hk hup hstate),
    fun hstate => ?_, fun hlit hc => ⟨fun hspare => does_of_lift (f := Fabric.carrierDegraded k6 c5) rfl
      (Fabric.carrierDegraded_spares hk hup hlit hc hspare), fun hspare hother => ?_⟩, fun hstate => ?_⟩, fun hd => ?_, fun e hdp => ?_⟩
  · have hfail : Fabric.linkFail k6 s.m = s.m.linkFailed k6.toNat := if_neg (by rw [hup]; simp; exact hk)
    refine ⟨does_of_lift (f := Fabric.linkFail k6) rfl ?_, fun hnot => does_of_lift (f := Fabric.linkFail k6) rfl ?_⟩
    · rw [hfail]
      exact s.m.linksAt_linkFailed hstate
    · rw [hfail]
      exact s.m.rd_linkFailed_port ⟨hstate, hnot⟩
  · refine does_of_lift (f := Fabric.carrierDegraded k6 c5) rfl ?_
    rw [Fabric.carrierDegraded_fails hk hup hlit hc hspare hother]
    exact s.m.linksAt_linkFailed (Fabric.linkState_of_lit hlit).1
  · obtain ⟨hregs, hmem, hcounts⟩ := Disc.linkTrained_trains hk hup hstate net red mem ing
    have hrd : ∀ f i, (Disc.linkTrained k6 net red mem ing s.m).rd f i = ((s.m.setLink k6.toNat 2 0).wr .FAB_LINK_READY k6.toNat
        (b2n (s.m.fab.firstTrain.get nat0 k6.toNat != 0))).rd f i := fun f i => by rw [Mach.rd, hregs]; rfl
    refine ⟨does_of_lift (f := Disc.linkTrained k6 net red mem ing) rfl ⟨fun j => ?_, fun a => ?_⟩,
      does_of_lift (f := Disc.linkTrained k6 net red mem ing) rfl
        ⟨?_, hcounts.net, hcounts.red, hcounts.mem, hcounts.ing, hcounts.txSeq, hcounts.rxSeq⟩⟩
    · rw [Mach.linkState, hrd, Mach.rd_wr, if_neg (fun heq => absurd heq.1 (by decide))]
      exact s.m.linkState_setLink _ _ (by decide) j
    · rw [Mach.byteAt, hmem]
      rfl
    · rw [hrd, Mach.rd_wr, if_pos ⟨rfl, rfl⟩]
      cases s.m.fab.firstTrain.get nat0 k6.toNat != 0 <;> rfl
  · exact ⟨does_of_lift (f := Fabric.lossOfLight d3) rfl (Fabric.lossOfLight_absent hd hup),
      does_of_lift (f := Fabric.peerLightReturn d3) rfl (Fabric.peerLightReturn_trains hd hup)⟩
  · intro t
    refine ⟨fun hlate hearly => does_of_lift (f := Fabric.dpresetTimer) rfl (Fabric.dpresetTimer_sends hdp rfl ⟨hlate, hearly⟩), fun hnot => ?_⟩
    have hstays : Fabric.dpresetTimer s.m = s.m := by
      unfold Fabric.dpresetTimer
      rw [hdp]
      exact if_neg fun hdue => hnot.elim (Nat.not_le.mpr hdue.1) (Nat.not_le.mpr hdue.2)
    exact congrArg Host.Outcome.next (congrArg (fun m => { s with m := m }) hstays)

end Sys2Proof.Machine

/-! Identity (R350, R352, R353, R371, R433): what each row of the table of outcomes leaves. -/
namespace Sys2Proof.Machine

/-! Links that are held down or quarantined. -/

section
variable {f : Fld} (h : f.aside = false) (hdrops : f ≠ .FAB_UNREACHABLE_DROPS) (hdetours : f ≠ .FAB_DETOURS) (i : Nat) (m : Mach) {k : Nat}
include h hdrops hdetours

theorem Mach.rd_hold (hstate : m.linkState k ≠ 5) (reason code : Nat) :
    (m.hold k reason code).rd f i = (m.wrs k (downFields 5 reason)).rd f i := by
  unfold Mach.hold
  rw [if_neg hstate, Mach.rdAside_raise h, Mach.rd_linkDown h hdrops hdetours]

theorem Mach.rd_quarantine (hstate : m.linkState k ≠ 4) (reason : Nat) :
    (m.quarantine k reason).rd f i = (m.wrs k (downFields 4 reason)).rd f i := by
  unfold Mach.quarantine
  rw [if_neg (fun hsame => hstate hsame.1), Mach.rdAside_raise h, Mach.rd_linkDown h hdrops hdetours]

end

theorem Mach.linkState_wrs_downFields (m : Mach) (k reason : Nat) {st : Nat} (hst : st < 2 ^ 4) (j : Nat) :
    (m.wrs k (downFields st reason)).rd .FAB_LINK_STATE j = if j = k then st else m.linkState j := by
  unfold downFields linkFields
  simp only [List.cons_append, List.nil_append, Mach.wrs_cons, Mach.wrs_nil, Mach.rd_wr, reduceCtorEq, false_and, if_false, true_and]
  rw [show Fld.width .FAB_LINK_STATE = 4 from rfl, Nat.mod_eq_of_lt hst]
  rfl

theorem Mach.rd_wrs_downFields_reason (m : Mach) (k st reason : Nat) :
    (m.wrs k (downFields st reason)).rd .FAB_LINK_REASON k = reason % 2 ^ Fld.width .FAB_LINK_REASON := by
  unfold downFields linkFields
  simp only [List.cons_append, List.nil_append, Mach.wrs_cons, Mach.wrs_nil, Mach.rd_wr, reduceCtorEq, false_and, if_false, and_self, if_true]

/-- The registers of a link that change as it leaves its port. -/
theorem Mach.rd_wrs_downFields_of_ne (m : Mach) (k st reason : Nat) {f : Fld} (hf : ∀ fv ∈ downFields st reason, f ≠ fv.1) (i : Nat) :
    (m.wrs k (downFields st reason)).rd f i = m.rd f i := Mach.rd_wrs_of_ne hf

/-- What an identity exchange on link `k` comes to: the link's state with its reason, the level it takes, the peer that is shown. -/
structure Mach.Identified (m0 : Mach) (k : Nat) (f : IdentF) (o : Nat × Nat) (m : Mach) : Prop where
  state : m.linkState k = o.1
  reason : o.1 = 4 ∨ o.1 = 5 → m.rd .FAB_LINK_REASON k = o.2
  level : o = (3, 0) ∨ o = (8, 0) → m.rd .FAB_LINK_LEVEL k = min 4 f.levelMax.toNat
  peer : o.1 ≠ 5 → m.rd .FAB_PEER_PEER_ID k = f.claim.toNat ∧ m.rd .FAB_PEER_ID_VALID k = b2n f.valid
  others : ∀ j, j ≠ k → m.linkState j = m0.linkState j

/-! What FAB_PEER shows. -/

/-- The registers of a verified IDENT. -/
def peerFields : List Fld := [.FAB_PEER_PEER_ID, .FAB_PEER_ID_VALID, .FAB_PEER_PEER_DIR, .FAB_PEER_PEER_LINK, .FAB_PEER_PEER_SERIAL]

theorem Disc.rd_notePeer_of_ne (k : Nat) (f : IdentF) (m : Mach) {g : Fld} (hg : g ∉ peerFields) (i : Nat) : (Disc.notePeer k f m).rd g i = m.rd g i := by
  refine Eq.trans (b := (m.wrs k _).rd g i) rfl (Mach.rd_wrs_of_ne fun fv hfv heq => hg ?_)
  rw [heq]
  exact (List.mem_map_of_mem (f := Prod.fst) hfv : fv.1 ∈ peerFields)

theorem Disc.rd_notePeer (k : Nat) (f : IdentF) (m : Mach) :
    (Disc.notePeer k f m).rd .FAB_PEER_PEER_ID k = f.claim.toNat ∧ (Disc.notePeer k f m).rd .FAB_PEER_ID_VALID k = b2n f.valid := by
  have hid : (Disc.notePeer k f m).rd .FAB_PEER_PEER_ID k = f.claim.toNat % 2 ^ Fld.width .FAB_PEER_PEER_ID := by
    refine Eq.trans (b := (m.wrs k _).rd .FAB_PEER_PEER_ID k) rfl ?_
    simp only [Mach.wrs_cons, Mach.wrs_nil, Mach.rd_wr, reduceCtorEq, false_and, if_false, and_self, if_true]
  have hvalid : (Disc.notePeer k f m).rd .FAB_PEER_ID_VALID k = b2n f.valid % 2 ^ Fld.width .FAB_PEER_ID_VALID := by
    refine Eq.trans (b := (m.wrs k _).rd .FAB_PEER_ID_VALID k) rfl ?_
    simp only [Mach.wrs_cons, Mach.wrs_nil, Mach.rd_wr, reduceCtorEq, false_and, if_false, and_self, if_true]
  refine ⟨hid.trans (Nat.mod_eq_of_lt f.claim.isLt), hvalid.trans ?_⟩
  cases f.valid <;> rfl

section
variable (k : Nat) (f : IdentF) (m : Mach)

theorem Disc.linkState_notePeer (j : Nat) : (Disc.notePeer k f m).linkState j = m.linkState j := Disc.rd_notePeer_of_ne k f m (by decide) j

theorem Disc.neighbour_notePeer (d : Nat) : (Disc.notePeer k f m).neighbour (Disc.notePeer k f m).myId d = m.neighbour m.myId d := by
  have hinstalled : ∀ a, (Disc.notePeer k f m).installed a = m.installed a := fun a => by
    unfold Mach.installed
    exact Disc.rd_notePeer_of_ne k f m (by
      split
      · decide
      · split <;> decide) 0
  unfold Mach.neighbour Mach.myId
  rw [hinstalled, Disc.rd_notePeer_of_ne k f m (by decide)]

/-- With the claim shown, it is wrong where the peer has none or another than the neighbour's. -/
theorem Disc.wrongClaim_notePeer (hvalid : f.valid = true) :
    (Disc.notePeer k f m).wrongClaim k = decide (f.claim.toNat ≠ m.neighbour m.myId (k / 6)) := by
  obtain ⟨hid, hshown⟩ := Disc.rd_notePeer k f m
  unfold Mach.wrongClaim Mach.on
  rw [hid, hshown, hvalid, Disc.neighbour_notePeer]
  rw [Bool.eq_iff_iff]
  simp [b2n]

theorem Disc.portPeer_notePeer (serial : Nat) : (Disc.notePeer k f m).portPeer k serial = m.portPeer k serial := by
  have hrd : ∀ g i, g ∉ peerFields → (Disc.notePeer k f m).rd g i = m.rd g i := fun g i hg => Disc.rd_notePeer_of_ne k f m hg i
  have hcert : (Disc.notePeer k f m).fab.certOk = m.fab.certOk := by
    unfold Disc.notePeer
    rw [Mach.wrs_eq]
    rfl
  unfold Mach.portPeer Mach.linkUp Mach.linkState
  simp only [hrd .FAB_PORT_CFG_LINK_PORT _ (by decide), hrd .FAB_LINK_STATE _ (by decide), hcert]

end

/-! The rows of the table. -/

section
variable {m0 m : Mach} {k : Nat} {f : IdentF} (hrd : ∀ g i, g ∉ peerFields → m.rd g i = m0.rd g i)
  (hpeer : m.rd .FAB_PEER_PEER_ID k = f.claim.toNat ∧ m.rd .FAB_PEER_ID_VALID k = b2n f.valid)
include hrd

theorem Mach.identified_hold (hstate : m.linkState k ≠ 5) {reason : Nat} (hreason : reason < 2 ^ Fld.width .FAB_LINK_REASON) (code : Nat) :
    m0.Identified k f (5, reason) (m.hold k reason code) where
  state := by
    rw [Mach.linkState, Mach.rd_hold rfl (by decide) (by decide) _ _ hstate, Mach.linkState_wrs_downFields _ _ _ (by decide), if_pos rfl]
  reason _ := by
    rw [Mach.rd_hold rfl (by decide) (by decide) _ _ hstate, Mach.rd_wrs_downFields_reason, Nat.mod_eq_of_lt hreason]
  level h := absurd h (by simp)
  peer h := absurd rfl h
  others j hj := by
    rw [Mach.linkState, Mach.rd_hold rfl (by decide) (by decide) _ _ hstate, Mach.linkState_wrs_downFields _ _ _ (by decide), if_neg hj]
    exact hrd _ _ (by decide)

include hpeer

theorem Mach.identified_quarantine (hstate : m.linkState k ≠ 4) {reason : Nat} (hreason : reason < 2 ^ Fld.width .FAB_LINK_REASON) :
    m0.Identified k f (4, reason) (m.quarantine k reason) where
  state := by
    rw [Mach.linkState, Mach.rd_quarantine rfl (by decide) (by decide) _ _ hstate, Mach.linkState_wrs_downFields _ _ _ (by decide), if_pos rfl]
  reason _ := by
    rw [Mach.rd_quarantine rfl (by decide) (by decide) _ _ hstate, Mach.rd_wrs_downFields_reason, Nat.mod_eq_of_lt hreason]
  level h := absurd h (by simp)
  peer _ := by
    rw [Mach.rd_quarantine rfl (by decide) (by decide) _ _ hstate, Mach.rd_quarantine rfl (by decide) (by decide) _ _ hstate,
      Mach.rd_wrs_downFields_of_ne _ _ _ _ (by simp [downFields, linkFields]), Mach.rd_wrs_downFields_of_ne _ _ _ _ (by simp [downFields, linkFields])]
    exact hpeer
  others j hj := by
    rw [Mach.linkState, Mach.rd_quarantine rfl (by decide) (by decide) _ _ hstate, Mach.linkState_wrs_downFields _ _ _ (by decide), if_neg hj]
    exact hrd _ _ (by decide)

/-- ECHO 0: the exchange goes on. -/
theorem Mach.identified_waits (hlit : m0.linkState k ≠ 4 ∧ m0.linkState k ≠ 5) : m0.Identified k f (m0.linkState k, 9) m where
  state := hrd _ _ (by decide)
  reason h := absurd h (by simp [hlit])
  level h := absurd h (by simp)
  peer _ := hpeer
  others j _ := hrd _ _ (by decide)

/-- A peer of another slice. -/
theorem Mach.identified_edge : m0.Identified k f (9, 0) (if m.linkState k = 9 then m else m.linkDown k 9 0) := by
  split
  case isTrue hedge =>
    exact ⟨hedge, fun h => absurd h (by simp), fun h => absurd h (by simp), fun _ => hpeer, fun j _ => hrd _ _ (by decide)⟩
  case isFalse hnot =>
    refine ⟨?_, fun h => absurd h (by simp), fun h => absurd h (by simp), fun _ => ?_, fun j hj => ?_⟩
    · rw [Mach.linkState_linkDown _ _ _ (by decide), if_pos rfl]
    · rw [Mach.rd_linkDown rfl (by decide) (by decide), Mach.rd_linkDown rfl (by decide) (by decide),
        Mach.rd_wrs_downFields_of_ne _ _ _ _ (by simp [downFields, linkFields]), Mach.rd_wrs_downFields_of_ne _ _ _ _ (by simp [downFields, linkFields])]
      exact hpeer
    · rw [Mach.linkState_linkDown _ _ _ (by decide), if_neg hj]
      exact hrd _ _ (by decide)

end

/-! A link that comes up. -/

/-- The registers that a link's passing of its identity check writes, besides its state. -/
def passFields : List Fld := [.FAB_LINK_REASON, .FAB_LINK_LEVEL, .FAB_LINK_PORT, .FAB_LINK_IN_PORT, .FAB_LINK_PERMUTED, .FAB_LINK_COLL_MISMATCH,
  .FAB_UNREACHABLE_DROPS, .FAB_DETOURS]

theorem Mach.rd_linkPasses (m : Mach) (k level : Nat) {f : Fld} (ha : f.aside = false) (hf : f ∉ passFields) (i : Nat) :
    (m.linkPasses k level).rd f i = if f = .FAB_LINK_STATE ∧ i = k ∧ m.linkState k ≠ 8 then 3 else m.rd f i := by
  have hne : ∀ g ∈ passFields, f ≠ g := fun g hg heq => hf (heq ▸ hg)
  have hlevel : ∀ m : Mach, (m.wr .FAB_LINK_LEVEL k level).rd f i = m.rd f i := fun m =>
    (Mach.rd_wr ..).trans (if_neg fun heq => hne _ (by decide) heq.1)
  have hset : ∀ m : Mach, (m.setLink k 3 0).rd f i = if f = .FAB_LINK_STATE ∧ i = k then 3 else m.rd f i := fun m => by
    rw [Mach.rd_setLink ha]
    unfold linkFields
    rw [Mach.wrs_cons, Mach.wrs_cons, Mach.wrs_nil, Mach.rd_wr, if_neg (fun heq => hne _ (by decide) heq.1), Mach.rd_wr]
    rfl
  have hport : ∀ (m : Mach) (c : Bool) p, (if c then m else m.wrs k [(.FAB_LINK_PORT, p), (.FAB_LINK_IN_PORT, 1)]).rd f i = m.rd f i := fun m c p => by
    split
    · rfl
    · refine Mach.rd_wrs_of_ne fun fv hfv => ?_
      simp only [List.mem_cons, List.not_mem_nil, or_false] at hfv
      rcases hfv with rfl | rfl
      · exact hne .FAB_LINK_PORT (by decide)
      · exact hne .FAB_LINK_IN_PORT (by decide)
  unfold Mach.linkPasses
  split
  case isTrue hup =>
    rw [hlevel]
    refine (ite_eq_right_iff.mpr ?_).symm
    rintro ⟨rfl, rfl, h8⟩
    exact (hup.resolve_right h8).symm
  case isFalse hnot =>
    dsimp only
    rw [(Mach.moves_flush _).rd f i ha (hne _ (by decide)) (hne _ (by decide)), hport, hlevel, hset]
    exact ite_congr_of_iff (and_congr_right fun _ => (and_iff_left fun h8 => hnot (Or.inr h8)).symm) rfl rfl

theorem Mach.rd_linkPasses_level (m : Mach) (k : Nat) {level : Nat} (hlevel : level < 2 ^ Fld.width .FAB_LINK_LEVEL) :
    (m.linkPasses k level).rd .FAB_LINK_LEVEL k = level := by
  have hset : ∀ m : Mach, (m.wr .FAB_LINK_LEVEL k level).rd .FAB_LINK_LEVEL k = level := fun m =>
    ((Mach.rd_wr ..).trans (if_pos ⟨rfl, rfl⟩)).trans (Nat.mod_eq_of_lt hlevel)
  have hport : ∀ (m : Mach) (c : Bool) p, (if c then m else m.wrs k [(.FAB_LINK_PORT, p), (.FAB_LINK_IN_PORT, 1)]).rd .FAB_LINK_LEVEL k =
      m.rd .FAB_LINK_LEVEL k := fun m c p => by
    split
    · rfl
    · exact Mach.rd_wrs_of_ne (by simp)
  unfold Mach.linkPasses
  split
  · exact hset m
  · dsimp only
    rw [(Mach.moves_flush _).rd _ _ rfl (by decide) (by decide), hport, hset]

/-- The marks of a link's place and of its peer's collective (R349, R353). -/
theorem Disc.identUp_passes (k : Nat) (f : IdentF) (m : Mach) : ∃ m1 : Mach,
    (∀ g i, g.aside = false → g ∉ passFields → m1.rd g i = m.rd g i) ∧ Disc.identUp k f m = m1.linkPasses k (min 4 f.levelMax.toNat) := by
  have hmarks : ∀ (m : Mach) {mark : Fld} (_ : mark ∈ passFields) (c d : Prop) [Decidable c] [Decidable d] (code a : Nat) (g : Fld) (i : Nat),
      g.aside = false → g ∉ passFields →
      (if c then (m.wr mark k 1).raise code a srcHub 0 k else if d then m.wr mark k 0 else m).rd g i = m.rd g i := by
    intro m mark hmark c d _ _ code a g i ha hg
    have hwr : ∀ v, (m.wr mark k v).rd g i = m.rd g i := fun v => by
      rw [Mach.rd_wr, if_neg]
      rintro ⟨rfl, -⟩
      exact hg hmark
    split
    · rw [Mach.rdAside_raise ha, hwr]
    · split
      · exact hwr 0
      · rfl
  refine ⟨_, fun g i ha hg => ?_, rfl⟩
  rw [hmarks _ (mark := .FAB_LINK_COLL_MISMATCH) (by decide) _ _ _ _ g i ha hg,
    hmarks _ (mark := .FAB_LINK_PERMUTED) (by decide) _ _ _ _ g i ha hg]

theorem Mach.identified_up {m0 m : Mach} {k : Nat} {f : IdentF} (hrd : ∀ g i, g ∉ peerFields → m.rd g i = m0.rd g i)
    (hpeer : m.rd .FAB_PEER_PEER_ID k = f.claim.toNat ∧ m.rd .FAB_PEER_ID_VALID k = b2n f.valid) :
    m0.Identified k f (if m0.linkState k = 8 then 8 else 3, 0) (Disc.identUp k f m) := by
  obtain ⟨m1, hrd1, hpasses⟩ := Disc.identUp_passes k f m
  have hstate1 : ∀ j, m1.linkState j = m0.linkState j := fun j => (hrd1 _ _ rfl (by decide)).trans (hrd _ _ (by decide))
  have hstate : ∀ j, (m1.linkPasses k (min 4 f.levelMax.toNat)).linkState j = if j = k ∧ m1.linkState k ≠ 8 then 3 else m1.linkState j := fun j =>
    (m1.rd_linkPasses k _ rfl (by decide) j).trans (ite_congr_of_iff (and_iff_right rfl) rfl rfl)
  rw [hpasses]
  refine ⟨?_, fun h => absurd h (by split <;> simp), fun _ => m1.rd_linkPasses_level k (Nat.lt_of_le_of_lt (Nat.min_le_left _ _) (by decide)), fun _ => ?_, fun j hj => ?_⟩
  · rw [hstate, hstate1]
    by_cases h8 : m0.linkState k = 8
    · simp [h8]
    · simp [h8]
  · rw [m1.rd_linkPasses k _ rfl (by decide), m1.rd_linkPasses k _ rfl (by decide), if_neg (fun h => absurd h.1 (by decide)),
      if_neg (fun h => absurd h.1 (by decide)), hrd1 _ _ rfl (by decide), hrd1 _ _ rfl (by decide)]
    exact hpeer
  · rw [hstate, if_neg (fun h => hj h.1), hstate1]

end Sys2Proof.Machine

/-! Identity as `Obligations.Identity` states it. -/
namespace Sys2Proof.Machine

/-- A row of the table, under its condition as the model tests it. -/
theorem Mach.Identified.ite {m0 : Mach} {k : Nat} {f : IdentF} {c c' : Prop} [Decidable c] [Decidable c'] {o o' : Nat × Nat} {m m' : Mach} (hc : c ↔ c')
    (hthen : c → m0.Identified k f o m) (helse : ¬c → m0.Identified k f o' m') :
    m0.Identified k f (if c then o else o') (if c' then m else m') := by
  by_cases h : c
  · rw [if_pos h, if_pos (hc.mp h)]
    exact hthen h
  · rw [if_neg h, if_neg fun h' => h (hc.mpr h')]
    exact helse h

namespace Disc

/-- Table FAB-4: the state and the reason of the first row that applies. -/
def outcome (m0 : Mach) (k : Nat) (f : IdentF) (sigOk : Bool) : Nat × Nat :=
  if sigOk = false ∨ m0.fab.certOk.get nat0 k ≠ 1 + f.serial.toNat then (5, 5)
  else if f.levelMax.toNat < 3 ∨ 4 < f.levelMin.toNat ∨ f.levelMax.toNat < f.levelMin.toNat then (5, 4)
  else if f.serial.toNat = m0.rd .MOD_SERIAL 0 then (4, 3)
  else if f.dir.toNat ≠ dirOpp (k / 6) then (4, 1)
  else if f.echo = 0 then (m0.linkState k, 9)
  else if f.echo.toNat ≠ m0.fab.nonce.get nat0 k then (4, 1)
  else if m0.rd .FAB_STATUS_DISC 0 = 3 ∧ f.valid = true ∧ f.claim.toNat ≠ m0.neighbour m0.myId (k / 6) then (4, 2)
  else if m0.portPeer k f.serial.toNat = true then (4, 6)
  else if f.sliceId.toNat ≠ m0.rd .FAB_SLICE_ID 0 then (9, 0)
  else (if m0.linkState k = 8 then 8 else 3, 0)

/-- R353: on a link with a certificate, the first row of the table that applies decides. -/
theorem ident_identified {k6 : BitVec 6} {m m0 : Mach} (hk : k6.toNat < 36) (hup : m.mainUp = true) (hlit : m.linkLit k6.toNat = true)
    (f : IdentF) (sigOk : Bool) {cr : BitVec 32} (hm0 : m0 = m.headerCredit k6.toNat cr.toNat) (hcert : m0.fab.certOk.get nat0 k6.toNat ≠ 0) :
    m0.Identified k6.toNat f (outcome m0 k6.toNat f sigOk) (ident k6 f sigOk cr m) := by
  have hstate : m0.linkState k6.toNat ≠ 4 ∧ m0.linkState k6.toNat ≠ 5 := by
    rw [hm0, Mach.linkState_headerCredit]
    unfold Mach.linkLit at hlit
    simp only [Bool.or_eq_true, beq_iff_eq] at hlit
    omega
  unfold ident
  rw [Fabric.control_acts hk hup hlit, ← hm0]
  dsimp only
  rw [if_neg hcert]
  refine .ite (by simp) (fun _ => Mach.identified_hold (fun _ _ _ => rfl) hstate.2 (by decide) _) fun _ => ?_
  have hrd : ∀ g i, g ∉ peerFields → (notePeer k6.toNat f m0).rd g i = m0.rd g i := fun g i hg => rd_notePeer_of_ne _ f m0 hg i
  have hpeer := rd_notePeer k6.toNat f m0
  have hclaim := wrongClaim_notePeer k6.toNat f m0
  have hport := portPeer_notePeer k6.toNat f m0 f.serial.toNat
  have hnonce : (notePeer k6.toNat f m0).fab.nonce = m0.fab.nonce := by
    unfold notePeer
    rw [Mach.wrs_eq]
    rfl
  revert hrd hpeer hclaim hport hnonce
  generalize notePeer k6.toNat f m0 = n
  intro hrd hpeer hclaim hport hnonce
  have hn : n.linkState k6.toNat ≠ 4 ∧ n.linkState k6.toNat ≠ 5 := by
    rw [Mach.linkState, hrd _ _ (by decide)]
    exact hstate
  have hquarantine : ∀ {reason : Nat}, reason < 2 ^ Fld.width .FAB_LINK_REASON →
      m0.Identified k6.toNat f (4, reason) (n.quarantine k6.toNat reason) := fun hreason => Mach.identified_quarantine hrd hpeer hn.1 hreason
  rw [hrd .MOD_SERIAL 0 (by decide), hrd .FAB_STATUS_DISC 0 (by decide), hrd .FAB_SLICE_ID 0 (by decide), hnonce, hport]
  refine .ite Iff.rfl (fun _ => Mach.identified_hold hrd hn.2 (by decide) _) fun _ => ?_
  refine .ite Iff.rfl (fun _ => hquarantine (by decide)) fun _ => ?_
  refine .ite Iff.rfl (fun _ => hquarantine (by decide)) fun _ => ?_
  refine .ite Iff.rfl (fun _ => Mach.identified_waits hrd hpeer hstate) fun _ => ?_
  refine .ite Iff.rfl (fun _ => hquarantine (by decide)) fun _ => ?_
  refine .ite (and_congr_right fun _ => and_congr_right fun hvalid => ?_) (fun _ => hquarantine (by decide)) fun _ => ?_
  · rw [hclaim hvalid]
    exact decide_eq_true_iff.symm
  refine .ite Iff.rfl (fun _ => hquarantine (by decide)) fun _ => ?_
  exact .ite Iff.rfl (fun _ => Mach.identified_edge hrd hpeer) fun _ => Mach.identified_up hrd hpeer

/-- R352: IDENT on each of some links. -/
theorem foldl_sendIdent (ks : List Nat) (m : Mach) :
    let m' := ks.foldl (fun m k => m.sendIdent k) m
    m'.regs = m.regs ∧ m.fab.out ⊆ m'.fab.out ∧ (∀ j, j ∈ ks ∨ m.fab.identAt.get nat0 j = m.time → m'.fab.identAt.get nat0 j = m.time) ∧
      ∀ j ∈ ks, ∃ x, (j, x) ∈ m'.fab.out ∧ x.ty = 0x10 := by
  induction ks generalizing m with
  | nil => exact ⟨rfl, List.Subset.refl _, fun j h => h.resolve_left List.not_mem_nil, fun j h => absurd h List.not_mem_nil⟩
  | cons k ks ih =>
    obtain ⟨free, nonce, owed, x, hty, hsent⟩ := m.sendIdent_sent k
    obtain ⟨hregs, hout, hat, hframes⟩ := ih (m.sendIdent k)
    have htime : (m.sendIdent k).time = m.time := by rw [hsent]; rfl
    have hat1 : (m.sendIdent k).fab.identAt = NMap.set nat0 m.fab.identAt k m.time := by rw [hsent]
    have hout1 : (m.sendIdent k).fab.out = m.fab.out ++ [(k, x)] := by rw [hsent]
    rw [htime, hat1] at hat
    rw [hout1] at hout
    dsimp only [List.foldl_cons]
    refine ⟨hregs.trans (by rw [hsent]), List.Subset.trans (List.subset_append_left _ _) hout, fun j h => hat j ?_, fun j h => ?_⟩
    · rcases h with h | h
      · rcases List.mem_cons.mp h with rfl | h
        · exact Or.inr (NMap.get_set_self _ _ _)
        · exact Or.inl h
      · by_cases hj : j = k
        · exact Or.inr (hj ▸ NMap.get_set_self _ _ _)
        · exact Or.inr ((NMap.get_set_ne _ _ hj).trans h)
    · rcases List.mem_cons.mp h with rfl | h
      · exact ⟨x, hout (List.mem_append_right _ (List.mem_singleton.mpr rfl)), hty⟩
      · exact hframes j h

/-- R352: as the first link's 100 ms end, IDENT goes out on every link whose time has come. -/
theorem identTimer_sends {m : Mach} {t : Nat} (hup : m.mainUp = true) (hlimits : m.aux.inLimits = true) (ht : t < 2 ^ 64)
    (hmin : (((List.range 36).filter m.linkLit).map fun j => m.fab.identAt.get nat0 j + 100000000).min? = some t) {j : Nat} (hj : j < 36)
    (hlit : m.linkLit j = true) (hdue : m.fab.identAt.get nat0 j + 100000000 ≤ t) :
    (identTimer m).fab.identAt.get nat0 j = (identTimer m).time ∧ ∃ x, (j, x) ∈ (identTimer m).fab.out ∧ x.ty = 0x10 := by
  have hlasts := m.lasts_advanceTo t
  have htime := Mach.le_time_advanceTo hlimits ht
  unfold identTimer
  dsimp only
  rw [hmin]
  dsimp only
  rw [if_neg (by rw [hup]; decide)]
  revert hlasts htime
  generalize m.advanceTo t = m1
  intro hlasts htime
  have hlit1 : m1.linkLit j = true := by
    rw [Mach.linkLit, Mach.linkState, hlasts.rd _ _ rfl rfl]
    exact hlit
  have hmem : j ∈ (List.range 36).filter fun k => m1.linkLit k && decide (m.fab.identAt.get nat0 k + 100000000 ≤ m1.time) :=
    List.mem_filter.mpr ⟨List.mem_range.mpr hj, by rw [hlit1, decide_eq_true (Nat.le_trans hdue htime)]; rfl⟩
  obtain ⟨hregs, -, hat, hframes⟩ := foldl_sendIdent ((List.range 36).filter fun k =>
    m1.linkLit k && decide (m.fab.identAt.get nat0 k + 100000000 ≤ m1.time)) m1
  exact ⟨(hat j (Or.inl hmem)).trans (congrArg (fun r => NMap.get regDefault r (Fld.TICK_TIME.key 0)) hregs).symm, hframes j hmem⟩

end Disc

/-- Settles O48: the first row of Table FAB-4 that applies decides, each row by what the model does under its condition. -/
theorem identity : Obligations.Identity := by
  unfold Obligations.Identity
  intro k6 f sigOk serial cr t s hup k m0 dueAt outcome
  refine ⟨fun hk hlit => ⟨fun hcert => ?_, ?_, ?_⟩, fun hlimits ht hmin => ?_⟩
  · have hident : m0.Identified k6.toNat f outcome (Disc.ident k6 f sigOk cr s.m) := Disc.ident_identified hk hup hlit f sigOk rfl hcert
    exact does_of_lift (f := Disc.ident k6 f sigOk cr) rfl ⟨hident.state, hident.reason, hident.level, hident.peer, hident.others⟩
  · refine does_of_lift (f := Disc.lcert k6 serial true cr) rfl ?_
    unfold Disc.lcert
    rw [Fabric.control_acts hk hup hlit]
    exact ⟨NMap.get_set_self _ _ _, fun _ _ => rfl⟩
  · refine does_of_lift (f := Disc.lcert k6 serial false cr) rfl ?_
    have hstate : m0.linkState k ≠ 5 := by
      rw [Mach.linkState_headerCredit]
      unfold Mach.linkLit at hlit
      simp only [Bool.or_eq_true, beq_iff_eq] at hlit
      omega
    have hheld := Mach.identified_hold (m0 := m0) (m := m0) (k := k) (f := f) (fun _ _ _ => rfl) hstate (reason := 5) (by decide) 0x54
    unfold Disc.lcert
    rw [Fabric.control_acts hk hup hlit]
    exact ⟨hheld.state, hheld.reason (Or.inr rfl)⟩
  · refine does_of_lift (f := Disc.identTimer) rfl fun j hj hlit hdue => ?_
    exact Disc.identTimer_sends hup hlimits ht hmin hj hlit hdue

end Sys2Proof.Machine

/-! Discovery (R354-R356, R437). -/
namespace Sys2Proof.Machine

theorem Mach.rd_wrs_of_index_ne {k i : Nat} (hi : i ≠ k) (f : Fld) (fs : List (Fld × Nat)) (m : Mach) : (m.wrs k fs).rd f i = m.rd f i := by
  induction fs generalizing m with
  | nil => rfl
  | cons fv fs ih =>
    rw [Mach.wrs_cons, ih, Mach.rd_wr, if_neg]
    exact fun heq => hi heq.2

/-! The course of discovery: what its frames leave. -/

/-- What discovery goes by: the offers with their timer, the check, the hops, the neighbours' tables. -/
def Mach.course (m : Mach) : List Offer × Option Nat × Option Nat × Nat × NMap (List Nat) :=
  (m.fab.offers, m.fab.hold, m.fab.check, m.fab.hops, m.fab.topo)

theorem Mach.sendIdent_keeps (m : Mach) (k : Nat) : (m.sendIdent k).regs = m.regs ∧ (m.sendIdent k).course = m.course := by
  obtain ⟨_, _, _, _, -, hsent⟩ := m.sendIdent_sent k
  rw [hsent]
  exact ⟨rfl, rfl⟩

theorem Mach.sendIdents_keeps (m : Mach) : m.sendIdents.regs = m.regs ∧ m.sendIdents.course = m.course :=
  ⟨foldl_keep Mach.regs (fun m k => m.sendIdent k) (fun m k => (m.sendIdent_keeps k).1) _ m,
    foldl_keep Mach.course (fun m k => m.sendIdent k) (fun m k => (m.sendIdent_keeps k).2) _ m⟩

theorem Mach.sendCtl_keeps (m : Mach) (k ty : Nat) (payload : List Byte) :
    (m.sendCtl k ty payload).regs = m.regs ∧ (m.sendCtl k ty payload).course = m.course := by
  obtain ⟨_, _, -, hsent⟩ := m.sendCtl_form k ty payload
  rw [hsent]
  exact ⟨rfl, rfl⟩

/-- The registers that an accepted offer sets. -/
def acceptFields (o : Offer) : List (Fld × Nat) :=
  [(.FAB_COORD_X, o.x), (.FAB_COORD_Y, o.y), (.FAB_COORD_Z, o.z), (.FAB_COORD_MODULE_ID, o.x + 64 * o.y + 4096 * o.z),
    (.FAB_COORD_NX, o.nx), (.FAB_COORD_NY, o.ny), (.FAB_COORD_NZ, o.nz), (.FAB_STATUS_COORD_VALID, 1), (.FAB_STATUS_DISC, 2)]

/-- R354: an accepted offer sets the module's coordinate and begins the time of its check. -/
theorem Mach.acceptCoord_keeps (m : Mach) (o : Offer) :
    (∀ f i, (m.acceptCoord o).rd f i = (m.wrs 0 (acceptFields o)).rd f i) ∧
      (m.acceptCoord o).course = (m.fab.offers, none, some (m.time + 1000000), o.hops, m.fab.topo) := by
  have htime : (m.wrs 0 (acceptFields o)).time = m.time := Mach.rd_wrs_of_ne (by simp [acceptFields])
  have hfab : (m.wrs 0 (acceptFields o)).fab = m.fab := (congrArg Mach.fab (Mach.wrs_eq m 0 _) :)
  have hregs : (m.acceptCoord o).regs = (m.wrs 0 (acceptFields o)).regs := by
    unfold Mach.acceptCoord
    refine (foldl_keep Mach.regs _ (fun m d => ?_) _ _).trans (Mach.sendIdents_keeps _).1
    split
    · rfl
    · exact (Mach.sendCtl_keeps _ _ _ _).1
  refine ⟨fun f i => by rw [Mach.rd, hregs]; rfl, ?_⟩
  have hcourse : (m.acceptCoord o).course = ((m.wrs 0 (acceptFields o)).onFab fun b =>
      { b with hops := o.hops, hold := none, check := some ((m.wrs 0 (acceptFields o)).time + 1000000) }).course := by
    unfold Mach.acceptCoord
    refine (foldl_keep Mach.course _ (fun m d => ?_) _ _).trans (Mach.sendIdents_keeps _).2
    split
    · rfl
    · exact (Mach.sendCtl_keeps _ _ _ _).2
  rw [hcourse, htime]
  unfold Mach.course Mach.onFab
  rw [hfab]

/-! START. -/

/-- What START leaves before the module sends anything (R354): the state of its links and the registers of the run. -/
structure Mach.Started (m : Mach) (v : Nat) (m' : Mach) : Prop where
  links : ∀ j, j < 36 → m'.linkState j = if m.linkState j = 4 ∨ m.linkState j = 5 then 2 else m.linkState j
  root : m'.rd .FAB_STATUS_ROOT 0 = bitsAt v 1 1
  disc : m'.rd .FAB_STATUS_DISC 0 = 1
  invalid : m'.rd .FAB_STATUS_COORD_VALID 0 = 0
  rootAt : m'.rd .FAB_DISC_CTRL_ROOT_X 0 = bitsAt v 8 6 ∧ m'.rd .FAB_DISC_CTRL_ROOT_Y 0 = bitsAt v 16 6 ∧
    m'.rd .FAB_DISC_CTRL_ROOT_Z 0 = bitsAt v 24 6
  course : m'.fab.offers = [] ∧ m'.fab.hold = none ∧ m'.fab.check = none
  time : m'.time = m.time

/-- The registers of START's value, as they take it. -/
def startFields (v : Nat) : List (Fld × Nat) :=
  [(.FAB_DISC_CTRL_ROOT, bitsAt v 1 1), (.FAB_DISC_CTRL_ROOT_X, bitsAt v 8 6), (.FAB_DISC_CTRL_ROOT_Y, bitsAt v 16 6),
    (.FAB_DISC_CTRL_ROOT_Z, bitsAt v 24 6)]

namespace Disc

theorem rd_putIf_of_ne {f g : Fld} (h : g ≠ f) (ok : Nat → Bool) (v : Nat) (m : Mach) (i : Nat) : (putIf ok f v m).rd g i = m.rd g i := by
  unfold putIf
  split
  · exact (Mach.rd_wr ..).trans (if_neg fun heq => h heq.1)
  · rfl

/-- START: the run begins; a root takes its coordinate at once. -/
theorem start_started (v : BitVec 64) {m : Mach} (hup : m.mainUp = true) : ∃ m', m.Started v.toNat m' ∧
    start v m = if bitsAt v.toNat 1 1 = 1 then m'.acceptCoord ⟨m'.rd .FAB_DISC_CTRL_ROOT_X 0, m'.rd .FAB_DISC_CTRL_ROOT_Y 0,
        m'.rd .FAB_DISC_CTRL_ROOT_Z 0, 0, 0, m'.rd .FAB_DISC_CTRL_NX 0, m'.rd .FAB_DISC_CTRL_NY 0, m'.rd .FAB_DISC_CTRL_NZ 0⟩
      else if m.on .FAB_STATUS_COORD_VALID 0 then m'.sendIdents else m' := by
  unfold start
  rw [if_neg (by rw [hup]; decide)]
  dsimp only
  obtain ⟨m3, hm3⟩ : ∃ m3, m3 = putIf (fun x => decide (1 ≤ x ∧ x ≤ 64)) .FAB_DISC_CTRL_NZ (bitsAt v.toNat 48 7)
    (putIf (fun x => decide (1 ≤ x ∧ x ≤ 64)) .FAB_DISC_CTRL_NY (bitsAt v.toNat 40 7)
      (putIf (fun x => decide (1 ≤ x ∧ x ≤ 64)) .FAB_DISC_CTRL_NX (bitsAt v.toNat 32 7) (m.wrs 0 (startFields v.toNat)))) := ⟨_, rfl⟩
  have hrd3 : ∀ g i, g ≠ .FAB_DISC_CTRL_NX → g ≠ .FAB_DISC_CTRL_NY → g ≠ .FAB_DISC_CTRL_NZ → m3.rd g i = (m.wrs 0 (startFields v.toNat)).rd g i := by
    intro g i hx hy hz
    rw [hm3, rd_putIf_of_ne hz, rd_putIf_of_ne hy, rd_putIf_of_ne hx]
  obtain ⟨m4, hm4⟩ : ∃ m4, m4 = ((List.range 36).filter fun k => m3.linkState k == 4 || m3.linkState k == 5).foldl (fun m k => m.setLink k 2 0) m3 :=
    ⟨_, rfl⟩
  have hrd4 : ∀ g i, g.lossAside = false → g ≠ .FAB_LINK_STATE → m4.rd g i = m3.rd g i := fun g i hg hne => by
    rw [hm4, Mach.rdLoss_foldl_setLink hg, if_neg fun heq => hne heq.1]
  have hwritten : ∀ fv ∈ startFields v.toNat, m4.rd fv.1 0 = fv.2 := by
    intro fv hfv
    have hvalue : (m.wrs 0 (startFields v.toNat)).rd fv.1 0 = fv.2 := by
      refine Mach.rd_wrs_of_mem (by simp [startFields]) hfv ?_
      revert fv
      simp only [startFields, List.forall_mem_cons]
      exact ⟨bitsAt_lt .., bitsAt_lt .., bitsAt_lt .., bitsAt_lt .., nofun⟩
    rw [← hvalue]
    revert fv
    simp only [startFields, List.forall_mem_cons]
    refine ⟨fun _ => ?_, fun _ => ?_, fun _ => ?_, fun _ => ?_, nofun⟩
    all_goals exact (hrd4 _ _ rfl (by decide)).trans (hrd3 _ _ (by decide) (by decide) (by decide))
  have hroot : m4.rd .FAB_DISC_CTRL_ROOT 0 = bitsAt v.toNat 1 1 := hwritten _ (.head _)
  obtain ⟨m5, hm5⟩ : ∃ m5, m5 = (m4.wrs 0 [(.FAB_STATUS_DISC, 1), (.FAB_STATUS_ROOT, bitsAt v.toNat 1 1), (.FAB_STATUS_COORD_VALID, 0)]).onFab fun b =>
    { b with offers := [], hold := none, check := none, topo := [] } := ⟨_, rfl⟩
  have hrd5 : ∀ g i, g ≠ .FAB_STATUS_DISC → g ≠ .FAB_STATUS_ROOT → g ≠ .FAB_STATUS_COORD_VALID → m5.rd g i = m4.rd g i := by
    intro g i hd hr hc
    rw [hm5]
    exact Mach.rd_wrs_of_ne (by simp [hd, hr, hc])
  have hset5 : ∀ fv ∈ [(Fld.FAB_STATUS_DISC, 1), (.FAB_STATUS_ROOT, bitsAt v.toNat 1 1), (.FAB_STATUS_COORD_VALID, 0)], m5.rd fv.1 0 = fv.2 := by
    intro fv hfv
    rw [hm5]
    refine Mach.rd_wrs_of_mem (i := 0) (m := m4) (by simp) hfv ?_
    revert fv
    simp only [List.forall_mem_cons]
    exact ⟨by decide, bitsAt_lt .., by decide, nofun⟩
  refine ⟨m5, ⟨fun j hj => ?_, hset5 _ (.tail _ (.head _)), hset5 _ (.head _), hset5 _ (.tail _ (.tail _ (.head _))),
    ⟨(hrd5 _ _ (by decide) (by decide) (by decide)).trans (hwritten _ (.tail _ (.head _))),
      (hrd5 _ _ (by decide) (by decide) (by decide)).trans (hwritten _ (.tail _ (.tail _ (.head _)))),
      (hrd5 _ _ (by decide) (by decide) (by decide)).trans (hwritten _ (.tail _ (.tail _ (.tail _ (.head _)))))⟩,
    by rw [hm5]; exact ⟨rfl, rfl, rfl⟩, ?_⟩, ?_⟩
  · have hstate3 : ∀ j, m3.linkState j = m.linkState j := fun j =>
      (hrd3 _ _ (by decide) (by decide) (by decide)).trans (Mach.rd_wrs_of_ne (by simp [startFields]))
    rw [Mach.linkState, hrd5 _ _ (by decide) (by decide) (by decide), hm4, Mach.rdLoss_foldl_setLink rfl]
    refine ite_congr_of_iff ?_ rfl (hstate3 j)
    rw [and_iff_right rfl, List.mem_filter, and_iff_right (List.mem_range.mpr hj), hstate3]
    simp only [Bool.or_eq_true, beq_iff_eq]
  · exact (hrd5 _ _ (by decide) (by decide) (by decide)).trans ((hrd4 _ _ rfl (by decide)).trans
      ((hrd3 _ _ (by decide) (by decide) (by decide)).trans (Mach.rd_wrs_of_ne (by simp [startFields]))))
  · unfold startFields at hm3
    rw [← hm3, ← hm4, hroot, ← hm5]

end Disc

end Sys2Proof.Machine

/-! Discovery: the hold timer, the check and the tables of the neighbours. -/
namespace Sys2Proof.Machine

/-! The best offer. -/

/-- The better of an offer and the best one so far (R355). -/
def Offer.better (b : Option Offer) (o : Offer) : Option Offer :=
  match b with
  | none => some o
  | some b => some (if o.hops < b.hops ∨ (o.hops = b.hops ∧ o.link < b.link) then o else b)

/-- An offer that every other one of a list is worse than, by hops or then by link, is the best one of it. -/
theorem Offer.foldl_better {o : Offer} {l : List Offer} (hleast : ∀ o' ∈ l, o' = o ∨ o.hops < o'.hops ∨ o.hops = o'.hops ∧ o.link < o'.link)
    {b : Option Offer} (hb : ∀ o', b = some o' → o' = o ∨ o.hops < o'.hops ∨ o.hops = o'.hops ∧ o.link < o'.link) (hin : b = some o ∨ o ∈ l) :
    l.foldl Offer.better b = some o := by
  induction l generalizing b with
  | nil => exact hin.resolve_right List.not_mem_nil
  | cons a l ih =>
    have ha := hleast a (List.mem_cons_self ..)
    refine ih (fun o' ho' => hleast o' (List.mem_cons_of_mem _ ho')) ?_ ?_
    · intro o' ho'
      unfold Offer.better at ho'
      split at ho'
      · obtain rfl := Option.some.inj ho'
        exact ha
      next b' =>
        obtain rfl := Option.some.inj ho'
        split
        · exact ha
        · exact hb b' rfl
    · rcases hin with rfl | hin
      · refine Or.inl (congrArg some ?_)
        split
        · next hbetter =>
          rcases ha with rfl | hworse | ⟨heq, hworse⟩
          · rfl
          · omega
          · omega
        · rfl
      · rcases List.mem_cons.mp hin with rfl | hin
        · refine Or.inl ?_
          unfold Offer.better
          split
          · rfl
          next b' =>
            split
            · rfl
            next hnot =>
              rcases hb b' rfl with rfl | hworse | ⟨heq, hworse⟩
              · rfl
              · exact absurd (Or.inl hworse) hnot
              · exact absurd (Or.inr ⟨heq, hworse⟩) hnot
        · exact Or.inr hin

namespace Disc

theorem holdTimer_accepts {m : Mach} {t : Nat} (hhold : m.fab.hold = some t) {o : Offer} (ho : o ∈ m.fab.offers)
    (hleast : ∀ o' ∈ m.fab.offers, o' = o ∨ o.hops < o'.hops ∨ o.hops = o'.hops ∧ o.link < o'.link) :
    holdTimer m = (m.advanceTo t).acceptCoord o := by
  have hoffers : (m.advanceTo t).fab.offers = m.fab.offers := congrArg Fab.offers (m.lasts_advanceTo t).fab
  have hbest : m.fab.offers.foldl Offer.better none = some o := Offer.foldl_better hleast nofun (Or.inr ho)
  have hunfold : holdTimer m = match m.fab.hold with
      | none => m
      | some t => match (m.advanceTo t).fab.offers.foldl Offer.better none with
        | none => m.advanceTo t
        | some o => (m.advanceTo t).acceptCoord o := rfl
  rw [hunfold, hhold]
  dsimp only
  rw [hoffers, hbest]

/-! The check. -/

/-- Link `j` is quarantined for a wrong claim. -/
def Quarantined (j : Nat) (m : Mach) : Prop := m.linkState j = 4 ∧ m.rd .FAB_LINK_REASON j = 2

theorem Quarantined.of_rd {j : Nat} {m m' : Mach} (h : Quarantined j m) (hrd : ∀ f, f.aside = false → m'.rd f j = m.rd f j) : Quarantined j m' :=
  ⟨(hrd _ rfl).trans h.1, (hrd _ rfl).trans h.2⟩

theorem rd_quarantine_other {j k : Nat} (hj : j ≠ k) (m : Mach) {f : Fld} (hf : f = .FAB_LINK_STATE ∨ f = .FAB_LINK_REASON) (reason : Nat) :
    (m.quarantine k reason).rd f j = m.rd f j := by
  unfold Mach.quarantine
  split
  · rfl
  · rcases hf with rfl | rfl <;>
      rw [Mach.rdAside_raise rfl, Mach.rd_linkDown rfl (by decide) (by decide), Mach.rd_wrs_of_index_ne hj]

/-- Quarantining links for wrong claims keeps those that are. -/
theorem Quarantined.quarantine {j : Nat} {m : Mach} (h : Quarantined j m) (k : Nat) : Quarantined j (m.quarantine k 2) := by
  by_cases hj : j = k
  · subst hj
    have hboth : m.linkState j = 4 ∧ m.rd .FAB_LINK_REASON j = 2 := h
    rwa [Mach.quarantine, if_pos hboth]
  · exact ⟨(rd_quarantine_other hj m (Or.inl rfl) 2).trans h.1, (rd_quarantine_other hj m (Or.inr rfl) 2).trans h.2⟩

theorem quarantined_quarantine {j : Nat} {m : Mach} (hstate : m.linkState j ≠ 4) : Quarantined j (m.quarantine j 2) := by
  refine ⟨?_, ?_⟩
  · rw [Mach.linkState, Mach.rd_quarantine rfl (by decide) (by decide) _ _ hstate, Mach.linkState_wrs_downFields _ _ _ (by decide), if_pos rfl]
  · rw [Mach.rd_quarantine rfl (by decide) (by decide) _ _ hstate, Mach.rd_wrs_downFields_reason]
    rfl

/-- A pass over links quarantines each of them that it finds in another state. -/
theorem quarantined_foldl {j : Nat} (ks : List Nat) (m : Mach) (h : Quarantined j m ∨ j ∈ ks ∧ m.linkState j ≠ 4) :
    Quarantined j (ks.foldl (fun m k => m.quarantine k 2) m) := by
  induction ks generalizing m with
  | nil => exact h.resolve_right fun hin => List.not_mem_nil hin.1
  | cons k ks ih =>
    rw [List.foldl_cons]
    refine ih _ ?_
    rcases h with h | ⟨hin, hstate⟩
    · exact Or.inl (h.quarantine k)
    · by_cases hj : j = k
      · exact Or.inl (hj ▸ quarantined_quarantine hstate)
      · exact Or.inr ⟨(List.mem_cons.mp hin).resolve_left hj, fun h4 => hstate ((rd_quarantine_other hj m (Or.inl rfl) 2).symm.trans h4)⟩

/-- Squares that do not close quarantine further links. -/
theorem Quarantined.closeSquares {j : Nat} {m : Mach} (h : Quarantined j m) : Quarantined j m.closeSquares := by
  unfold Mach.closeSquares
  refine List.foldlRecOn (motive := Quarantined j) _ _ h fun m hm p _ => ?_
  dsimp only
  split
  · exact hm
  · exact quarantined_foldl _ m (Or.inl hm)

theorem sends_closeSquares (m : Mach) : m.Sends m.closeSquares :=
  .foldl (fun m _ => .ite (.refl m) (.foldl (fun m _ => m.sends_quarantine _ _) _ m)) _ m

/-- What a claim is held against stands as time passes. -/
theorem wrongClaim_of_lasts {m m' : Mach} (h : m.Lasts m') (j : Nat) : m'.wrongClaim j = m.wrongClaim j := by
  have hinstalled : ∀ a, m'.installed a = m.installed a := fun a => by
    unfold Mach.installed
    split
    · exact h.rd _ _ rfl rfl
    · split
      · exact h.rd _ _ rfl rfl
      · exact h.rd _ _ rfl rfl
  unfold Mach.wrongClaim Mach.on Mach.neighbour Mach.myId
  rw [hinstalled, h.rd _ _ rfl rfl, h.rd _ _ rfl rfl, h.rd _ _ rfl rfl]

/-- R354: the registers that an accepted offer sets, as wide as they are. -/
theorem acceptCoord_sets (m : Mach) (o : Offer) :
    (m.acceptCoord o).rd .FAB_STATUS_DISC 0 = 2 ∧ (m.acceptCoord o).rd .FAB_STATUS_COORD_VALID 0 = 1 ∧
      (m.acceptCoord o).rd .FAB_COORD_X 0 = o.x % 64 ∧ (m.acceptCoord o).rd .FAB_COORD_Y 0 = o.y % 64 ∧
      (m.acceptCoord o).rd .FAB_COORD_Z 0 = o.z % 64 ∧ (m.acceptCoord o).rd .FAB_COORD_NX 0 = o.nx % 128 ∧
      (m.acceptCoord o).rd .FAB_COORD_MODULE_ID 0 = (o.x + 64 * o.y + 4096 * o.z) % 2 ^ 18 := by
  have hrd := (m.acceptCoord_keeps o).1
  simp only [hrd, acceptFields, Mach.wrs_cons, Mach.wrs_nil, Mach.rd_wr, reduceCtorEq, false_and, if_false, and_self, if_true]
  exact ⟨rfl, rfl, rfl, rfl, rfl, rfl, rfl⟩

/-- A register that no offer sets stands. -/
theorem rd_acceptCoord {f : Fld} (hf : ∀ o, ∀ fv ∈ acceptFields o, f ≠ fv.1) (m : Mach) (o : Offer) (i : Nat) : (m.acceptCoord o).rd f i = m.rd f i :=
  ((m.acceptCoord_keeps o).1 f i).trans (Mach.rd_wrs_of_ne (hf o))

/-- R354: a root accepts its own coordinate at once. -/
theorem root_accepts (m : Mach) {x y z nx ny nz v : Nat}
    (hat : m.rd .FAB_DISC_CTRL_ROOT_X 0 = bitsAt v 8 6 ∧ m.rd .FAB_DISC_CTRL_ROOT_Y 0 = bitsAt v 16 6 ∧ m.rd .FAB_DISC_CTRL_ROOT_Z 0 = bitsAt v 24 6)
    (hcourse : m.fab.offers = [] ∧ m.fab.hold = none ∧ m.fab.check = none) (hx : x = m.rd .FAB_DISC_CTRL_ROOT_X 0)
    (hy : y = m.rd .FAB_DISC_CTRL_ROOT_Y 0) (hz : z = m.rd .FAB_DISC_CTRL_ROOT_Z 0) {m' : Mach} (hm' : m' = m.acceptCoord ⟨x, y, z, 0, 0, nx, ny, nz⟩) :
    (∀ j, m'.linkState j = m.linkState j) ∧ m'.rd .FAB_STATUS_ROOT 0 = m.rd .FAB_STATUS_ROOT 0 ∧ m'.fab.offers = [] ∧ m'.fab.hold = none ∧
      m'.rd .FAB_STATUS_DISC 0 = 2 ∧ m'.rd .FAB_STATUS_COORD_VALID 0 = 1 ∧ m'.rd .FAB_COORD_X 0 = bitsAt v 8 6 ∧
      m'.rd .FAB_COORD_Y 0 = bitsAt v 16 6 ∧ m'.rd .FAB_COORD_Z 0 = bitsAt v 24 6 ∧
      m'.rd .FAB_COORD_MODULE_ID 0 = bitsAt v 8 6 + 64 * bitsAt v 16 6 + 4096 * bitsAt v 24 6 ∧ m'.fab.check = some (m.time + 1000000) := by
  obtain ⟨hdisc, hvalid, hx', hy', hz', -, hid⟩ := acceptCoord_sets m ⟨x, y, z, 0, 0, nx, ny, nz⟩
  have hlinks : ∀ j, m'.linkState j = m.linkState j := fun j => hm' ▸ rd_acceptCoord (by simp [acceptFields]) m _ j
  have hroot : m'.rd .FAB_STATUS_ROOT 0 = m.rd .FAB_STATUS_ROOT 0 := hm' ▸ rd_acceptCoord (by simp [acceptFields]) m _ 0
  have hkept := (m.acceptCoord_keeps ⟨x, y, z, 0, 0, nx, ny, nz⟩).2
  rw [← hm'] at hdisc hvalid hx' hy' hz' hid hkept
  obtain ⟨hatx, haty, hatz⟩ := hat
  have hbx : bitsAt v 8 6 < 2 ^ 6 := bitsAt_lt ..
  have hby : bitsAt v 16 6 < 2 ^ 6 := bitsAt_lt ..
  have hbz : bitsAt v 24 6 < 2 ^ 6 := bitsAt_lt ..
  rw [hatx] at hx
  rw [haty] at hy
  rw [hatz] at hz
  dsimp only at hx' hy' hz' hid
  rw [hx] at hx' hid
  rw [hy] at hy' hid
  rw [hz] at hz' hid
  exact ⟨hlinks, hroot, (congrArg (·.1) hkept).trans hcourse.1, congrArg (·.2.1) hkept, hdisc, hvalid, hx'.trans (Nat.mod_eq_of_lt hbx),
    hy'.trans (Nat.mod_eq_of_lt hby), hz'.trans (Nat.mod_eq_of_lt hbz), hid.trans (Nat.mod_eq_of_lt (by omega)), congrArg (·.2.2.1) hkept⟩

/-- A module that is no root goes on with the run as it began; one with a coordinate sends its identity. -/
theorem other_starts (m : Mach) (b : Bool) : (∀ f i, (if b then m.sendIdents else m).rd f i = m.rd f i) ∧ (if b then m.sendIdents else m).course = m.course := by
  cases b with
  | false => exact ⟨fun _ _ => rfl, rfl⟩
  | true => exact ⟨fun f i => congrArg (fun r => NMap.get _ r (f.key i)) m.sendIdents_keeps.1, m.sendIdents_keeps.2⟩

/-- R354, R371: the check ends discovery with every link of a wrong claim quarantined. -/
theorem check_ends {m : Mach} {t : Nat} (hcheck : m.fab.check = some t) :
    (check m).fab.check = none ∧ (check m).rd .FAB_STATUS_DISC 0 = 3 ∧
      ∀ j, j < 36 → m.linkUp j = true → m.wrongClaim j = true → Quarantined j (check m) := by
  have hlasts := m.lasts_advanceTo t
  unfold check
  rw [hcheck]
  dsimp only
  revert hlasts
  generalize m.advanceTo t = m1
  intro hlasts
  have hcast : ∀ (m : Mach) p, m.Sends (m.sendCtlAll 0x13 p) := fun m p => .foldl (fun m k => m.sends_sendRaw k _) _ m
  refine ⟨?_, (Mach.rd_wr ..).trans (if_pos ⟨rfl, rfl⟩), fun j hj hup hwrong => ?_⟩
  · refine ((Mach.sends_wr _ _ _ _).check.trans ((sends_closeSquares _).check.trans ((hcast _ _).check.trans ?_)))
    exact (Mach.Sends.foldl (fun m k => m.sends_quarantine k 2) _ (m1.onFab fun b => { b with check := none })).check
  · have hup1 : m1.linkState j = 3 := (hlasts.rd _ _ rfl rfl).trans (beq_iff_eq.mp hup)
    have hwrong1 : m1.wrongClaim j = true := (wrongClaim_of_lasts hlasts j).trans hwrong
    obtain ⟨m2, hm2⟩ : ∃ m2, m2 = m1.onFab fun b => { b with check := none } := ⟨_, rfl⟩
    have hup2 : m2.linkState j = 3 := by rw [hm2]; exact hup1
    have hwrong2 : m2.wrongClaim j = true := by rw [hm2]; exact hwrong1
    rw [← hm2]
    have hmem : j ∈ (List.range 36).filter fun k => m2.linkUp k && m2.wrongClaim k := by
      refine List.mem_filter.mpr ⟨List.mem_range.mpr hj, ?_⟩
      rw [hwrong2, Mach.linkUp, hup2]
      rfl
    have hpassed := quarantined_foldl _ m2 (Or.inr ⟨hmem, by rw [hup2]; decide⟩)
    revert hpassed
    generalize ((List.range 36).filter fun k => m2.linkUp k && m2.wrongClaim k).foldl (fun m k => m.quarantine k 2) m2 = m3
    intro hpassed
    have hcastRd : ∀ (m : Mach) p f i, (m.sendCtlAll 0x13 p).rd f i = m.rd f i := fun m p f i =>
      foldl_keep (fun m : Mach => m.rd f i) (fun m k => m.sendCtl k 0x13 p) (fun m k => m.rd_sendRaw ..) _ m
    have hclosed : ∀ p, Quarantined j (m3.sendCtlAll 0x13 p).closeSquares := fun p => (hpassed.of_rd fun f _ => hcastRd _ _ f j).closeSquares
    have hended : ∀ m4 : Mach, Quarantined j m4 → Quarantined j (m4.wr .FAB_STATUS_DISC 0 3) := fun m4 h4 =>
      ⟨(m4.rd_wr ..).trans ((if_neg (by simp)).trans h4.1), (m4.rd_wr ..).trans ((if_neg (by simp)).trans h4.2)⟩
    exact hended _ (hclosed _)

/-- R354: a neighbour's table is kept. -/
theorem topo_keeps {k6 : BitVec 6} {m m0 : Mach} (hk : k6.toNat < 36) (hup : m.mainUp = true) (hlit : m.linkLit k6.toNat = true) {cr : BitVec 32}
    (hm0 : m0 = m.headerCredit k6.toNat cr.toNat) (hlink : m0.linkUp k6.toNat = true) (serials : List (BitVec 64)) :
    (topo k6 serials cr m).fab.topo.get (fun _ => []) (k6.toNat / 6) = (List.range 6).map fun d => (serials.getD d 0).toNat := by
  unfold topo
  rw [Fabric.control_acts hk hup hlit, ← hm0, if_neg (by rw [hlink]; decide)]
  dsimp only
  have hset : ∀ m1 : Mach, m1.fab.topo = NMap.set (fun _ => []) m0.fab.topo (k6.toNat / 6) ((List.range 6).map fun d => (serials.getD d 0).toNat) →
      m1.fab.topo.get (fun _ => []) (k6.toNat / 6) = (List.range 6).map fun d => (serials.getD d 0).toNat := fun m1 h => by
    rw [h]
    exact NMap.get_set_self _ _ _
  split
  · exact hset _ (sends_closeSquares _).topo
  · exact hset _ rfl

/-- R354, R355: an offer is recorded, and the first one starts the timer. -/
theorem assign_records {k6 : BitVec 6} {m m0 : Mach} (hk : k6.toNat < 36) (hup : m.mainUp = true) (hlit : m.linkLit k6.toNat = true) {cr : BitVec 32}
    (hm0 : m0 = m.headerCredit k6.toNat cr.toNat) (hlink : m0.linkUp k6.toNat = true ∨ m0.linkState k6.toNat = 9)
    (hwave : m0.rd .FAB_STATUS_DISC 0 = 1) (f : AssignF) :
    assign k6 f cr m = m0.onFab fun b => { b with
      offers := b.offers ++ [⟨f.x.toNat, f.y.toNat, f.z.toNat, f.hops.toNat, k6.toNat, f.nx.toNat, f.ny.toNat, f.nz.toNat⟩]
      hold := some (b.hold.getD (m0.time + 50000)) } := by
  unfold assign
  rw [Fabric.control_acts hk hup hlit, ← hm0, if_neg]
  rintro (hnot | hnot)
  · rcases hlink with h | h <;> simp [h] at hnot
  · exact hnot hwave

end Disc

/-- Settles O49: START and an accepted offer set the registers of the run, and what is sent then leaves them; a link that a pass quarantines stays
so through the passes after it. -/
theorem discovery : Obligations.Discovery := by
  unfold Obligations.Discovery
  intro v k6 f serials o t cr s k m0 x y z
  refine ⟨fun hup hready => ?_, fun hup hk hlit hlink hwave => ?_, fun hhold ho hleast => ?_, fun hcheck => ?_, fun hup hk hlit hlink => ?_⟩
  · refine does_of_lift (f := Mach.hostRow (Disc.start v)) rfl ?_
    rw [Mach.hostRow_eq _ hup hready]
    obtain ⟨m', hstarted, hstart⟩ := Disc.start_started v (m := s.m.otherAccess 0) ((s.m.mainUp_otherAccess 0).trans hup)
    rw [hstart]
    obtain ⟨hlinks, hroot, hdisc, hinvalid, hat, hcourse, htime⟩ := hstarted
    have hstate : ∀ j, (s.m.otherAccess 0).linkState j = s.m.linkState j := fun j => Mach.rd_otherAccess ..
    simp only [hstate] at hlinks
    have hbit : bitsAt v.toNat 1 1 < 2 := bitsAt_lt ..
    by_cases hone : bitsAt v.toNat 1 1 = 1
    · rw [if_pos hone]
      obtain ⟨hlinks', hroot', hoffers, hhold, hset⟩ := Disc.root_accepts m' hat hcourse rfl rfl rfl rfl
      exact ⟨fun j hj => (hlinks' j).trans (hlinks j hj), hroot'.trans hroot, hoffers, hhold, fun hzero => absurd (hzero.symm.trans hone) (by decide),
        fun _ => htime ▸ hset⟩
    · obtain ⟨hrd, hkept⟩ := Disc.other_starts m' ((s.m.otherAccess 0).on .FAB_STATUS_COORD_VALID 0)
      rw [if_neg hone]
      obtain ⟨hoffers, hhold, hcheck⟩ := hcourse
      exact ⟨fun j hj => (hrd _ j).trans (hlinks j hj), (hrd _ 0).trans hroot, (congrArg (·.1) hkept).trans hoffers,
        (congrArg (·.2.1) hkept).trans hhold, fun _ => ⟨(hrd _ 0).trans hdisc, (hrd _ 0).trans hinvalid, (congrArg (·.2.2.1) hkept).trans hcheck⟩,
        fun h => absurd h hone⟩
  · refine does_of_lift (f := Disc.assign k6 f cr) rfl ?_
    rw [Disc.assign_records hk hup hlit (m0 := m0) rfl hlink hwave]
    exact ⟨rfl, rfl, fun _ _ => rfl⟩
  · refine does_of_lift (f := Disc.holdTimer) rfl ?_
    rw [Disc.holdTimer_accepts hhold ho hleast]
    obtain ⟨hdisc, hvalid, hx, hy, hz, hnx, -⟩ := Disc.acceptCoord_sets (s.m.advanceTo t) o
    have hcourse := ((s.m.advanceTo t).acceptCoord_keeps o).2
    revert hdisc hvalid hx hy hz hnx hcourse
    generalize (s.m.advanceTo t).acceptCoord o = m1
    intro hdisc hvalid hx hy hz hnx hcourse
    exact ⟨congrArg (·.2.1) hcourse, hdisc, hvalid, hx, hy, hz, hnx, congrArg (·.2.2.2.1) hcourse⟩
  · exact does_of_lift (f := Disc.check) rfl (Disc.check_ends hcheck)
  · exact does_of_lift (f := Disc.topo k6 serials cr) rfl (Disc.topo_keeps hk hup hlit (m0 := m0) rfl hlink serials)

end Sys2Proof.Machine

/-! Ingest items on their way: decode, shuffle, pack and the sample ring (R285-R305). -/
namespace Sys2Proof.Machine

/-! The current job, and when it goes on. -/

theorem Mach.rd_onCur (m : Mach) (f : IngCur → IngCur) (g : Fld) (i : Nat) : (m.onCur f).rd g i = m.rd g i := rfl

theorem Mach.cur_onCur {m : Mach} {c : IngCur} (hcur : m.ing.cur = some c) (f : IngCur → IngCur) : (m.onCur f).ing.cur = some (f c) := by
  unfold Mach.onCur
  rw [hcur]
  rfl

theorem Mach.frozen_of_ingRuns {m : Mach} (h : m.ingRuns = true) : m.frozen = false := by
  unfold Mach.ingRuns at h
  simp only [Bool.and_eq_true, Bool.not_eq_true'] at h
  exact h.1.1.2

/-- A job with micro-batches left goes on. -/
theorem Mach.tryEnd_of_more {m : Mach} {c : IngCur} (hcur : m.ing.cur = some c) (habort : c.abort = false) (hmore : c.done < jMbTotal c.raw) :
    m.tryEnd = m := by
  unfold Mach.tryEnd
  rw [hcur]
  dsimp only
  split
  · rfl
  · rw [if_neg (by rw [habort]; decide), if_neg]
    rw [decide_eq_false (Nat.not_le.mpr hmore), Bool.false_and]
    decide

/-- A micro-batch that something waits for stays in delivery. -/
theorem Mach.settleMb_of_waiting {m : Mach} {c : IngCur} {b : MbOut} (hcur : m.ing.cur = some c) (hmb : c.mb = some b) (hwaits : b.delivered = false) :
    m.settleMb = m := by
  unfold Mach.settleMb
  rw [hcur]
  dsimp only
  rw [hmb]
  dsimp only
  rw [if_neg (by rw [hwaits]; decide)]

/-- What a job's end leaves of the memory and of the registers. -/
theorem Mach.tryEnd_keeps (m : Mach) : (∀ k, m.tryEnd.byteAt k = m.byteAt k) ∧ ∀ f i, f.aside = false → m.tryEnd.rd f i = m.rd f i := by
  have hend : ∀ c st, (∀ k, (m.endJob c st 0).byteAt k = m.byteAt k) ∧ ∀ f i, f.aside = false → (m.endJob c st 0).rd f i = m.rd f i := fun c st =>
    ⟨fun k => Mach.byteAt_of_still (Mach.still_complete ..) k, fun f i hf => Mach.rdAside_endJob hf i m c st 0⟩
  unfold Mach.tryEnd
  split
  · exact ⟨fun _ => rfl, fun _ _ _ => rfl⟩
  next c _ =>
    split
    · exact ⟨fun _ => rfl, fun _ _ _ => rfl⟩
    · split
      · exact hend c 4
      · split
        · exact hend c _
        · exact ⟨fun _ => rfl, fun _ _ _ => rfl⟩

theorem Mach.settleMb_keeps (m : Mach) : (∀ k, m.settleMb.byteAt k = m.byteAt k) ∧
    ∀ f i, f.aside = false → f ≠ .ING_STATUS_MB_DONE → m.settleMb.rd f i = m.rd f i := by
  have hsame : (∀ k, m.byteAt k = m.byteAt k) ∧ ∀ f i, f.aside = false → f ≠ .ING_STATUS_MB_DONE → m.rd f i = m.rd f i :=
    ⟨fun _ => rfl, fun _ _ _ _ => rfl⟩
  unfold Mach.settleMb
  split
  · exact hsame
  next c _ =>
    split
    · exact hsame
    · split
      · obtain ⟨hbytes, hrd⟩ := ((m.onCur fun c => { c with mb := none, done := c.done + 1 }).wr .ING_STATUS_MB_DONE 0 (c.done + 1)).tryEnd_keeps
        exact ⟨hbytes, fun f i hf hne => (hrd f i hf).trans ((Mach.rd_wr ..).trans (if_neg fun heq => hne heq.1))⟩
      · exact hsame

/-- A counter counts one field; with it nothing else of the module changes. -/
theorem Mach.bump_keeps (m : Mach) (f : Fld) (i n : Nat) : (m.bump f i n).ing = m.ing ∧
    (∀ g j, g ≠ f → (m.bump f i n).rd g j = m.rd g j) ∧ ∀ k, (m.bump f i n).byteAt k = m.byteAt k := by
  refine ⟨by rw [Mach.bump_eq], fun g j hg => m.rd_bump_ne i j n fun heq => hg heq.1, fun k => ?_⟩
  rw [Mach.bump_eq]
  rfl

namespace Ingest

/-! Decode. -/

theorem decodeStart_takes {e7 : BitVec 7} {m : Mach} {c : IngCur} {j : Nat} (hruns : m.ingRuns = true) (hcur : m.ing.cur = some c)
    (he : e7.toNat < 96) (hfence : m.engineFenced e7.toNat = false) (hfree : m.engineHolds e7.toNat = false)
    (hnext : c.items.findIdx? (fun it => !it.failed && !it.sent && (if e7.toNat < 64 then jVideo c.raw && it.vEng == 0 && it.vRes.isNone
      else jAudio c.raw && it.aEng == 0 && it.aRes.isNone)) = some j) :
    decodeStart e7 m = m.onCur fun c => c.onItem j fun it => if e7.toNat < 64 then { it with vEng := e7.toNat + 1 } else { it with aEng := e7.toNat + 1 } := by
  unfold decodeStart
  rw [hcur]
  dsimp only
  rw [if_neg (by rw [hruns, hfence, hfree, decide_eq_false (Nat.not_le.mpr he)]; decide), hnext]

/-- R285, R291: what the engine made of an item stands with it; its pictures and concealed blocks are counted. -/
theorem decodeDone_ends {e7 : BitVec 7} {m : Mach} {c : IngCur} {j : Nat} {it : IngItem} (hruns : m.ingRuns = true) (hcur : m.ing.cur = some c)
    (hnext : c.items.findIdx? (fun it => (if e7.toNat < 64 then it.vEng == e7.toNat + 1 else it.aEng == e7.toNat + 1) && decide (it.len ≤ it.fetched))
      = some j) (hit : c.items[j]? = some it) {d : Decoded} (hd : d = if e7.toNat < 64 then videoItem c.raw c.ts it else audioItem c.raw it)
    {set : IngItem → IngItem} (hset : set = fun it => if e7.toNat < 64 then { it with vEng := 0, vRes := some d } else { it with aEng := 0, aRes := some d }) :
    (decodeDone e7 m).ing.cur = some { c.onItem j set with srcErr := c.srcErr || decide (e7.toNat < 64) && !d.ok } ∧
      (decodeDone e7 m).rd .ING_FRAMES 0 = (m.rd .ING_FRAMES 0 + d.pictures) % 2 ^ Fld.width .ING_FRAMES ∧
      (decodeDone e7 m).rd .ING_CONCEAL_BLOCKS 0 = (m.rd .ING_CONCEAL_BLOCKS 0 + d.concealed) % 2 ^ Fld.width .ING_CONCEAL_BLOCKS := by
  unfold decodeDone
  rw [hcur]
  dsimp only
  rw [hnext]
  dsimp only
  rw [hit]
  dsimp only
  rw [if_neg (by rw [hruns]; decide), ← hd, ← hset]
  obtain ⟨m1, hm1⟩ : ∃ m1, m1 = m.onCur fun c => { c.onItem j set with srcErr := c.srcErr || decide (e7.toNat < 64) && !d.ok } := ⟨_, rfl⟩
  have hcur1 : m1.ing.cur = some { c.onItem j set with srcErr := c.srcErr || decide (e7.toNat < 64) && !d.ok } := by rw [hm1, Mach.cur_onCur hcur]
  have hrd1 : ∀ f i, m1.rd f i = m.rd f i := fun f i => by rw [hm1]; rfl
  have hfrozen1 : m1.frozen = false := (by rw [hm1]; rfl : m1.frozen = m.frozen).trans (Mach.frozen_of_ingRuns hruns)
  rw [← hm1, Mach.bump_of_runs hfrozen1]
  obtain ⟨m2, hm2⟩ : ∃ m2, m2 = m1.wr .ING_FRAMES 0 (m1.rd .ING_FRAMES 0 + d.pictures) := ⟨_, rfl⟩
  have hfrozen2 : m2.frozen = false := by rw [hm2]; exact (Mach.on_wr ..).trans ((if_neg (by simp)).trans hfrozen1)
  rw [← hm2, Mach.bump_of_runs hfrozen2]
  have hrest : ∀ (m3 : Mach) (b : Bool), (((if b then m3.bump .ING_SOURCE_ERRORS 0 1 else m3).hev 1 0x20 d.pictures).hev 1 0x21 d.luma).ing = m3.ing ∧
      ∀ f i, f.aside = false → f ≠ .ING_SOURCE_ERRORS →
        (((if b then m3.bump .ING_SOURCE_ERRORS 0 1 else m3).hev 1 0x20 d.pictures).hev 1 0x21 d.luma).rd f i = m3.rd f i := by
    intro m3 b
    refine ⟨?_, fun f i hf hne => ?_⟩
    · refine (Mach.sends_hev ..).ing.trans ((Mach.sends_hev ..).ing.trans ?_)
      cases b with
      | false => rfl
      | true => exact (m3.bump_keeps _ _ _).1
    · rw [Mach.rdAside_hev hf, Mach.rdAside_hev hf]
      cases b with
      | false => rfl
      | true => exact (m3.bump_keeps _ _ _).2.1 f i hne
  obtain ⟨hing, hrd⟩ := hrest (m2.wr .ING_CONCEAL_BLOCKS 0 (m2.rd .ING_CONCEAL_BLOCKS 0 + d.concealed)) (decide (e7.toNat < 64) && !d.ok)
  refine ⟨?_, ?_, ?_⟩
  · rw [hing, hm2]
    exact hcur1
  · rw [hrd _ _ rfl (by decide), Mach.rd_wr, if_neg (by simp), hm2, Mach.rd_wr, if_pos ⟨rfl, rfl⟩, hrd1]
  · rw [hrd _ _ rfl (by decide), Mach.rd_wr, if_pos ⟨rfl, rfl⟩, hm2, Mach.rd_wr, if_neg (by simp), hrd1]

/-! The shuffle. -/

theorem sends_shipTo (m : Mach) (dest : Nat) (bs : List Byte) : m.Sends (m.shipTo dest bs) :=
  .foldl (fun _ _ => .trans (.of_onFab rfl rfl) (Mach.sends_sendLater _ _)) _ m

/-- The item is sent: the job keeps it as such, without its samples. -/
def markSent (j : Nat) (c : IngCur) : IngCur := c.onItem j fun it => { it with sent := true, vRes := none, aRes := none }

/-- What the shuffle does with the next item that is ready. -/
theorem itemSend_eq {m : Mach} {c : IngCur} {j : Nat} {it : IngItem} (hruns : m.ingRuns = true) (hcur : m.ing.cur = some c)
    (hnext : c.items.findIdx? (!·.sent) = some j) (hit : c.items[j]? = some it) (hready : c.ready it = true) (g : Bool) :
    itemSend g m = if it.dest = m.myId then
        (if c.holds (m.rd .ING_CFG_SHUF_WINDOW 0) it.k then ((m.itemArrive (c.shipment it)).onCur (markSent j)).tryEnd
          else m.bump .ING_SHUF_HOLD_CYCLES 0 1)
      else if g then ((m.shipTo it.dest (c.shipment it).bytes).onCur (markSent j)).tryEnd else m.bump .ING_SHUF_HOLD_CYCLES 0 1 := by
  unfold itemSend
  rw [hcur]
  dsimp only
  rw [hnext]
  dsimp only
  rw [hit]
  dsimp only
  rw [if_neg (by rw [hruns, hready]; decide)]
  rfl

theorem shipment_k (c : IngCur) (it : IngItem) : (c.shipment it).k = it.k ∧ c.owns (c.shipment it) = true := by
  have howns : ∀ kind ss, c.owns ⟨fieldAt c.raw 8 8, fieldAt c.raw 4 4, it.k, kind, ss⟩ = true := fun kind ss => by
    unfold IngCur.owns
    rw [beq_self_eq_true, beq_self_eq_true]
    rfl
  unfold IngCur.shipment
  dsimp only
  split
  · exact ⟨rfl, howns _ _⟩
  · split
    · exact ⟨rfl, howns _ _⟩
    · exact ⟨rfl, howns _ _⟩

/-- R298: an item within the window arrives at its own module. -/
theorem itemArrive_takes {m : Mach} {c : IngCur} (hcur : m.ing.cur = some c) {x : ShufItem} (howns : c.owns x = true)
    (hholds : c.holds (m.rd .ING_CFG_SHUF_WINDOW 0) x.k = true) : m.itemArrive x = { m with ing := { m.ing with cur := some (c.take x) } } := by
  unfold Mach.itemArrive
  have hfilter : (some c).filter (fun c => c.owns x) = some c := by simp only [Option.filter_some, howns, if_true]
  rw [hcur, hfilter]
  dsimp only
  rw [if_pos hholds]

/-- The first item of its order is delivered as it is. -/
theorem take_first {c : IngCur} {x : ShufItem} (hk : c.k ≤ x.k) (hnone : c.arrived.get (fun _ => none) x.k = none) :
    c.take x = { c with arrived := NMap.set (fun _ => none) c.arrived x.k (some x) } := by
  unfold IngCur.take
  rw [if_neg (Nat.not_lt.mpr hk), hnone]

/-! The packer. -/

/-- The micro-batch of samples that the packer took (R300). -/
def batchOf (c : IngCur) (p : Picked) : MbOut :=
  ⟨c.mbBytes p, jRing c.raw, none, (jGroups c.raw).map fun ig => ⟨ig.2, jSecOff c.raw ig.1, jSecSize c.raw ig.1 / 256, 0⟩⟩

/-- A micro-batch just packed has its ring or a group before it. -/
theorem batchOf_waits {c : IngCur} (p : Picked) (hto : jRing c.raw ≠ 255 ∨ jGroups c.raw ≠ []) : (batchOf c p).delivered = false := by
  unfold MbOut.delivered batchOf
  rcases hto with hring | hgroups
  · rw [beq_false_of_ne hring]
    rfl
  · obtain ⟨ig, igs, hgs⟩ := List.exists_cons_of_ne_nil hgroups
    have hpart : ((⟨ig.2, jSecOff c.raw ig.1, jSecSize c.raw ig.1 / 256, 0⟩ : McPart) :: igs.map fun ig =>
        (⟨ig.2, jSecOff c.raw ig.1, jSecSize c.raw ig.1 / 256, 0⟩ : McPart)).all (fun p => decide (17 + p.size ≤ p.sent)) = false := by
      rw [List.all_cons, decide_eq_false (by dsimp only; omega), Bool.false_and]
    rw [hgs, List.map_cons, hpart, Bool.and_false]

/-- R299: the packer's next micro-batch is in delivery, and the job stands where the packer does. -/
theorem pack_packs {m : Mach} {c : IngCur} {p : Picked} (hruns : m.ingRuns = true) (hcur : m.ing.cur = some c) (hmb : c.mb = none)
    (habort : c.abort = false) (hmore : c.done < jMbTotal c.raw) (hpick : c.pick c.turns ⟨[], c.late, 0, c.k, c.seg, none, false⟩ = some p)
    (hto : jRing c.raw ≠ 255 ∨ jGroups c.raw ≠ []) :
    (pack m).ing.cur = some { c with mb := some (batchOf c p), late := p.late, k := p.k, seg := p.seg, seq := c.seq + 1,
                                     arrived := c.arrived.filter fun (ki : Nat × Option ShufItem) => decide (p.k ≤ ki.1) } := by
  unfold pack
  rw [hcur]
  dsimp only
  rw [if_neg (by rw [hruns, hmb, habort, decide_eq_false (Nat.not_le.mpr hmore)]; decide), hpick]
  dsimp only
  have hsettled : ∀ (m1 : Mach) c1, m1.ing.cur = some c1 → c1.mb = some (batchOf c p) → m1.settleMb.ing.cur = some c1 := fun m1 c1 h1 hb => by
    rw [Mach.settleMb_of_waiting h1 hb (batchOf_waits p hto)]
    exact h1
  refine hsettled _ _ ?_ rfl
  rw [(Mach.sends_hev ..).ing, (Mach.sends_wrs ..).ing]
  exact Mach.cur_onCur hcur _

/-! The sample ring. -/

/-- Whether every reader has left the ring's next slot (R305). -/
def slotFree (m : Mach) (n : Nat) : Bool :=
  (m.readers n).all fun g => decide (m.rd .ING_RING_WR_W n < m.rd .ING_RING_CUR (n * 64 + g) + m.rd .ING_RING_CFG_SLOTS n)

section
variable {m : Mach} {c : IngCur} {b : MbOut} (hruns : m.ingRuns = true) (hcur : m.ing.cur = some c) (hmb : c.mb = some b) (hring : b.ring ≠ 255)
  (hnew : b.written = none)
include hruns hcur hmb hring hnew

theorem ringWrite_waits (hfull : slotFree m b.ring = false) : ringWrite m = m.bump .ING_RING_WAIT_CYCLES 0 1 := by
  unfold ringWrite
  rw [hcur]
  dsimp only
  rw [hmb]
  dsimp only
  rw [if_neg (by rw [hruns, hnew, beq_false_of_ne hring]; decide), if_neg]
  rw [← slotFree, hfull]
  decide

/-- R279: a slot that faults ends the job. -/
theorem ringWrite_faults (hfree : slotFree m b.ring = true) {x : Nat}
    (hcause : lowest (m.listCauses (m.ringSlot b.ring (m.rd .ING_RING_WR_W b.ring)) b.bytes.length) = some x) :
    ringWrite m = (m.captureFault x (m.ringSlot b.ring (m.rd .ING_RING_WR_W b.ring)) true 1).endJob c 3 x := by
  unfold ringWrite
  rw [hcur]
  dsimp only
  rw [hmb]
  dsimp only
  rw [if_neg (by rw [hruns, hnew, beq_false_of_ne hring]; decide)]
  refine (if_pos hfree).trans ?_
  rw [hcause]

theorem ringWrite_writes (hfree : slotFree m b.ring = true) (hcauses : m.listCauses (m.ringSlot b.ring (m.rd .ING_RING_WR_W b.ring)) b.bytes.length = [])
    {m1 : Mach} (hwrite : m.writeAny 3 (m.ringSlot b.ring (m.rd .ING_RING_WR_W b.ring)) (b.bytes.map (·, false)) = .ok m1) :
    ringWrite m = (((m1.sectWritten c.raw b.ring (m.rd .ING_RING_WR_W b.ring)).wr .ING_RING_WR_W b.ring (m.rd .ING_RING_WR_W b.ring + 1)).onCur
      fun c => { c with mb := some { b with written := some (m.rd .ING_RING_WR_W b.ring) } }).settleMb := by
  unfold ringWrite
  rw [hcur]
  dsimp only
  rw [hmb]
  dsimp only
  rw [if_neg (by rw [hruns, hnew, beq_false_of_ne hring]; decide)]
  refine (if_pos hfree).trans ?_
  rw [hcauses, hwrite]
  rfl

end

/-- R305: the batch is in its ring, whose write count goes on; one with groups to send stays in delivery. -/
theorem written_settles {m1 : Mach} {c : IngCur} {b : MbOut} (hcur : m1.ing.cur = some c) {w : Nat} :
    let m' := (((m1.sectWritten c.raw b.ring w).wr .ING_RING_WR_W b.ring (w + 1)).onCur fun c => { c with mb := some { b with written := some w } }).settleMb
    m'.rd .ING_RING_WR_W b.ring = (w + 1) % 2 ^ 48 ∧ (∀ k, m'.byteAt k = m1.byteAt k) ∧
      (b.parts.all (fun p => decide (17 + p.size ≤ p.sent)) = false → ∃ c', m'.ing.cur = some c' ∧ c'.mb = some { b with written := some w }) := by
  intro m'
  obtain ⟨m2, hm2⟩ : ∃ m2, m2 = ((m1.sectWritten c.raw b.ring w).wr .ING_RING_WR_W b.ring (w + 1)).onCur
    fun c => { c with mb := some { b with written := some w } } := ⟨_, rfl⟩
  have hm' : m' = m2.settleMb := by rw [hm2]
  have hcur2 : m2.ing.cur = some { c with mb := some { b with written := some w } } := by rw [hm2]; exact Mach.cur_onCur hcur _
  have hrd2 : m2.rd .ING_RING_WR_W b.ring = (w + 1) % 2 ^ 48 := by rw [hm2]; exact (Mach.rd_wr ..).trans (if_pos ⟨rfl, rfl⟩)
  have hbytes2 : ∀ k, m2.byteAt k = m1.byteAt k := fun k => by rw [hm2]; rfl
  obtain ⟨hbytes, hrd⟩ := m2.settleMb_keeps
  rw [hm']
  refine ⟨(hrd _ _ rfl (by decide)).trans hrd2, fun k => (hbytes k).trans (hbytes2 k), fun hparts => ⟨{ c with mb := some { b with written := some w } }, ?_, rfl⟩⟩
  rw [Mach.settleMb_of_waiting hcur2 rfl]
  · exact hcur2
  · unfold MbOut.delivered
    rw [hparts, Bool.and_false]

end Ingest

/-- Settles O52: with micro-batches left the job stands as the item, the batch or the slot leaves it; a slot that faults ends it, and its
descriptor with it. -/
theorem ingestItems : Obligations.IngestItems := by
  unfold Obligations.IngestItems
  intro e7 g c j it s e video hruns hcur
  refine ⟨fun he hfence hfree hnext => ?_, fun hnext hit => ?_, fun hnext hit hready habort hmore => ⟨fun hdest htakes hk hnone => ?_,
    fun hdest hg => ?_, fun hheld => ?_⟩, fun p hmb habort hmore hpick hto => ?_, fun b hmb hring hnew => ⟨fun hfree => ?_, fun x hfree hcause hd => ?_,
    fun m1 hfree hcauses hwrite => ?_⟩⟩
  · refine does_of_lift (f := Ingest.decodeStart e7) rfl ?_
    rw [Ingest.decodeStart_takes hruns hcur he hfence hfree hnext]
    refine ⟨(Mach.cur_onCur hcur _).trans ?_, fun _ _ => rfl⟩
    simp only [video, e, decide_eq_true_eq]
  · refine does_of_lift (f := Ingest.decodeDone e7) rfl ?_
    obtain ⟨hcur', hframes, hblocks⟩ := Ingest.decodeDone_ends hruns hcur hnext hit rfl rfl
    exact ⟨⟨_, hcur', rfl, by simp only [video, e, decide_eq_true_eq, IngCur.onItem]⟩, fun _ => ⟨hframes, hblocks⟩⟩
  · refine does_of_lift (f := Ingest.itemSend g) rfl ?_
    obtain ⟨hshipk, howns⟩ := Ingest.shipment_k c it
    rw [Ingest.itemSend_eq hruns hcur hnext hit hready, if_pos hdest, if_pos htakes]
    rw [← hshipk] at htakes hk hnone
    rw [Ingest.itemArrive_takes hcur howns htakes, Ingest.take_first hk hnone]
    have hsent := Mach.cur_onCur (m := { s.m with ing := { s.m.ing with
      cur := some { c with arrived := NMap.set (fun _ => none) c.arrived (c.shipment it).k (some (c.shipment it)) } } }) rfl (Ingest.markSent j)
    rw [Mach.tryEnd_of_more hsent habort hmore]
    refine ⟨_, hsent, rfl, ?_, rfl⟩
    exact hshipk ▸ NMap.get_set_self c.arrived (c.shipment it).k (some (c.shipment it))
  · refine does_of_lift (f := Ingest.itemSend g) rfl ?_
    have hship : (s.m.shipTo it.dest (c.shipment it).bytes).ing.cur = some c := (congrArg Ing.cur (Ingest.sends_shipTo ..).ing).trans hcur
    rw [Ingest.itemSend_eq hruns hcur hnext hit hready, if_neg hdest, if_pos hg, Mach.tryEnd_of_more (Mach.cur_onCur hship _) habort hmore]
    exact ⟨⟨_, Mach.cur_onCur hship _, rfl, rfl⟩, rfl⟩
  · refine does_of_lift (f := Ingest.itemSend g) rfl ?_
    have hholds : Ingest.itemSend g s.m = s.m.bump .ING_SHUF_HOLD_CYCLES 0 1 := by
      rw [Ingest.itemSend_eq hruns hcur hnext hit hready]
      rcases hheld with ⟨hdest, hfull⟩ | ⟨hdest, hg⟩
      · rw [if_pos hdest, if_neg (ne_true_of_eq_false hfull)]
      · rw [if_neg hdest, if_neg (ne_true_of_eq_false hg)]
    rw [hholds]
    obtain ⟨hing, hrd, -⟩ := s.m.bump_keeps .ING_SHUF_HOLD_CYCLES 0 1
    exact ⟨hing, fun f i hf => hrd f i hf⟩
  · refine does_of_lift (f := Ingest.pack) rfl ?_
    exact ⟨_, _, Ingest.pack_packs hruns hcur hmb habort hmore hpick hto, rfl, rfl, rfl, rfl, rfl, rfl, rfl, rfl, rfl⟩
  · refine does_of_lift (f := Ingest.ringWrite) rfl ?_
    rw [Ingest.ringWrite_waits hruns hcur hmb hring hnew hfree]
    obtain ⟨hing, hrd, hbytes⟩ := s.m.bump_keeps .ING_RING_WAIT_CYCLES 0 1
    exact ⟨hing, fun f i hf => hrd f i hf, hbytes⟩
  · refine does_of_lift (f := Ingest.ringWrite) rfl ?_
    rw [Ingest.ringWrite_faults hruns hcur hmb hring hnew hfree hcause]
    refine ⟨congrArg Ing.cur (Mach.sends_complete ..).ing, Mach.complete_gone _ _ _ _ _ _, (Mach.rdAside_endJob rfl ..).trans ?_⟩
    exact Mach.rd_captureFault_of_ne _ _ _ _ _ (by decide) _
  · refine does_of_lift (f := Ingest.ringWrite) rfl ?_
    have hstored : s.m.Stores m1 := by
      have h := s.m.stored_writeAny 3 (s.m.ringSlot b.ring (s.m.rd .ING_RING_WR_W b.ring)) (b.bytes.map (·, false))
      rwa [hwrite] at h
    rw [Ingest.ringWrite_writes hruns hcur hmb hring hnew hfree hcauses hwrite]
    exact Ingest.written_settles ((congrArg Ing.cur hstored.sends.ing).trans hcur)

end Sys2Proof.Machine
